-- ==== Sys2Proof/Word.lean ====
section
/-!
DEFINITION. The word types of the SZ-1 and their plainest arithmetic (R6, R10): 64-bit scalars, 512-bit
vectors, bytes, and the `Sext` helper of R10.
-/
namespace Sys2Proof

/-- A scalar register's contents (R18). -/
abbrev B64 := BitVec 64
/-- A vector register's contents (R18). -/
abbrev B512 := BitVec 512
/-- One byte. -/
abbrev Byte := BitVec 8

/-- `Sext(x, n)` of R10: the low `n` bits of `x`, sign-extended to 64 bits. -/
def sext {w : Nat} (n : Nat) (x : BitVec w) : B64 := (x.setWidth n).signExtend 64
/-- `Zext(x, n)` of R10: the low `n` bits of `x`, zero-extended to 64 bits. -/
def zext {w : Nat} (n : Nat) (x : BitVec w) : B64 := (x.setWidth n).setWidth 64
/-- A truth value as a 64-bit 0 or 1. -/
def ofBool (b : Bool) : B64 := if b then 1#64 else 0#64

end Sys2Proof
end

