-- ==== Sys2Proof/Syntax.lean ====
section
/-!
DEFINITION. The steps of the SZ-1 as syntax: one constructor for every row of spec/opcode_table.json, the 239
encoded instructions first (in the table's order) and then the 96 steps of the part that have no encoding
(arrivals, engine steps, Well steps, host commands, register accesses). Operands are typed by class (R46).
-/
namespace Sys2Proof

/-- Scalar register s0–s31 (R46). -/
abbrev SReg := Fin 32
/-- Vector register v0–v31. -/
abbrev VReg := Fin 32
/-- Mask register m0–m3. -/
abbrev MReg := Fin 4
/-- Completion counter k0–k15. -/
abbrev KReg := Fin 16
/-- Weave register w0–w7. -/
abbrev WReg := Fin 8
/-- Token register d0–d3. -/
abbrev DReg := Fin 4
/-- Accumulator tile a0–a7. -/
abbrev AReg := Fin 8

/-- The element types TY 0–7 of R115. -/
inductive Ty where | s8 | n8 | s16 | s32 | bf16 | h16 | f32 | s64
  deriving DecidableEq, Repr
/-- The rounding modes of R74, codes 0–6. -/
inductive RMode where | rne | rtz | rdn | rup | rna | sto | dyn
  deriving DecidableEq, Repr
/-- The scopes of R52, codes 0–5. -/
inductive Scope where | t | c | k | f | d | s
  deriving DecidableEq, Repr
/-- The orders of R51, codes 0–3. -/
inductive Order where | rlx | acq | rel | ar
  deriving DecidableEq, Repr
/-- The two scalar float precisions of R54. -/
inductive Prec where | f32 | f64
  deriving DecidableEq, Repr
/-- The atomic operations 0x0–0xA of R51. -/
inductive AmoOp where | swap | add | and | or | xor | min | max | minn | maxn | cas | fadd
  deriving DecidableEq, Repr
/-- The update-only operations 0xB–0xF of R51. -/
inductive UpdOp where | add | fadd | min | max | or
  deriving DecidableEq, Repr
/-- The modifiers of an AMO or `upd` form (R51). -/
structure AmoMods where
  w64   : Bool
  order : Order
  scope : Scope
  deriving DecidableEq, Repr
/-- The compare conditions of R139. -/
inductive Cmp where | eq | ne | lt | le | gt | ge | un
  deriving DecidableEq, Repr
/-- The four link directions of R155. -/
inductive Dir where | n | e | s | w
  deriving DecidableEq, Repr
/-- The view formats of R60. -/
inductive VFmt where | e4 | e5 | f6a | f6b | f4 | s4 | n4 | n16 | n32 | n64
  deriving DecidableEq, Repr
/-- A source view: format and group (R60). -/
structure SrcView where
  fmt   : VFmt
  group : Fin 8
  deriving DecidableEq, Repr
/-- A view word (R60): AV, BV, DN, DI, DRM, DS. -/
structure View where
  av  : Option SrcView
  bv  : Option SrcView
  dn  : Option VFmt
  di  : Fin 8
  drm : RMode
  ds  : Bool
  deriving DecidableEq, Repr
/-- A port register: class bit and register number (R55). -/
structure PortReg where
  scalar : Bool
  num    : SReg
  deriving DecidableEq, Repr
/-- The tokens a `.t` form of `rst` carries (R56). -/
inductive Toks where | none | one (t1 : DReg) | two (t1 t2 : DReg)
  deriving DecidableEq, Repr

/-- A command block's use: posted to CMDPORT (R311), or started by the Square in its order (R313). -/
inductive HostArg where
  | post (whole : Bool) (block : List B64)
  | start (q : Nat)
  deriving DecidableEq, Repr
/-- What a remote packet asks of its destination (R183). -/
inductive PktOp where
  | read (n : Nat)
  | write (data : List Byte)
  | amo (op : AmoOp) (w64 : Bool) (opnd cmp : B64)
  deriving DecidableEq, Repr
/-- A remote packet (R289, R357): `members` are the devices of a multicast copy, `tag` what R354 logs of it. -/
structure Packet where
  id      : Nat
  srcDev  : Nat
  srcCore : Nat
  srcSlot : Nat
  dest    : Nat
  members : List Nat
  seq     : Option Nat
  floor   : Nat
  ordered : Bool
  toks    : List (BitVec 32)
  wid     : Nat
  off     : Nat
  op      : PktOp
  tag     : BitVec 16
  cart    : Bool := false        -- of a cart job, whose writes are atomic per byte (R208)
  deriving DecidableEq, Repr
/-- What a ciphered port adds to a packet: the nonce, whose first 32 bits are the key generation, and the tag of 16 bytes
(R347). -/
structure Seal where
  nonce : BitVec 96
  tag   : List Byte
  deriving DecidableEq, Repr
/-- Where an arriving packet comes from: another device (on a ciphered port its payload is ciphertext and it has a seal) or
this one. -/
inductive Arrive where
  | outside (p : Packet) (port : Nat) (mark : Option Seal)
  | own (n : Nat)
  deriving DecidableEq, Repr
/-- A reply that arrives: from another device (for a multicast copy, from the member of that index), or one of this
device's own. -/
inductive ReplyIn where
  | outside (pkt member : Nat) (status : BitVec 8) (data : List Byte)
  | own (n : Nat)
  deriving DecidableEq, Repr
/-- A step point: a path, and the port whose own step it is (R275). -/
structure StepAt where
  path : Nat
  port : Nat
  deriving DecidableEq, Repr
/-- Why a lane is erased (R344). -/
inductive EraseCause where | laser | light | order
  deriving DecidableEq, Repr
/-- What a 1 ms error window showed (R283). -/
inductive TrimWin where | above | between | below
  deriving DecidableEq, Repr
/-- A host access to device memory (R310). -/
inductive CxlAcc where
  | read (pa n : Nat)
  | write (pa : Nat) (data : List Byte)
  deriving DecidableEq, Repr
/-- A function of the readiness map (R316). -/
inductive Func where
  | terrace (n : Nat) | mill (n : Nat) | cart (n : Nat) | ucie (n : Nat) | port (n : Nat) | slice (n : Nat) | hbm (n : Nat)
  deriving DecidableEq, Repr
/-- The signed boot configuration (R318, R347) and what stands per part or per boot: the laser limits by lane (R342),
the supplies by terrace (R351), the device's keys and record (R321); the ML-KEM-1024 decapsulation key of this boot, which
holds its encapsulation key (R348). -/
structure Boot where
  devId   : Option Nat
  ciphers : List Nat
  kemKey  : List Byte
  devRec  : List Byte
  devKey  : List Byte
  biasMax : List Nat
  vid     : List Nat
  deriving DecidableEq, Repr

/-- The steps of the SZ-1: one constructor for each row of spec/opcode_table.json. -/
inductive Instr where
  -- INT (R90)
  | add (d a b : SReg) | sub (d a b : SReg) | and (d a b : SReg) | or (d a b : SReg) | xor (d a b : SReg)
  | andn (d a b : SReg) | sll (d a b : SReg) | srl (d a b : SReg) | sra (d a b : SReg) | rotl (d a b : SReg)
  | mul (d a b : SReg) | mulh (d a b : SReg) | mulhn (d a b : SReg) | div (d a b : SReg) | divn (d a b : SReg)
  | rem (d a b : SReg) | remn (d a b : SReg) | min (d a b : SReg) | max (d a b : SReg) | minn (d a b : SReg)
  | maxn (d a b : SReg) | slt (d a b : SReg) | sltn (d a b : SReg)
  | clz (d a : SReg) | ctz (d a : SReg) | popc (d a : SReg) | bswap (d a : SReg) | csel (d a b c : SReg)
  -- INTI (R92)
  | addi (d a : SReg) (i : BitVec 12) | andi (d a : SReg) (i : BitVec 12) | ori (d a : SReg) (i : BitVec 12)
  | xori (d a : SReg) (i : BitVec 12) | slti (d a : SReg) (i : BitVec 12) | sltni (d a : SReg) (i : BitVec 12)
  | slli (d a : SReg) (h : BitVec 6) | srli (d a : SReg) (h : BitVec 6) | srai (d a : SReg) (h : BitVec 6)
  -- R93, R94
  | lui (d : SReg) (i : BitVec 20) | auipc (d : SReg) (i : BitVec 20) | jal (d : SReg) (i : BitVec 20)
  | jalr (d a : SReg) (i : BitVec 12)
  -- BRANCH (R95)
  | beq (a b : SReg) (i : BitVec 12) | bne (a b : SReg) (i : BitVec 12) | blt (a b : SReg) (i : BitVec 12)
  | bge (a b : SReg) (i : BitVec 12) | bltn (a b : SReg) (i : BitVec 12) | bgen (a b : SReg) (i : BitVec 12)
  -- LOAD, STORE (R97)
  | ldS8 (d a : SReg) (i : BitVec 12) | ldN8 (d a : SReg) (i : BitVec 12) | ldS16 (d a : SReg) (i : BitVec 12)
  | ldN16 (d a : SReg) (i : BitVec 12) | ldS32 (d a : SReg) (i : BitVec 12) | ldN32 (d a : SReg) (i : BitVec 12)
  | ld64 (d a : SReg) (i : BitVec 12)
  | st8 (a b : SReg) (i : BitVec 12) | st16 (a b : SReg) (i : BitVec 12) | st32 (a b : SReg) (i : BitVec 12)
  | st64 (a b : SReg) (i : BitVec 12)
  -- AMO (R100 to R102)
  | amoSwap (d a b : SReg) (q : AmoMods) | amoAdd (d a b : SReg) (q : AmoMods) | amoAnd (d a b : SReg) (q : AmoMods)
  | amoOr (d a b : SReg) (q : AmoMods) | amoXor (d a b : SReg) (q : AmoMods) | amoMin (d a b : SReg) (q : AmoMods)
  | amoMax (d a b : SReg) (q : AmoMods) | amoMinn (d a b : SReg) (q : AmoMods) | amoMaxn (d a b : SReg) (q : AmoMods)
  | amoCas (d a b : SReg) (q : AmoMods) | amoFadd (d a b : SReg) (q : AmoMods)
  | updAdd (a b : SReg) (q : AmoMods) | updFadd (a b : SReg) (q : AmoMods) | updMin (a b : SReg) (q : AmoMods)
  | updMax (a b : SReg) (q : AmoMods) | updOr (a b : SReg) (q : AmoMods)
  -- FENCE (R103)
  | fence (o : Order) (sc : Scope) | fenceAck | fenceEng (o : Order) (sc : Scope)
  -- FPS (R104 to R107)
  | fadd (p : Prec) (r : RMode) (d a b : SReg) | fsub (p : Prec) (r : RMode) (d a b : SReg)
  | fmul (p : Prec) (r : RMode) (d a b : SReg) | fdiv (p : Prec) (r : RMode) (d a b : SReg)
  | fsqrt (p : Prec) (r : RMode) (d a : SReg) | fma (p : Prec) (r : RMode) (d a b : SReg)
  | fmin (p : Prec) (d a b : SReg) | fmax (p : Prec) (d a b : SReg) | feq (p : Prec) (d a b : SReg)
  | flt (p : Prec) (d a b : SReg) | fle (p : Prec) (d a b : SReg) | fclass (p : Prec) (d a : SReg)
  | fcvtFromS64 (p : Prec) (r : RMode) (d a : SReg) | fcvtFromN64 (p : Prec) (r : RMode) (d a : SReg)
  | fcvtFromOther (p : Prec) (r : RMode) (d a : SReg) | fcvtToS64 (p : Prec) (r : RMode) (d a : SReg)
  | fcvtToN64 (p : Prec) (r : RMode) (d a : SReg)
  -- CREG (R108)
  | crr (d : SReg) (c : BitVec 12) | crw (c : BitVec 12) (a : SReg) | crs (d : SReg) (c : BitVec 12) (a : SReg)
  | crc (d : SReg) (c : BitVec 12) (a : SReg)
  -- BITF (R96): width minus 1 in `w`
  | bfx (d a : SReg) (p w : BitVec 6) | bfxn (d a : SReg) (p w : BitVec 6) | bfi (d a : SReg) (p w : BitVec 6)
  -- SYS (R109)
  | trap (c : BitVec 6) | brk (c : BitVec 6) | rett | idle | tstamp (d : SReg) | cflush (a : SReg) | cinv (a : SReg)
  | tlbinv (a : SReg)
  -- TASK (R146)
  | send (a b : SReg) (n : BitVec 4) | sendv (a : SReg) (b : VReg) (n : BitVec 4) | taskDone | yield
  | waitk (k : KReg) (n : BitVec 8) (a : SReg) | waitdep | trig | waitev (d a : SReg) | chbind (a b : SReg)
  -- KIN (R151), ksend (R154)
  | kjoin (a : SReg) | kleave (a : SReg) | kbar (a : SReg) | kcount (d a : SReg)
  | ksend (t : Ty) (m : MReg) (d : MReg) (a b : VReg)
  -- PORT (R155)
  | bindStream (p : PortReg) (a : SReg) | bindLink (p : PortReg) (r : Dir) (f : Bool) | bindChan (p : PortReg) (h : Fin 16)
  | unbind (p : PortReg) | skipPort (p : PortReg) (a : SReg) | sdrain (p : PortReg)
  -- REMOTE, rmcast (R180, R187): payload words minus 1 in `n`
  | rld (q : Bool) (d a : SReg) | rst (q o : Bool) (t : Toks) (d a b : SReg)
  | ramo (op : AmoOp) (w q o : Bool) (d a b : SReg) | rstc (q o : Bool) (t : Option DReg) (n : DReg) (d a b : SReg)
  | rmcast (q : Bool) (n : Fin 8) (d a b : SReg)
  -- TOKEN (R194), LIGHT (R196)
  | tkwait (d : SReg) (a : DReg) | tkdrop (d : DReg) | tkmerge (d a b : DReg)
  | grant (d a b : SReg) | grq (d a b : SReg) | pathset (d a b : SReg)
  -- WEAVE (R200)
  | wvShape (d : WReg) (a : SReg) | wvPack (d : WReg) (a b : SReg) | wvUnpk (d : SReg) (a : WReg) (b : SReg)
  | wvSet (d : WReg) (a b : SReg) | wvGet (d : SReg) (a : WReg) (b : SReg) | wvAdd (t : Bool) (d a b : WReg)
  | wvSub (t : Bool) (d a b : WReg) | wvCmp (d : SReg) (a b : WReg) | wvInbox (d : SReg) (a b : WReg)
  | wvNext (d : SReg) (a b : WReg) | wvCut (d : SReg) (a b : WReg) | wvRlist (d a : SReg) (b : WReg) | wvClrf (d : WReg)
  -- MILL (R163)
  | mmMma (t : AReg) (k : KReg) (d a b : SReg) | mmMmag (t : AReg) (k : KReg) (d a b : SReg)
  | mmZero (t : AReg) (k : KReg) (d : SReg) | mmLdacc (t : AReg) (k : KReg) (d a : SReg)
  | mmStacc (t : AReg) (k : KReg) (d a : SReg) | mmMova (t : AReg) (d : VReg) (a : SReg)
  | mmMovv (t : AReg) (a : SReg) (b : VReg) | mmQuery (d a : SReg) | mmCancel (d a : SReg)
  -- CART (R172): after flag in `x`
  | cpCopy (x : Bool) (k : KReg) (d a : SReg) | cpGather (x : Bool) (k : KReg) (d a : SReg)
  | cpFill (x : Bool) (k : KReg) (d a : SReg) | cpRemote (x : Bool) (k : KReg) (d a : SReg)
  | cpMcast (x : Bool) (k : KReg) (d a : SReg) | cpRsend (x : Bool) (k : KReg) (d a : SReg)
  | cpReduce (x : Bool) (k : KReg) (d a : SReg)
  -- view (R60)
  | view (v : View)
  -- VMEM (R126)
  | vld (t : Ty) (m : MReg) (d : VReg) (a : SReg) | vst (t : Ty) (m : MReg) (a : SReg) (b : VReg)
  | vlds (t : Ty) (m : MReg) (d : VReg) (a b : SReg) | vsts (t : Ty) (m : MReg) (d : VReg) (a b : SReg)
  | vgather (t : Ty) (m : MReg) (d : VReg) (a : SReg) (b : VReg) | vscatter (t : Ty) (m : MReg) (d : VReg) (a : SReg) (b : VReg)
  -- VARITH (R130)
  | vadd (t : Ty) (m : MReg) (d a b : VReg) | vsub (t : Ty) (m : MReg) (d a b : VReg) | vmul (t : Ty) (m : MReg) (d a b : VReg)
  | vmulh (t : Ty) (m : MReg) (d a b : VReg) | vma (t : Ty) (m : MReg) (d a b : VReg) | vms (t : Ty) (m : MReg) (d a b : VReg)
  | vmin (t : Ty) (m : MReg) (d a b : VReg) | vmax (t : Ty) (m : MReg) (d a b : VReg) | vabs (t : Ty) (m : MReg) (d a : VReg)
  | vneg (t : Ty) (m : MReg) (d a : VReg) | vand (t : Ty) (m : MReg) (d a b : VReg) | vor (t : Ty) (m : MReg) (d a b : VReg)
  | vxor (t : Ty) (m : MReg) (d a b : VReg) | vsll (t : Ty) (m : MReg) (d a b : VReg) | vsrl (t : Ty) (m : MReg) (d a b : VReg)
  | vsra (t : Ty) (m : MReg) (d a b : VReg) | vdiv (t : Ty) (m : MReg) (d a b : VReg) | vsqrt (t : Ty) (m : MReg) (d a : VReg)
  -- VSPEC (R133)
  | vrcp (t : Ty) (m : MReg) (d a : VReg) | vrsq (t : Ty) (m : MReg) (d a : VReg) | vexp2 (t : Ty) (m : MReg) (d a : VReg)
  | vlog2 (t : Ty) (m : MReg) (d a : VReg) | vsig (t : Ty) (m : MReg) (d a : VReg) | vtanh (t : Ty) (m : MReg) (d a : VReg)
  -- VPERM (R136 to R138)
  | vshuf (t : Ty) (m : MReg) (d a b : VReg) | vbcast (t : Ty) (m : MReg) (d : VReg) (a : SReg)
  | vextr (t : Ty) (d : SReg) (a : VReg) (b : SReg) | vins (t : Ty) (d : VReg) (a b : SReg)
  | vslide (t : Ty) (m : MReg) (d a : VReg) (b : SReg) | vredsum (t : Ty) (m : MReg) (d : SReg) (a : VReg)
  | vredmax (t : Ty) (m : MReg) (d : SReg) (a : VReg) | vredmin (t : Ty) (m : MReg) (d : SReg) (a : VReg)
  | vscan (t : Ty) (m : MReg) (d a : VReg)
  -- VMASK (R139, R140)
  | vcmp (c : Cmp) (t : Ty) (m : MReg) (d : MReg) (a b : VReg) | mand (d a b : MReg) | mor (d a b : MReg) | mxor (d a b : MReg)
  | mnot (d a : MReg) | mpop (m : MReg) (d : SReg) (a : MReg) | mfirst (m : MReg) (d : SReg) (a : MReg)
  -- VCONV (R141 to R143), VWEAVE (R207)
  | vcvt (t s : Ty) (m : MReg) (d a : VReg) | vsel (t : Ty) (m : MReg) (d a b : VReg) | vdot (t : Ty) (m : MReg) (d a b : VReg)
  | vwadd (t : Ty) (m : MReg) (d a b : VReg) | vwinbox (t : Ty) (m : MReg) (d : MReg) (a b : VReg)
  | vwaddT (t : Ty) (m : MReg) (d a b : VReg)
  -- compact forms (R59)
  | cLi (d : SReg) (i : BitVec 6) | cAddi (d : SReg) (i : BitVec 6) | cMv (d s : SReg) | cAdd (d s : SReg) | cSub (d s : SReg)
  | cLd (d b : Fin 8) (o : BitVec 5) | cSt (s b : Fin 8) (o : BitVec 5) | cBeqz (s : Fin 8) (o : BitVec 8)
  | cBnez (s : Fin 8) (o : BitVec 8) | cJ (o : BitVec 11) | cNop | cDone | cYield | cBreak | cWaitk (k : KReg) (n : BitVec 7)
  | cSlli (d : SReg) (h : BitVec 6) | cAndi (d : SReg) (i : BitVec 6)
  -- what a fetch gives instead of an instruction (R63, R43)
  | illegalEncoding (w : BitVec 32) (compact : Bool) | instructionFetchFault (prot : Bool) (addr : B64)
  -- steps without an encoding, in the table's order
  | messageArrival (n : Nat) | spilledMessageStart (core : Nat) | bouncedMessageResend (core : Option Nat)
  | contextEnd (ctx core slot : Nat) (pc val : B64) | systemSlotTrap (core : Nat) (cause : Byte) (pc val : B64)
  | millJobStart (croft : Nat) | millJobComplete (core : Nat) | cartJobStart (croft : Nat) | cartJobComplete (core n : Nat)
  | streamRefill (tid port : Nat) | streamWriteback (tid port : Nat) | sfuRequestService (croft : Nat)
  | sfuResultWrite (croft : Nat) | ksendFilingDone (core : Nat) | packetAtSquare (n : Nat) | packetArrival (a : Arrive)
  | remoteApply (n : Nat) | replyArrival (r : ReplyIn) | noticeSend (slot dev : Nat)
  | noticeArrival (tok : BitVec 32) (landed : Bool) | noticeAckArrival (slot dev : Nat) | noticeResend (slot dev : Nat)
  | noticeCacheExpiry (tok : BitVec 32) | skipNoticeArrival (dev core slot seq floor : Nat) | poundExpiry (n : Nat)
  | orderEntryFree (dev core slot : Nat) | strayNoticeArrival (pkt : Nat) | uncorrectableReport (pkt : Nat) (cw : Option Nat)
  | portFail (port : Nat) (lost : List Nat) | laneErase (lane : Nat) (cause : EraseCause) | laneRetrainLive (lane : Nat) | wellRequestServed
  | orderStepPoint (a : StepAt) | hazeEnd (p : Nat) | pathDark (p : Nat) | trimWindow (lane : Nat) (w : TrimWin) | rationRefill
  | squall (terrace : Nat) | stretchEnd (terrace : Nat) | halvingEnd (terrace : Nat) | overCurrentKill
  | powerRemeasure (still : Bool) | kinOpAtKeeper (n : Nat) | kinReleaseArrival (n : Nat) | kcountAnswer (n : Nat)
  | launchTriggered (lid : Nat) | releaseNoticeArrival (n : Nat) | directoryRequest (pa core : Nat) (write : Bool)
  | memoryPortArrival (n : Nat) | cxlMemAccess (a : CxlAcc) | ucieModuleFail (n : Nat) | deviceReset (b : Boot)
  | functionTrained (f : Func) | tokenReserveGrant (core : Nat) | sensorRead (rs : List (Nat × BitVec 16))
  | laserHourlySample (lane : Nat) (bias : BitVec 32) | stewardControlApply | corePowerOff (core : Nat) | corePowerOn (core : Nat)
  | saveDrainLimit (ctx : Nat) | saveDrainDone (ctx : Nat)
  | hostNop (h : HostArg) | hostAbort (h : HostArg) | ctxCreate (h : HostArg) | ctxPlace (h : HostArg) | ctxEnd (h : HostArg)
  | imgLoad (h : HostArg) | launch (h : HostArg) | classData (h : HostArg) | shootdown (h : HostArg) | winSet (h : HostArg)
  | winRevoke (h : HostArg) | attest (h : HostArg) | ctxSave (h : HostArg) | ctxRestore (h : HostArg)
  | almbaseWrite (v : B64) | almtailWrite (v : B64) | telsnapSnap | portRetrain (p : Nat) | suspectClear (p : Nat)
  | keyInstall (v : B64) | keySwitch (v : B64) | sensDoubtClear (s : Nat) | echoctlWrite (e : Nat) (v : B64)
  | sqevcntWrite (c : Nat) (v : B64) | wellcfgWrite (v : B64) | fleetevRead | poundstatRead | registerWrite (off : Nat) (v : B64)
  | loadValueReturn (tid : Nat) | packetDeparture (n : Nat) | millBlockEnd (croft : Nat) | cartVisitEnd (croft : Nat)
  | keyInstallDone
  deriving DecidableEq, Repr

end Sys2Proof
end

