-- ==== Sys2Proof/WellFormed.lean ====
section
/-!
DEFINITION. The checks R42 to R63 put on an instruction's fields that its type does not already make: operand
ranges that depend on other fields, element types a form accepts, register ranges of ports and pairs. The steps
without an encoding have no fields the encoding chapters bound, so they are well formed as they stand.
-/
namespace Sys2Proof

/-- TY codes of floating types (R130: "floating means TY 4, 5 or 6"). -/
def Ty.isFloat : Ty → Bool | .bf16 => true | .h16 => true | .f32 => true | _ => false
/-- Element width in bits (R115). -/
def Ty.width : Ty → Nat | .s8 => 8 | .n8 => 8 | .s16 => 16 | .bf16 => 16 | .h16 => 16 | .s32 => 32 | .f32 => 32 | .s64 => 64
/-- Lane count (R115). -/
def Ty.lanes (t : Ty) : Nat := 512 / t.width
/-- TY 3 and 7, which `ksend` and the vector weave forms accept (R154, R207). -/
def Ty.isS32S64 : Ty → Bool | .s32 => true | .s64 => true | _ => false

/-- Bits of a view format (R116). -/
def VFmt.bits : VFmt → Nat
  | .e4 => 8 | .e5 => 8 | .f6a => 6 | .f6b => 6 | .f4 => 4 | .s4 => 4 | .n4 => 4 | .n16 => 16 | .n32 => 32 | .n64 => 64
/-- Elements per register (R116). -/
def VFmt.count (f : VFmt) : Nat := 512 / f.bits
/-- The floating view formats. -/
def VFmt.isFloat : VFmt → Bool
  | .e4 => true | .e5 => true | .f6a => true | .f6b => true | .f4 => true | _ => false
/-- The pairing of a view format with TY (R61). -/
def VFmt.pairs (f : VFmt) (t : Ty) : Bool :=
  match f with
  | .e4 => t.isFloat | .e5 => t.isFloat | .f6a => t.isFloat | .f6b => t.isFloat | .f4 => t.isFloat
  | .s4 => !t.isFloat | .n4 => !t.isFloat
  | .n16 => t == .s16 || t == .s32 || t == .s64
  | .n32 => t == .s32 || t == .s64
  | .n64 => t == .s64
/-- R61's group bound, `(g + 1) × L ≤ P`. -/
def VFmt.fits (f : VFmt) (g : Nat) (t : Ty) : Bool := decide ((g + 1) * t.lanes ≤ f.count)
/-- The largest group code of a source view format (R60). -/
def VFmt.maxGroup : VFmt → Nat | .n16 => 3 | .n32 => 1 | .n64 => 0 | _ => 7

/-- The checks a view word meets by itself (R60, R61): group codes exist, DRM is 0 for an integer destination, and DI,
DRM and DS are 0 without a destination. -/
def View.wf (v : View) : Bool :=
  (match v.av with | none => true | some a => decide (a.group.val ≤ a.fmt.maxGroup)) &&
  (match v.bv with | none => true | some b => decide (b.group.val ≤ b.fmt.maxGroup)) &&
  (match v.dn with
   | none => v.di == 0 && v.drm == .rne && !v.ds
   | some f => f.isFloat || v.drm == .rne)

/-- A port register lies in its class (R55). -/
def PortReg.wf (p : PortReg) : Bool := if p.scalar then decide (28 ≤ p.num.val) else decide (24 ≤ p.num.val)

/-- Field checks of R46 to R63. -/
def Instr.wellFormed : Instr → Bool
  | .bfx _ _ p w => decide (p.toNat + (w.toNat + 1) ≤ 64)
  | .bfxn _ _ p w => decide (p.toNat + (w.toNat + 1) ≤ 64)
  | .bfi _ _ p w => decide (p.toNat + (w.toNat + 1) ≤ 64)
  | .updAdd _ _ q => q.order == .rlx || q.order == .rel
  | .updFadd _ _ q => q.order == .rlx || q.order == .rel
  | .updMin _ _ q => q.order == .rlx || q.order == .rel
  | .updMax _ _ q => q.order == .rlx || q.order == .rel
  | .updOr _ _ q => q.order == .rlx || q.order == .rel
  | .fence o _ => o != .rlx
  | .fenceEng o _ => o != .rlx
  | .send _ b n => decide (n.toNat ≤ 8) && decide (b.val + n.toNat ≤ 32)
  | .sendv _ _ n => decide (n.toNat ≤ 8)
  | .ksend t _ _ _ _ => t.isS32S64
  | .bindStream p _ => p.wf
  | .bindLink p _ _ => p.wf
  | .bindChan p _ => p.wf
  | .unbind p => p.wf
  | .skipPort p _ => p.wf
  | .sdrain p => p.wf
  | .rld q d _ => !q || (decide (1 ≤ d.val) && decide (d.val ≤ 30))
  | .rst q _ _ d _ _ => q || d == 0
  | .ramo _ _ q _ d _ _ => !q || (decide (1 ≤ d.val) && decide (d.val ≤ 30))
  | .rstc q _ _ _ d _ _ => q || d == 0
  | .rmcast q n d _ b => (q || d == 0) && decide (b.val + n.val ≤ 31)
  | .wvInbox _ _ b => b.val % 2 == 0
  | .wvNext d _ b => b.val % 2 == 0 && decide (1 ≤ d.val) && decide (d.val ≤ 30)
  | .wvCut d _ b => b.val % 2 == 0 && decide (1 ≤ d.val) && decide (d.val ≤ 30)
  | .wvRlist _ _ b => b.val % 2 == 0
  | .view v => v.wf
  | .vmulh t _ _ _ _ => !t.isFloat
  | .vand t _ _ _ _ => !t.isFloat
  | .vor t _ _ _ _ => !t.isFloat
  | .vxor t _ _ _ _ => !t.isFloat
  | .vsll t _ _ _ _ => !t.isFloat
  | .vsrl t _ _ _ _ => !t.isFloat
  | .vsra t _ _ _ _ => !t.isFloat
  | .vsqrt t _ _ _ => t.isFloat
  | .vrcp t _ _ _ => t.isFloat
  | .vrsq t _ _ _ => t.isFloat
  | .vexp2 t _ _ _ => t.isFloat
  | .vlog2 t _ _ _ => t.isFloat
  | .vsig t _ _ _ => t.isFloat
  | .vtanh t _ _ _ => t.isFloat
  | .vcmp c t _ _ _ _ => c != .un || t.isFloat
  | .vwadd t _ _ _ _ => t.isS32S64
  | .vwinbox t _ _ _ _ => t.isS32S64
  | .vwaddT t _ _ _ _ => t.isS32S64
  | .cLi d _ => d != 0
  | .cAddi d _ => d != 0
  | .cMv d _ => d != 0
  | .cAdd d _ => d != 0
  | .cSub d _ => d != 0
  | .cSlli d _ => d != 0
  | .cAndi d _ => d != 0
  | _ => true

end Sys2Proof
end

