-- ==== Sys2Proof/Decode.lean ====
section
/-!
DEFINITION. From bits to an instruction (R42 to R63) and back. A word is a natural number; its fields are cut out
here, once. `decode32` reads a 32-bit word, `decode16` a compact halfword; both refuse what R63 calls illegal.
`encodeWord` writes a well-formed instruction's word from the same tables.
-/
namespace Sys2Proof

/-! ## Field codes -/

/-- TY codes 0–7 (R115). -/
def Ty.all : List Ty := [.s8, .n8, .s16, .s32, .bf16, .h16, .f32, .s64]
/-- TY code (R115). -/
def Ty.code : Ty → Nat | .s8 => 0 | .n8 => 1 | .s16 => 2 | .s32 => 3 | .bf16 => 4 | .h16 => 5 | .f32 => 6 | .s64 => 7
/-- Rounding codes 0–6 (R74); 7 is illegal. -/
def RMode.all : List RMode := [.rne, .rtz, .rdn, .rup, .rna, .sto, .dyn]
/-- Rounding code (R74). -/
def RMode.code : RMode → Nat | .rne => 0 | .rtz => 1 | .rdn => 2 | .rup => 3 | .rna => 4 | .sto => 5 | .dyn => 6
/-- Scope codes 0–5 (R52). -/
def Scope.all : List Scope := [.t, .c, .k, .f, .d, .s]
/-- Scope code (R52). -/
def Scope.code : Scope → Nat | .t => 0 | .c => 1 | .k => 2 | .f => 3 | .d => 4 | .s => 5
/-- Order codes 0–3 (R51). -/
def Order.all : List Order := [.rlx, .acq, .rel, .ar]
/-- Order code (R51). -/
def Order.code : Order → Nat | .rlx => 0 | .acq => 1 | .rel => 2 | .ar => 3
/-- Precision bit (R54). -/
def Prec.code : Prec → Nat | .f32 => 0 | .f64 => 1
/-- Precision of a bit (R54). -/
def Prec.ofBit (n : Nat) : Prec := if n % 2 = 1 then .f64 else .f32
/-- Atomic operations 0x0–0xA (R51). -/
def AmoOp.all : List AmoOp := [.swap, .add, .and, .or, .xor, .min, .max, .minn, .maxn, .cas, .fadd]
/-- Atomic operation code (R51). -/
def AmoOp.code : AmoOp → Nat
  | .swap => 0 | .add => 1 | .and => 2 | .or => 3 | .xor => 4 | .min => 5 | .max => 6 | .minn => 7 | .maxn => 8
  | .cas => 9 | .fadd => 10
/-- Compare codes 0–6 (R139). -/
def Cmp.all : List Cmp := [.eq, .ne, .lt, .le, .gt, .ge, .un]
/-- Compare code (R139). -/
def Cmp.code : Cmp → Nat | .eq => 0 | .ne => 1 | .lt => 2 | .le => 3 | .gt => 4 | .ge => 5 | .un => 6
/-- Link direction codes 0–3 (R155). -/
def Dir.all : List Dir := [.n, .e, .s, .w]
/-- Link direction code (R155). -/
def Dir.code : Dir → Nat | .n => 0 | .e => 1 | .s => 2 | .w => 3
/-- A one-bit field. -/
def bitN (b : Bool) : Nat := if b then 1 else 0
/-- A one-bit field read. -/
def bitB (n : Nat) : Bool := n % 2 == 1
/-- Destination view codes 1–10 (R60). -/
def VFmt.all : List VFmt := [.e4, .e5, .f6a, .f6b, .f4, .s4, .n4, .n16, .n32, .n64]
/-- Destination view code (R60). -/
def VFmt.dstCode : VFmt → Nat
  | .e4 => 1 | .e5 => 2 | .f6a => 3 | .f6b => 4 | .f4 => 5 | .s4 => 6 | .n4 => 7 | .n16 => 8 | .n32 => 9 | .n64 => 10
/-- First source view code of a format (R60). -/
def VFmt.srcBase : VFmt → Nat
  | .e4 => 0x01 | .e5 => 0x09 | .f6a => 0x11 | .f6b => 0x19 | .f4 => 0x21 | .s4 => 0x29 | .n4 => 0x31 | .n16 => 0x39
  | .n32 => 0x3D | .n64 => 0x3F

/-- A source view code: 0 no view, else a format and its group (R60). -/
def decodeSrc (c : Nat) : Option SrcView :=
  if c = 0 then none
  else if c < 0x39 then some ⟨(VFmt.all[(c - 1) / 8]?).getD .e4, Fin.ofNat 8 ((c - 1) % 8)⟩
  else if c < 0x3D then some ⟨.n16, Fin.ofNat 8 (c - 0x39)⟩
  else if c < 0x3F then some ⟨.n32, Fin.ofNat 8 (c - 0x3D)⟩
  else some ⟨.n64, 0⟩
/-- The source view code of R60. -/
def encodeSrc : Option SrcView → Nat
  | none => 0
  | some v => v.fmt.srcBase + v.group.val

/-- A register field read in a class of `n` registers: out of class is illegal (R46). -/
def narrow (n : Nat) (x : Nat) : Option (Fin n) := if h : x < n then some ⟨x, h⟩ else none
/-- A field constraint: the instruction when it holds, else not an instruction (R63). -/
def req (c : Bool) (i : Instr) : Option Instr := if c then some i else none

/-! ## The groups, each from its fields -/

/-- INT 0x00–0x16 (R50). -/
def intOps : List (SReg → SReg → SReg → Instr) :=
  [.add, .sub, .and, .or, .xor, .andn, .sll, .srl, .sra, .rotl, .mul, .mulh, .mulhn, .div, .divn, .rem, .remn, .min, .max,
   .minn, .maxn, .slt, .sltn]
/-- INT 0x17–0x1A (R50). -/
def intUnary : List (SReg → SReg → Instr) := [.clz, .ctz, .popc, .bswap]
/-- INT (R50). -/
def decodeInt (d a b : SReg) (fn : Nat) : Option Instr :=
  if fn % 32 = 27 then some (.csel d a b (Fin.ofNat 32 (fn / 32)))
  else if fn < 23 then (intOps[fn]?).map (fun f => f d a b)
  else if b = 0 then (intUnary[fn - 23]?).map (fun f => f d a)
  else none
/-- INTI (R48). -/
def decodeInti (d a : SReg) (fn imm : Nat) : Option Instr :=
  let i := BitVec.ofNat 12 imm
  let h := BitVec.ofNat 6 imm
  match fn with
  | 0 => some (.addi d a i) | 1 => some (.andi d a i) | 2 => some (.ori d a i) | 3 => some (.xori d a i)
  | 4 => some (.slti d a i) | 5 => some (.sltni d a i)
  | 6 => (match imm / 64 with
    | 0 => some (.slli d a h) | 1 => some (.srli d a h) | 2 => some (.srai d a h) | _ => none)
  | _ => none
/-- BRANCH FN 0–5 (R49). -/
def branchOps : List (SReg → SReg → BitVec 12 → Instr) := [.beq, .bne, .blt, .bge, .bltn, .bgen]
/-- LOAD FN 0–6 (R48). -/
def loadOps : List (SReg → SReg → BitVec 12 → Instr) := [.ldS8, .ldN8, .ldS16, .ldN16, .ldS32, .ldN32, .ld64]
/-- STORE FN 0–3 (R49). -/
def storeOps : List (SReg → SReg → BitVec 12 → Instr) := [.st8, .st16, .st32, .st64]
/-- AMO operations 0x0–0xA (R51). -/
def amoOps : List (SReg → SReg → SReg → AmoMods → Instr) :=
  [.amoSwap, .amoAdd, .amoAnd, .amoOr, .amoXor, .amoMin, .amoMax, .amoMinn, .amoMaxn, .amoCas, .amoFadd]
/-- Update-only operations 0xB–0xF (R51). -/
def updOps : List (SReg → SReg → AmoMods → Instr) := [.updAdd, .updFadd, .updMin, .updMax, .updOr]
/-- AMO (R51). -/
def decodeAmo (d a b : SReg) (fn : Nat) : Option Instr := do
  let sc ← Scope.all[fn / 128]?
  let o ← Order.all[fn / 32 % 4]?
  let q : AmoMods := ⟨bitB (fn / 16), o, sc⟩
  if fn % 16 < 11 then (amoOps[fn % 16]?).map (fun f => f d a b q)
  else if d = 0 then (updOps[fn % 16 - 11]?).map (fun f => f a b q)
  else none
/-- FENCE (R53). -/
def decodeFence (d a b : SReg) (fn : Nat) : Option Instr := do
  let sc ← Scope.all[fn / 16 % 8]?
  let o ← Order.all[fn / 4 % 4]?
  if d = 0 ∧ a = 0 ∧ b = 0 ∧ fn < 128 then
    match fn % 4 with
    | 0 => some (.fence o sc)
    | 1 => req (fn == 1) .fenceAck
    | 2 => some (.fenceEng o sc)
    | _ => none
  else none
/-- FPS (R54). -/
def decodeFps (d a b : SReg) (fn : Nat) : Option Instr := do
  let r ← RMode.all[fn / 64 % 8]?
  let p := Prec.ofBit (fn / 32)
  if 512 ≤ fn then none else
  match fn % 32 with
  | 0 => some (.fadd p r d a b) | 1 => some (.fsub p r d a b) | 2 => some (.fmul p r d a b) | 3 => some (.fdiv p r d a b)
  | 4 => req (b == 0) (.fsqrt p r d a) | 5 => some (.fma p r d a b)
  | 6 => req (r == .rne) (.fmin p d a b) | 7 => req (r == .rne) (.fmax p d a b) | 8 => req (r == .rne) (.feq p d a b)
  | 9 => req (r == .rne) (.flt p d a b) | 10 => req (r == .rne) (.fle p d a b)
  | 11 => (match b.val with
    | 0 => some (.fcvtFromS64 p r d a) | 1 => some (.fcvtFromN64 p r d a) | 2 => some (.fcvtFromOther p r d a)
    | 3 => some (.fcvtToS64 p r d a) | 4 => some (.fcvtToN64 p r d a) | _ => none)
  | 12 => req (r == .rne && b == 0) (.fclass p d a)
  | _ => none
/-- CREG (R48, R108). -/
def decodeCreg (d a : SReg) (fn imm : Nat) : Option Instr :=
  let c := BitVec.ofNat 12 imm
  match fn with
  | 0 => req (a == 0) (.crr d c) | 1 => req (d == 0) (.crw c a) | 2 => some (.crs d c a) | 3 => some (.crc d c a)
  | _ => none
/-- SYS (R55, R109). -/
def decodeSys (d a b : SReg) (fn : Nat) : Option Instr :=
  if b ≠ 0 then none else
  let c := BitVec.ofNat 6 (fn / 16)
  match fn % 16 with
  | 0 => req (d == 0 && a == 0) (.trap c)
  | 1 => req (d == 0 && a == 0) (.brk c)
  | 2 => req (d == 0 && a == 0 && fn == 2) .rett
  | 3 => req (d == 0 && a == 0 && fn == 3) .idle
  | 4 => req (a == 0 && fn == 4) (.tstamp d)
  | 5 => req (d == 0 && fn == 5) (.cflush a)
  | 6 => req (d == 0 && fn == 6) (.cinv a)
  | 7 => req (d == 0 && fn == 7) (.tlbinv a)
  | _ => none
/-- BITF (R48). -/
def decodeBitf (d a : SReg) (fn imm : Nat) : Option Instr :=
  let p := BitVec.ofNat 6 imm
  let w := BitVec.ofNat 6 (imm / 64)
  match fn with
  | 0 => some (.bfx d a p w) | 1 => some (.bfxn d a p w) | 2 => some (.bfi d a p w) | _ => none
/-- TASK (R146). -/
def decodeTask (d a b : SReg) (fn : Nat) : Option Instr :=
  let n := BitVec.ofNat 4 (fn / 16)
  let z := d == 0 && a == 0 && b == 0
  match fn % 16 with
  | 0 => req (d == 0 && decide (fn / 16 < 16)) (.send a b n)
  | 1 => req (d == 0 && decide (fn / 16 < 16)) (.sendv a b n)
  | 2 => req (z && fn == 2) .taskDone
  | 3 => req (z && fn == 3) .yield
  | 4 => if b.val < 4 then (narrow 16 d.val).map (fun k => .waitk k (BitVec.ofNat 8 (fn / 16 + 64 * b.val)) a) else none
  | 5 => req (z && fn == 5) .waitdep
  | 6 => req (z && fn == 6) .trig
  | 7 => req (b == 0 && fn == 7) (.waitev d a)
  | 8 => req (d == 0 && fn == 8) (.chbind a b)
  | _ => none
/-- KIN (R151). -/
def decodeKin (d a b : SReg) (fn : Nat) : Option Instr :=
  if b ≠ 0 then none else
  match fn with
  | 0 => req (d == 0) (.kjoin a) | 1 => req (d == 0) (.kleave a) | 2 => req (d == 0) (.kbar a) | 3 => some (.kcount d a)
  | _ => none
/-- PORT (R155). -/
def decodePort (d a b : SReg) (fn : Nat) : Option Instr :=
  if b ≠ 0 then none else
  let p : PortReg := ⟨bitB (fn / 4), d⟩
  match fn % 4 with
  | 0 => (match fn / 8 % 4 with
    | 0 => req (decide (fn < 8)) (.bindStream p a)
    | 1 => (Dir.all[fn / 32 % 4]?).bind (fun r => req (a == 0 && decide (fn < 256)) (.bindLink p r (bitB (fn / 128))))
    | 2 => req (a == 0 && decide (fn < 512)) (.bindChan p (Fin.ofNat 16 (fn / 32)))
    | _ => none)
  | 1 => req (a == 0 && decide (fn < 8)) (.unbind p)
  | 2 => req (decide (fn < 8)) (.skipPort p a)
  | _ => req (a == 0 && decide (fn < 8)) (.sdrain p)
/-- REMOTE (R56). -/
def decodeRemote (d a b : SReg) (fn : Nat) : Option Instr :=
  let q := bitB (fn / 4)
  let o := bitB (fn / 8)
  let t := bitB (fn / 16)
  let two := bitB (fn / 32)
  let t1 : DReg := Fin.ofNat 4 (fn / 64)
  let t2 : DReg := Fin.ofNat 4 (fn / 256)
  match fn % 4 with
  | 0 => req (b == 0 && decide (fn < 8)) (.rld q d a)
  | 1 => if t then (if two then some (.rst q o (.two t1 t2) d a b) else req (t2 == 0) (.rst q o (.one t1) d a b))
         else req (decide (fn < 16)) (.rst q o .none d a b)
  | 2 => (AmoOp.all[fn / 32 % 16]?).bind (fun op => req (!t) (.ramo op (bitB (fn / 512)) q o d a b))
  | _ => if two then none
         else if t then some (.rstc q o (some t1) t2 d a b) else req (t1 == 0) (.rstc q o none t2 d a b)
/-- WEAVE (R200). -/
def decodeWeave (d a b : SReg) (fn : Nat) : Option Instr := do
  if fn / 16 % 2 = 1 then
    let wd ← narrow 8 d.val
    let wa ← narrow 8 a.val
    let wb ← narrow 8 b.val
    match fn with
    | 21 => some (.wvAdd true wd wa wb) | 22 => some (.wvSub true wd wa wb) | _ => none
  else match fn with
    | 0 => (narrow 8 d.val).bind (fun wd => req (b == 0) (.wvShape wd a))
    | 1 => (narrow 8 d.val).map (fun wd => .wvPack wd a b)
    | 2 => (narrow 8 a.val).map (fun wa => .wvUnpk d wa b)
    | 3 => (narrow 8 d.val).map (fun wd => .wvSet wd a b)
    | 4 => (narrow 8 a.val).map (fun wa => .wvGet d wa b)
    | 11 => (narrow 8 b.val).map (fun wb => .wvRlist d a wb)
    | 12 => (narrow 8 d.val).bind (fun wd => req (a == 0 && b == 0) (.wvClrf wd))
    | _ =>
      let wa ← narrow 8 a.val
      let wb ← narrow 8 b.val
      match fn with
      | 5 => (narrow 8 d.val).map (fun wd => .wvAdd false wd wa wb)
      | 6 => (narrow 8 d.val).map (fun wd => .wvSub false wd wa wb)
      | 7 => some (.wvCmp d wa wb) | 8 => some (.wvInbox d wa wb)
      | 9 => some (.wvNext d wa wb) | 10 => some (.wvCut d wa wb) | _ => none
/-- TOKEN (R194). -/
def decodeToken (d a b : SReg) (fn : Nat) : Option Instr :=
  match fn with
  | 0 => (narrow 4 a.val).bind (fun da => req (b == 0) (.tkwait d da))
  | 1 => (narrow 4 d.val).bind (fun dd => req (a == 0 && b == 0) (.tkdrop dd))
  | 2 => (narrow 4 d.val).bind (fun dd => (narrow 4 a.val).bind (fun da => (narrow 4 b.val).map (fun db => .tkmerge dd da db)))
  | _ => none
/-- LIGHT (R196). -/
def decodeLight (d a b : SReg) (fn : Nat) : Option Instr :=
  match fn with
  | 0 => some (.grant d a b) | 1 => some (.grq d a b) | 2 => some (.pathset d a b) | _ => none
/-- MILL (R57, R163): `fn` holds FN, AT and KC as one number, KC lowest. -/
def decodeMill (d a b : SReg) (fn : Nat) : Option Instr :=
  let k : KReg := Fin.ofNat 16 fn
  let t : AReg := Fin.ofNat 8 (fn / 16)
  match fn / 128 with
  | 0 => some (.mmMma t k d a b)
  | 1 => some (.mmMmag t k d a b)
  | 2 => req (a == 0 && b == 0) (.mmZero t k d)
  | 3 => req (b == 0) (.mmLdacc t k d a)
  | 4 => req (b == 0) (.mmStacc t k d a)
  | 5 => req (b == 0 && k == 0) (.mmMova t d a)
  | 6 => req (d == 0 && k == 0) (.mmMovv t a b)
  | _ => (match fn % 128 with
    | 0 => req (b == 0) (.mmQuery d a) | 16 => req (b == 0) (.mmCancel d a) | _ => none)
/-- CART FN 0–6 (R57). -/
def cartOps : List (Bool → KReg → SReg → SReg → Instr) :=
  [.cpCopy, .cpGather, .cpFill, .cpRemote, .cpMcast, .cpRsend, .cpReduce]
/-- CART (R57, R172). -/
def decodeCart (d a b : SReg) (fn : Nat) : Option Instr :=
  if b = 0 ∧ fn / 16 % 8 < 2 then
    (cartOps[fn / 128]?).map (fun f => f (bitB (fn / 16)) (Fin.ofNat 16 fn) d a)
  else none
/-- VMEM (R126). -/
def decodeVmem (t : Ty) (m : MReg) (d a b : SReg) (fn : Nat) : Option Instr :=
  match fn with
  | 0 => req (b == 0) (.vld t m d a) | 1 => req (d == 0) (.vst t m a b) | 2 => some (.vlds t m d a b)
  | 3 => some (.vsts t m d a b) | 4 => some (.vgather t m d a b) | 5 => some (.vscatter t m d a b) | _ => none
/-- VARITH (R58, R130). -/
def decodeVarith (t : Ty) (m : MReg) (d a b : VReg) (fn : Nat) : Option Instr :=
  match fn with
  | 0 => some (.vadd t m d a b) | 1 => some (.vsub t m d a b) | 2 => some (.vmul t m d a b) | 3 => some (.vmulh t m d a b)
  | 4 => some (.vma t m d a b) | 5 => some (.vms t m d a b) | 6 => some (.vmin t m d a b) | 7 => some (.vmax t m d a b)
  | 8 => req (b == 0) (.vabs t m d a) | 9 => req (b == 0) (.vneg t m d a)
  | 10 => some (.vand t m d a b) | 11 => some (.vor t m d a b) | 12 => some (.vxor t m d a b)
  | 13 => some (.vsll t m d a b) | 14 => some (.vsrl t m d a b) | 15 => some (.vsra t m d a b)
  | 16 => some (.vdiv t m d a b) | 17 => req (b == 0) (.vsqrt t m d a) | _ => none
/-- VSPEC FN 0–5 (R58). -/
def vspecOps : List (Ty → MReg → VReg → VReg → Instr) := [.vrcp, .vrsq, .vexp2, .vlog2, .vsig, .vtanh]
/-- VPERM (R136 to R138). -/
def decodeVperm (t : Ty) (m : MReg) (d a b : SReg) (fn : Nat) : Option Instr :=
  match fn with
  | 0 => some (.vshuf t m d a b) | 1 => req (b == 0) (.vbcast t m d a) | 2 => req (m == 0) (.vextr t d a b)
  | 3 => req (m == 0) (.vins t d a b) | 4 => some (.vslide t m d a b) | 5 => req (b == 0) (.vredsum t m d a)
  | 6 => req (b == 0) (.vredmax t m d a) | 7 => req (b == 0) (.vredmin t m d a) | 8 => req (b == 0) (.vscan t m d a)
  | _ => none
/-- VMASK (R139, R140). -/
def decodeVmask (t : Ty) (m : MReg) (d a b : SReg) (fn : Nat) : Option Instr :=
  let tz := t == .s8
  match fn with
  | 8 => (narrow 4 d.val).bind (fun md => (narrow 4 a.val).bind (fun ma =>
      (narrow 4 b.val).bind (fun mb => req (tz && m == 0) (.mand md ma mb))))
  | 9 => (narrow 4 d.val).bind (fun md => (narrow 4 a.val).bind (fun ma =>
      (narrow 4 b.val).bind (fun mb => req (tz && m == 0) (.mor md ma mb))))
  | 10 => (narrow 4 d.val).bind (fun md => (narrow 4 a.val).bind (fun ma =>
      (narrow 4 b.val).bind (fun mb => req (tz && m == 0) (.mxor md ma mb))))
  | 11 => (narrow 4 d.val).bind (fun md => (narrow 4 a.val).bind (fun ma => req (tz && m == 0 && b == 0) (.mnot md ma)))
  | 12 => (narrow 4 a.val).bind (fun ma => req (tz && b == 0) (.mpop m d ma))
  | 13 => (narrow 4 a.val).bind (fun ma => req (tz && b == 0) (.mfirst m d ma))
  | _ => (Cmp.all[fn]?).bind (fun c => (narrow 4 d.val).map (fun md => .vcmp c t m md a b))
/-- VCONV (R141 to R143). -/
def decodeVconv (t : Ty) (m : MReg) (d a b : VReg) (fn : Nat) : Option Instr :=
  match fn with
  | 0 => (Ty.all[b.val]?).map (fun src => .vcvt t src m d a)
  | 1 => some (.vsel t m d a b) | 2 => some (.vdot t m d a b) | _ => none
/-- VWEAVE (R207). -/
def decodeVweave (t : Ty) (m : MReg) (d a b : VReg) (fn : Nat) : Option Instr :=
  match fn with
  | 0 => some (.vwadd t m d a b) | 1 => (narrow 4 d.val).map (fun md => .vwinbox t m md a b)
  | 2 => some (.vwaddT t m d a b) | _ => none
/-- The V-format groups (R58): `fn` holds FN, TY and MK as one number, FN lowest. -/
def decodeV (maj : Nat) (d a b : SReg) (fn : Nat) : Option Instr := do
  let t ← Ty.all[fn / 32 % 8]?
  let m : MReg := Fin.ofNat 4 (fn / 256)
  let f := fn % 32
  match maj with
  | 0x12 => (narrow 4 d.val).bind (fun md => req (f == 0) (.ksend t m md a b))
  | 0x1C => decodeVmem t m d a b f
  | 0x1D => decodeVarith t m d a b f
  | 0x1E => if b = 0 then (vspecOps[f]?).map (fun g => g t m d a) else none
  | 0x1F => decodeVperm t m d a b f
  | 0x20 => decodeVmask t m d a b f
  | 0x21 => decodeVconv t m d a b f
  | 0x22 => decodeVweave t m d a b f
  | _ => none
/-- The view word's fields (R44 format P, R60). -/
def decodeView (w : Nat) : Option Instr := do
  let drm ← RMode.all[w / 2 ^ 26 % 8]?
  let dn := w / 2 ^ 19 % 16
  if dn ≤ 10 ∧ w < 2 ^ 30 then
    some (.view ⟨decodeSrc (w / 2 ^ 7 % 64), decodeSrc (w / 2 ^ 13 % 64), if dn = 0 then none else VFmt.all[dn - 1]?,
      Fin.ofNat 8 (w / 2 ^ 23), drm, bitB (w / 2 ^ 29)⟩)
  else none

/-- A 32-bit word before the field checks of `Instr.wellFormed` (R47). -/
def decodeRaw32 (w : Nat) : Option Instr :=
  let d : SReg := Fin.ofNat 32 (w / 2 ^ 7)
  let a : SReg := Fin.ofNat 32 (w / 2 ^ 12)
  let b : SReg := Fin.ofNat 32 (w / 2 ^ 17)
  let fn := w / 2 ^ 22 % 2 ^ 10
  let fnI := w / 2 ^ 17 % 8
  let fnS := w / 2 ^ 22 % 8
  let immI := w / 2 ^ 20 % 2 ^ 12
  let iI := BitVec.ofNat 12 immI
  let iS := BitVec.ofNat 12 (w / 2 ^ 7 % 32 + 32 * (w / 2 ^ 25))
  let iU := BitVec.ofNat 20 (w / 2 ^ 12)
  match w / 2 % 64 with
  | 0x01 => decodeInt d a b fn
  | 0x02 => decodeInti d a fnI immI
  | 0x03 => some (.lui d iU)
  | 0x04 => some (.auipc d iU)
  | 0x05 => some (.jal d iU)
  | 0x06 => req (fnI == 0) (.jalr d a iI)
  | 0x07 => (branchOps[fnS]?).map (fun f => f a b iS)
  | 0x08 => (loadOps[fnI]?).map (fun f => f d a iI)
  | 0x09 => (storeOps[fnS]?).map (fun f => f a b iS)
  | 0x0A => decodeAmo d a b fn
  | 0x0B => decodeFence d a b fn
  | 0x0C => decodeFps d a b fn
  | 0x0D => decodeCreg d a fnI immI
  | 0x0E => decodeSys d a b fn
  | 0x0F => decodeBitf d a fnI immI
  | 0x10 => decodeTask d a b fn
  | 0x11 => decodeKin d a b fn
  | 0x13 => decodePort d a b fn
  | 0x14 => decodeRemote d a b fn
  | 0x15 => req (decide (fn < 16)) (.rmcast (bitB (fn / 8)) (Fin.ofNat 8 fn) d a b)
  | 0x16 => decodeToken d a b fn
  | 0x17 => decodeLight d a b fn
  | 0x18 => decodeWeave d a b fn
  | 0x19 => decodeMill d a b fn
  | 0x1A => decodeCart d a b fn
  | 0x1B => decodeView w
  | maj => decodeV maj d a b fn

/-- A compact halfword before the field checks (R59). -/
def decodeRaw16 (w : Nat) : Option Instr :=
  let rd : SReg := Fin.ofNat 32 (w / 2 ^ 5)
  let rs : SReg := Fin.ofNat 32 (w / 2 ^ 10)
  let i6 := BitVec.ofNat 6 (w / 2 ^ 10)
  let c1 : Fin 8 := Fin.ofNat 8 (w / 2 ^ 5)
  let c2 : Fin 8 := Fin.ofNat 8 (w / 2 ^ 8)
  let o5 := BitVec.ofNat 5 (w / 2 ^ 11)
  let o8 := BitVec.ofNat 8 (w / 2 ^ 8)
  let top := w / 2 ^ 15 % 2
  match w / 2 % 16 with
  | 0 => some (.cLi rd i6) | 1 => some (.cAddi rd i6) | 2 => req (top == 0) (.cMv rd rs) | 3 => req (top == 0) (.cAdd rd rs)
  | 4 => req (top == 0) (.cSub rd rs) | 5 => some (.cLd c1 c2 o5) | 6 => some (.cSt c1 c2 o5) | 7 => some (.cBeqz c1 o8)
  | 8 => some (.cBnez c1 o8) | 9 => some (.cJ (BitVec.ofNat 11 (w / 2 ^ 5)))
  | 10 => (match w / 2 ^ 5 with | 0 => some .cNop | 1 => some .cDone | 2 => some .cYield | 3 => some .cBreak | _ => none)
  | 11 => some (.cWaitk (Fin.ofNat 16 (w / 2 ^ 5)) (BitVec.ofNat 7 (w / 2 ^ 9)))
  | 12 => some (.cSlli rd i6) | 13 => some (.cAndi rd i6) | _ => none

/-- Keeps an instruction whose fields pass R46 to R63. -/
def checked (i : Instr) : Option Instr := if i.wellFormed then some i else none
/-- The 32-bit word `w` as an instruction, if R42 to R63 define one. -/
def decode32 (w : Nat) : Option Instr := (decodeRaw32 w).bind checked
/-- The compact halfword `w` as an instruction, if R59 defines one. -/
def decode16 (w : Nat) : Option Instr := (decodeRaw16 w).bind checked

/-- R42: bit 0 of the first halfword tells the length; the second halfword of a 32-bit form follows. -/
def decodeTableWord (nbits w : Nat) : Option Instr :=
  let v := w % 2 ^ nbits
  if v % 2 = 1 then decode32 (v % 2 ^ 32) else decode16 (v % 2 ^ 16)

/-! ## The encoder -/

/-- Format A (R44); formats V and E are the same with TY, MK or AT, KC above FN. -/
def encA (maj : Nat) (d a b : SReg) (fn : Nat) : Nat :=
  1 + 2 * maj + 2 ^ 7 * d.val + 2 ^ 12 * a.val + 2 ^ 17 * b.val + 2 ^ 22 * fn
/-- Format I (R44). -/
def encI (maj : Nat) (d a : SReg) (fn imm : Nat) : Nat :=
  1 + 2 * maj + 2 ^ 7 * d.val + 2 ^ 12 * a.val + 2 ^ 17 * fn + 2 ^ 20 * imm
/-- Format S (R44). -/
def encS (maj : Nat) (a b : SReg) (fn imm : Nat) : Nat :=
  1 + 2 * maj + 2 ^ 7 * (imm % 32) + 2 ^ 12 * a.val + 2 ^ 17 * b.val + 2 ^ 22 * fn + 2 ^ 25 * (imm / 32)
/-- Format U (R44). -/
def encU (maj : Nat) (d : SReg) (imm : Nat) : Nat := 1 + 2 * maj + 2 ^ 7 * d.val + 2 ^ 12 * imm
/-- Format V (R44). -/
def encV (maj : Nat) (t : Ty) (m : MReg) (d a b : SReg) (fn : Nat) : Nat := encA maj d a b (fn + 32 * t.code + 256 * m.val)
/-- Format E (R44). -/
def encE (maj : Nat) (d a b : SReg) (fn at3 : Nat) (k : KReg) : Nat := encA maj d a b (k.val + 16 * at3 + 128 * fn)
/-- AMO's FN (R51). -/
def AmoMods.fn (q : AmoMods) (op : Nat) : Nat := op + 16 * bitN q.w64 + 32 * q.order.code + 128 * q.scope.code
/-- FPS's FN (R54). -/
def fpsFn (op : Nat) (p : Prec) (r : RMode) : Nat := op + 32 * p.code + 64 * r.code
/-- A register of a smaller class in a 5-bit field. -/
def fld {n : Nat} (x : Fin n) : SReg := Fin.ofNat 32 x.val
/-- The REMOTE flags (R56). -/
def remFn (op : Nat) (q o t two : Bool) (t1 t2 : Nat) : Nat :=
  op + 4 * bitN q + 8 * bitN o + 16 * bitN t + 32 * bitN two + 64 * t1 + 256 * t2
/-- Compact forms with rd and a 6-bit field (R59). -/
def encC (cop : Nat) (rd : SReg) (i : Nat) : Nat := 2 * cop + 2 ^ 5 * rd.val + 2 ^ 10 * i
/-- Compact forms with compact-set registers (R59). -/
def encC3 (cop : Nat) (r rb : Nat) (o : Nat) : Nat := 2 * cop + 2 ^ 5 * r + 2 ^ 8 * rb + 2 ^ 11 * o

/-- The word of an encoded instruction (R44 to R60); `none` for the steps that have no encoding. -/
def encode : Instr → Option Nat
  | .add d a b => some (encA 1 d a b 0) | .sub d a b => some (encA 1 d a b 1) | .and d a b => some (encA 1 d a b 2)
  | .or d a b => some (encA 1 d a b 3) | .xor d a b => some (encA 1 d a b 4) | .andn d a b => some (encA 1 d a b 5)
  | .sll d a b => some (encA 1 d a b 6) | .srl d a b => some (encA 1 d a b 7) | .sra d a b => some (encA 1 d a b 8)
  | .rotl d a b => some (encA 1 d a b 9) | .mul d a b => some (encA 1 d a b 10) | .mulh d a b => some (encA 1 d a b 11)
  | .mulhn d a b => some (encA 1 d a b 12) | .div d a b => some (encA 1 d a b 13) | .divn d a b => some (encA 1 d a b 14)
  | .rem d a b => some (encA 1 d a b 15) | .remn d a b => some (encA 1 d a b 16) | .min d a b => some (encA 1 d a b 17)
  | .max d a b => some (encA 1 d a b 18) | .minn d a b => some (encA 1 d a b 19) | .maxn d a b => some (encA 1 d a b 20)
  | .slt d a b => some (encA 1 d a b 21) | .sltn d a b => some (encA 1 d a b 22)
  | .clz d a => some (encA 1 d a 0 23) | .ctz d a => some (encA 1 d a 0 24) | .popc d a => some (encA 1 d a 0 25)
  | .bswap d a => some (encA 1 d a 0 26) | .csel d a b c => some (encA 1 d a b (27 + 32 * c.val))
  | .addi d a i => some (encI 2 d a 0 i.toNat) | .andi d a i => some (encI 2 d a 1 i.toNat)
  | .ori d a i => some (encI 2 d a 2 i.toNat) | .xori d a i => some (encI 2 d a 3 i.toNat)
  | .slti d a i => some (encI 2 d a 4 i.toNat) | .sltni d a i => some (encI 2 d a 5 i.toNat)
  | .slli d a h => some (encI 2 d a 6 h.toNat) | .srli d a h => some (encI 2 d a 6 (h.toNat + 64))
  | .srai d a h => some (encI 2 d a 6 (h.toNat + 128))
  | .lui d i => some (encU 3 d i.toNat) | .auipc d i => some (encU 4 d i.toNat) | .jal d i => some (encU 5 d i.toNat)
  | .jalr d a i => some (encI 6 d a 0 i.toNat)
  | .beq a b i => some (encS 7 a b 0 i.toNat) | .bne a b i => some (encS 7 a b 1 i.toNat)
  | .blt a b i => some (encS 7 a b 2 i.toNat) | .bge a b i => some (encS 7 a b 3 i.toNat)
  | .bltn a b i => some (encS 7 a b 4 i.toNat) | .bgen a b i => some (encS 7 a b 5 i.toNat)
  | .ldS8 d a i => some (encI 8 d a 0 i.toNat) | .ldN8 d a i => some (encI 8 d a 1 i.toNat)
  | .ldS16 d a i => some (encI 8 d a 2 i.toNat) | .ldN16 d a i => some (encI 8 d a 3 i.toNat)
  | .ldS32 d a i => some (encI 8 d a 4 i.toNat) | .ldN32 d a i => some (encI 8 d a 5 i.toNat)
  | .ld64 d a i => some (encI 8 d a 6 i.toNat)
  | .st8 a b i => some (encS 9 a b 0 i.toNat) | .st16 a b i => some (encS 9 a b 1 i.toNat)
  | .st32 a b i => some (encS 9 a b 2 i.toNat) | .st64 a b i => some (encS 9 a b 3 i.toNat)
  | .amoSwap d a b q => some (encA 10 d a b (q.fn 0)) | .amoAdd d a b q => some (encA 10 d a b (q.fn 1))
  | .amoAnd d a b q => some (encA 10 d a b (q.fn 2)) | .amoOr d a b q => some (encA 10 d a b (q.fn 3))
  | .amoXor d a b q => some (encA 10 d a b (q.fn 4)) | .amoMin d a b q => some (encA 10 d a b (q.fn 5))
  | .amoMax d a b q => some (encA 10 d a b (q.fn 6)) | .amoMinn d a b q => some (encA 10 d a b (q.fn 7))
  | .amoMaxn d a b q => some (encA 10 d a b (q.fn 8)) | .amoCas d a b q => some (encA 10 d a b (q.fn 9))
  | .amoFadd d a b q => some (encA 10 d a b (q.fn 10))
  | .updAdd a b q => some (encA 10 0 a b (q.fn 11)) | .updFadd a b q => some (encA 10 0 a b (q.fn 12))
  | .updMin a b q => some (encA 10 0 a b (q.fn 13)) | .updMax a b q => some (encA 10 0 a b (q.fn 14))
  | .updOr a b q => some (encA 10 0 a b (q.fn 15))
  | .fence o sc => some (encA 11 0 0 0 (4 * o.code + 16 * sc.code)) | .fenceAck => some (encA 11 0 0 0 1)
  | .fenceEng o sc => some (encA 11 0 0 0 (2 + 4 * o.code + 16 * sc.code))
  | .fadd p r d a b => some (encA 12 d a b (fpsFn 0 p r)) | .fsub p r d a b => some (encA 12 d a b (fpsFn 1 p r))
  | .fmul p r d a b => some (encA 12 d a b (fpsFn 2 p r)) | .fdiv p r d a b => some (encA 12 d a b (fpsFn 3 p r))
  | .fsqrt p r d a => some (encA 12 d a 0 (fpsFn 4 p r)) | .fma p r d a b => some (encA 12 d a b (fpsFn 5 p r))
  | .fmin p d a b => some (encA 12 d a b (fpsFn 6 p .rne)) | .fmax p d a b => some (encA 12 d a b (fpsFn 7 p .rne))
  | .feq p d a b => some (encA 12 d a b (fpsFn 8 p .rne)) | .flt p d a b => some (encA 12 d a b (fpsFn 9 p .rne))
  | .fle p d a b => some (encA 12 d a b (fpsFn 10 p .rne)) | .fclass p d a => some (encA 12 d a 0 (fpsFn 12 p .rne))
  | .fcvtFromS64 p r d a => some (encA 12 d a 0 (fpsFn 11 p r)) | .fcvtFromN64 p r d a => some (encA 12 d a 1 (fpsFn 11 p r))
  | .fcvtFromOther p r d a => some (encA 12 d a 2 (fpsFn 11 p r)) | .fcvtToS64 p r d a => some (encA 12 d a 3 (fpsFn 11 p r))
  | .fcvtToN64 p r d a => some (encA 12 d a 4 (fpsFn 11 p r))
  | .crr d c => some (encI 13 d 0 0 c.toNat) | .crw c a => some (encI 13 0 a 1 c.toNat)
  | .crs d c a => some (encI 13 d a 2 c.toNat) | .crc d c a => some (encI 13 d a 3 c.toNat)
  | .bfx d a p w => some (encI 15 d a 0 (p.toNat + 64 * w.toNat)) | .bfxn d a p w => some (encI 15 d a 1 (p.toNat + 64 * w.toNat))
  | .bfi d a p w => some (encI 15 d a 2 (p.toNat + 64 * w.toNat))
  | .trap c => some (encA 14 0 0 0 (16 * c.toNat)) | .brk c => some (encA 14 0 0 0 (1 + 16 * c.toNat))
  | .rett => some (encA 14 0 0 0 2) | .idle => some (encA 14 0 0 0 3) | .tstamp d => some (encA 14 d 0 0 4)
  | .cflush a => some (encA 14 0 a 0 5) | .cinv a => some (encA 14 0 a 0 6) | .tlbinv a => some (encA 14 0 a 0 7)
  | .send a b n => some (encA 16 0 a b (16 * n.toNat)) | .sendv a b n => some (encA 16 0 a b (1 + 16 * n.toNat))
  | .taskDone => some (encA 16 0 0 0 2) | .yield => some (encA 16 0 0 0 3)
  | .waitk k n a => some (encA 16 (fld k) a (Fin.ofNat 32 (n.toNat / 64)) (4 + 16 * (n.toNat % 64)))
  | .waitdep => some (encA 16 0 0 0 5) | .trig => some (encA 16 0 0 0 6) | .waitev d a => some (encA 16 d a 0 7)
  | .chbind a b => some (encA 16 0 a b 8)
  | .kjoin a => some (encA 17 0 a 0 0) | .kleave a => some (encA 17 0 a 0 1) | .kbar a => some (encA 17 0 a 0 2)
  | .kcount d a => some (encA 17 d a 0 3)
  | .ksend t m d a b => some (encV 18 t m (fld d) a b 0)
  | .bindStream p a => some (encA 19 p.num a 0 (4 * bitN p.scalar))
  | .bindLink p r f => some (encA 19 p.num 0 0 (4 * bitN p.scalar + 8 + 32 * r.code + 128 * bitN f))
  | .bindChan p h => some (encA 19 p.num 0 0 (4 * bitN p.scalar + 16 + 32 * h.val))
  | .unbind p => some (encA 19 p.num 0 0 (1 + 4 * bitN p.scalar))
  | .skipPort p a => some (encA 19 p.num a 0 (2 + 4 * bitN p.scalar))
  | .sdrain p => some (encA 19 p.num 0 0 (3 + 4 * bitN p.scalar))
  | .rld q d a => some (encA 20 d a 0 (remFn 0 q false false false 0 0))
  | .rst q o .none d a b => some (encA 20 d a b (remFn 1 q o false false 0 0))
  | .rst q o (.one t1) d a b => some (encA 20 d a b (remFn 1 q o true false t1.val 0))
  | .rst q o (.two t1 t2) d a b => some (encA 20 d a b (remFn 1 q o true true t1.val t2.val))
  | .ramo op w q o d a b => some (encA 20 d a b (remFn 2 q o false false 0 0 + 32 * op.code + 512 * bitN w))
  | .rstc q o none n d a b => some (encA 20 d a b (remFn 3 q o false false 0 n.val))
  | .rstc q o (some t) n d a b => some (encA 20 d a b (remFn 3 q o true false t.val n.val))
  | .rmcast q n d a b => some (encA 21 d a b (n.val + 8 * bitN q))
  | .tkwait d a => some (encA 22 d (fld a) 0 0) | .tkdrop d => some (encA 22 (fld d) 0 0 1)
  | .tkmerge d a b => some (encA 22 (fld d) (fld a) (fld b) 2)
  | .grant d a b => some (encA 23 d a b 0) | .grq d a b => some (encA 23 d a b 1) | .pathset d a b => some (encA 23 d a b 2)
  | .wvShape d a => some (encA 24 (fld d) a 0 0) | .wvPack d a b => some (encA 24 (fld d) a b 1)
  | .wvUnpk d a b => some (encA 24 d (fld a) b 2) | .wvSet d a b => some (encA 24 (fld d) a b 3)
  | .wvGet d a b => some (encA 24 d (fld a) b 4)
  | .wvAdd t d a b => some (encA 24 (fld d) (fld a) (fld b) (5 + 16 * bitN t))
  | .wvSub t d a b => some (encA 24 (fld d) (fld a) (fld b) (6 + 16 * bitN t))
  | .wvCmp d a b => some (encA 24 d (fld a) (fld b) 7) | .wvInbox d a b => some (encA 24 d (fld a) (fld b) 8)
  | .wvNext d a b => some (encA 24 d (fld a) (fld b) 9) | .wvCut d a b => some (encA 24 d (fld a) (fld b) 10)
  | .wvRlist d a b => some (encA 24 d a (fld b) 11) | .wvClrf d => some (encA 24 (fld d) 0 0 12)
  | .mmMma t k d a b => some (encE 25 d a b 0 t.val k) | .mmMmag t k d a b => some (encE 25 d a b 1 t.val k)
  | .mmZero t k d => some (encE 25 d 0 0 2 t.val k) | .mmLdacc t k d a => some (encE 25 d a 0 3 t.val k)
  | .mmStacc t k d a => some (encE 25 d a 0 4 t.val k) | .mmMova t d a => some (encE 25 d a 0 5 t.val 0)
  | .mmMovv t a b => some (encE 25 0 a b 6 t.val 0) | .mmQuery d a => some (encE 25 d a 0 7 0 0)
  | .mmCancel d a => some (encE 25 d a 0 7 1 0)
  | .cpCopy x k d a => some (encE 26 d a 0 0 (bitN x) k) | .cpGather x k d a => some (encE 26 d a 0 1 (bitN x) k)
  | .cpFill x k d a => some (encE 26 d a 0 2 (bitN x) k) | .cpRemote x k d a => some (encE 26 d a 0 3 (bitN x) k)
  | .cpMcast x k d a => some (encE 26 d a 0 4 (bitN x) k) | .cpRsend x k d a => some (encE 26 d a 0 5 (bitN x) k)
  | .cpReduce x k d a => some (encE 26 d a 0 6 (bitN x) k)
  | .view v => some (1 + 2 * 27 + 2 ^ 7 * encodeSrc v.av + 2 ^ 13 * encodeSrc v.bv +
      2 ^ 19 * (match v.dn with | none => 0 | some f => f.dstCode) + 2 ^ 23 * v.di.val + 2 ^ 26 * v.drm.code + 2 ^ 29 * bitN v.ds)
  | .vld t m d a => some (encV 28 t m d a 0 0) | .vst t m a b => some (encV 28 t m 0 a b 1)
  | .vlds t m d a b => some (encV 28 t m d a b 2) | .vsts t m d a b => some (encV 28 t m d a b 3)
  | .vgather t m d a b => some (encV 28 t m d a b 4) | .vscatter t m d a b => some (encV 28 t m d a b 5)
  | .vadd t m d a b => some (encV 29 t m d a b 0) | .vsub t m d a b => some (encV 29 t m d a b 1)
  | .vmul t m d a b => some (encV 29 t m d a b 2) | .vmulh t m d a b => some (encV 29 t m d a b 3)
  | .vma t m d a b => some (encV 29 t m d a b 4) | .vms t m d a b => some (encV 29 t m d a b 5)
  | .vmin t m d a b => some (encV 29 t m d a b 6) | .vmax t m d a b => some (encV 29 t m d a b 7)
  | .vabs t m d a => some (encV 29 t m d a 0 8) | .vneg t m d a => some (encV 29 t m d a 0 9)
  | .vand t m d a b => some (encV 29 t m d a b 10) | .vor t m d a b => some (encV 29 t m d a b 11)
  | .vxor t m d a b => some (encV 29 t m d a b 12) | .vsll t m d a b => some (encV 29 t m d a b 13)
  | .vsrl t m d a b => some (encV 29 t m d a b 14) | .vsra t m d a b => some (encV 29 t m d a b 15)
  | .vdiv t m d a b => some (encV 29 t m d a b 16) | .vsqrt t m d a => some (encV 29 t m d a 0 17)
  | .vrcp t m d a => some (encV 30 t m d a 0 0) | .vrsq t m d a => some (encV 30 t m d a 0 1)
  | .vexp2 t m d a => some (encV 30 t m d a 0 2) | .vlog2 t m d a => some (encV 30 t m d a 0 3)
  | .vsig t m d a => some (encV 30 t m d a 0 4) | .vtanh t m d a => some (encV 30 t m d a 0 5)
  | .vshuf t m d a b => some (encV 31 t m d a b 0) | .vbcast t m d a => some (encV 31 t m d a 0 1)
  | .vextr t d a b => some (encV 31 t 0 d a b 2) | .vins t d a b => some (encV 31 t 0 d a b 3)
  | .vslide t m d a b => some (encV 31 t m d a b 4) | .vredsum t m d a => some (encV 31 t m d a 0 5)
  | .vredmax t m d a => some (encV 31 t m d a 0 6) | .vredmin t m d a => some (encV 31 t m d a 0 7)
  | .vscan t m d a => some (encV 31 t m d a 0 8)
  | .vcmp c t m d a b => some (encV 32 t m (fld d) a b c.code) | .mand d a b => some (encV 32 .s8 0 (fld d) (fld a) (fld b) 8)
  | .mor d a b => some (encV 32 .s8 0 (fld d) (fld a) (fld b) 9) | .mxor d a b => some (encV 32 .s8 0 (fld d) (fld a) (fld b) 10)
  | .mnot d a => some (encV 32 .s8 0 (fld d) (fld a) 0 11) | .mpop m d a => some (encV 32 .s8 m d (fld a) 0 12)
  | .mfirst m d a => some (encV 32 .s8 m d (fld a) 0 13)
  | .vcvt t src m d a => some (encV 33 t m d a (Fin.ofNat 32 src.code) 0) | .vsel t m d a b => some (encV 33 t m d a b 1)
  | .vdot t m d a b => some (encV 33 t m d a b 2)
  | .vwadd t m d a b => some (encV 34 t m d a b 0) | .vwinbox t m d a b => some (encV 34 t m (fld d) a b 1)
  | .vwaddT t m d a b => some (encV 34 t m d a b 2)
  | .cLi d i => some (encC 0 d i.toNat) | .cAddi d i => some (encC 1 d i.toNat) | .cMv d r => some (encC 2 d r.val)
  | .cAdd d r => some (encC 3 d r.val) | .cSub d r => some (encC 4 d r.val)
  | .cLd d b o => some (encC3 5 d.val b.val o.toNat) | .cSt r b o => some (encC3 6 r.val b.val o.toNat)
  | .cBeqz r o => some (2 * 7 + 2 ^ 5 * r.val + 2 ^ 8 * o.toNat) | .cBnez r o => some (2 * 8 + 2 ^ 5 * r.val + 2 ^ 8 * o.toNat)
  | .cJ o => some (2 * 9 + 2 ^ 5 * o.toNat) | .cNop => some 0x14 | .cDone => some 0x34 | .cYield => some 0x54
  | .cBreak => some 0x74 | .cWaitk k n => some (2 * 11 + 2 ^ 5 * k.val + 2 ^ 9 * n.toNat)
  | .cSlli d h => some (encC 12 d h.toNat) | .cAndi d i => some (encC 13 d i.toNat)
  | _ => none

/-- An instruction with an encoding (rows 0 to 238 of the opcode table). -/
def Instr.encoded (i : Instr) : Bool := (encode i).isSome
/-- A compact form (R59). -/
def Instr.isCompact (i : Instr) : Bool :=
  match encode i with | some w => w % 2 == 0 | none => false
/-- Length in bytes (R42). -/
def Instr.size (i : Instr) : Nat := if i.isCompact then 2 else 4

end Sys2Proof
end

