-- ==== Sys2Proof/Config.lean ====
section
/-!
DEFINITION. What the spec leaves open as values: constants without a body, of which nothing can be proved but that
they exist. Each is named in the assumption log (entries 13, 14, 21 and 47).
-/
namespace Sys2Proof

/-- A free 64-bit value, applied to the counter `State.freeCtr` (log entry 13). -/
opaque Config.freeValue : Nat → BitVec 64
/-- The SLH-DSA signature of a message (R321; log entry 14). -/
opaque Config.sign : List Byte → List Byte
/-- The 32 bytes of a packet's header, whose fields R357 lists without their places; the payload is no part of it (R347;
log entry 47). -/
opaque Config.packetHeader : Packet → List Byte
/-- Flits a codeword of a port at full width, or narrowed, is made of (R345; log entry 47). -/
opaque Config.codewordFlits : Bool → Nat
/-- The least divider the voltage and temperature of a terrace support: its number, VID, temperature (R351; log entry 21). -/
opaque Config.minDiv : Nat → Nat → BitVec 16 → BitVec 4

end Sys2Proof
end

