-- ==== Sys2Proof/Machine/Num.lean ====
section
/-!
DEFINITION. Number formats and rounding (R65 to R87). A floating pattern stands for an exact value: NaN, an infinity,
or a signed dyadic `m × 2^e`; operations are exact on values and `roundTo` is the one rounding (R75, R77, R79).
-/
namespace Sys2Proof.Machine

/-- How a format spells NaN: not at all, as IEEE formats do, or as E4 does (R66). -/
inductive NanKind where | none | ieee | e4
  deriving DecidableEq, Repr
/-- A floating format (R66): exponent and mantissa widths, bias, infinities, NaN. -/
structure FFmt where
  ebits : Nat
  mbits : Nat
  bias  : Nat
  inf   : Bool
  nan   : NanKind
  deriving DecidableEq, Repr
def fmtE4 : FFmt := ⟨4, 3, 7, false, .e4⟩
def fmtE5 : FFmt := ⟨5, 2, 15, true, .ieee⟩
def fmtF6a : FFmt := ⟨3, 2, 3, false, .none⟩
def fmtF6b : FFmt := ⟨2, 3, 1, false, .none⟩
def fmtF4 : FFmt := ⟨2, 1, 1, false, .none⟩
def fmtBF16 : FFmt := ⟨8, 7, 127, true, .ieee⟩
def fmtH16 : FFmt := ⟨5, 10, 15, true, .ieee⟩
def fmtF32 : FFmt := ⟨8, 23, 127, true, .ieee⟩
def fmtF64 : FFmt := ⟨11, 52, 1023, true, .ieee⟩
/-- Width in bits. -/
def FFmt.width (f : FFmt) : Nat := 1 + f.ebits + f.mbits
/-- The sign bit's weight. -/
def FFmt.signBit (f : FFmt) : Nat := 2 ^ (f.ebits + f.mbits)
/-- The exponent of the smallest normal, 1 − bias. -/
def FFmt.emin (f : FFmt) : Int := 1 - (f.bias : Int)
/-- The positive largest finite pattern (R66). -/
def FFmt.maxPat (f : FFmt) : Nat :=
  match f.nan with
  | .ieee => (2 ^ f.ebits - 1) * 2 ^ f.mbits - 1
  | .e4 => f.signBit - 2
  | .none => f.signBit - 1
/-- The positive infinity's pattern. -/
def FFmt.infPat (f : FFmt) : Nat := (2 ^ f.ebits - 1) * 2 ^ f.mbits
/-- The canonical NaN (R66); +0 in a format without NaN (R79). -/
def FFmt.nanPat (f : FFmt) : Nat :=
  match f.nan with
  | .ieee => f.infPat + 2 ^ (f.mbits - 1)
  | .e4 => f.signBit - 1
  | .none => 0

/-- An exact value: NaN, a signed infinity, or `(-1)^neg × m × 2^e`. -/
inductive FV where | nan | inf (neg : Bool) | fin (neg : Bool) (m : Nat) (e : Int)
  deriving DecidableEq, Repr

/-- FFLAGS bits (R24, R82). -/
abbrev Flags := BitVec 5
def flagNV : Flags := 16
def flagDZ : Flags := 8
def flagOF : Flags := 4
def flagUF : Flags := 2
def flagNX : Flags := 1

/-- The value of a pattern (R67). -/
def FFmt.value (f : FFmt) (x : Nat) : FV :=
  let s := x / f.signBit % 2 == 1
  let e := x / 2 ^ f.mbits % 2 ^ f.ebits
  let m := x % 2 ^ f.mbits
  if f.nan = .ieee ∧ e = 2 ^ f.ebits - 1 then (if m = 0 then .inf s else .nan)
  else if f.nan = .e4 ∧ e = 2 ^ f.ebits - 1 ∧ m = 2 ^ f.mbits - 1 then .nan
  else if e = 0 then .fin s m (f.emin - f.mbits)
  else .fin s (2 ^ f.mbits + m) ((e : Int) - f.bias - f.mbits)

/-- A zero of either sign. -/
def FV.isZero : FV → Bool | .fin _ 0 _ => true | _ => false
def FV.isNan : FV → Bool | .nan => true | _ => false
/-- The exact value of an integer. -/
def FV.ofInt (i : Int) : FV := .fin (i < 0) i.natAbs 0
/-- The value with its sign reversed. -/
def FV.neg : FV → FV | .nan => .nan | .inf s => .inf (!s) | .fin s m e => .fin (!s) m e
/-- The magnitude. -/
def FV.abs : FV → FV | .nan => .nan | .inf _ => .inf false | .fin _ m e => .fin false m e

/-- Whether the rounding of R75 takes the larger magnitude: `n` units below, remainder `rem` of `2^sh`, sign, draw. -/
def roundUp (rm : RMode) (neg : Bool) (n rem sh : Nat) (r : BitVec 64) : Bool :=
  if rem = 0 then false else
  match rm with
  | .rne => decide (2 ^ sh < 2 * rem) || (decide (2 * rem = 2 ^ sh) && n % 2 == 1)
  | .rtz => false
  | .rdn => neg
  | .rup => !neg
  | .rna => decide (2 ^ sh ≤ 2 * rem)
  | .sto => decide (r.toNat / 2 ^ 40 < rem * 2 ^ 24 / 2 ^ sh)
  | .dyn => false

/-- A rounded pattern, its flags, and the generator after it. -/
structure Rounded where
  bits  : Nat
  flags : Flags
  gen   : BitVec 64
  deriving DecidableEq, Repr

/-- Draw of R76. -/
def draw (x : BitVec 64) : BitVec 64 :=
  let x := x ^^^ (x <<< 13)
  let x := x ^^^ (x >>> 7)
  x ^^^ (x <<< 17)

/-- R77: the result of an overflow. -/
def overflowPat (f : FFmt) (rm : RMode) (sat neg : Bool) : Nat :=
  let sg := if neg then f.signBit else 0
  let away := match rm with
    | .rne => true | .rna => true | .sto => true | .rup => !neg | .rdn => neg | .rtz => false | .dyn => false
  if sat || !away then sg + f.maxPat
  else if f.inf then sg + f.infPat
  else if f.nan = .e4 then f.nanPat
  else sg + f.maxPat

/-- Round of R75 for a nonzero finite value; `rm` is not dynamic. -/
def roundFin (f : FFmt) (rm : RMode) (sat neg : Bool) (m : Nat) (e : Int) (g : BitVec 64) : Rounded :=
  let g := if rm = .sto then draw g else g
  let top : Int := Nat.log2 m + e
  let ec : Int := if top < f.emin then f.emin else top
  let sh : Int := ec - f.mbits - e
  let n := if sh ≤ 0 then m * 2 ^ (-sh).toNat else m / 2 ^ sh.toNat
  let rem := if sh ≤ 0 then 0 else m % 2 ^ sh.toNat
  let n' := if roundUp rm neg n rem sh.toNat g then n + 1 else n
  let pat := n' + (ec - f.emin).toNat * 2 ^ f.mbits
  let nx := rem != 0
  let uf := nx && decide (top < f.emin)
  if f.maxPat < pat then ⟨overflowPat f rm sat neg, flagOF ||| flagNX ||| (if uf then flagUF else 0), g⟩
  else ⟨pat + (if neg then f.signBit else 0), (if nx then flagNX else 0) ||| (if uf then flagUF else 0), g⟩

/-- A value written to a floating format: R75 for finite nonzero values (a draw is taken for these alone: log entry
12), R79 for the rest. -/
def roundTo (f : FFmt) (rm : RMode) (sat : Bool) (g : BitVec 64) : FV → Rounded
  | .nan => ⟨f.nanPat, flagNV, g⟩
  | .inf s =>
    let sg := if s then f.signBit else 0
    if f.inf then ⟨sg + f.infPat, 0, g⟩
    else if f.nan = .e4 ∧ ¬ sat then ⟨f.nanPat, flagNV, g⟩
    else ⟨sg + f.maxPat, flagOF ||| flagNX, g⟩
  | .fin s m e => if m = 0 then ⟨if s then f.signBit else 0, 0, g⟩ else roundFin f rm sat s m e g

/-! ## Exact operations (R79) -/

/-- A signed integer at an exponent. -/
def signedAt (s : Bool) (m : Nat) (e lo : Int) : Int :=
  let v : Int := (m * 2 ^ (e - lo).toNat : Nat)
  if s then -v else v
/-- a + b, with the zero rule of R79 under `rm`. -/
def addFV (rm : RMode) (a b : FV) : FV × Flags :=
  match a, b with
  | .nan, _ => (.nan, flagNV)
  | _, .nan => (.nan, flagNV)
  | .inf s, .inf t => if s = t then (.inf s, 0) else (.nan, flagNV)
  | .inf s, .fin _ _ _ => (.inf s, 0)
  | .fin _ _ _, .inf t => (.inf t, 0)
  | .fin s m e, .fin t n h =>
    if m = 0 ∧ n = 0 ∧ s = t then (.fin s 0 0, 0) else
    let lo := min e h
    let v := signedAt s m e lo + signedAt t n h lo
    if v = 0 then (.fin (rm == .rdn) 0 0, 0) else (.fin (v < 0) v.natAbs lo, 0)
/-- a × b. -/
def mulFV (a b : FV) : FV × Flags :=
  match a, b with
  | .nan, _ => (.nan, flagNV)
  | _, .nan => (.nan, flagNV)
  | .inf s, .inf t => (.inf (s != t), 0)
  | .inf s, .fin t n _ => if n = 0 then (.nan, flagNV) else (.inf (s != t), 0)
  | .fin s m _, .inf t => if m = 0 then (.nan, flagNV) else (.inf (s != t), 0)
  | .fin s m e, .fin t n h => (.fin (s != t) (m * n) (e + h), 0)
/-- Guard bits of a truncated quotient or root: enough that the odd sticky bit lies below every rounding and every
24-bit fraction of R75. -/
def guardBits : Nat := 200
/-- a / b: exact specials; a finite quotient truncated, with an odd last bit when it is not exact. -/
def divFV (a b : FV) : FV × Flags :=
  match a, b with
  | .nan, _ => (.nan, flagNV)
  | _, .nan => (.nan, flagNV)
  | .inf _, .inf _ => (.nan, flagNV)
  | .inf s, .fin t _ _ => (.inf (s != t), 0)
  | .fin s _ _, .inf t => (.fin (s != t) 0 0, 0)
  | .fin s m e, .fin t n h =>
    if n = 0 then (if m = 0 then (.nan, flagNV) else (.inf (s != t), flagDZ))
    else if m = 0 then (.fin (s != t) 0 0, 0)
    else
      let k := guardBits + Nat.log2 n
      let q := m * 2 ^ k / n
      (.fin (s != t) (2 * q + (if m * 2 ^ k % n = 0 then 0 else 1)) (e - h - k - 1), 0)
/-- Bitwise square root: the root's bits from 2^b down, given the root so far. -/
def isqrtFrom (n : Nat) : Nat → Nat → Nat
  | 0, r => if (r + 1) * (r + 1) ≤ n then r + 1 else r
  | b + 1, r => isqrtFrom n b (if (r + 2 ^ (b + 1)) * (r + 2 ^ (b + 1)) ≤ n then r + 2 ^ (b + 1) else r)
/-- floor of the square root. -/
def isqrt (n : Nat) : Nat := isqrtFrom n (Nat.log2 n / 2) 0
/-- sqrt a, truncated with an odd last bit when it is not exact. -/
def sqrtFV : FV → FV × Flags
  | .nan => (.nan, flagNV)
  | .inf s => if s then (.nan, flagNV) else (.inf false, 0)
  | .fin s m e =>
    if m = 0 then (.fin s 0 0, 0) else if s then (.nan, flagNV) else
    let odd := e % 2 != 0
    let m' := (if odd then 2 * m else m) * 2 ^ (2 * guardBits)
    let e' := (if odd then e - 1 else e) - 2 * guardBits
    let r := isqrt m'
    (.fin false (2 * r + (if r * r = m' then 0 else 1)) (e' / 2 - 1), 0)
/-- d + a × b, exact (R87). -/
def fmaFV (rm : RMode) (d a b : FV) : FV × Flags :=
  let p := mulFV a b
  let r := addFV rm p.1 d
  (r.1, p.2 ||| r.2)

/-- Order of two values: −1, 0 or 1; none with a NaN. −0 equals +0. -/
def cmpFV (a b : FV) : Option Int :=
  match a, b with
  | .nan, _ => none
  | _, .nan => none
  | .inf s, .inf t => some (if s = t then 0 else if s then -1 else 1)
  | .inf s, .fin _ _ _ => some (if s then -1 else 1)
  | .fin _ _ _, .inf t => some (if t then 1 else -1)
  | .fin s m e, .fin t n h =>
    let lo := min e h
    some (Int.sign (signedAt s m e lo - signedAt t n h lo))
/-- The sign bit, set also on −0. -/
def FV.sgn : FV → Bool | .nan => false | .inf s => s | .fin s _ _ => s
/-- R106: the smaller (or larger) operand, −0 below +0; one NaN gives the other operand, two give NaN; NV on a NaN. -/
def minMaxFV (mx : Bool) (a b : FV) : FV × Flags :=
  match a, b with
  | .nan, .nan => (.nan, flagNV)
  | .nan, b => (b, flagNV)
  | a, .nan => (a, flagNV)
  | a, b =>
    let aFirst := match cmpFV a b with
      | some c => if c = 0 then (a.sgn || !b.sgn) else decide (c < 0)
      | none => true
    ((if mx == aFirst then b else a), 0)

/-! ## Integers -/

/-- Clamps to a signed or unsigned range of `w` bits. -/
def clampInt (w : Nat) (signed : Bool) (i : Int) : Int :=
  let lo : Int := if signed then -(2 ^ (w - 1)) else 0
  let hi : Int := if signed then 2 ^ (w - 1) - 1 else 2 ^ w - 1
  if i < lo then lo else if hi < i then hi else i
/-- The low `w` bits of an integer. -/
def wrapInt (w : Nat) (i : Int) : Nat := (i % 2 ^ w).toNat
/-- The value of a `w`-bit pattern. -/
def intVal (w : Nat) (signed : Bool) (x : Nat) : Int :=
  let v := x % 2 ^ w
  if signed ∧ 2 ^ (w - 1) ≤ v then (v : Int) - 2 ^ w else v
/-- R80: a floating value rounded to an integer and clamped to `w` bits. -/
def roundToInt (rm : RMode) (w : Nat) (signed : Bool) (g : BitVec 64) : FV → Rounded
  | .nan => ⟨0, flagNV, g⟩
  | .inf s => ⟨wrapInt w (clampInt w signed (if s then -(2 ^ 65) else 2 ^ 65)), flagNV, g⟩
  | .fin s m e =>
    if m = 0 then ⟨0, 0, g⟩ else
    let g := if rm = .sto then draw g else g
    let sh := (-e).toNat
    let n := if 0 ≤ e then m * 2 ^ e.toNat else m / 2 ^ sh
    let rem := if 0 ≤ e then 0 else m % 2 ^ sh
    let n' := if roundUp rm s n rem sh g then n + 1 else n
    let i : Int := if s then -(n' : Int) else n'
    let c := clampInt w signed i
    ⟨wrapInt w c, if c ≠ i then flagNV else if rem ≠ 0 then flagNX else 0, g⟩

/-! ## Element types and view formats (R115, R116) -/

/-- The floating format of a TY, or of a view format. -/
def tyFmt : Ty → FFmt | .bf16 => fmtBF16 | .h16 => fmtH16 | _ => fmtF32
def vFmt : VFmt → FFmt | .e4 => fmtE4 | .e5 => fmtE5 | .f6a => fmtF6a | .f6b => fmtF6b | _ => fmtF4
/-- Whether an integer TY is signed. -/
def tySigned : Ty → Bool | .n8 => false | _ => true
def vSigned : VFmt → Bool | .s4 => true | _ => false
/-- The scalar format of a precision (R104). -/
def precFmt : Prec → FFmt | .f32 => fmtF32 | .f64 => fmtF64
def precBytes : Prec → Nat | .f32 => 4 | .f64 => 8

end Sys2Proof.Machine
end

