-- ==== Sys2Proof/Machine/State.lean ====
section
/-!
DEFINITION. The state of one Shuntazor (SZ-1) as plain data: thread slots, cores, crofts, terraces, the Square, the
Well, the host's command machinery and the fleet registers, with the state after device reset. One State is one
whole device; the rest of the pod, the host and the physics reach it through the agenda (log entry 1).
-/
namespace Sys2Proof.Machine

/-- Why a step faults. The spec lets no step of an SZ-1 stop the part: every fault an instruction can raise is a trap
(R112), an error status or an error record. The type is therefore empty; nothing raises it. -/
inductive Fault where
  deriving DecidableEq, Repr

/-- Why a step is refused. -/
inductive Refusal where
  /-- Raised by an arm of `exec` whose instruction has no meaning yet. Safe: the model stops where the part goes on. -/
  | notModelled (mnemonic : String)
  deriving DecidableEq, Repr

/-- A finite map held as a list sorted by key; a key that is not listed holds the default its reader names. -/
structure SMap (α : Type) where
  cells : List (Nat × α) := []
  deriving DecidableEq, Repr

/-- Register classes that can be pending (R184, R134, R154). -/
inductive RegCls where | s | v | m | fflags
  deriving DecidableEq, Repr
/-- A register that a retired instruction will still write, and the operation it waits for. -/
structure Pend where
  cls : RegCls
  num : Nat
  op  : Nat
  deriving DecidableEq, Repr

/-- The conditions a task can be Stalled on (R15): a pop or push of the port at a key; a completion counter above a
bound; a value, an answer or a release on its way; a register still pending; scratchpad accesses behind `ksend`; a
launch's predecessors; events of a mask; a full queue; remote operations; an old number of a destination without a reply
(R289); a token slot and generation; the token reserve; control registers in use; a tile; an earlier task's mill jobs; a
write stream's elements; a bounced message's pair; rations; a directory event at a switched-off home; for the system slot,
an event or a notice after `idle`; for a slot restored Stalled, the issue of its instruction anew (R338). -/
inductive Wait where
  | pop (key : Nat) | push (key : Nat) | counter (k n : Nat) | value | pending (c : RegCls) (n : Nat) | filing
  | kbar | kcount | waitdep | waitev (mask : Nat) | millQueue | cartQueue | sfuQueue | remoteLimit | remoteFloor (dev : Nat) | fenceAck
  | token (slot gen : Nat) | reserve | well | millCreg | binCreg | tile (a : Nat) | oldJobs | sdrain (key : Nat)
  | backPressure (dest chan : Nat) | ration | dirWake (loc : Nat) | idle | resumed
  deriving DecidableEq, Repr
/-- The states of a thread slot (R15). -/
inductive Status where | free | ready | running | stalled (w : Wait)
  deriving DecidableEq, Repr
/-- An instruction that sends something and waits for its answer: not sent, sent, answered (with up to two values); or a
vector load some of whose lanes have been read, with their values, and whether the others have come back (R129). -/
inductive Phase where | idle | sent | answered (v v2 : B64) | lanes (got : List (Nat × Nat)) (back : Bool)
  deriving DecidableEq, Repr

/-- A weave register (R199): code, shape (D, B), flags. -/
structure WVal where
  code  : B64 := 0
  dims  : Nat := 0
  bits  : Nat := 0
  flags : BitVec 8 := 0
  deriving DecidableEq, Repr

/-- What a port is bound to (R155). -/
inductive PortKind where | readStream | writeStream | link (d : Dir) (fwd : Bool) | chan (c : Nat)
  deriving DecidableEq, Repr
/-- An entry of a stream port: element number, value, and the address of its fault if it faulted (R157). -/
structure PEntry where
  n     : Nat
  val   : B512
  fault : Option B64 := none
  past  : Bool := false
  deriving DecidableEq, Repr
/-- A bound port (R20, R155 to R162). -/
structure Port where
  kind    : PortKind
  recd    : List Byte := []      -- the 64-byte stream record as bound
  idx     : List Byte := []      -- its index record
  sys     : Bool := false        -- mode of the binding task
  next    : Nat := 0             -- element the next pop takes, or the next push makes
  fetched : Nat := 0             -- element the cart reads next
  entries : List PEntry := []    -- read ahead, or pushed and not yet written
  fault   : Option B64 := none   -- a write element's fault not yet reported
  later   : List B64 := []       -- faults to be reported after it
  part    : Option (Nat × List Byte) := none   -- the rest of the oldest pushed element, once begun, and where (R208)
  after   : Nat := 0             -- stores of the thread older than this precede the stream's reads (R214)
  ahead   : List (Nat × Nat × Byte) := []   -- bytes the cart has read early (R208): before which element, where, the byte
  deriving DecidableEq, Repr

/-- What the mill remembers of a job (R171). -/
structure JobMem where
  id      : Nat
  status  : Nat := 0
  done    : Bool := false
  started : Bool := false
  deriving DecidableEq, Repr

/-- A thread slot (R15 to R27); slot 4 of a core is its system slot, Free while the reeve is idle. The defaults are
the values at task start. -/
structure Thread where
  st       : Status := .free
  act      : Nat := 0            -- activation number: tells a task from its predecessor in the slot
  ctx      : Nat := 0
  sysMode  : Bool := false
  pc       : B64 := 0
  s        : SMap B64 := {}
  v        : SMap B512 := {}
  m        : SMap B64 := {}
  kc       : SMap Nat := {}      -- completion counts
  ke       : SMap Bool := {}     -- completion error flags
  w        : SMap WVal := {}
  d        : SMap (BitVec 32) := {}
  tiles    : SMap (BitVec 32) := {}   -- element (tile, row, column) at tile * 1024 + row * 32 + column
  ports    : SMap Port := {}     -- v24–v31 at 24–31, s28–s31 at 60–63
  fflags   : BitVec 5 := 0
  vrnd     : BitVec 3 := 0
  srseed   : B64 := 0
  gen      : B64 := 0x9E3779B97F4A7C15#64
  wshape   : BitVec 16 := 0x2002#16
  mfmt     : BitVec 10 := 0x66#10
  mkReg    : B64 := 32
  mpitcha  : B64 := 128
  mpitchb  : B64 := 128
  msca     : B64 := 0
  mscb     : B64 := 0
  mscn     : B64 := 0
  hashk    : B64 := 0
  ackcnt   : Nat := 0
  tcause   : B64 := 0
  tval     : B64 := 0
  tpc      : B64 := 0
  prio     : Nat := 0
  launch   : Option Nat := none
  trig     : Bool := false
  nextMill : Nat := 1
  nextCart : Nat := 1
  jobs     : List JobMem := []
  seqs     : SMap Nat := {}      -- remote sequence numbers by destination device (R186)
  msgNo    : Nat := 0            -- message number, kept across tasks (R248)
  pend     : List Pend := []
  kin      : Option Nat := none  -- the set this thread has joined, as issued
  kinArr   : Bool := false       -- arrived in `kbar`
  phase    : Phase := .idle
  split    : B64 := 0            -- parts of the next vector load that are read before the others (R129)
  skipped  : Nat := 0            -- entries the `skip` at pc has discarded
  skipArg  : Option B64 := none  -- its operand, once read
  holds    : List Nat := []      -- channels whose oldest words the request in flight has read and takes as it retires
  charged  : Bool := false       -- the instruction at pc has been charged (R254)
  tilesOld : Bool := false       -- an earlier task's mill jobs have not retired (R19)
  lastIss  : Nat := 0            -- when the slot last issued
  readyAt  : Nat := 0            -- first delivered cycle of its core in which it is Ready without issuing (R249)
  behind   : List Nat := []      -- slots it ranks below after `yield` (R249)
  deriving DecidableEq, Repr

/-- A write stream of an ended task whose pushed elements the cart still writes (R148). -/
structure Orphan where
  tid  : Nat
  num  : Nat
  ctx  : Nat
  port : Port
  deriving DecidableEq, Repr

/-- What a launch message carries beside its payload (R243). -/
structure LaunchMsg where
  lid : Nat
  mw  : Nat
  cw  : Nat
  deriving DecidableEq, Repr
/-- A message on Drift (R147, R248). `src` is the sending core; `pair` numbers the source: a thread slot, the Square,
or a core's cart. -/
structure Msg where
  src    : Nat
  pair   : Nat
  ctx    : Nat
  dest   : Nat
  chan   : Nat
  cls    : Nat
  pay    : List B64
  no     : Nat
  after  : Nat := 0              -- stores of the sender older than this must be visible first (R214)
  launch : Option LaunchMsg := none
  deriving DecidableEq, Repr
/-- A bounce record: the pair and the number of the bounced message (R248). -/
structure Bounce where
  pair : Nat
  chan : Nat
  no   : Nat
  deriving DecidableEq, Repr

/-- A store, or an `upd` combine, not yet visible to other agents (R39, R40, R102, R209): its bytes or its operand, the scope a fence has made
it visible at, when it did so (as a serial number), the `fence.eng`s that have ordered it before jobs (their slots, scopes and serial
numbers), and whether it waits for everything earlier of its thread (`upd` of order .rel). Stores of one nonzero group are the bytes of one
access and take effect together (R129). -/
structure PStore where
  ser  : Nat
  tid  : Nat
  loc  : Nat
  data : List Byte
  comb : Option (UpdOp × Bool) := none
  rel  : Bool := false
  dead : Bool := false           -- its task has ended
  vis  : Scope := .t
  visAt : Nat := 0
  engs : List (Nat × Scope × Nat) := []
  grp  : Nat := 0
  tag  : BitVec 16 := 0
  deriving DecidableEq, Repr
/-- An Update-only copy in one core's L1 (R39): marked elements with their combined operands. -/
structure UpdLine where
  core  : Nat
  line  : Nat
  op    : UpdOp
  w64   : Bool
  elems : SMap B64
  tags  : SMap (BitVec 16) := {}  -- of the last instruction that contributed to an element (R354)
  who   : List (Nat × Nat)       -- contributing slots, each with the serial number of its first contribution
  deriving DecidableEq, Repr

/-- The mill's jobs (R163). -/
inductive MillOp where | mma | mmag | zero | ldacc | stacc
  deriving DecidableEq, Repr
/-- A mill job, with the control values of its issue (R164) and its progress. -/
structure MillJob where
  id      : Nat
  tid     : Nat
  act     : Nat
  ctx     : Nat
  op      : MillOp
  tile    : Nat
  k       : Nat
  a       : B64
  b       : B64
  mfmt    : BitVec 10
  mkReg   : B64
  pitchA  : B64
  pitchB  : B64
  sca     : B64
  scb     : B64
  scn     : B64
  after   : Nat
  status  : Nat := 0
  tag     : BitVec 16 := 0
  abase   : B64 := 0             -- base of the A rows: the operand, or ABASE of the gather block (R265)
  idx     : List Nat := []       -- the row of A in each row of the tile
  offsA   : List Nat := []       -- a Thatch operand's row offsets and data length (R73), as its header held them
  offsB   : List Nat := []
  posA    : List Nat := []       -- where each row's next Thatch block begins
  posB    : List Nat := []
  blocks  : Nat := 0
  dead    : Bool := false        -- its context ended while it ran (R328)
  work    : List (BitVec 32) := []   -- the tile it forms, row after row
  start   : Nat := 0             -- the serial number at its start (R215)
  ahead   : List (Nat × Byte) := []  -- bytes it has read before the rest of a block, the newest first (R208)
  deriving DecidableEq, Repr
/-- The cart's jobs (R172). -/
inductive CartOp where | copy | gather | fill | remote | mcast | rsend | reduce
  deriving DecidableEq, Repr
/-- A read packet of a cart job (R175): its id, where its elements go (position and count), and the bytes that came, or
none for a refusal. -/
structure CartReq where
  pkt  : Nat
  pos  : Nat
  n    : Nat
  back : Option (Option (List Byte)) := none
  deriving DecidableEq, Repr
/-- A packet a cart job is filling: where its first byte goes, the virtual address after its last, and its bytes. -/
structure CartBuf where
  dev  : Nat
  wid  : Nat
  off  : Nat
  next : B64
  data : List Byte
  deriving DecidableEq, Repr
/-- A cart job: bytes 0x00 to 0x37 of its block as read at issue, and its progress (R172 to R179). -/
structure CartJob where
  uid    : Nat
  id     : Nat
  tid    : Nat
  act    : Nat
  ctx    : Nat
  sys    : Bool
  op     : CartOp
  k      : Nat
  xafter : Bool
  blk    : List Byte
  loc    : Nat
  vrnd   : BitVec 3
  after  : Nat
  pos    : Nat := 0              -- elements done
  gen    : B64 := 0
  side   : Nat := 0              -- 1: source remote, 2: destination remote
  acc    : SMap (BitVec 32) := {}    -- running values of a scan, by column
  segs   : List (Nat × Nat) := []    -- where its source bytes lie, when a destination byte may be one of them
  buf    : Option CartBuf := none
  reqs   : List CartReq := []
  code   : Nat := 0
  detail : Nat := 0
  negmap : Nat := 0
  owed   : Nat := 0              -- answers to its packets outstanding
  fin    : Bool := false         -- all its elements have been moved, or it has stopped
  stopped : Bool := false        -- a fault stopped it: nothing more is written
  part   : Option (Nat × List Byte) := none   -- bytes of an element still to be written, and where (R179)
  wrote  : List (Nat × Nat) := []    -- ranges it wrote in this step
  ranges : List (Nat × Nat) := []    -- all it has written
  rivals : List (Nat × Nat) := []    -- ranges that other jobs in flight with it have written (R176, R179)
  start  : Nat := 0              -- the serial number at its start (R215)
  ahead  : List (Nat × Byte) := []   -- bytes it has read before others, the newest first (R208)
  resid  : Option (Nat × List Byte) := none  -- bytes of a residual still to be written, and where (R176, R208)
  told   : Nat := 0              -- bytes of its status word already written (R208)
  deriving DecidableEq, Repr
/-- A request of the special-function unit, with the result it will write (R134). -/
structure SfuReq where
  op     : Nat
  tid    : Nat
  act    : Nat
  d      : Nat
  val    : B512
  wmask  : B512
  flags  : BitVec 5
  served : Bool := false
  deriving DecidableEq, Repr
/-- A `ksend` waiting to be filed (R154), with the bin unit's configuration at its issue and its place among the
thread's accesses. -/
structure KsReq where
  op     : Nat
  tid    : Nat
  act    : Nat
  d      : Nat
  lanes  : List (Nat × B64 × B64)
  hashk  : B64
  base   : Nat
  cnt    : Nat
  tag    : BitVec 16
  ser    : Nat := 0
  mask   : B64 := 0              -- lanes refused so far
  rest   : List (Nat × List Byte) := []    -- what is still to be written for the lane it files, by place (R208)
  ahead  : List (Nat × Byte) := []   -- bytes of the next header already read, the newest first (R208)
  deriving DecidableEq, Repr

/-- A translation held by a TLB (R324): context, first address, log2 of the size, the leaf. -/
structure TlbEntry where
  ctx  : Nat
  va   : Nat
  log2 : Nat
  leaf : Nat
  deriving DecidableEq, Repr
/-- L1 line states (R35). -/
inductive L1St where | shared | exclusive | modified
  deriving DecidableEq, Repr
/-- A line of an L1: its state, and which of its sectors of 128 bytes are filled (R3, R35). -/
structure L1Line where
  st : L1St
  lo : Bool
  hi : Bool
  deriving DecidableEq, Repr
/-- How a directory entry names its sharers (R38). -/
inductive DirMode where | cores | crofts | broadcast
  deriving DecidableEq, Repr
/-- A directory entry, with the number of its overflow record in the reeve reserve (R37, R38). -/
structure DirEntry where
  line : Nat
  mode : DirMode
  who  : List Nat
  ovf  : Option Nat := none
  deriving DecidableEq, Repr

/-- A core (R24, R33, R37, R145, R150, R159, R254, R299, R351). -/
structure Core where
  ctx      : Option Nat := none
  tvec     : B64 := 0
  cyc      : Nat := 0            -- delivered cycles up to `cycAt`
  cycAt    : Nat := 0
  cycBase  : Int := 0            -- cycles delivered beyond what CYCLE shows, since it was written
  slept    : Nat := 0            -- cycles asleep on rations up to `cycAt`
  cap      : BitVec 16 := 4096
  capNow   : BitVec 16 := 4096   -- CAP in force since the last refill step (R255)
  fill     : BitVec 16 := 2048
  bal      : BitVec 16 := 4096
  asleep   : Bool := false
  nextIss  : Nat := 0
  halfTill : Nat := 0            -- delivered cycles until which it issues in alternate cycles (R257)
  binbase  : B64 := 0
  bincnt   : B64 := 0
  ackOwed  : SMap Nat := {}
  ackRecv  : SMap Nat := {}
  chSet    : SMap Nat := {}      -- channel settings: priority in [2:0], HOLD in [8]
  entries  : SMap (List Msg) := {}
  spill    : SMap (List Msg) := {}
  links    : SMap (List B512) := {}   -- entries arriving from direction 0 n, 1 e, 2 s, 3 w
  linkOwn  : SMap Nat := {}      -- the slot that binds a direction
  mw       : Nat := 1
  cw       : Nat := 1
  millQ    : List MillJob := []
  millCur  : Option MillJob := none
  cartQ    : List CartJob := []
  cartCur  : Option CartJob := none
  cartWait : List CartJob := []
  ksq      : List KsReq := []
  orphans  : List Orphan := []
  resend   : List Msg := []
  bounces  : List Bounce := []
  cartNo   : Nat := 0
  cartFrac : Nat := 0            -- bytes its cart work has written beyond the last unit of 64 (R353)
  reserve  : List Nat := []
  asked    : Bool := false
  rel      : List (Nat × Nat) := []   -- (launch, predecessor) releases received
  dir      : List DirEntry := []
  dirQ     : List (Nat × Nat) := []   -- directory events, location and core, at a switched-off core
  dirWait  : List (Nat × Nat × Bool) := []   -- requests, location, core, write, behind a full event queue
  wakeBy   : Option Nat := none  -- when its pipeline, being woken, is on at the latest (R351)
  l1       : SMap L1Line := {}
  tlb      : List TlbEntry := []
  icache   : SMap (List Byte) := {}
  off      : Bool := false
  isoff    : Bool := false
  div      : Nat := 0
  divNext  : Option (Nat × Nat) := none   -- the end of the cycle under way and the divisor from then on (R351)
  sysTraps : List Nat := []
  deriving DecidableEq, Repr

/-- A croft: engine arbiters, special-function unit, event counters, second-level TLB. -/
structure Croft where
  millAt   : Nat := 7            -- croft-relative core the mill arbiter serves, or served last
  millLeft : Nat := 0            -- blocks left of its visit
  cartAt   : Nat := 7            -- the same of the cart arbiter
  cartLeft : Nat := 0            -- bytes left of its visit (R252)
  sfu      : List SfuReq := []
  evsel    : SMap (BitVec 14) := {}
  evcnt    : SMap B64 := {}
  evAt     : SMap Nat := {}      -- when a counter was last written: it counts from the next cycle on (R353)
  tlb2     : List TlbEntry := []
  deriving DecidableEq, Repr
/-- Squall states of a terrace (R257). -/
inductive Squall where | normal | stretch (till : Nat) | halving (till : Nat)
  deriving DecidableEq, Repr
/-- A terrace. -/
structure Terrace where
  squall  : Squall := .normal
  droop   : Nat := 12
  vid     : Nat := 0
  fallen  : Bool := false        -- its readiness bit has fallen and stays 0 (R316, R330)
  deriving DecidableEq, Repr

/-- A kin set (R152): members, pending members, arrivals in order, arrivals of pending members, phase number. -/
structure KinSet where
  mem     : List Nat := []
  pend    : List Nat := []
  arr     : List (Nat × Nat) := []    -- arrived threads with their activations
  pendArr : List (Nat × Nat) := []
  phase   : Nat := 0
  deriving DecidableEq, Repr
/-- Operations that travel to a keeper (R253). -/
inductive KinOpK where | join | leave | bar | ended | count
  deriving DecidableEq, Repr
structure KinOp where
  tid  : Nat
  act  : Nat
  set  : Nat
  kind : KinOpK
  deriving DecidableEq, Repr
/-- A `kcount` answer on its way back. -/
structure KinAns where
  tid : Nat
  act : Nat
  val : B64
  deriving DecidableEq, Repr

/-- A launch the Square tracks (R244, R245). -/
structure Launch where
  lid     : Nat
  ctx     : Nat
  q       : Nat
  cores   : List Nat
  preds   : List Nat
  waits   : List Nat
  ended   : List Nat := []
  trigd   : List Nat := []
  isTrig  : Bool := false
  sers    : List (Nat × Nat) := []   -- slots that triggered or ended, with the stores that must be visible first
  done    : Bool := false
  deriving DecidableEq, Repr

/-- A class table entry (R238): entry address and data pointer. -/
structure ClassEntry where
  entry : B64
  data  : B64
  deriving DecidableEq, Repr
/-- A context (R319, R328, R331). -/
structure Ctx where
  prio    : Nat
  sys     : Bool
  root    : Nat
  tvec    : B64
  quota   : Nat
  classes : SMap ClassEntry := {}
  images  : List (Nat × Option Nat) := []
  attRec  : List Byte := []
  ended   : Bool := false
  saved   : Bool := false
  stop    : Bool := false        -- CTX_SAVE has stopped its issue
  noStart : Bool := false        -- CTX_SAVE with DRAIN: no new tasks
  toks    : List (BitVec 32) := []   -- tokens the saved d registers hold (R334)
  tasks   : List (Nat × Nat) := []   -- saved launch tasks: slot and launch
  kept    : List (Nat × Nat × List Msg) := []   -- messages in the port entries of saved channels: core, channel
  skips   : List (Nat × Nat × Option B64) := []   -- saved slots inside a `skip`: entries discarded, operand
  faults  : List (Nat × Nat × List B64) := []   -- faults of saved write streams not yet reported: slot, port
  digest  : List Byte := []      -- of the area the context is saved in, which may be restored once (R338)
  cause   : Nat := 0             -- cause it ended with (R112, R185)
  deriving DecidableEq, Repr
/-- A save in progress (R332). -/
structure Save where
  ctx   : Nat
  q     : Nat
  addr  : Nat
  drain : Bool
  till  : Nat
  deriving DecidableEq, Repr

/-- Kinds of remote operation (R180, R187, R175). -/
inductive RKind where | rld | rst | rstc | ramo (op : AmoOp) (w64 : Bool) | mcast | cart
  deriving DecidableEq, Repr
/-- A remote operation outstanding at its issuing core (R181). -/
structure ROp where
  id      : Nat
  tid     : Nat
  act     : Nat
  ctx     : Nat
  kind    : RKind
  q       : Bool
  d       : Nat
  addr    : B64
  pc      : B64
  dev     : Nat
  counted : Bool
  tok     : BitVec 32 := 0
  uid     : Nat := 0             -- the cart job
  seq     : Option Nat := none
  left    : Nat := 1             -- replies still owed
  nacks   : Nat := 0             -- members that refused, one bit each
  low     : Option (Nat × Nat) := none   -- lowest refusing member and its code
  first   : Nat := 0             -- first refusal code
  dead    : Bool := false        -- its context has ended: replies are discarded (R328)
  deriving DecidableEq, Repr
/-- Where an outgoing packet is (R285 to R287, R191): on its way to the Square, held for a token, waiting for light, in
a port's queue, sent, at this device's own Square, or done with but for its reply. -/
inductive OutAt where
  | drift | held | waiting | queued (port path : Nat) | sent (port path : Nat) | own | answered
  deriving DecidableEq, Repr
/-- An outgoing packet: the packet, its operation, the members a multicast copy reaches, its place and resends. -/
structure OutPkt where
  pkt   : Packet
  op    : Nat
  at_   : OutAt
  mems  : List Nat := []
  path  : Option Nat := none     -- the path of an `rmcast` or `cp.mcast`
  sends : Nat := 0
  waits : List (BitVec 32) := [] -- tokens a held store waits for (R191)
  gen   : Nat := 0               -- key generation it was sent in
  nonce : Option (BitVec 96) := none   -- the nonce it was sealed with on a ciphered port (R347)
  cws   : Nat := 0               -- codewords it occupies
  owed  : List Nat := [0]        -- members (0 for a unicast packet) whose reply is outstanding
  fan   : Nat := 0               -- fan-out its copies were grouped by
  begun : Bool := false          -- a copy of its packet has been sent (R279)
  deriving DecidableEq, Repr
/-- A packet received and not yet applied: its holds (R290, R193), or none when it is released. -/
structure InPkt where
  pkt     : Packet
  port    : Option Nat
  at_     : Nat
  due     : Nat
  toks    : List (BitVec 32)
  order   : Bool
  table   : Bool
  pounded : Bool                 -- has held a pound entry
  relAt   : Nat := 0             -- when its last hold cleared
  rest    : Option (List (Nat × List Byte)) := none   -- of a cart packet being written: bytes left, by place (R208)
  ahead   : List (Nat × Byte) := []   -- bytes of a read already made, the newest first (R208)
  deriving DecidableEq, Repr
/-- A reply on its way to this device's issuing core. -/
structure Reply where
  pkt    : Nat
  status : BitVec 8
  data   : List Byte
  member : Nat := 0
  deriving DecidableEq, Repr
/-- What leaves this device for others: packets, replayed codewords, replies, notices, and reports of an undecodable
codeword or, without one, of a packet in an unheld generation. -/
inductive Outgoing where
  | packet (port : Nat) (gen : Nat) (mark : Option Seal) (p : Packet)
  | replay (port : Nat) (gen : Nat) (nonce : Option (BitVec 96)) (pkt cw : Nat)
  | reply (dev pkt : Nat) (status : BitVec 8) (data : List Byte)
  | notice (dev : Nat) (tok : BitVec 32) (landed : Bool)
  | noticeAck (dev : Nat) (tok : BitVec 32) (accepted : Bool)
  | skip (dev core slot seq floor : Nat)
  | stray (dev pkt : Nat)
  | uncorrectable (dev pkt : Nat) (cw : Option Nat)
  deriving DecidableEq, Repr
/-- Settling states of a token slot (R190). -/
inductive TokSt where | free | pending | landed | void
  deriving DecidableEq, Repr
/-- A dependent device of a token (R191, R298, R300). -/
structure TokDep where
  dev      : Nat
  pkts     : Nat := 0
  sent     : Bool := false
  accepted : Bool := false
  refused  : Bool := false       -- a full cache has refused its notice
  retryAt  : Nat := 0
  deriving DecidableEq, Repr
/-- A token slot (R298). -/
structure TokSlot where
  st     : TokSt := .free
  gen    : Nat := 0
  ctx    : Nat := 0
  inA    : BitVec 32 := 0        -- inputs of a merge; 0 for `rstc`
  inB    : BitVec 32 := 0
  status : BitVec 8 := 0
  deps   : List TokDep := []
  inRes  : Bool := false         -- in a core's reserve
  deriving DecidableEq, Repr
/-- An order table entry (R290). -/
structure OrdEntry where
  done    : Nat
  map     : Nat
  touched : Nat
  deriving DecidableEq, Repr
/-- A notice in the cache (R301). -/
structure Notice where
  tok    : BitVec 32
  landed : Bool
  till   : Nat
  deriving DecidableEq, Repr
/-- A skip notice waiting for an order table entry (R290). -/
structure SkipIn where
  dev   : Nat
  core  : Nat
  slot  : Nat
  seq   : Nat
  floor : Nat
  deriving DecidableEq, Repr
/-- Spray state of a (context, device) pair: eligible ports with their values (R286). -/
structure Spray where
  ctx  : Nat
  dev  : Nat
  vals : SMap Int
  deriving DecidableEq, Repr
/-- A window table entry (R326). -/
structure Window where
  revoked : Bool
  rights  : Nat
  ctx     : Nat
  base    : Nat
  len     : Nat
  deriving DecidableEq, Repr

/-- A path (R196) and its grant state machine (R276). -/
structure Path where
  mcast  : Bool := false
  ports  : Nat := 0
  dev    : Nat := 0
  ctx    : Nat := 0
  mem    : List Nat := []
  grant  : Nat := 0
  st     : Nat := 0
  till   : Nat := 0              -- end of the haze
  step   : Option Nat := none    -- when the Well decided on a step not yet at its step point
  toStep : List Nat := []        -- ports whose own step point is still to come (R275)
  ords   : SMap Nat := {}        -- the order each of its ports steps to, by port
  fanTo  : Nat := 1              -- the fan-out it steps to
  fan    : Nat := 1
  lit    : Bool := false
  dark   : Bool := false         -- grant 0 accepted or entry rewritten, lanes not dark yet
  darkGu : Nat := 0              -- GU that return when the last lane goes dark
  oldPorts : Nat := 0            -- ports whose lanes go dark
  drains : List (Nat × Nat) := []    -- draining GU and when they return
  deriving DecidableEq, Repr
/-- A lane (R271, R281 to R283, R342). -/
structure Lane where
  loss    : Nat := 0
  trim    : Nat := 0
  set     : Nat := 0             -- present setpoint
  target  : Nat := 0             -- setpoint the last change gave it
  hist    : List (Nat × Nat) := []   -- earlier setpoints and when they were left
  erased  : Bool := false
  failed  : Bool := false
  low     : Nat := 0             -- consecutive windows below the removal target
  good    : Bool := false        -- a retraining lane has shown 1 ms of good windows
  st      : Nat := 3             -- LANETEL STATE
  stripe  : Nat := 0xFF
  gen     : Nat := 0
  temp    : BitVec 16 := 0
  bias0   : Nat := 0
  biasRef : Nat := 0
  biasMax : Nat := 0
  hours   : Nat := 0
  samples : List Nat := []
  eol     : Nat := 0xFFFFFFFF
  deriving DecidableEq, Repr
/-- A flit in a port's replay buffer: its packet, the codeword it is of and whether it is the first of it, the key
generation of a ciphered port (R345). -/
structure Flit where
  pkt   : Nat
  cw    : Nat
  gen   : Option Nat
  first : Bool
  deriving DecidableEq, Repr
/-- An optical port (R272, R344 to R347). -/
structure OPort where
  order   : Nat := 0             -- 0 none, 1 PAM2, 2 PAM4, 3 PAM6, 4 PAM8 (R272)
  narrow  : Bool := false
  cipher  : Bool := false
  suspect : Bool := false
  strays  : Nat := 0
  last    : Nat := 0
  pairs   : SMap Nat := {}       -- strays by wavelength set: the key of the spray state (R346)
  retrain : Bool := false
  stats   : SMap B64 := {}       -- PORTSTAT counters 0–7
  packets : BitVec 64 := 0       -- packets sealed, the counter of the nonce (R347)
  flits   : List Flit := []      -- the last 64 flits sent, oldest first (R345)
  deriving DecidableEq, Repr
/-- A request waiting at the Well (R196 to R198). -/
structure WellReq where
  tid  : Nat
  act  : Nat
  ctx  : Nat
  kind : Nat                     -- 0 grant, 1 grq, 2 pathset entry, 3 pathset quota
  p    : Nat                     -- the path, or the context of a quota
  arg  : B64
  recd : List Byte := []
  deriving DecidableEq, Repr
/-- The Well. -/
structure Well where
  margin  : Nat := 4
  reserve : Nat := 8
  free    : Nat := 9600
  paths   : SMap Path := {}
  lanes   : SMap Lane := {}
  ports   : SMap OPort := {}
  reqs    : List WellReq := []
  deriving DecidableEq, Repr

/-- A command in the Almanac (R313): its number, block and state; for LAUNCH the cores, arguments and class that its
acceptance found (R242). -/
structure Cmd where
  q     : Nat
  block : List B64
  st    : Nat                    -- 1 accepted, 2 started
  cores : List Nat := []
  args  : List B64 := []
  cls   : Nat := 0
  waits : List Nat := []         -- predecessors accepted before it and not yet triggered (R245)
  deriving DecidableEq, Repr
/-- A command that completes once the listed operations have been answered (R325): its number and RESULT. -/
structure Shoot where
  q      : Nat
  result : Nat
  ops    : List Nat
  deriving DecidableEq, Repr
/-- The host link and the command machinery (R308 to R316). -/
structure HostIf where
  almbase : B64 := 0
  head    : Nat := 0             -- ALMHEAD, modulo 2^32
  tail    : Nat := 0
  almirq  : B64 := 0
  drop    : B64 := 0             -- CMDDROP
  cmds    : List Cmd := []
  ends    : List (Nat × Nat) := []   -- CTX_END commands waiting for jobs to retire: number, context
  shoots  : List Shoot := []     -- invalidations whose removed translations are still in use (R325)
  irqs    : List Nat := []       -- MSI-X vectors raised
  irqAt   : Nat := 0             -- earliest time of the next Almanac interrupt
  irqPend : Bool := false        -- a state change is still to be reported (R313)
  fleetAt : Nat := 0
  fleetPend : Bool := false      -- a FLEETEV bit set and not yet reported (R352)
  lastRd  : B64 := 0             -- the value the last host read returned
  rdData  : List Byte := []      -- the bytes the last CXL.mem read returned
  poison  : Bool := false
  ready   : SMap Nat := {}       -- readiness map bytes (R316)
  mapGen  : Nat := 0
  mapAt   : Option Nat := none   -- when the map last changed
  ucie    : SMap Bool := {}      -- UCIe modules in use
  nextImg : Nat := 1
  deriving DecidableEq, Repr

/-- The token, notice, pound and order structures of the Square. -/
structure Square where
  toks    : SMap TokSlot := {}
  tokReq  : List Nat := []       -- cores that have asked for slots
  cache   : List Notice := []
  inp     : List InPkt := []     -- arrived packets, in order of arrival
  seen    : List (Nat × Nat) := []   -- source device and id of the packets received: a second copy is dropped (R287)
  skips   : List SkipIn := []
  order   : SMap OrdEntry := {}
  ops     : List ROp := []
  out     : List OutPkt := []
  replies : List Reply := []
  outbox  : List Outgoing := []
  sprays  : List Spray := []
  wins    : SMap Window := {}
  launches : List Launch := []
  relNot  : List (Nat × Nat × Nat) := []   -- release notices in flight: core, launch, predecessor
  trigQ   : List Nat := []       -- launches that have become triggered
  left    : List (Nat × List (Nat × Nat)) := []   -- launches no longer tracked, with stores of theirs still to become visible (R214)
  sqMsgNo : Nat := 0
  peak    : Nat := 0
  retDown : List Nat := []       -- devices toward which the return channel has lost training (R280)
  nextId  : Nat := 1
  deriving DecidableEq, Repr

/-- A sensor (R349). -/
structure Sensor where
  raw   : BitVec 16 := 0
  val   : BitVec 16 := 0
  doubt : Bool := false
  run   : Nat := 0
  deriving DecidableEq, Repr
/-- An Echo unit (R354). -/
structure Echo where
  ctl  : B64 := 0
  base : B64 := 0
  pos  : B64 := 0
  deriving DecidableEq, Repr
/-- A write the steward applies at the next whole microsecond (R350, R351). -/
structure StewardWrite where
  kind : Nat                     -- 0 DROOPTH, 1 TERCTL, 2 CORECTL
  unit : Nat
  val  : B64
  due  : Nat
  deriving DecidableEq, Repr
/-- The fleet registers (R341 to R355). -/
structure Fleet where
  devId   : Nat := 0
  idValid : Bool := false
  telgen  : Nat := 0
  telAt   : Option Nat := none   -- when TELGEN last rose
  snapGen : Nat := 0
  snapCnt : Nat := 0
  snap    : SMap Lane := {}
  keyGen  : Nat := 0             -- KEYCTL.GEN
  keyErr  : Bool := false
  keySw   : Bool := false        -- KEYCTL.SWITCH, as last written (R8)
  keyBusy : Option Nat := none   -- INSTALL running: the generation it installs
  keys    : SMap (List Byte) := {}   -- the keys of the held generations
  keyAddr : B64 := 0
  txGen   : Nat := 0
  newGen  : Nat := 0             -- newest held generation
  lowGen  : Nat := 0             -- older held generation
  kemPub  : List Byte := []
  kemKey  : List Byte := []      -- the decapsulation key of KEMPUB
  devRec  : List Byte := []
  devKey  : List Byte := []
  sens    : SMap Sensor := {}
  ev      : BitVec 10 := 0       -- FLEETEV
  evIrq   : B64 := 0
  rascorr : B64 := 0
  rasunc  : B64 := 0
  walkerr : B64 := 0
  sqsel   : SMap (BitVec 16) := {}
  sqcnt   : SMap B64 := {}
  sqAt    : SMap Nat := {}       -- when a counter was last written (R353)
  echo    : SMap Echo := {}
  steward : List StewardWrite := []
  killNext : Option (Nat × Nat) := none   -- power-kill: next priority and when the steward measures again
  deriving DecidableEq, Repr

/-- An agent that may read bytes before the rest of an access of several events (R208): the started mill job of a core, a
cart job, a bound stream, an arrived packet, the bin unit of a core. -/
inductive Reader where
  | mill (core : Nat) | cart (core uid : Nat) | stream (tid port : Nat) | packet (n : Nat) | bin (core : Nat)
  deriving DecidableEq, Repr
/-- What moves next (log entry 1): a step of the part, an issue of one core, the passing of time, a host's read of a
register, errors that ECC has corrected or could not correct, what the spec leaves to the part's caches and engines (evictions, how
many bytes a write, a read or a gather's read takes at once), a laser's temperature, the training of a return channel, a codeword
a receiver could not decode, a notice of the steward for a core's reeve, the `op`-th operation on its way to a keeper, the
`n`-th message on Drift, the news that another device's full cache has refused a notice (R301). -/
inductive Stimulus where
  | event (i : Instr)
  | issue (core : Nat)
  | advance (halfNs : Nat)
  | tlbFill (core : Nat) (va : B64)
  | tlbEvict (core : Nat) (second : Bool) (n : Nat)
  | icacheFill (core line : Nat)
  | icacheEvict (core line : Nat)
  | l1Evict (core line : Nat)
  | updEvict (core line : Nat)
  | barRead (off : Nat)
  | corrected (port : Option Nat) (hbm : Bool) (n : Nat)
  | llc (hits misses : Nat)
  | engineError (core : Nat) (cart : Bool)
  | applyError (n : Nat)
  | cartBytes (croft n : Nat)
  | cartData (core uid n : Nat)
  | streamBytes (tid port n : Nat)
  | applyBytes (n k : Nat)
  | fileBytes (core piece n : Nat)
  | statusBytes (core n k : Nat)
  | earlyRead (r : Reader) (loc n : Nat)
  | laneReads (tid : Nat) (parts : B64)
  | laneTemp (n : Nat) (t : BitVec 16)
  | returnLost (dev : Nat) (lost : List Nat)
  | returnTrained (dev : Nat)
  | undecodable (port dev pkt cw : Nat)
  | stewardNotice (core : Nat)
  | keeper (op : Nat)
  | message (n : Nat)
  | noticeRefused (slot dev : Nat)
  deriving DecidableEq, Repr

/-- The whole device. -/
structure State where
  now      : Nat                 -- reference time in half nanoseconds
  cur      : Nat                 -- the slot whose instruction `exec` runs: core * 8 + slot
  mem      : List Host.Cell      -- device memory at 0 to 2^40 - 1, scratchpads from 2^40 on
  threads  : SMap Thread
  cores    : SMap Core
  crofts   : SMap Croft
  terraces : SMap Terrace
  ctxs     : SMap Ctx
  stores   : List PStore
  nextSer  : Nat
  upd      : List UpdLine
  drift    : List Msg
  sqHeld   : List Msg            -- bounced launch messages, held by the Square
  kin      : SMap KinSet
  kinOps   : List KinOp
  kinRel   : List (Nat × Nat)    -- releases in flight: thread, activation
  kinAns   : List KinAns
  saves    : List Save
  poundto  : BitVec 16
  refillAt : Nat                 -- the next refill step, in half nanoseconds
  well     : Well
  sq       : Square
  host     : HostIf
  fleet    : Fleet
  freeCtr  : Nat                 -- counter of free values (log entry 13)
  agenda   : List Stimulus
  deriving DecidableEq, Repr

/-- The state after device reset (R15, R24, R317): every slot Free, every register at its reset value, nothing in
flight, memory with nothing listed. -/
def State.reset : State where
  now := 0
  cur := 0
  mem := []
  threads := {}
  cores := {}
  crofts := {}
  terraces := {}
  ctxs := {}
  stores := []
  nextSer := 0
  upd := []
  drift := []
  sqHeld := []
  kin := {}
  kinOps := []
  kinRel := []
  kinAns := []
  saves := []
  poundto := 200
  refillAt := 2000
  well := {}
  sq := {}
  host := {}
  fleet := {}
  freeCtr := 0
  agenda := []

end Sys2Proof.Machine
end

