-- ==== Sys2Proof/Machine/Base.lean ====
section
/-!
DEFINITION. The smallest operations: finite maps, the memory's bytes, the parts of the state by number (R2, R3), and
the delivered cycles of a core.
-/
namespace Sys2Proof.Machine

/-! ## Finite maps -/

/-- The value at a key, or `d` for a key not listed. -/
def SMap.get {α : Type} (d : α) (m : SMap α) (k : Nat) : α := ((m.cells.find? (fun c => c.1 == k)).map (·.2)).getD d
/-- The value at a key, if listed. -/
def SMap.get? {α : Type} (m : SMap α) (k : Nat) : Option α := (m.cells.find? (fun c => c.1 == k)).map (·.2)
/-- Insertion before the first larger key. -/
def insertSorted {α : Type} (k : Nat) (x : α) : List (Nat × α) → List (Nat × α)
  | [] => [(k, x)]
  | c :: cs => if k < c.1 then (k, x) :: c :: cs else c :: insertSorted k x cs
/-- Removes a key. -/
def SMap.erase {α : Type} (m : SMap α) (k : Nat) : SMap α := ⟨m.cells.filter (fun c => c.1 != k)⟩
/-- Sets a key. -/
def SMap.put {α : Type} (m : SMap α) (k : Nat) (x : α) : SMap α := ⟨insertSorted k x (m.erase k).cells⟩
/-- Applies a function to every listed value. -/
def SMap.map {α : Type} (f : Nat → α → α) (m : SMap α) : SMap α := ⟨m.cells.map (fun c => (c.1, f c.1 c.2))⟩

/-! ## Bytes -/

/-- The number that bytes hold, least significant first (R6). -/
def leNat : List Byte → Nat
  | [] => 0
  | b :: bs => b.toNat + 256 * leNat bs
/-- The `n` low bytes of a number, least significant first. -/
def leBytes : Nat → Nat → List Byte
  | 0, _ => []
  | n + 1, v => BitVec.ofNat 8 v :: leBytes n (v / 256)
/-- The same, most significant first, as the standards of cryptography write numbers. -/
def beNat (b : List Byte) : Nat := leNat b.reverse
def beBytes (n v : Nat) : List Byte := (leBytes n v).reverse

/-! ## Memory (log entries 4, 5) -/

/-- What an unlisted address reads as (log entry 4). -/
def unlisted : Byte := 0
/-- One byte of memory. -/
def readByte (m : List Host.Cell) (a : Nat) : Byte := ((m.find? (fun c => c.1 == a)).map (·.2)).getD unlisted
/-- Writes one byte, keeping the canonical form. -/
def writeByte (m : List Host.Cell) (a : Nat) (b : Byte) : List Host.Cell :=
  let rest := m.filter (fun c => c.1 != a)
  if b = unlisted then rest else insertSorted a b rest
/-- `n` bytes from an address. -/
def readBytes (m : List Host.Cell) (a : Nat) : Nat → List Byte
  | 0 => []
  | n + 1 => readByte m a :: readBytes m (a + 1) n
/-- Writes bytes from an address on. -/
def writeBytes (m : List Host.Cell) (a : Nat) : List Byte → List Host.Cell
  | [] => m
  | b :: bs => writeBytes (writeByte m a b) (a + 1) bs
/-- The canonical form: addresses strictly rising, no entry equal to what an unlisted address reads as. -/
def Memory.wf : List Host.Cell → Bool
  | [] => true
  | [c] => c.2 != unlisted
  | c :: c' :: cs => c.2 != unlisted && decide (c.1 < c'.1) && Memory.wf (c' :: cs)

/-- First location of the scratchpads (log entry 5). -/
def spadBase : Nat := 2 ^ 40
/-- Location of a scratchpad byte (R33; log entry 5). -/
def spadLoc (core off : Nat) : Nat := spadBase + core * 0x40000 + off
/-- Number of cores (R2). -/
def nCores : Nat := 102400

/-! ## Parts of the state -/

/-- Thread slot number `slot` of core `core`; slot 4 is the system slot. -/
def tidOf (core slot : Nat) : Nat := core * 8 + slot
/-- The core of a slot. -/
def coreOf (tid : Nat) : Nat := tid / 8
/-- The slot number on its core. -/
def slotOf (tid : Nat) : Nat := tid % 8
/-- Croft y × 40 + x / 8 of core y × 320 + x (R3). -/
def croftOf (core : Nat) : Nat := core / 8
/-- Terrace y × 20 + x / 16 of core y × 320 + x (R3). -/
def terraceOf (core : Nat) : Nat := core / 16
/-- Field (y / 80) × 4 + x / 80 of core y × 320 + x (R3). -/
def fieldOf (core : Nat) : Nat := (core / 320 / 80) * 4 + core % 320 / 80

/-- A slot that nothing has started: the system slot is in system mode (R22). -/
def slotInit (tid : Nat) : Thread := if slotOf tid = 4 then { sysMode := true } else {}
def State.thread (s : State) (tid : Nat) : Thread := s.threads.get (slotInit tid) tid
def State.setThread (s : State) (tid : Nat) (t : Thread) : State := { s with threads := s.threads.put tid t }
def State.modThread (s : State) (tid : Nat) (f : Thread → Thread) : State := s.setThread tid (f (s.thread tid))
def State.core (s : State) (c : Nat) : Core := s.cores.get {} c
def State.setCore (s : State) (c : Nat) (x : Core) : State := { s with cores := s.cores.put c x }
def State.modCore (s : State) (c : Nat) (f : Core → Core) : State := s.setCore c (f (s.core c))
def State.croft (s : State) (c : Nat) : Croft := s.crofts.get {} c
def State.setCroft (s : State) (c : Nat) (x : Croft) : State := { s with crofts := s.crofts.put c x }
def State.modCroft (s : State) (c : Nat) (f : Croft → Croft) : State := s.setCroft c (f (s.croft c))
def State.terrace (s : State) (t : Nat) : Terrace := s.terraces.get {} t
def State.setTerrace (s : State) (t : Nat) (x : Terrace) : State := { s with terraces := s.terraces.put t x }
def State.ctx? (s : State) (c : Nat) : Option Ctx := s.ctxs.get? c
def State.setCtx (s : State) (c : Nat) (x : Ctx) : State := { s with ctxs := s.ctxs.put c x }
def State.path? (s : State) (p : Nat) : Option Path := s.well.paths.get? p
def State.setPath (s : State) (p : Nat) (x : Path) : State := { s with well := { s.well with paths := s.well.paths.put p x } }
def State.lane (s : State) (n : Nat) : Lane := s.well.lanes.get {} n
def State.setLane (s : State) (n : Nat) (x : Lane) : State := { s with well := { s.well with lanes := s.well.lanes.put n x } }
def State.oport (s : State) (n : Nat) : OPort := s.well.ports.get {} n
def State.setOport (s : State) (n : Nat) (x : OPort) : State := { s with well := { s.well with ports := s.well.ports.put n x } }
def State.tok (s : State) (n : Nat) : TokSlot := s.sq.toks.get {} n
def State.setTok (s : State) (n : Nat) (x : TokSlot) : State := { s with sq := { s.sq with toks := s.sq.toks.put n x } }

/-- The core whose slot is current. -/
def State.curCore (s : State) : Nat := coreOf s.cur

/-- The tag of an access (R354): the slot, and PC[14:1] of the instruction. -/
def State.tag (s : State) : BitVec 16 := BitVec.ofNat 16 (slotOf s.cur * 2 ^ 14 + (s.thread s.cur).pc.toNat / 2 % 2 ^ 14)

/-! ## Time -/

/-- A core's cycle period in half nanoseconds (R258, R351). -/
def Core.period (c : Core) : Nat := c.div + 1
/-- The divisor a core has been given, in force or from the next boundary on. -/
def Core.divSet (c : Core) : Nat := match c.divNext with | some x => x.2 | none => c.div
/-- A core with the divisor that is in force at a time: a change is in force from the end of the cycle it fell in, up to
which the cycles are counted by the old one (R351). -/
def Core.clocked (c : Core) (now : Nat) : Core :=
  match c.divNext with
  | none => c
  | some (t, d) =>
    if now < t then c else
    let n := (t - c.cycAt) / c.period
    { c with div := d, divNext := none, cycAt := t, cyc := if c.asleep then c.cyc else c.cyc + n, slept := if c.asleep then c.slept + n else c.slept }
/-- The first boundary of a core's delivered cycles from a time on. -/
def Core.boundary (c : Core) (now : Nat) : Nat := c.cycAt + (now - c.cycAt + c.period - 1) / c.period * c.period
/-- The terrace of a core is stretched (R257). -/
def State.stretched (s : State) (core : Nat) : Bool :=
  match (s.terrace (terraceOf core)).squall with | .stretch till => decide (s.now < till) | _ => false
/-- Cycles delivered to a core up to now (R27): none while it sleeps, is off, or is stretched (then `cycAt` lies ahead). -/
def State.cycles (s : State) (core : Nat) : Nat :=
  let c := (s.core core).clocked s.now
  if c.asleep || c.isoff then c.cyc else c.cyc + (s.now - c.cycAt) / c.period
/-- Cycles delivered to a core since reset, whatever has been written to CYCLE. -/
def State.delivered (s : State) (core : Nat) : Nat := ((s.core core).cycBase + s.cycles core).toNat
/-- The time a core issues at. -/
def State.issueTime (s : State) (core : Nat) : Nat := max s.now (s.core core).nextIss
/-- The delivered cycle of a core in which it can issue next (R249). -/
def State.issueCycle (s : State) (core : Nat) : Nat := ({ s with now := s.issueTime core } : State).delivered core
/-- A core has no clock in a stretch: for 3 ns with its terrace, and for 6 of its own periods, which `cycAt` ends (R257, R258). -/
def State.clockless (s : State) (core : Nat) : Bool := s.stretched core || decide (s.now < (s.core core).cycAt)
/-- Cycles a core has slept on rations (R353). -/
def State.sleepCycles (s : State) (core : Nat) : Nat :=
  let c := (s.core core).clocked s.now
  if c.asleep && !c.isoff then c.slept + (s.now - c.cycAt) / c.period else c.slept
/-- Fixes the cycle counts of a core before its clock stops or begins anew; a divisor that waits for the end of the cycle
under way is in force then. -/
def State.settle (s : State) (core : Nat) : State :=
  let cyc := s.cycles core
  let slept := s.sleepCycles core
  s.modCore core (fun c => { c with cyc := cyc, slept := slept, cycAt := max s.now c.cycAt, div := c.divSet, divNext := none })

/-! ## Counting (R353) -/

/-- Croft event counters of `core`'s croft that count `src` rise by `n`, but for one written in the same cycle (log entry
35). Codes 1 and 3 are derived from the clock. -/
def State.count (s : State) (core slot src n : Nat) : State :=
  let cr := s.croft (croftOf core)
  let hit (i : Nat) : Bool :=
    let e := (cr.evsel.get 0 i).toNat
    cr.evAt.get? i != some s.now && e % 256 == src && e / 256 % 8 == core % 8 && (src != 2 || e / 2048 % 2 == 0 || e / 4096 == slot)
  let cnt := (List.range 8).foldl (fun m i => if hit i then m.put i (m.get 0 i + BitVec.ofNat 64 n) else m) cr.evcnt
  if (List.range 8).any hit then s.setCroft (croftOf core) { cr with evcnt := cnt } else s
/-- Square event counters that count `src` for `unit` rise by `n`, but for one written in the same cycle (R353). -/
def State.countSq (s : State) (src unit n : Nat) : State :=
  let hit (c : Nat × BitVec 16) : Bool :=
    s.fleet.sqAt.get? c.1 != some s.now && c.2.toNat % 256 == src && (c.2.toNat / 256 == 0xFF || c.2.toNat / 256 == unit || src < 2 || 8 ≤ src)
  let ks := s.fleet.sqsel.cells.filter hit
  ks.foldl (fun s c => { s with fleet := { s.fleet with
    sqcnt := s.fleet.sqcnt.put c.1 (s.fleet.sqcnt.get 0 c.1 + BitVec.ofNat 64 n) } }) s
/-- Adds to a PORTSTAT counter (R345). -/
def State.portStat (s : State) (port i n : Nat) : State :=
  let o := s.oport port
  s.setOport port { o with stats := o.stats.put i (o.stats.get 0 i + BitVec.ofNat 64 n) }
/-- Raises FLEETIRQ's vector for the bits set and not yet reported, when it is enabled and 1 µs has passed since the last
(R352). -/
def State.fleetIrq (s : State) : State :=
  let h := s.host
  if h.fleetPend && s.fleet.evIrq.getLsbD 8 && decide (h.fleetAt ≤ s.now) then
    { s with host := { h with irqs := h.irqs ++ [s.fleet.evIrq.toNat % 64], fleetAt := s.now + 2000, fleetPend := false } }
  else s
/-- Sets a FLEETEV bit; its interrupt follows as soon as it may (R352). -/
def State.fleetEv (s : State) (bit : Nat) : State :=
  ({ s with fleet := { s.fleet with ev := s.fleet.ev ||| (1#10 <<< bit) }, host := { s.host with fleetPend := true } } : State).fleetIrq

/-- The next free value (log entry 13). -/
def State.freshCtr (s : State) : State := { s with freeCtr := s.freeCtr + 1 }

end Sys2Proof.Machine
end

