-- ==== Sys2Proof/Machine/Xlate.lean ====
section
/-!
DEFINITION. The kinds of access, the readiness of memory stacks (R316), and the places of memory: scratchpads and their
windows (R31, R33), home cores and memory ports (R36, R40).
-/
namespace Sys2Proof.Machine

/-- What an access wants of its page. -/
inductive Acc where | read | write | fetch | remote
  deriving DecidableEq, Repr
/-- What a virtual address selects: a location, a window byte, or the fault of R30, R23, R32, R43. -/
inductive Xl where | loc (l : Nat) | win (dev wid off : Nat) | xlate | prot
  deriving DecidableEq, Repr

/-! ## Readiness map (R316) -/

/-- Bit `n` of the region at map offset `off`. -/
def State.readyBit (s : State) (off n : Nat) : Bool := (s.host.ready.get 0 (off + n / 8)).testBit (n % 8)
/-- Sets or clears one bit; a change raises MAPGEN, once in a cycle however many bits change in it. -/
def State.setReady (s : State) (off n : Nat) (v : Bool) : State :=
  if s.readyBit off n = v then s else
  let k := off + n / 8
  let b := s.host.ready.get 0 k
  let b' := if v then b + 2 ^ (n % 8) else b - 2 ^ (n % 8)
  let gen := if s.host.mapAt = some s.now then s.host.mapGen else (s.host.mapGen + 1) % 2 ^ 32
  { s with host := { s.host with ready := s.host.ready.put k b', mapGen := gen, mapAt := some s.now } }
def State.terraceReady (s : State) (core : Nat) : Bool := s.readyBit 0 (terraceOf core)
def State.millReady (s : State) (core : Nat) : Bool := s.readyBit 0x400 (croftOf core)
def State.cartReady (s : State) (core : Nat) : Bool := s.readyBit 0xC00 (croftOf core)
def State.portReady (s : State) (p : Nat) : Bool := s.readyBit 0x1400 (32 + p)
/-- A physical address lies in a usable stack: its HBM and SLICE bits are 1. -/
def State.stackOk (s : State) (pa : Nat) : Bool := s.readyBit 0x1400 (pa / 2 ^ 36) && s.readyBit 0x1400 (16 + pa / 2 ^ 36)

/-! ## Fields and places -/

/-- Bit field [hi:lo] of a number. -/
def bits (x hi lo : Nat) : Nat := x / 2 ^ lo % 2 ^ (hi + 1 - lo)

/-- The scratchpad offset when `va` names a byte of the core's own scratchpad, through either window (R31). -/
def ownSpad (core : Nat) (va : B64) : Option Nat :=
  let v := va.toNat
  if 0xFFFFFFFFC0000 ≤ v ∧ v < 2 ^ 52 then some (v - 0xFFFFFFFFC0000)
  else if 0xFFF0000000000 ≤ v ∧ v < 0xFFF0640000000 ∧ (v - 0xFFF0000000000) / 0x40000 = core then
    some ((v - 0xFFF0000000000) % 0x40000)
  else none
/-- The core whose scratchpad holds a location, if it is a scratchpad location. -/
def spadCore (l : Nat) : Option Nat := if spadBase ≤ l then some ((l - spadBase) / 0x40000) else none
/-- The home core of a device-memory location (R36). -/
def homeCore (pa : Nat) : Nat :=
  let l := pa / 256
  (Nat.xor l (l / 2 ^ 17)) % 2 ^ 17 * 102400 / 2 ^ 17
/-- The core whose memory port performs accesses to a location: its owner, or its home (R40). -/
def portCore (l : Nat) : Nat := match spadCore l with | some c => c | none => homeCore l

end Sys2Proof.Machine
end

