-- ==== Sys2Proof/Machine/Spill.lean ====
section
/-!
DEFINITION. What the hardware keeps in a core's scratchpad: the spill queues, messages as entries of 128 bytes (R33, R247),
and the reeve's overflow records of 64 bytes (R33, R38). The formats are the model's (log entry 30).
-/
namespace Sys2Proof.Machine

/-- The dword at an address. -/
def State.memNat (s : State) (a n : Nat) : Nat := leNat (readBytes s.mem a n)
def State.mem64 (s : State) (a : Nat) : B64 := BitVec.ofNat 64 (s.memNat a 8)

/-! ## Messages of 128 bytes -/

/-- A message as a spill or resend entry. -/
def msgBytes (m : Msg) : List Byte :=
  let l := m.launch.getD ⟨0, 0, 0⟩
  let bit := if m.launch.isSome then 1 else 0
  leBytes 8 (1 + 2 * m.cls + 2 ^ 7 * m.chan + 2 ^ 11 * m.pay.length + 2 ^ 15 * m.no + 2 ^ 21 * m.src + 2 ^ 38 * bit + 2 ^ 39 * l.mw + 2 ^ 43 * l.cw) ++
  leBytes 8 (m.pair + 2 ^ 32 * m.dest) ++ leBytes 8 l.lid ++ leBytes 8 0 ++ (m.pay.take 8).flatMap (fun (v : B64) => leBytes 8 v.toNat)
/-- The message an entry of 128 bytes holds, if any. -/
def State.msgAt (s : State) (ctx a : Nat) : Option Msg :=
  let d := s.memNat a 8
  let e := s.memNat (a + 8) 8
  if !d.testBit 0 then none else
  let l : LaunchMsg := ⟨s.memNat (a + 16) 8, bits d 42 39, bits d 46 43⟩
  some { src := bits d 37 21, pair := e % 2 ^ 32, ctx := ctx, dest := e / 2 ^ 32, chan := bits d 10 7, cls := bits d 6 1,
         pay := (List.range (min 8 (bits d 14 11))).map (fun i => s.mem64 (a + 32 + 8 * i)), no := bits d 20 15,
         launch := if d.testBit 38 then some l else none }

/-! ## Overflow records in the reeve reserve (R33, R38)

Which records are in use, and of which lines, the directory knows; a record's bytes hold its names. The bytes of a free record, and
those a record has no name for, are memory like any other. -/

/-- Names beyond an entry's four pointers, 17 bits each. -/
def nameBytes (names : List Nat) : List Byte := leBytes ((17 * names.length + 7) / 8) (names.foldr (fun w acc => w + 2 ^ 17 * acc) 0)
/-- An entry's overflow record: its line, a count, and the names beyond its four pointers. -/
def recordBytes (e : DirEntry) : List Byte := leBytes 4 e.line ++ leBytes 1 (e.who.drop 4).length ++ nameBytes (e.who.drop 4)
/-- Where record `k` of a core lies. -/
def recordLoc (core k : Nat) : Nat := spadLoc core 0x3C000 + 64 * k
/-- The line of record `k` and the names that it holds. -/
def State.recordAt (s : State) (core k : Nat) : Nat × List Nat :=
  let names := s.memNat (recordLoc core k + 5) 59
  (s.memNat (recordLoc core k) 4,
    (List.range (min 24 (s.memNat (recordLoc core k + 4) 1))).map (fun i => names / 2 ^ (17 * i) % 2 ^ 17))
/-- The reserve as the directory stands. -/
def State.reserveOut (s : State) (core : Nat) : State :=
  { s with mem := (s.core core).dir.foldl (fun m e =>
      match e.ovf with | some k => if k < 256 then writeBytes m (recordLoc core k) ((recordBytes e).take 64) else m | none => m) s.mem }
/-- The directory as the reserve stands: an entry has the names of its record, while that is its line's. -/
def State.reserveIn (s : State) (core : Nat) : State :=
  let taken (e : DirEntry) : DirEntry :=
    match e.ovf with
    | none => e
    | some k =>
      let r := s.recordAt core k
      if r.1 = e.line then { e with who := e.who.take 4 ++ r.2 } else { e with who := e.who.take 4, ovf := none }
  s.modCore core (fun c => { c with dir := c.dir.map taken })

/-! ## Spill queues in the scratchpad (R33)

A channel's queue lies in its first entries, the oldest message first; how many there are the core knows. The bytes of a free entry,
and the bits that a message has no use for, are memory like any other. -/

/-- The core whose spill queues or overflow records a range of locations touches. -/
def spillCore (loc n : Nat) : Option Nat :=
  match spadCore loc with
  | some c =>
    if loc < spadLoc c 0x38000 ∧ spadLoc c 0x30000 < loc + n ∨ loc < spadLoc (c + 1) 0 ∧ spadLoc c 0x3C000 < loc + n then some c else none
  | none => none
/-- Where entry `k` of channel `c` lies: 128 bytes at 0x3_0000 + c × 0x800 + 128 k. -/
def spillLoc (core c k : Nat) : Nat := spadLoc core 0x30000 + c * 0x800 + 128 * k
/-- `v` takes the `n` bits from bit `lo` on of a dword in memory. -/
def putBits (a lo n v : Nat) (m : List Host.Cell) : List Host.Cell :=
  let d := leNat (readBytes m a 8)
  writeBytes m a (leBytes 8 (d / 2 ^ (lo + n) * 2 ^ (lo + n) + v % 2 ^ n * 2 ^ lo + d % 2 ^ lo))
/-- The fields of a message's entry: offset of the dword, lowest bit, width, value. Channel and destination are the queue's. -/
def msgFields (m : Msg) : List (Nat × Nat × Nat × Nat) :=
  [(0, 0, 1, 1), (0, 1, 6, m.cls), (0, 11, 4, m.pay.length), (0, 15, 6, m.no), (0, 21, 17, m.src), (8, 0, 32, m.pair)] ++
  (match m.launch with
    | none => [(0, 38, 1, 0)]
    | some l => [(0, 38, 1, 1), (0, 39, 4, l.mw), (0, 43, 4, l.cw), (16, 0, 32, l.lid)]) ++
  (m.pay.take 8).zipIdx.map (fun v => (32 + 8 * v.2, 0, 64, v.1.toNat))
/-- A message stands in its entry. -/
def putMsg (m : List Host.Cell) (a : Nat) (x : Msg) : List Host.Cell := (msgFields x).foldl (fun m f => putBits (a + f.1) f.2.1 f.2.2.1 f.2.2.2 m) m
/-- The areas as queues and records stand. -/
def State.spillOut (s : State) (core : Nat) : State :=
  let s := s.reserveOut core
  { s with mem := ((s.core core).spill.cells.filter (fun q => decide (q.1 < 16))).foldl (fun m q =>
      (q.2.take 16).zipIdx.foldl (fun m e => putMsg m (spillLoc core q.1 e.2) e.1) m) s.mem }
/-- Queues and records as the areas stand: the entries of a queue that still hold a message. -/
def State.spillIn (s : State) (core : Nat) : State :=
  let queue (c : Nat) (q : List Msg) : List Msg := q.zipIdx.filterMap (fun e =>
    (s.msgAt e.1.ctx (spillLoc core c e.2)).map (fun m => { m with chan := c, dest := core, after := e.1.after }))
  (s.reserveIn core).modCore core (fun c => { c with
    spill := ⟨(c.spill.cells.map (fun q => (q.1, queue q.1 q.2))).filter (fun q => !q.2.isEmpty)⟩ })
/-- Before a range is read, the queues and records it touches stand in memory. -/
def State.spillSync (s : State) (loc n : Nat) : State := match spillCore loc n with | some c => s.spillOut c | none => s
/-- Bytes are written; queues and records follow what an access makes of their areas. -/
def State.poke (s : State) (loc : Nat) (data : List Byte) : State :=
  match spillCore loc data.length with
  | none => { s with mem := writeBytes s.mem loc data }
  | some c =>
    let s := s.spillOut c
    ({ s with mem := writeBytes s.mem loc data } : State).spillIn c

end Sys2Proof.Machine
end

