-- ==== Sys2Proof/Machine/Stores.lean ====
section
/-!
DEFINITION. Accesses at the memory ports: atomic operations (R101, R102), Update-only lines and their merging (R39,
R216), stores that are not visible yet and which of them take effect together or in order (R40, R209, R212, R213; log
entries 6, 8), the Echo units (R354).
-/
namespace Sys2Proof.Machine

/-! ## Operations on a location -/

/-- R101's table for all operations but `cas`, on patterns of `w` bits. -/
def amoNew (op : AmoOp) (w64 : Bool) (old b : B64) : B64 :=
  let w := if w64 then 64 else 32
  let sgn (x : B64) : Int := intVal w true x.toNat
  let uns (x : B64) : Int := intVal w false x.toNat
  let cut (x : B64) : B64 := BitVec.ofNat 64 (x.toNat % 2 ^ w)
  match op with
  | .swap => cut b
  | .add => cut (old + b)
  | .and => cut (old &&& b)
  | .or => cut (old ||| b)
  | .xor => cut (old ^^^ b)
  | .min => cut (if sgn old ≤ sgn b then old else b)
  | .max => cut (if sgn b ≤ sgn old then old else b)
  | .minn => cut (if uns old ≤ uns b then old else b)
  | .maxn => cut (if uns b ≤ uns old then old else b)
  | .cas => cut b
  | .fadd =>
    let f := if w64 then fmtF64 else fmtF32
    BitVec.ofNat 64 (roundTo f .rne false 0 (addFV .rne (f.value (cut old).toNat) (f.value (cut b).toNat)).1).bits
/-- Whether the operation writes: `cas` only when the old value equals the compare value. -/
def amoWrites (op : AmoOp) (w64 : Bool) (old cmp : B64) : Bool :=
  match op with
  | .cas => old.toNat == cmp.toNat % 2 ^ (if w64 then 64 else 32)
  | _ => true
/-- One combine of an update-only form. -/
def updNew (op : UpdOp) (w64 : Bool) (old b : B64) : B64 :=
  amoNew (match op with | .add => .add | .fadd => .fadd | .min => .min | .max => .max | .or => .or) w64 old b
/-- The identity an Update-only line is allocated with (R39, R102). -/
def updIdentity (op : UpdOp) (w64 : Bool) : B64 :=
  match op with
  | .add => 0
  | .fadd => if w64 then 0x8000000000000000 else 0x80000000
  | .min => if w64 then 0x7FFFFFFFFFFFFFFF else 0x7FFFFFFF
  | .max => if w64 then 0x8000000000000000 else 0x80000000
  | .or => 0
/-- Bytes of an element. -/
def updBytes (w64 : Bool) : Nat := if w64 then 8 else 4

/-- Two byte ranges share a byte. -/
def overlap (a n b m : Nat) : Bool := decide (a < b + m) && decide (b < a + n)

/-! ## Echo units (R354) -/

/-- One Echo unit logs an arrival when it is enabled for that port; `home` merges what is to be merged before its entry is
written (R39). -/
def echoOne (home : State → Nat → Nat → State) (loc src kind : Nat) (tag : BitVec 16) (dev : Nat) (s : State) (c : Nat × Echo) : State :=
  let ctl := c.2.ctl
  let on := ctl.getLsbD 17 && ctl.toNat % 2 ^ 17 == portCore loc &&
    (match spadCore loc with | some _ => ctl.getLsbD 19 | none => ctl.getLsbD 20)
  if !on then s else
  let slot (s : State) : Nat := c.2.base.toNat + 16 * ((s.fleet.echo.get {} c.1).pos.toNat % 4096)
  let s := home s (slot s) 16
  let addr := match spadCore loc with | some _ => (loc - spadBase) % 0x40000 | none => loc
  let d0 := addr + 2 ^ 40 * (src % 2 ^ 17) + 2 ^ 57 * kind
  let d1 := tag.toNat + 2 ^ 16 * dev
  { s with mem := writeBytes s.mem (slot s) (leBytes 8 d0 ++ leBytes 8 d1),
           fleet := { s.fleet with echo := s.fleet.echo.put c.1 { c.2 with pos := (s.fleet.echo.get {} c.1).pos + 1 } } }
/-- Every enabled Echo unit logs an arrival. -/
def State.echoBy (home : State → Nat → Nat → State) (s : State) (loc src kind : Nat) (tag : BitVec 16) (dev : Nat) : State :=
  s.fleet.echo.cells.foldl (echoOne home loc src kind tag dev) s

/-! ## Update-only lines (R39) -/

/-- Merges one marked element into its line. An Echo unit logs each marked element as an arrival of its own, with the
tag of the last instruction that contributed to it (log entry 45). -/
def mergeElem (home : State → Nat → Nat → State) (u : UpdLine) (s : State) (c : Nat × B64) : State :=
  let n := updBytes u.w64
  let a := u.line * 256 + c.1 * n
  let old := BitVec.ofNat 64 (leNat (readBytes s.mem a n))
  let s := { s with mem := writeBytes s.mem a (leBytes n (updNew u.op u.w64 old c.2).toNat) }
  s.echoBy home a u.core 2 (u.tags.get 0 c.1) s.fleet.devId
/-- Merges an Update-only copy at its home. -/
def mergeLine (home : State → Nat → Nat → State) (s : State) (u : UpdLine) : State :=
  (u.elems.cells.foldl (mergeElem home u) s).count u.core 0 10 1
/-- The copy is of a line that a range touches. -/
def UpdLine.within (loc n : Nat) (u : UpdLine) : Bool := overlap (u.line * 256) 256 loc n
/-- Merges and removes at most `n` of the copies that a test selects, in the order of their allocation, where the spec
leaves the order of arrival open (log entry 45). -/
def mergeUpTo : Nat → (UpdLine → Bool) → State → State
  | 0, _, s => s
  | n + 1, p, s =>
    match s.upd.find? p with
    | none => s
    | some u => mergeUpTo n p (mergeLine (fun s loc k => mergeUpTo n (UpdLine.within loc k) s) { s with upd := s.upd.erase u } u)
/-- Merges and removes every copy that a test selects. -/
def State.mergeWhere (s : State) (p : UpdLine → Bool) : State := mergeUpTo s.upd.length p s
/-- Merges and removes the copies of the lines of a range. -/
def State.mergeAt (s : State) (loc n : Nat) : State := s.mergeWhere (UpdLine.within loc n)
/-- Every enabled Echo unit logs an arrival. -/
def State.echo (s : State) (loc src kind : Nat) (tag : BitVec 16) (dev : Nat) : State :=
  s.echoBy State.mergeAt loc src kind tag dev
/-- The home recalls every Update-only copy of the lines of a range before it serves a request (R39); spill queues of a
range stand in memory (R33). -/
def State.recall (s : State) (loc n : Nat) : State :=
  (s.mergeAt loc n).spillSync loc n
/-- Lines a core's L1 holds in any state. -/
def State.l1Lines (s : State) (core : Nat) : List Nat :=
  (s.core core).l1.cells.map (·.1) ++ (s.upd.filter (fun u => u.core == core)).map (·.line)
/-- An L1 of 4,096 lines that has none free for a new line gives one up, a free choice (R3, R35): a line of the other
states becomes Invalid, an Update-only one goes home (R39). -/
def State.l1Room (s : State) (core line : Nat) : State :=
  let ls := s.l1Lines core
  if ls.contains line || ls.length < 4096 then s else
  match ls[(Config.freeValue s.freeCtr).toNat % ls.length]? with
  | none => s
  | some x => (s.freshCtr.mergeWhere (fun u => u.core == core && u.line == x)).modCore core (fun c => { c with l1 := c.l1.erase x })
/-- Combines an operand of a slot into its core's Update-only line, the line's only state there (R35, R39). `ser` is the
contribution's place among the thread's accesses. -/
def State.combine (s : State) (tid ser loc : Nat) (op : UpdOp) (w64 : Bool) (b : B64) (tag : BitVec 16) : State :=
  let core := coreOf tid
  let line := loc / 256
  let idx := loc % 256 / updBytes w64
  let s := s.mergeWhere (fun u => u.core == core && u.line == line && !(u.op == op && u.w64 == w64))
  let mine (u : UpdLine) : Bool := u.core == core && u.line == line
  if s.upd.any mine then
    { s with upd := s.upd.map (fun u => if mine u then
        { u with elems := u.elems.put idx (updNew op w64 (u.elems.get (updIdentity op w64) idx) b), tags := u.tags.put idx tag,
                 who := if u.who.any (fun w => w.1 == tid) then u.who else u.who ++ [(tid, ser)] } else u) }
  else
    let s := (s.l1Room core line).modCore core (fun c => { c with l1 := c.l1.erase line })
    let elems := ({} : SMap B64).put idx (updNew op w64 (updIdentity op w64) b)
    { s with upd := s.upd ++ [⟨core, line, op, w64, elems, ({} : SMap (BitVec 16)).put idx tag, [(tid, ser)]⟩] }

/-- A write performed at its memory port (R40). -/
def State.portWrite (s : State) (src kind : Nat) (tag : BitVec 16) (dev loc : Nat) (data : List Byte) : State :=
  ((s.recall loc data.length).poke loc data).echo loc src kind tag dev
/-- Bytes that the part itself writes to device memory, at their home (R39). -/
def State.homeWrite (s : State) (loc : Nat) (data : List Byte) : State :=
  let s := s.mergeAt loc data.length
  { s with mem := writeBytes s.mem loc data }
/-- A pending store or combine takes effect at its memory port; one of order .rel after its thread's earlier
contributions (R216), and on device memory in the Update-only line of its core (R39, R102). -/
def State.perform (s : State) (p : PStore) : State :=
  let s := if p.rel then s.mergeWhere (fun u => u.who.any (fun w => w.1 == p.tid && decide (w.2 < p.ser))) else s
  match p.comb with
  | none => s.portWrite (coreOf p.tid) 0 p.tag s.fleet.devId p.loc p.data
  | some (op, w64) =>
    if (spadCore p.loc).isNone then s.combine p.tid p.ser p.loc op w64 (BitVec.ofNat 64 (leNat p.data)) p.tag else
    let s := s.recall p.loc p.data.length
    let old := BitVec.ofNat 64 (leNat (readBytes s.mem p.loc p.data.length))
    let new := updNew op w64 old (BitVec.ofNat 64 (leNat p.data))
    (s.portWrite (coreOf p.tid) 2 p.tag s.fleet.devId p.loc (leBytes p.data.length new.toNat))
/-- Performs the listed pending stores in order and removes them. -/
def State.performAll (s : State) (ps : List PStore) : State :=
  let s' := ps.foldl State.perform s
  { s' with stores := s.stores.filter (fun q => !(ps.any (fun p => p.ser == q.ser))) }

/-! ## Which stores another agent sees (R209) -/

/-- Two slots share the unit a scope names. -/
def inScope (sc : Scope) (t u : Nat) : Bool :=
  match sc with
  | .t => t == u
  | .c => coreOf t == coreOf u
  | .k => croftOf (coreOf t) == croftOf (coreOf u)
  | .f => fieldOf (coreOf t) == fieldOf (coreOf u)
  | .d => true
  | .s => true
/-- A pending store with those of its group (R129). -/
def groupOf (stores : List PStore) (p : PStore) : List PStore :=
  if p.grp = 0 then [p] else stores.filter (fun q => q.tid == p.tid && q.grp == p.grp)
/-- A store must precede one of a list: the two, with their groups, touch a location in common (R212), or the later is
an `upd` of order .rel (R216). -/
def PStore.before (stores : List PStore) (q : PStore) (l : List PStore) : Bool :=
  (groupOf stores q).any (fun p => l.any (fun r => decide (p.ser < r.ser) && (r.rel || overlap p.loc p.data.length r.loc r.data.length)))
/-- A pending store with everything of its thread that takes effect before it or with it. -/
def chainOf (stores : List PStore) (p : PStore) : List PStore :=
  let g := groupOf stores p
  (stores.filter (fun q => q.tid == p.tid && !g.any (fun r => r.ser == q.ser))).foldr
    (fun q acc => if q.before stores acc then q :: acc else acc) g
/-- Performs a pending store that still waits, with what must precede it. -/
def State.force (s : State) (p : PStore) : State :=
  if s.stores.any (fun q => q.ser == p.ser) then s.performAll (chainOf s.stores p) else s
/-- Who accesses memory for a slot: its thread; another agent placed there (a stream, a remote application); an engine
job, with the serial numbers at its issue and at its start (R208). -/
inductive Party where | thread | agent | job (after start : Nat)
  deriving DecidableEq, Repr
/-- A pending store that a fence has made visible to a party of slot `tid`, where it touches a range: a thread's own
stores concern only its other agents; a job that was issued before the fence counts only where a `fence.eng` of a scope
it lies in came after the fence and before its start (R209, R215, R217; log entry 6). -/
def PStore.shownTo (p : PStore) (tid : Nat) (w : Party) (loc n : Nat) : Bool :=
  (p.dead || p.tid != tid || w != .thread) && overlap p.loc p.data.length loc n && p.vis != .t && inScope p.vis p.tid tid &&
    (match w with
    | .job a start => decide (p.visAt < a) || p.engs.any (fun e => decide (e.2.2 < start) && inScope e.2.1 e.1 tid)
    | _ => true)
/-- Before an access of a range, the stores a fence has made visible to its party are performed (R209). -/
def State.observe (s : State) (tid : Nat) (w : Party) (loc n : Nat) : State :=
  match s.stores.find? (fun p => p.shownTo tid w loc n) with
  | none => s
  | some _ => (s.stores.filter (fun p => p.shownTo tid w loc n)).foldl State.force s
/-- Every store, `upd` contribution and `ksend` of the slot older than `ser` is visible. -/
def State.visibleUpTo (s : State) (tid ser : Nat) : Bool :=
  !(s.stores.any (fun p => p.tid == tid && decide (p.ser < ser))) &&
  !(s.upd.any (fun u => u.who.any (fun w => w.1 == tid && decide (w.2 < ser)))) &&
  !((s.core (coreOf tid)).ksq.any (fun r => r.tid == tid && decide (r.ser < ser)))
/-- Whether a pending store may be performed now, with its group: same-location order within its thread, and for an
`upd` of order .rel everything earlier of its thread (R212, R216). -/
def State.canPerform (s : State) (p : PStore) : Bool :=
  let g := groupOf s.stores p
  !(s.stores.any (fun q => q.tid == p.tid && !g.any (fun r => r.ser == q.ser) && q.before s.stores g)) &&
  (!p.rel || (!(s.upd.any (fun u => u.who.any (fun w => w.1 == p.tid && decide (w.2 < p.ser)))) &&
    !((s.core (coreOf p.tid)).ksq.any (fun r => r.tid == p.tid && decide (r.ser < p.ser)))))

end Sys2Proof.Machine
end

