-- ==== Sys2Proof/Machine/Reads.lean ====
section
/-!
DEFINITION. Reads that are an event for each byte (R129, R208, R215; log entry 46): what arrives while one is made, and what
an agent has read before the rest.
-/
namespace Sys2Proof.Machine

/-! ## What arrives while a read is made (R129, R215) -/

/-- The pending stores that a test selects and that happen to arrive now, a free choice for each: the state after them.
Without one to choose from the state is the same (log entry 46). -/
def State.arrivals (s : State) (touches : PStore → Bool) : State :=
  let cand := s.stores.filter (fun p => touches p && s.canPerform p)
  if cand.isEmpty then s else
  let v := Config.freeValue s.freeCtr
  ((cand.zipIdx.filter (fun c => v.getLsbD (c.2 % 64))).map (·.1)).foldl State.force s.freshCtr
/-- A free choice between two states for part `i` of a read. -/
def State.partBit (s : State) (i : Nat) : Bool := (Config.freeValue (s.freeCtr + i / 64)).getLsbD (i % 64)
/-- Bytes at a location, but for those an agent has read there before, the newest first. -/
def underAhead (ahead : List (Nat × Byte)) (loc : Nat) (bs : List Byte) : List Byte :=
  bs.mapIdx (fun i b => match ahead.find? (fun e => e.1 == loc + i) with | some e => e.2 | none => b)
/-- A read at the memory port that is an event for each byte (R208, R215): each byte as it was before the stores that
arrive meanwhile, or after, or as the reader has read it already. -/
def State.portRead (s : State) (ahead : List (Nat × Byte)) (loc n : Nat) : State × List Byte :=
  let s := s.recall loc n
  let s' := s.arrivals (fun p => overlap p.loc p.data.length loc n)
  let old := readBytes s.mem loc n
  if s'.freeCtr = s.freeCtr then (s, underAhead ahead loc old) else
  let new := readBytes s'.mem loc n
  ({ s' with freeCtr := s'.freeCtr + n / 64 + 1 },
    underAhead ahead loc ((List.range n).map (fun i => if s'.partBit i then new.getD i 0 else old.getD i 0)))
/-- The same by an agent of the slot `tid`. -/
def State.byteRead (s : State) (tid : Nat) (w : Party) (ahead : List (Nat × Byte)) (loc n : Nat) : State × List Byte :=
  (s.observe tid w loc n).portRead ahead loc n
/-- Bytes are read before the rest of an access. -/
def State.readAhead (s : State) (loc n : Nat) : State × List (Nat × Byte) :=
  let s := s.recall loc n
  (s, (readBytes s.mem loc n).mapIdx (fun i b => (loc + i, b)))

end Sys2Proof.Machine
end

