-- ==== Sys2Proof/Machine/Filing.lean ====
section
/-!
DEFINITION. The filing of the bin unit (R153, R154), and the places where it must have filed a thread's `ksend`s
because a later event of the thread is ordered after them (R208, R212, R214, R215).
-/
namespace Sys2Proof.Machine

/-- The bin of a key (R154). -/
def binOf (hashk : B64) (cnt : Nat) (key : B64) : Nat :=
  let count := cnt % 2 ^ 16
  if cnt.testBit 22 then min ((key >>> (cnt / 2 ^ 16 % 64)).toNat) (count - 1)
  else ((key ^^^ hashk) * 0x9E3779B97F4A7C15#64).toNat / 2 ^ 32 % count
/-- The thread's stores and what a fence has made visible to it come before the bin unit's access of a scratchpad range
(R154, R209). -/
def State.binTouch (s : State) (tid l n : Nat) : State :=
  let s := (s.stores.filter (fun p => p.tid == tid && overlap p.loc p.data.length l n)).foldl State.force s
  s.observe tid .thread l n
/-- A request of the bin unit, its next lane's header read: what the lane writes stands in `rest`, a refused lane in `mask`.
The table lies at BINBASE as written, a multiple of 16 or not: the spec gives no check of it, nor of the header's DATA (log
entry 45). -/
def State.fileForm (s : State) (r : KsReq) (l : Nat × B64 × B64) : State × KsReq :=
  let refused : B64 := r.mask ||| (1#64 <<< l.1)
  if r.cnt % 2 ^ 16 = 0 then (s, { r with mask := refused, ahead := [] }) else
  let head := spadLoc (coreOf r.tid) (r.base + 16 * binOf r.hashk r.cnt l.2.1)
  let h := (s.binTouch r.tid head 16).byteRead r.tid .thread r.ahead head 16
  let field (k : Nat) : Nat := leNat ((h.2.drop (4 * k)).take 4)
  let held := field 0
  let data := field 2
  if held < field 1 ∧ data + 16 * (held + 1) ≤ 0x30000 then
    (h.1, { r with
      ahead := [], rest := [(spadLoc (coreOf r.tid) (data + 16 * held), leBytes 16 (l.2.1.toNat + 2 ^ 64 * l.2.2.toNat)), (head, leBytes 4 (held + 1))] })
  else (h.1, { r with ahead := [], mask := refused, rest := [(head + 12, leBytes 4 ((field 3 + 1) % 2 ^ 32))] })
/-- Bytes of a record or a header are written. -/
def State.filePut (s : State) (r : KsReq) (l : Nat) (data : List Byte) : State :=
  (s.binTouch r.tid l data.length).portWrite (coreOf r.tid) 0 r.tag s.fleet.devId l data
/-- The bin unit writes `n` bytes of what its lane still has to write at one place: none of these accesses is one event
(R208). -/
def State.fileTake (s : State) (r : KsReq) (piece n : Nat) : State × KsReq :=
  match r.rest[piece]? with
  | none => (s, r)
  | some p =>
    if n = 0 then (s, r) else
    (s.filePut r p.1 (p.2.take n), { r with rest := if p.2.length ≤ n then r.rest.eraseIdx piece else r.rest.set piece (p.1 + n, p.2.drop n) })
/-- All that a lane still has to write is written. -/
def State.fileRest (s : State) (r : KsReq) : State × KsReq := (r.rest.foldl (fun s p => s.filePut r p.1 p.2) s, { r with rest := [] })
/-- Files every active lane in ascending order; the mask of the refused (R154). -/
def State.fileAll (s : State) (r : KsReq) : State × B64 :=
  let a := r.lanes.foldl (fun (a : State × KsReq) l =>
    let x := a.1.fileForm a.2 l
    x.1.fileRest x.2) (s.fileRest r)
  (a.1, a.2.mask)
/-- A part of the oldest `ksend` of a core is filed: `n` bytes at one of the places its lane writes, of the next lane once
one is done. -/
def State.fileBytes (s : State) (core piece n : Nat) : State :=
  if s.clockless core then s else
  match (s.core core).ksq with
  | [] => s
  | r :: rs =>
    let x := match r.rest, r.lanes with
      | [], l :: ls =>
        let y := s.fileForm r l
        (y.1, { y.2 with lanes := ls })
      | _, _ => (s, r)
    let y := x.1.fileTake x.2 piece n
    y.1.modCore core (fun c => { c with ksq := y.2 :: rs })
/-- The oldest `ksend` of a core is filed: its mask is written if its task still runs. -/
def State.fileNext (s : State) (core : Nat) : State :=
  match (s.core core).ksq with
  | [] => s
  | r :: rs =>
    let x := s.fileAll r
    let s := x.1.modCore core (fun c => { c with ksq := rs })
    let t := s.thread r.tid
    if t.act = r.act then
      s.setThread r.tid
        { t with m := if r.d = 0 then t.m else t.m.put r.d x.2, pend := t.pend.filter (fun p => p.op != r.op) }
    else s
/-- Files `n` requests of a core. -/
def fileSome : Nat → Nat → State → State
  | 0, _, s => s
  | n + 1, core, s => fileSome n core (s.fileNext core)
/-- Files a core's queue up to the slot's last request older than `ser`. -/
def State.fileUpTo (s : State) (tid ser : Nat) : State :=
  let q := (s.core (coreOf tid)).ksq
  fileSome (q.length - (q.reverse.takeWhile (fun r => !(r.tid == tid && decide (r.ser < ser)))).length) (coreOf tid) s

end Sys2Proof.Machine
end

