-- ==== Sys2Proof/Machine/Access.lean ====
section
/-!
DEFINITION. Accesses of threads and engines: a thread's own pending stores, what a read returns and what arrives while
it is made (R127, R129, R215), the release half of a fence (R103, R212, R216), Update-only lines (R39; log entries 6, 8).
-/
namespace Sys2Proof.Machine

/-! ## A thread's own stores -/

/-- The thread's own pending stores that touch a range are performed, with what must precede them: for an `upd` of order
.rel the thread's `ksend`s too (R216). -/
def State.drainOver (s : State) (tid loc n : Nat) : State :=
  let own := s.stores.filter (fun p => !p.dead && p.tid == tid && overlap p.loc p.data.length loc n)
  let s := if own.any (fun p => (chainOf s.stores p).any (·.rel)) then s.fileUpTo tid s.nextSer else s
  own.foldl State.force s
/-- All pending stores of a thread are performed, in program order. -/
def State.drainThread (s : State) (tid : Nat) : State := s.performAll (s.stores.filter (fun p => !p.dead && p.tid == tid))
/-- Bytes patched with a pending store where they overlap. -/
def patch (loc : Nat) (bs : List Byte) (p : PStore) : List Byte :=
  bs.mapIdx (fun i b => if p.loc ≤ loc + i ∧ loc + i < p.loc + p.data.length then p.data.getD (loc + i - p.loc) b else b)
/-- A read by the thread in slot `tid`: the memory's bytes under its own pending stores. -/
def State.readFor (s : State) (tid loc n : Nat) : List Byte :=
  (s.stores.filter (fun p => !p.dead && p.tid == tid && overlap p.loc p.data.length loc n)).foldl (patch loc) (readBytes s.mem loc n)
/-- A core's L1 holds the sectors of a range of one line (R35). -/
def State.l1Holds (s : State) (core loc n : Nat) : Bool :=
  match (s.core core).l1.get? (loc / 256) with
  | some x => (x.lo || decide (128 ≤ loc % 256)) && (x.hi || decide (loc % 256 + n ≤ 128))
  | none => false
/-- What a thread's access does before its bytes are read: visible stores of others, its own combines, the recall of
Update-only copies unless its L1 holds the sectors (log entry 6). -/
def State.prepRead (s : State) (tid loc n : Nat) : State :=
  let s := s.observe tid .thread loc n
  let s := if s.stores.any (fun p => !p.dead && p.tid == tid && p.comb.isSome && overlap p.loc p.data.length loc n) then
    s.drainOver tid loc n else s
  if s.l1Holds (coreOf tid) loc n && !(s.upd.any (fun u => u.core == coreOf tid && u.line == loc / 256))
  then s else s.recall loc n
/-- Issues a store of the thread: it becomes pending. -/
def State.pushStore (s : State) (p : PStore) : State :=
  let s := s.observe p.tid .thread p.loc p.data.length
  { s with stores := s.stores ++ [{ p with ser := s.nextSer }], nextSer := s.nextSer + 1 }

/-- A write of an agent that acts for the thread in slot `tid`, at the memory port. -/
def State.partyWrite (s : State) (tid : Nat) (w : Party) (kind : Nat) (tag : BitVec 16) (loc : Nat) (data : List Byte) : State :=
  (s.observe tid w loc data.length).portWrite (coreOf tid) kind tag s.fleet.devId loc data

/-! ## Update-only lines and fences -/

/-- Combines an operand of an `upd` of order .rlx into the issuing core's Update-only line (R39). -/
def State.updLine (s : State) (tid loc : Nat) (op : UpdOp) (w64 : Bool) (b : B64) : State :=
  let s := (s.observe tid .thread loc (updBytes w64)).drainOver tid loc (updBytes w64)
  { s.combine tid s.nextSer loc op w64 b s.tag with nextSer := s.nextSer + 1 }

/-- `ksend`s, stores and contributions of a slot older than `ser` become visible, before an engine reads for it or a dependent launch goes on
(R214, R215). -/
def State.flushBefore (s : State) (tid ser : Nat) : State :=
  let s := s.fileUpTo tid ser
  let s := s.performAll (s.stores.filter (fun p => p.tid == tid && decide (p.ser < ser)))
  s.mergeWhere (fun u => u.who.any (fun w => w.1 == tid && decide (w.2 < ser)))
/-- A `fence.eng` of the slot `tid` has made its scope's jobs that start later follow every store a fence has made visible to
the slot: its own, and those of others that it may have seen (R215, R219). -/
def State.orderJobs (s : State) (tid : Nat) (sc : Scope) : State :=
  let seen (p : PStore) : Bool := p.vis != .t && inScope p.vis p.tid tid
  if s.stores.any seen then
    { s with nextSer := s.nextSer + 1, stores := s.stores.map (fun p => if seen p then { p with engs := (tid, sc, s.nextSer) :: p.engs } else p) }
  else s
/-- The release half of a fence of a scope (R103, R212, R216; log entry 8): the thread's `ksend`s have filed; device scope
performs its stores and merges its contributions; a narrower one marks its stores visible inside it, and at .k and .f
its combines and contributions merge. `eng` is `fence.eng`: the stores visible to the fencing thread then precede the jobs
inside the scope that start later (R215; log entry 6). -/
def State.release (s : State) (tid : Nat) (sc : Scope) (eng : Bool) : State :=
  let wide : Scope → Nat | .t => 0 | .c => 1 | .k => 2 | .f => 3 | .d => 4 | .s => 4
  if wide sc = 0 then s else
  let s := s.fileUpTo tid s.nextSer
  let s := if wide sc = 4 then s.drainThread tid
    else if s.stores.any (fun p => !p.dead && p.tid == tid) then
      let s := { s with nextSer := s.nextSer + 1, stores := s.stores.map (fun p => if !p.dead && p.tid == tid then { p with
        vis := if wide p.vis < wide sc then sc else p.vis, visAt := if p.vis = .t then s.nextSer else p.visAt } else p) }
      if wide sc = 1 then s else (s.stores.filter (fun p => !p.dead && p.tid == tid && p.comb.isSome)).foldl State.force s
    else s
  let s := if 2 ≤ wide sc then s.mergeWhere (fun u => u.who.any (fun w => w.1 == tid)) else s
  if eng then s.orderJobs tid sc else s

end Sys2Proof.Machine
end

