-- ==== Sys2Proof/Machine/Walk.lean ====
section
/-!
DEFINITION. The context address space (R30 to R33): the page-table walk (R322, R323), the translation caches (R324), and
what an address selects.
-/
namespace Sys2Proof.Machine

/-! ## The walk (R322, R323) -/

/-- The leaf a walk ends at: log2 of its size and its entry; or no mapping, with whether a broken entry with V = 1 ended it. -/
inductive Walked where | leaf (log2 entry : Nat) | none (broken : Bool)
  deriving DecidableEq, Repr

/-- An entry of level `lv` judged by R322: `some true` a leaf, `some false` the next table, `none` broken. -/
def pteKind (lv e : Nat) : Option Bool :=
  let isLeaf := e.testBit 1
  if e.testBit 5 then
    if lv = 4 ∧ isLeaf ∧ ¬ e.testBit 3 ∧ ¬ e.testBit 2 ∧ bits e 63 54 = 0 ∧ bits e 7 6 = 0 then some true else none
  else if bits e 63 40 ≠ 0 ∨ bits e 11 6 ≠ 0 then none
  else match lv with
    | 1 => if isLeaf then none else some false
    | 2 => if isLeaf then (if bits e 33 12 = 0 then some true else none) else some false
    | 3 => if isLeaf then (if bits e 24 12 = 0 then some true else none) else some false
    | _ => if isLeaf ∧ bits e 15 12 = 0 then some true else none

/-- log2 of the size a leaf of a level maps. -/
def leafLog2 : Nat → Nat | 2 => 34 | 3 => 25 | _ => 16

/-- Walks from `table` for the levels `5 - fuel` to 4; each entry is read at its home, coherently (R324, R39). -/
def walkFrom (s : State) (va : Nat) : Nat → Nat → Walked
  | 0, _ => .none false
  | fuel + 1, table =>
    let lv := 4 - fuel
    let idx := bits va (51 - 9 * (lv - 1)) (43 - 9 * (lv - 1))
    let e := leNat (readBytes (s.recall (table + 8 * idx) 8).mem (table + 8 * idx) 8)
    if ¬ e.testBit 0 then .none false else
    match pteKind lv e with
    | none => .none true
    | some k =>
      let pa := bits e 39 12 * 2 ^ 12
      if ¬ e.testBit 5 ∧ ¬ s.stackOk pa then .none true
      else if k then .leaf (leafLog2 lv) e else walkFrom s va fuel pa
/-- The walk from a context's root. -/
def State.walk (s : State) (ctx va : Nat) : Walked :=
  match s.ctx? ctx with
  | none => .none false
  | some c => walkFrom s va 4 c.root

/-- A TLB entry that maps `va` for `ctx`. -/
def TlbEntry.hits (e : TlbEntry) (ctx va : Nat) : Bool := e.ctx == ctx && va / 2 ^ e.log2 == e.va / 2 ^ e.log2
/-- The leaf an access of `core` uses: a cached one if a TLB holds it, else the walk's (R324). -/
def State.leafFor (s : State) (core ctx va : Nat) : Walked :=
  match (s.core core).tlb.find? (·.hits ctx va) with
  | some e => .leaf e.log2 e.leaf
  | none =>
    match (s.croft (croftOf core)).tlb2.find? (·.hits ctx va) with
    | some e => .leaf e.log2 e.leaf
    | none => s.walk ctx va

/-- R323's checks of an access against a leaf, and the place it selects. -/
def leafPlace (sys : Bool) (acc : Acc) (va log2 e : Nat) : Xl :=
  if ¬ sys ∧ ¬ e.testBit 4 then .prot
  else if e.testBit 5 then
    if acc = .remote then .win (bits e 11 8 * 64 + bits e 17 12) (bits e 29 18) (bits e 53 30 * 0x10000 + va % 0x10000)
    else .prot
  else match acc with
    | .read => .loc (bits e 39 12 * 2 ^ 12 + va % 2 ^ log2)
    | .write => if e.testBit 2 then .loc (bits e 39 12 * 2 ^ 12 + va % 2 ^ log2) else .prot
    | .fetch => if e.testBit 3 then .loc (bits e 39 12 * 2 ^ 12 + va % 2 ^ log2) else .prot
    | .remote => .prot

/-- A scratchpad byte: protected areas (R23, R33), no fetch (R43), no remote form (R32). -/
def spadPlace (sys : Bool) (acc : Acc) (core off : Nat) : Xl :=
  if acc = .fetch ∨ acc = .remote then .prot
  else if ¬ sys ∧ (0x30000 ≤ off ∧ off < 0x38000 ∨ 0x3C000 ≤ off) then .prot
  else .loc (spadLoc core off)

/-- R30: what `va` selects for an access by a task of `ctx` on `core`. -/
def State.route (s : State) (core ctx : Nat) (sys : Bool) (acc : Acc) (va : B64) : Xl :=
  let v := va.toNat
  if 2 ^ 52 ≤ v then .xlate
  else if 0xFFFFFFFFC0000 ≤ v then spadPlace sys acc core (v - 0xFFFFFFFFC0000)
  else if 0xFFF0640000000 ≤ v then .xlate
  else if 0xFFF0000000000 ≤ v then spadPlace sys acc ((v - 0xFFF0000000000) / 0x40000) ((v - 0xFFF0000000000) % 0x40000)
  else match s.leafFor core ctx v with
    | .none _ => .xlate
    | .leaf log2 e => leafPlace sys acc v log2 e

/-- An address lies in a page of a remote window (R322). -/
def State.winPage (s : State) (core ctx : Nat) (va : B64) : Bool :=
  decide (va.toNat < 0xFFF0000000000) && (match s.leafFor core ctx va.toNat with | .leaf _ e => e.testBit 5 | .none _ => false)

/-- Where a walk reads its entries. -/
def walkReads (s : State) (va : Nat) : Nat → Nat → List Nat
  | 0, _ => []
  | fuel + 1, table =>
    let lv := 4 - fuel
    let a := table + 8 * bits va (51 - 9 * (lv - 1)) (43 - 9 * (lv - 1))
    let e := leNat (readBytes (s.recall a 8).mem a 8)
    a :: (if e.testBit 0 && pteKind lv e == some false then walkReads s va fuel (bits e 39 12 * 2 ^ 12) else [])
/-- What the translation of `va` for an access of `core` does: a miss of both caches is counted and walks, and the home
of each entry read merges the Update-only copies first (R324, R39, R353). -/
def State.walked (s : State) (core ctx : Nat) (va : B64) : State :=
  let v := va.toNat
  if 0xFFF0000000000 ≤ v || (s.core core).tlb.any (·.hits ctx v) || (s.croft (croftOf core)).tlb2.any (·.hits ctx v) then s else
  let s := s.count core 0 11 1
  if s.upd.isEmpty then s else
  match s.ctx? ctx with
  | none => s
  | some c => (walkReads s v 4 c.root).foldl (fun s a => s.recall a 8) s

/-- The walker error count after a walk for `va` that a broken entry ended (R323). -/
def State.bumpWalk (s : State) (ctx : Nat) (va : B64) : State :=
  if 0xFFF0000000000 ≤ va.toNat then s else
  match s.walk ctx va.toNat with
  | .none true => { s with fleet := { s.fleet with walkerr := s.fleet.walkerr + 1 } }
  | _ => s

end Sys2Proof.Machine
end

