-- ==== Sys2Proof/Machine/Directory.lean ====
section
/-!
DEFINITION. The directory (R35 to R38): lines served to L1s, sharers recorded and invalidated, the events the reeve
handles, and the wake of a switched-off home (R36, R110, R351).
-/
namespace Sys2Proof.Machine

/-- Whether a core is one an entry names. -/
def DirEntry.names (e : DirEntry) (core : Nat) : Bool :=
  match e.mode with | .cores => e.who.contains core | .crofts => e.who.contains (croftOf core) | .broadcast => true
/-- Invalidates the L1 copies of an entry's line, at every core it names but `keep`. -/
def State.invalidate (s : State) (e : DirEntry) (keep : Option Nat) : State :=
  { s with cores := s.cores.map (fun (k : Nat) (c : Core) => if e.names k && keep != some k then { c with l1 := c.l1.erase e.line } else c) }
/-- Replaces the entry of a line in a slice. -/
def Core.putDir (c : Core) (e : DirEntry) : Core := { c with dir := c.dir.filter (fun x => x.line != e.line) ++ [e] }
/-- A slice of 4,096 entries without one for a new line evicts one, a free choice, invalidating its sharers (R37). -/
def State.dirRoom (s : State) (home line : Nat) : State :=
  let c := s.core home
  if c.dir.any (fun e => e.line == line) || c.dir.length < 4096 then s else
  match c.dir[(Config.freeValue s.freeCtr).toNat % c.dir.length]? with
  | none => s
  | some e => ((s.freshCtr.invalidate e none)).modCore home (fun c => { c with dir := c.dir.filter (fun x => x.line != e.line) })
/-- The lowest overflow record that no entry has (R38). -/
def Core.freeRecord (c : Core) : Option Nat := (List.range 256).find? (fun k => !c.dir.any (fun e => e.ovf == some k))
/-- The reeve records a sharer that the slice's pointers cannot (R38): in an overflow record, else by croft, else by
broadcast. A line that enters croft mode for want of a free record names up to 28 crofts all the same (log entry 45). -/
def reeveRecord (c : Core) (e : DirEntry) (core : Nat) : DirEntry :=
  match e.mode with
  | .cores =>
    let k := e.ovf.orElse (fun _ => c.freeRecord)
    if e.who.length < 28 && k.isSome then { e with who := e.who ++ [core], ovf := k }
    else
      let crofts := ((e.who ++ [core]).map croftOf).dedup
      if crofts.length ≤ 28 then { e with mode := .crofts, who := crofts } else { e with mode := .broadcast, who := [] }
  | .crofts => if e.who.length < 28 then { e with who := e.who ++ [croftOf core] } else { e with mode := .broadcast, who := [] }
  | .broadcast => e
/-- A line enters a core's L1 in a state, or changes to it: the sector of the location is filled, and counted, unless it
is there (R35, R353). -/
def State.fillSector (s : State) (core pa : Nat) (st : L1St) : State :=
  let s := s.l1Room core (pa / 256)
  let old := ((s.core core).l1.get? (pa / 256)).getD ⟨st, false, false⟩
  let hi := decide (128 ≤ pa % 256)
  let s := s.modCore core (fun c => { c with l1 := c.l1.put (pa / 256) ⟨st, old.lo || !hi, old.hi || hi⟩ })
  if (if hi then old.hi else old.lo) then s else s.count core 0 9 1
/-- A line served to a reader: Exclusive when no other core is named, else Shared for all that hold it (R35). A core that
holds it Modified keeps it so. -/
def State.serveRead (s : State) (e : DirEntry) (core pa : Nat) : State :=
  let alone := e.mode == .cores && e.who == [core]
  let s : State := if alone then s else
    { s with cores := s.cores.map (fun (_ : Nat) (c : Core) =>
        match c.l1.get? e.line with | some x => { c with l1 := c.l1.put e.line { x with st := .shared } } | none => c) }
  let modified : Bool := match (s.core core).l1.get? e.line with | some x => x.st == .modified | none => false
  s.fillSector core pa (if !alone then .shared else if modified then .modified else .exclusive)
/-- A write or upgrade: every other sharer is invalidated, the requester holds the line alone (R37, R38). -/
def State.serveWrite (s : State) (home core pa : Nat) : State :=
  let line := pa / 256
  let s := match (s.core home).dir.find? (fun e => e.line == line) with
    | some e => s.invalidate e (some core)
    | none => s
  (s.modCore home (fun c => c.putDir ⟨line, .cores, [core], none⟩)).fillSector core pa .modified
/-- A read by `core` of a line new to the slice is recorded and served. -/
def State.dirNew (s : State) (home core pa : Nat) : State :=
  let e : DirEntry := ⟨pa / 256, .cores, [core], none⟩
  (s.modCore home (fun c => c.putDir e)).serveRead e core pa
/-- A directory event is handled by the reeve: the sharer is recorded and its read served. -/
def State.reeveServe (s : State) (home core pa : Nat) : State :=
  match (s.core home).dir.find? (fun e => e.line == pa / 256) with
  | none => s.dirNew home core pa
  | some e =>
    let e' := if e.names core then e else reeveRecord (s.core home) e core
    (s.modCore home (fun c => c.putDir e')).serveRead e' core pa
/-- The system slot of a core that stopped in `idle` is Ready again: its slice has raised an event, or the steward has
posted a notice (R110). -/
def State.wakeReeve (s : State) (core : Nat) : State :=
  let t := s.thread (tidOf core 4)
  if t.st = .stalled .idle then s.setThread (tidOf core 4) { t with st := .ready, readyAt := s.issueCycle core } else s
/-- A switched-off core is being woken: its pipeline is on within 1 µs (R36, R351). -/
def State.wakeCore (s : State) (core : Nat) : State :=
  if (s.core core).isoff && (s.core core).wakeBy.isNone then s.modCore core (fun c => { c with wakeBy := some (s.now + 2000) }) else s
/-- Whether a read by `core` of a line with this entry raises a directory event. -/
def DirEntry.overflows (e : DirEntry) (core : Nat) : Bool := !e.names core && !(e.mode == .cores && decide (e.who.length < 4))
/-- A read by `core` of a line whose entry stands. At a switched-off core the event waits for the wake it brings about. -/
def State.dirRead (s : State) (home : Nat) (e : DirEntry) (core pa : Nat) : State :=
  if e.names core then s.serveRead e core pa
  else if !e.overflows core then
    let e' := { e with who := e.who ++ [core] }
    (s.modCore home (fun c => c.putDir e')).serveRead e' core pa
  else
    let s := (s.count home 0 12 1).wakeReeve home
    if (s.core home).isoff then (s.modCore home (fun c => { c with dirQ := c.dirQ ++ [(pa, core)] })).wakeCore home
    else s.reeveServe home core pa
/-- Before the slice serves a request for a line, Update-only copies of it are merged (R39) and an entry is free for it. -/
def State.dirReady (s : State) (pa : Nat) : State := (s.mergeAt (pa / 256 * 256) 256).dirRoom (homeCore pa) (pa / 256)
/-- The slice serves a request. -/
def State.dirServe (s : State) (pa core : Nat) (write : Bool) : State :=
  let home := homeCore pa
  let s := s.dirReady pa
  if write then s.serveWrite home core pa else
  match (s.core home).dir.find? (fun e => e.line == pa / 256) with
  | some e => s.dirRead home e core pa
  | none => s.dirNew home core pa
/-- A request of `core` for the line of `pa` reaches the home's slice; behind a full event queue it waits, in order of
arrival (R37). -/
def State.dirRequest (s : State) (pa core : Nat) (write : Bool) : State :=
  let home := homeCore pa
  if 2 ^ 40 ≤ pa || nCores ≤ core || !s.stackOk pa then s
  else if 16 ≤ (s.core home).dirQ.length || !(s.core home).dirWait.isEmpty then
    s.modCore home (fun c => { c with dirWait := c.dirWait ++ [(pa, core, write)] })
  else s.dirServe pa core write
/-- Once its core's pipeline is on, a slice's queued events are handled in order, then the requests behind them. -/
def State.reeveAll (s : State) (home : Nat) : State :=
  let c := s.core home
  let s := s.modCore home (fun c => { c with dirQ := [], dirWait := [] })
  let s := c.dirQ.foldl (fun s r => (s.dirReady r.1).reeveServe home r.2 r.1) s
  c.dirWait.foldl (fun s r => s.dirServe r.1 r.2.1 r.2.2) s
/-- A thread's read at a location is a directory event at a switched-off home (R36): its core's L1 lacks the line, and the
slice's pointers cannot record the core. -/
def State.dirAsleep (s : State) (core loc : Nat) : Bool :=
  let home := homeCore loc
  decide (loc < 2 ^ 40) && (s.core home).isoff && ((s.core core).l1.get? (loc / 256)).isNone &&
  (match (s.core home).dir.find? (fun e => e.line == loc / 256) with | some e => e.overflows core | none => false)

end Sys2Proof.Machine
end

