-- ==== Sys2Proof/Machine/LightOps.lean ====
section
/-!
DEFINITION. The Well's arithmetic and its grant state machine (R269 to R284): orders from setpoints by an exact
integer test of the decibel comparison, the pool's accounting, the moves of a path between its states.
-/
namespace Sys2Proof.Machine

/-! ## Decibels without logarithms -/

/-- 10 × log10(P / 8) ≥ X / 100, for a setpoint of P grant units and X hundredths of a dB: both sides raised. -/
def reaches (p : Nat) (x : Int) : Bool :=
  if 0 ≤ x then decide (8 ^ 1000 * 10 ^ x.toNat ≤ p ^ 1000) else decide (8 ^ 1000 ≤ p ^ 1000 * 10 ^ (-x).toNat)
/-- REQ of R272 in hundredths of a dBm, by order. -/
def reqDb : Nat → Int | 1 => -1350 | 2 => -900 | 3 => -650 | _ => -400
/-- Loss, margin and split of a lane in hundredths of a dB. -/
def State.lossDb (s : State) (lane stages : Nat) : Int :=
  let l := s.lane lane
  (l.loss + 25 * l.trim + 25 * s.well.margin + 330 * stages : Nat)
/-- Ord of R272 for a setpoint, 0 for none. -/
def State.ord (s : State) (lane p stages : Nat) : Nat :=
  if p = 0 then 0 else
  let x := s.lossDb lane stages
  if reaches p (reqDb 4 + x) then 4 else if reaches p (reqDb 3 + x) then 3
  else if reaches p (reqDb 2 + x) then 2 else if reaches p (reqDb 1 + x) then 1 else 0
/-- The least setpoint below 2^16 that reaches x, by bits; 2^16 when none does. -/
def leastSet (x : Int) : Nat :=
  (List.range 16).foldl (fun acc i => if reaches (acc + 2 ^ (15 - i)) x then acc else acc + 2 ^ (15 - i)) 0 + 1

/-! ## A path's ports and lanes -/

/-- The port numbers of a mask. -/
def portList (mask : Nat) : List Nat := (List.range 24).filter (fun p => mask.testBit p)
/-- The lane numbers of a mask, ascending (R270). -/
def laneList (mask : Nat) : List Nat := (portList mask).flatMap (fun p => (List.range 8).map (fun i => 8 * p + i))
/-- The live lanes of a mask. -/
def State.live (s : State) (mask : Nat) : List Nat := (laneList mask).filter (fun n => !(s.lane n).erased)
/-- Split stages of a path at fan-out `f` (R272). -/
def stagesOf (p : Path) (f : Nat) : Nat := if p.mcast then Nat.log2 f else 0
/-- The path that owns a port: lit, or with its lanes not dark yet (R270). -/
def State.portOwner (s : State) (port : Nat) : Option Nat :=
  (s.well.paths.cells.find? (fun c => (c.2.grant != 0 && c.2.ports.testBit port) || (c.2.dark && c.2.oldPorts.testBit port))).map (·.1)
/-- R270: a port of the path belongs to another path, or is not ready (R316). -/
def State.blocked (s : State) (p : Nat) (x : Path) : Bool :=
  (portList x.ports).any (fun q => !s.portReady q || (match s.portOwner q with | some o => o != p | none => false))
/-- MIN(p) of R273 (log entry 19: never above 0xFFFF). -/
def State.minOf (s : State) (p : Nat) (x : Path) : Nat :=
  if s.blocked p x then 0xFFFF else
  let live := s.live x.ports
  let worst := live.foldl (fun a n => max a (leastSet (reqDb 1 + s.lossDb n 0))) 0
  min 0xFFFF (live.length * worst)
/-- CEIL(p) of R273. -/
def State.ceilOf (s : State) (x : Path) : Nat := 128 * (s.live x.ports).length
/-- HELD of a context (R269). -/
def State.held (s : State) (ctx : Nat) : Nat :=
  (s.well.paths.cells.filter (fun c => c.2.ctx == ctx)).foldl (fun a c => a + c.2.grant) 0
/-- DRAIN(p) of R197. -/
def Path.drain (x : Path) : Nat := x.drains.foldl (fun a d => a + d.1) 0

/-- The floor F of a lane (R276): the least setpoint of the last 1,600 ns. -/
def State.floorOf (s : State) (n : Nat) : Nat :=
  let l := s.lane n
  l.hist.foldl (fun a h => if s.now < h.1 + 3200 then min a h.2 else a) l.set
/-- The order all live lanes of a port support when lane `n` runs at setpoint `f n`; none without a live lane (R272). -/
def State.portOrd (s : State) (port stages : Nat) (f : Nat → Nat) : Nat :=
  match s.live (2 ^ port) with
  | [] => 0
  | n :: ns => ns.foldl (fun a n => min a (s.ord n (f n) stages)) (s.ord n (f n) stages)
/-- R274: the widest fan-out that every live lane carries at setpoints `f`. -/
def State.fanOf (s : State) (x : Path) (f : Nat → Nat) : Nat :=
  if !x.mcast then 1 else
  let top := if x.mem.length ≤ 1 then 1 else if x.mem.length ≤ 2 then 2 else if x.mem.length ≤ 4 then 4 else 8
  let ok (k : Nat) : Bool := decide (k ≤ top) && (s.live x.ports).all (fun n => s.ord n (f n) (Nat.log2 k) != 0)
  if ok 8 then 8 else if ok 4 then 4 else if ok 2 then 2 else 1

/-- Sets the target setpoints R271 gives a path's grant. -/
def State.share (s : State) (x : Path) : State :=
  let live := s.live x.ports
  let q := x.grant / live.length
  let r := x.grant % live.length
  (live.zipIdx).foldl (fun s c => s.setLane c.1 { s.lane c.1 with target := q + (if c.2 < r then 1 else 0) }) s
/-- The setpoints a path moves through stay above this: min(F, P′) of R276. -/
def State.lowSet (s : State) (n : Nat) : Nat := min (s.floorOf n) (s.lane n).target
/-- The orders setpoints `f` support at fan-out `k`, by port. -/
def State.ordersAt (s : State) (x : Path) (k : Nat) (f : Nat → Nat) : SMap Nat :=
  (portList x.ports).foldl (fun m p => m.put p (s.portOrd p (stagesOf x k) f)) {}
/-- The Well decides on a step of a path in state `st` to fan-out `k` and the orders setpoints `f` support, with F as it is
now (R275, R276): each port then finds its own step point. -/
def State.decideStep (s : State) (x : Path) (st k : Nat) (f : Nat → Nat) : Path :=
  { x with st := st, step := some s.now, toStep := portList x.ports, ords := s.ordersAt x k f, fanTo := k }

/-- Moves every live lane of a path to its target setpoint, keeping the old one for F. -/
def State.moveLanes (s : State) (x : Path) : State :=
  (s.live x.ports).foldl (fun s n =>
    let l := s.lane n
    if l.set = l.target then s else
    s.setLane n { l with set := l.target, hist := (s.now, l.set) :: l.hist.filter (fun h => s.now < h.1 + 3200) }) s
/-- Released GU without a date return 1,600 ns from now (R269). -/
def datedDrains (now : Nat) (l : List (Nat × Nat)) : List (Nat × Nat) := l.map (fun d => if d.2 = 0 then (d.1, now + 3200) else d)
/-- Enters state 2 or 3 of R276 with a haze of 1,600 ns; a fall starts the return of released GU (R269). -/
def State.enterHaze (s : State) (p : Nat) (rise : Bool) : State :=
  match s.path? p with
  | none => s
  | some x =>
    let s := s.moveLanes x
    s.setPath p { x with st := if rise then 2 else 3, till := s.now + 3200, step := none, toStep := [], drains := datedDrains s.now x.drains }
/-- The lowest fan-out and orders of a path at setpoints `f` lie below those in force. -/
def State.mustFall (s : State) (x : Path) (f : Nat → Nat) : Bool :=
  let k := s.fanOf x f
  decide (k < x.fan) || (portList x.ports).any (fun q => decide (s.portOrd q (stagesOf x (min k x.fan)) f < (s.oport q).order))
/-- They lie above, or the path is not lit yet. -/
def State.mayRise (s : State) (x : Path) : Bool :=
  let k := s.fanOf x s.floorOf
  !x.lit || decide (x.fan < k) || (portList x.ports).any (fun q => decide ((s.oport q).order < s.portOrd q (stagesOf x k) s.floorOf))
/-- The power of a path moves to its targets: a haze when a setpoint changes, else the path is steady. -/
def State.movePower (s : State) (p : Nat) : State :=
  match s.path? p with
  | none => s
  | some x =>
    let live := s.live x.ports
    if live.any (fun n => decide ((s.lane n).set < (s.lane n).target)) then s.enterHaze p true
    else if live.any (fun n => decide ((s.lane n).target < (s.lane n).set)) then s.enterHaze p false
    else s.setPath p (if x.st = 1 then { x with st := 0, step := none, toStep := [], drains := datedDrains s.now x.drains }
      else { x with drains := datedDrains s.now x.drains })
/-- The steps up of a path whose power does not move: a pending one stays only while it is what the setpoints support now,
and one that has become possible is decided on, STATE staying as it is. A rise that becomes possible in a haze waits for
the haze's end (the model's choice; log entry 45). -/
def State.planRise (s : State) (p : Nat) : State :=
  match s.path? p with
  | none => s
  | some x =>
    if x.st = 3 || (x.st = 2 && x.step.isNone) then s
    else
      let y := s.decideStep x x.st (s.fanOf x s.floorOf) s.floorOf
      if !s.mayRise x then
        if x.step.isNone then s else s.setPath p { x with step := none, toStep := [], st := if x.lit then 0 else x.st }
      else if x.step.isSome && x.ords == y.ords && x.fanTo == y.fanTo then s
      else s.setPath p y
/-- A change the Well accepts (R276), the targets being set, as if in state 0 whatever the state: state 1 when an order
must fall first, with a step not yet at its step point replaced; else the power moves, and where it does not the orders
may rise. -/
def State.acceptChange (s : State) (p : Nat) : State :=
  match s.path? p with
  | none => s
  | some x =>
    if s.mustFall x s.lowSet then s.setPath p (s.decideStep x 1 (min x.fan (s.fanOf x s.lowSet)) s.lowSet)
    else (s.movePower p).planRise p
/-- A re-evaluation (R283): a change under R276 with every setpoint unchanged. A path without a grant has none. -/
def State.reevaluate (s : State) (p : Nat) : State :=
  match s.path? p with
  | none => s
  | some x => if x.grant = 0 then s else s.acceptChange p

/-! ## Telemetry of lanes (R342, R343) -/

/-- Changes STATE or STRIPE of lanes: TELGEN rises once in a cycle in which any changes, and is noted in each that does. -/
def State.telLanes (s : State) (ls : List Nat) (f : Nat → Lane → Lane) : State :=
  let differs (n : Nat) : Bool := (f n (s.lane n)).st != (s.lane n).st || (f n (s.lane n)).stripe != (s.lane n).stripe
  let any := ls.any differs
  let gen := if s.fleet.telAt = some s.now then s.fleet.telgen else (s.fleet.telgen + 1) % 2 ^ 32
  let s' := ls.foldl (fun a n => a.setLane n { (f n (s.lane n)) with gen := if differs n then gen else (s.lane n).gen }) s
  if any then { s' with fleet := { s'.fleet with telgen := gen, telAt := some s.now } }.fleetEv 0 else s'
/-- A lane lights: live, on its stripe. -/
def liveLane (n : Nat) (l : Lane) : Lane := { l with st := 0, stripe := n % 8 }
/-- A lane goes dark; an erased or failed one keeps its state. -/
def darkLane (_ : Nat) (l : Lane) : Lane := { l with st := if l.erased then l.st else 3, stripe := 0xFF }

/-! ## Going dark -/

/-- A grant set to 0, or an entry released: its codewords leave first, then the lanes go dark; GU of a shrink whose lower
setpoint never took effect return with the rest (R269, R277). -/
def State.darken (s : State) (p : Nat) : State :=
  match s.path? p with
  | none => s
  | some x =>
    if x.grant = 0 then s
    else
      let undated := (x.drains.filter (fun d => d.2 = 0)).foldl (fun a d => a + d.1) 0
      s.setPath p { x with
        grant := 0, dark := true, lit := false, darkGu := x.darkGu + x.grant + undated, oldPorts := x.oldPorts ||| x.ports,
        drains := x.drains.filter (fun d => d.2 != 0), step := none, toStep := [], st := 0 }
/-- The lanes of a path that is going dark are dark: their power and order end and their GU return (R269, R277). -/
def State.goDark (s : State) (p : Nat) : State :=
  match s.path? p with
  | none => s
  | some x =>
    if !x.dark then s else
    let s := s.telLanes (laneList x.oldPorts) (fun n l => { (darkLane n l) with set := 0, target := 0, hist := [] })
    let s := (portList x.oldPorts).foldl (fun s q => s.setOport q { s.oport q with order := 0 }) s
    let s := { s with well := { s.well with free := s.well.free + x.darkGu } }
    s.setPath p { x with dark := false, darkGu := 0, oldPorts := 0, fan := 1 }

/-- Takes `g` GU from a path's draining GU first, the oldest first (the model's choice; log entry 45); what is left to
take, and the drains after. -/
def takeDrains : Nat → List (Nat × Nat) → Nat × List (Nat × Nat)
  | g, [] => (g, [])
  | g, d :: ds => if d.1 ≤ g then takeDrains (g - d.1) ds else (0, (d.1 - g, d.2) :: ds)
/-- Sets a nonzero grant: accounting of R269, targets of R271, the move of R276. -/
def State.setGrant (s : State) (p g : Nat) : State :=
  let s := s.goDark p
  match s.path? p with
  | none => s
  | some x =>
    if g = x.grant then s else
    let s := if x.grant < g then
        let r := takeDrains (g - x.grant) x.drains
        { s with well := { s.well with free := s.well.free - r.1 } }.setPath p { x with grant := g, drains := r.2 }
      else s.setPath p { x with grant := g, drains := x.drains ++ [(x.grant - g, 0)] }
    (s.share { x with grant := g }).acceptChange p

/-- A port may carry packets of its lit path: its readiness bit is 1 and it has an order (R272). -/
def State.mayCarry (s : State) (q : Nat) : Bool := s.portReady q && (s.oport q).order != 0
/-- A path is lit (R285): it has a grant and its lighting has ended (R277). While a ready port of it with live lanes runs at
no order, after a step to none (a retrained lane before its power has risen, R344), it is not lit but lighting (R272). -/
def State.isLit (s : State) (x : Path) : Bool :=
  x.grant != 0 && x.lit &&
  (portList x.ports).all (fun q => !s.portReady q || (s.oport q).order != 0 || (s.live (2 ^ q)).isEmpty)
/-- The ports that may carry packets of a context to a device, each with its path (R285); none while the return channel
toward the device has lost training (R280). -/
def State.eligible (s : State) (ctx dev : Nat) : List (Nat × Nat) :=
  if s.sq.retDown.contains dev then [] else
  (s.well.paths.cells.filter (fun c => !c.2.mcast && c.2.ctx == ctx && c.2.dev == dev && s.isLit c.2)).flatMap
    (fun c => ((portList c.2.ports).filter s.mayCarry).map (fun q => (q, c.1)))
/-- Whether a unicast path of the context to the device is still lighting (R277). -/
def State.lighting (s : State) (ctx dev : Nat) : Bool :=
  !s.sq.retDown.contains dev &&
  s.well.paths.cells.any (fun c => !c.2.mcast && c.2.ctx == ctx && c.2.dev == dev && c.2.grant != 0 && !s.isLit c.2)
/-- R181: a unicast path of the context to the device has a nonzero grant. -/
def State.reachable (s : State) (ctx dev : Nat) : Bool :=
  s.well.paths.cells.any (fun c => !c.2.mcast && c.2.ctx == ctx && c.2.dev == dev && c.2.grant != 0)

end Sys2Proof.Machine
end

