-- ==== Sys2Proof/Machine/Record.lean ====
section
/-!
DEFINITION. The Almanac (R313, R314), its error records (R329) and the bookkeeping every agent shares: skip notices
(R186), token settling (R192), launches completing (R244).
-/
namespace Sys2Proof.Machine

/-! ## Command blocks (R312, R241) -/

/-- Dword `i` of a block. -/
def dw (b : List B64) (i : Nat) : Nat := (b.getD i 0).toNat
/-- CMD. -/
def cmdCode (b : List B64) : Nat := dw b 0 % 256
/-- CTXID. -/
def cmdCtx (b : List B64) : Nat := bits (dw b 0) 47 32
/-- A queued LAUNCH. -/
def isLaunch (c : Cmd) : Bool := cmdCode c.block == 0x21 && c.st == 1
/-- The predecessors a block names. -/
def predsOf (b : List B64) : List Nat :=
  [dw b 4 % 2 ^ 32, dw b 4 / 2 ^ 32, dw b 5 % 2 ^ 32, dw b 5 / 2 ^ 32].filter (fun p => p != 0)

/-! ## The Almanac -/

/-- Address of entry `q` (R313). -/
def State.almEntry (s : State) (q : Nat) : Nat := bits s.host.almbase.toNat 39 23 * 2 ^ 23 + 64 * (q % 65536)
/-- Address of the state word of `q`. -/
def State.almState (s : State) (q : Nat) : Nat := bits s.host.almbase.toNat 39 23 * 2 ^ 23 + 0x400000 + 8 * (q % 65536)
/-- A state word (R313). -/
def stateWord (q st status result : Nat) : Nat := st + 2 ^ 8 * status + 2 ^ 16 * (q / 2 ^ 16 % 2 ^ 16) + 2 ^ 32 * (result % 2 ^ 32)
/-- Raises ALMIRQ's vector for the changes not yet reported, once 1 µs has passed since the last (R313). -/
def State.almRaise (s : State) : State :=
  if s.host.irqPend && s.host.almirq.getLsbD 8 && decide (s.host.irqAt ≤ s.now) then
    { s with host := { s.host with irqs := s.host.irqs ++ [s.host.almirq.toNat % 64], irqAt := s.now + 2000, irqPend := false } }
  else s
/-- A state change that ALMIRQ reports when it is enabled; changes within 1 µs of an interrupt share the next (R313). -/
def State.almIrq (s : State) : State :=
  if s.host.almirq.getLsbD 8 then ({ s with host := { s.host with irqPend := true } } : State).almRaise else s
/-- Writes the state word of command `q`; states 3, 4 and 5 raise the interrupt (R313). -/
def State.setCmd (s : State) (q st status result : Nat) : State :=
  let s := s.homeWrite (s.almState q) (leBytes 8 (stateWord q st status result))
  let cmds := if 3 ≤ st then s.host.cmds.filter (fun c => c.q != q)
    else s.host.cmds.map (fun c => if c.q = q then { c with st := st } else c)
  let s := { s with host := { s.host with cmds := cmds } }
  if 3 ≤ st then s.almIrq else s
/-- Entries in use: ALMHEAD − ALMTAIL. -/
def State.almUsed (s : State) : Nat := (s.host.head + 2 ^ 32 - s.host.tail) % 2 ^ 32
/-- An error record (R329): dropped and counted while the Almanac is off or full. -/
def State.errRecord (s : State) (kind ctx cause : Nat) (nested : Bool) (whr : Nat) (pc val : B64) : State :=
  let h := s.host
  if !h.almbase.getLsbD 0 || s.almUsed == 65536 then
    { s with host := { h with drop := h.drop + 0x100000000 } }
  else
    let d0 := 0x5F + 2 ^ 8 * kind + 2 ^ 32 * (ctx % 2 ^ 16) + 2 ^ 48 * cause + 2 ^ 56 * bitv nested
    let bytes := leBytes 8 d0 ++ leBytes 8 whr ++ leBytes 8 pc.toNat ++ leBytes 8 val.toNat ++ leBytes 8 (s.now / 2) ++ leBytes 24 0
    let q := h.head
    let s := s.homeWrite (s.almEntry q) bytes
    let s := s.homeWrite (s.almState q) (leBytes 8 (stateWord q 4 0 0))
    { s with host := { s.host with head := (q + 1) % 2 ^ 32 } }.almIrq
where
  bitv (b : Bool) : Nat := if b then 1 else 0
/-- WHERE of a record: core and slot. -/
def whereOf (tid : Nat) : Nat := coreOf tid + 2 ^ 17 * slotOf tid

/-! ## Remote bookkeeping -/

/-- Leaves for another device. -/
def State.emit (s : State) (o : Outgoing) : State := { s with sq := { s.sq with outbox := s.sq.outbox ++ [o] } }
/-- The skip notice of a numbered packet that is discarded unsent (R186); to this device it needs no link. -/
def State.skipNotice (s : State) (p : Packet) (dev : Nat) : State :=
  match p.seq with
  | none => s
  | some n =>
    if dev = s.fleet.devId then { s with sq := { s.sq with skips := s.sq.skips ++ [⟨p.srcDev, p.srcCore, p.srcSlot, n, p.floor⟩] } }
    else s.emit (.skip dev p.srcCore p.srcSlot n p.floor)

/-- A token's fields (R189). -/
def tokSlotOf (t : BitVec 32) : Nat := t.toNat / 256 % 2 ^ 14
def tokGenOf (t : BitVec 32) : Nat := t.toNat % 256
def mkToken (dev slot gen : Nat) : BitVec 32 := BitVec.ofNat 32 (gen + 256 * slot + 2 ^ 22 * dev)
/-- Whether a token register of any slot, or of a saved context, holds the token slot (R298, R334). -/
def State.tokHeld (s : State) (slot : Nat) : Bool :=
  s.threads.cells.any (fun c => c.2.d.cells.any (fun d => d.2 != 0 && tokSlotOf d.2 == slot)) ||
  s.ctxs.cells.any (fun c => c.2.toks.any (fun t => tokSlotOf t == slot))
/-- R195: settled slots whose dependents have all accepted, that no register holds and no merge waits on, are free. -/
def State.sweepTokens (s : State) : State :=
  let dead (c : Nat × TokSlot) : Bool :=
    (c.2.st == .landed || c.2.st == .void) && c.2.deps.all (·.accepted) && !s.tokHeld c.1 &&
    !(s.sq.out.any (fun o => o.waits.any (fun t => tokSlotOf t == c.1)))
  if s.sq.toks.cells.any dead then
    { s with sq := { s.sq with toks := ⟨s.sq.toks.cells.map (fun c => if dead c then (c.1, { c.2 with st := .free, deps := [] }) else c)⟩ } }
  else s

/-! ## Token settling (R192) -/

/-- The bytes of a reply that answers a packet at its issuer, without a link. -/
def State.localReply (s : State) (pkt : Nat) (status : BitVec 8) : State :=
  { s with sq := { s.sq with replies := s.sq.replies ++ [⟨pkt, status, [], 0⟩] } }
/-- The packets that carry a packet's tokens to its destination and have yet to leave are counted anew, for each token
whose slot is still of its generation (R189, R300). -/
def State.countCarried (s : State) (p : Packet) (f : Nat → Nat) : State :=
  p.toks.foldl (fun s t =>
    let k := s.tok (tokSlotOf t)
    if k.gen != tokGenOf t then s else
    s.setTok (tokSlotOf t) { k with deps := k.deps.map (fun d => if d.dev = p.dest then { d with pkts := f d.pkts } else d) }) s
/-- A packet carrying tokens has left the Square, or never will (R300). -/
def State.uncarry (s : State) (p : Packet) : State := s.countCarried p (· - 1)
/-- Settles the listed slots and, through merges, those that follow: landed when both inputs have landed, void as soon
as one is (R192). A landed input of a merge is written 0. -/
def settleFrom : Nat → List (Nat × Bool × BitVec 8) → State → State
  | 0, _, s => s
  | _, [], s => s
  | fuel + 1, (slot, landed, status) :: rest, s =>
    let k := s.tok slot
    if k.st != .pending then settleFrom fuel rest s else
    let s := s.setTok slot { k with st := if landed then .landed else .void, status := status }
    let me := mkToken s.fleet.devId slot k.gen
    let uses (c : Nat × TokSlot) : Bool := c.2.st == .pending && (c.2.inA == me || c.2.inB == me)
    let users := s.sq.toks.cells.filter uses
    if landed then
      let s := users.foldl (fun s c => s.setTok c.1
        { c.2 with inA := if c.2.inA = me then 0 else c.2.inA, inB := if c.2.inB = me then 0 else c.2.inB }) s
      let done := users.filter (fun c => (c.2.inA == me || c.2.inA == 0) && (c.2.inB == me || c.2.inB == 0))
      settleFrom fuel (rest ++ done.map (fun c => (c.1, true, 0))) s
    else settleFrom fuel (rest ++ users.map (fun c => (c.1, false, 5))) s
/-- Releases the stores held at the issuer whose tokens have settled (R191): landed tokens fall off, a void one
completes the store with VOID_DEP, announced by a skip notice; its answer reaches the core as a reply does. -/
def State.releaseHeld (s : State) : State :=
  let void (o : OutPkt) : Bool := o.waits.any (fun t => (s.tok (tokSlotOf t)).st == .void)
  let still (o : OutPkt) : List (BitVec 32) := o.waits.filter (fun t => (s.tok (tokSlotOf t)).st == .pending)
  let out := s.sq.out.map (fun o =>
    if o.at_ != .held then o
    else if void o then { o with at_ := .answered, waits := [] }
    else if (still o).isEmpty then { o with at_ := .drift, waits := [] }
    else { o with waits := still o })
  let gone := s.sq.out.filter (fun o => o.at_ == .held && void o)
  let s := { s with sq := { s.sq with out := out } }
  gone.foldl (fun s o => ((s.uncarry o.pkt).skipNotice o.pkt o.pkt.dest).localReply o.pkt.id 5) s
/-- A token slot settles. -/
def State.settleTok (s : State) (slot : Nat) (landed : Bool) (status : BitVec 8) : State :=
  (settleFrom (2 * s.sq.toks.cells.length + 2) [(slot, landed, status)] s).releaseHeld.sweepTokens
/-- A packet that has not left is discarded at the issuer: its skip notice, its tokens, and the void of the token a
`rstc` made (R186, R191, R192, R328). -/
def State.discardOut (s : State) (o : OutPkt) (tok : BitVec 32) : State :=
  let s := { s with sq := { s.sq with out := s.sq.out.filter (fun x => x.pkt.id != o.pkt.id) } }
  let s := (s.uncarry o.pkt).skipNotice o.pkt o.pkt.dest
  if tok = 0 then s else s.settleTok (tokSlotOf tok) false 5

/-! ## Launches -/

/-- A completed launch leaves tracking once no tracked launch names it (R244); `n` rounds, since one that leaves may
release another. -/
def dropLaunchesFrom : Nat → List Launch → List Launch
  | 0, ls => ls
  | n + 1, ls => dropLaunchesFrom n (ls.filter (fun l => !l.done || ls.any (fun m => m.preds.contains l.lid)))
/-- What the tasks of a launch did is made visible: slots, with the serial numbers of their `trig`s and ends (R214). -/
def State.showSers (s : State) (l : List (Nat × Nat)) : State := l.foldl (fun s x => s.flushBefore x.1 x.2) s
/-- What the tasks of a launch that is no longer tracked did and is not visible yet is remembered under its id. -/
def State.remember (s : State) (lid : Nat) (sers : List (Nat × Nat)) : State :=
  let rest := s.sq.left.filter (fun x => x.1 != lid)
  { s with sq := { s.sq with left := if sers.all (fun x => s.visibleUpTo x.1 x.2) then rest else rest ++ [(lid, sers)] } }
/-- A launch leaves tracking before it was triggered: it counts as triggered from now on (R245). Launches in the command
queue that wait for it do so no longer, and what its tasks did is visible before they start (R214; log entry 39). -/
def State.untrack (s : State) (l : Launch) : State :=
  let s := { s with sq := { s.sq with trigQ := s.sq.trigQ.filter (fun q => q != l.lid) } }
  if l.isTrig then s
  else if s.host.cmds.any (fun c => c.waits.contains l.lid) then
    let s := s.showSers l.sers
    { s with host := { s.host with cmds := s.host.cmds.map (fun (c : Cmd) => { c with waits := c.waits.filter (fun p => p != l.lid) }) } }
  else s.remember l.lid l.sers
/-- Launches that nothing names any more leave tracking (R244). -/
def State.dropLaunches (s : State) : State :=
  let ls := dropLaunchesFrom s.sq.launches.length s.sq.launches
  if ls.length = s.sq.launches.length then s else
  (s.sq.launches.filter (fun l => !ls.any (fun m => m.lid == l.lid))).foldl State.untrack { s with sq := { s.sq with launches := ls } }
/-- A launch task of launch `lid` ends in slot `tid` by `done` (R244, R245). -/
def State.launchEnded (s : State) (lid tid : Nat) : State :=
  let core := coreOf tid
  match s.sq.launches.find? (fun l => l.lid == lid && !l.done) with
  | none => s
  | some l =>
    let l := { l with ended := l.ended ++ [core], sers := l.sers ++ [(tid, s.nextSer)] }
    let trig := !l.isTrig && l.cores.all (fun c => l.trigd.contains c || l.ended.contains c)
    let fin := l.cores.all (fun c => l.ended.contains c)
    let l' := { l with done := fin }
    let ls := s.sq.launches.map (fun m => if m.lid = lid then l' else m)
    let tq := if trig && !s.sq.trigQ.contains lid then s.sq.trigQ ++ [lid] else s.sq.trigQ
    let s := { s with sq := { s.sq with launches := ls, trigQ := tq } }
    if fin then (s.setCmd l.q 3 0 0).dropLaunches else s
/-- The task of a launch executed `trig` in slot `tid` (R149, R245). -/
def State.launchTrig (s : State) (lid tid : Nat) : State :=
  let core := coreOf tid
  match s.sq.launches.find? (fun l => l.lid == lid && !l.done) with
  | none => s
  | some l =>
    let l := { l with trigd := if l.trigd.contains core then l.trigd else l.trigd ++ [core], sers := l.sers ++ [(tid, s.nextSer)] }
    let trig := !l.isTrig && l.cores.all (fun c => l.trigd.contains c || l.ended.contains c)
    let ls := s.sq.launches.map (fun m => if m.lid = lid then l else m)
    let tq := if trig && !s.sq.trigQ.contains lid then s.sq.trigQ ++ [lid] else s.sq.trigQ
    { s with sq := { s.sq with launches := ls, trigQ := tq } }

end Sys2Proof.Machine
end

