-- ==== Sys2Proof/Machine/Rivals.lean ====
section
/-!
DEFINITION. What the cart writes (R179, R208, R353): bytes that several jobs in flight may write, the parts of an element
or a packet that other agents may see before the rest, and the elements begun when a context ends (R328).
-/
namespace Sys2Proof.Machine

/-! ## Jobs in flight -/

/-- The core a job belongs to. -/
def CartJob.core (j : CartJob) : Nat := coreOf j.tid
/-- A core's jobs in flight. -/
def Core.cartJobs (c : Core) : List CartJob := c.cartCur.toList ++ c.cartWait
/-- A started job of a core, by its number. -/
def Core.cartJob? (c : Core) (uid : Nat) : Option CartJob := c.cartJobs.find? (fun j => j.uid == uid)
/-- Replaces it. -/
def Core.putCart (c : Core) (j : CartJob) : Core :=
  let swap (x : CartJob) : CartJob := if x.uid = j.uid then j else x
  { c with cartCur := c.cartCur.map swap, cartWait := c.cartWait.map swap }
/-- A range joins a list of ranges. -/
def addRange (l n : Nat) : List (Nat × Nat) → List (Nat × Nat)
  | (a, k) :: rs => if a + k = l then (a, k + n) :: rs else (l, n) :: (a, k) :: rs
  | [] => [(l, n)]
/-- `j` starts only after `x` has completed: it carries the after flag and is later of the same task (R172). -/
def CartJob.follows (j x : CartJob) : Bool := j.xafter && j.tid == x.tid && j.act == x.act && decide (x.uid < j.uid)
/-- What the jobs in flight have written so far, but for those that `j` follows: at `j`'s issue they become its rivals
(R176, R179). -/
def State.cartRivals (s : State) (j : CartJob) : List (Nat × Nat) :=
  s.cores.cells.flatMap (fun c => (c.2.cartJobs.filter (fun x => !j.follows x)).flatMap (·.ranges))
/-- What a job wrote in this step is known to the other jobs in flight, but for those that follow it. -/
def State.cartTell (s : State) (j : CartJob) : State × CartJob :=
  if j.wrote.isEmpty then (s, j) else
  let hear (x : CartJob) : CartJob := if x.uid = j.uid || x.follows j then x else { x with rivals := x.rivals ++ j.wrote }
  ({ s with cores := s.cores.map (fun (_ : Nat) (c : Core) =>
      { c with cartQ := c.cartQ.map hear, cartCur := c.cartCur.map hear, cartWait := c.cartWait.map hear }) },
   { j with wrote := [], ranges := j.ranges ++ j.wrote })

/-! ## Bytes -/

/-- The cart has written `n` bytes for a core: counted in units of 64 (R353). -/
def State.cartWritten (s : State) (core n : Nat) : State :=
  let f := (s.core core).cartFrac + n
  (s.modCore core (fun c => { c with cartFrac := f % 64 })).count core 0 7 (f / 64)
/-- A destination byte that is also a source byte of the job receives a free value (R179); one that a job in flight with
it has written keeps that job's value or takes this one's, a free choice for each byte. -/
def CartJob.freed (j : CartJob) (ctr l : Nat) (old data : List Byte) : List Byte :=
  let lies (rs : List (Nat × Nat)) (a : Nat) : Bool := rs.any (fun g => decide (g.1 ≤ a) && decide (a < g.1 + g.2))
  data.mapIdx (fun i b =>
    if lies j.segs (l + i) then (Config.freeValue ctr >>> (8 * (i % 8))).setWidth 8
    else if lies j.rivals (l + i) && (Config.freeValue (ctr + 1)).getLsbD (i % 64) then old.getD i b else b)
/-- Whether any byte of the job may need one of these choices. -/
def CartJob.free (j : CartJob) : Bool := !j.segs.isEmpty || !j.rivals.isEmpty
/-- The bytes a job leaves at a location where it writes `data`, and the state after the choices. -/
def State.cartMix (s : State) (j : CartJob) (l : Nat) (data : List Byte) : State × List Byte :=
  if j.free then (s.freshCtr.freshCtr, j.freed s.freeCtr l (readBytes (s.recall l data.length).mem l data.length) data) else (s, data)
/-- The job as an agent that accesses memory (R208, R215). -/
def CartJob.party (j : CartJob) : Party := .job j.after j.start
/-- Bytes that the job writes at a location; each is written whole (R179, R208). -/
def State.cartStore (s : State) (j : CartJob) (l : Nat) (data : List Byte) : State × CartJob :=
  ((s.partyWrite j.tid j.party 4 0 l data).cartWritten j.core data.length, { j with wrote := addRange l data.length j.wrote })
/-- Bytes of the job's destination are written at a location. -/
def State.cartPoke (s : State) (j : CartJob) (l : Nat) (data : List Byte) : State × CartJob :=
  let x := s.cartMix j l data
  x.1.cartStore j l x.2
/-- What is left of some bytes to be written at a place, after the first `k` of them. -/
def leftOver (p : Nat × List Byte) (k : Nat) : Option (Nat × List Byte) := if p.2.length ≤ k then none else some (p.1 + k, p.2.drop k)
/-- The bytes of a residual still to be written, as far as `k` bytes reach (R176). -/
def State.cartResidPart (s : State) (j : CartJob) (k : Nat) : State × CartJob :=
  match j.resid with
  | none => (s, j)
  | some p =>
    let r := s.cartStore j p.1 (p.2.take k)
    (r.1, { r.2 with resid := leftOver p k })
/-- The bytes an element still has to write, as far as `k` bytes reach. -/
def State.cartPart (s : State) (j : CartJob) (k : Nat) : State × CartJob :=
  match j.part with
  | none => (s, j)
  | some p =>
    let r := s.cartPoke j p.1 (p.2.take k)
    (r.1, { r.2 with part := leftOver p k })
/-- Bytes of a pushed element of a slot's write stream are written (R157, R208). -/
def State.streamPoke (s : State) (tid l : Nat) (data : List Byte) : State :=
  (s.partyWrite tid .agent 4 0 l data).cartWritten (coreOf tid) data.length

/-! ## Elements begun: written to their ends (R325, R328) -/

/-- An ended task's write stream goes on with its port, until nothing it pushed is left. -/
def Core.putOrphan (c : Core) (o : Orphan) (p : Port) : Core :=
  { c with orphans := c.orphans.flatMap (fun x => if x == o then (if p.entries.isEmpty then [] else [{ x with port := p }]) else [x]) }
/-- The oldest pushed element of a stream is written to its end, if it has begun. -/
def State.finishElem (s : State) (tid : Nat) (p : Port) : State × Port :=
  match p.part with
  | some e => (s.streamPoke tid e.1 e.2, { p with part := none, entries := p.entries.drop 1 })
  | none => (s, p)
/-- The same for an ended task's stream, and for the port of a slot. -/
def State.finishOrphan (s : State) (o : Orphan) : State :=
  let r := s.finishElem o.tid o.port
  r.1.modCore (coreOf o.tid) (fun c => c.putOrphan o r.2)
def State.finishPort (s : State) (tid key : Nat) (p : Port) : State :=
  let r := s.finishElem tid p
  r.1.modThread tid (fun t => { t with ports := t.ports.put key r.2 })
/-- The element a job has begun is written to its end, with its residual. -/
def State.finishCart (s : State) (j : CartJob) : State :=
  let a := s.cartResidPart j 4
  let r := a.1.cartPart a.2 64
  let r := r.1.cartTell r.2
  r.1.modCore j.core (fun c => c.putCart r.2)
/-- The elements that the cart has begun for a context are written to their ends: a job stops at its next element, and
what is pushed behind a begun element of a stream is written by a later step, or never (R328). -/
def State.finishParts (s : State) (ctx : Nat) : State :=
  let s := (s.cores.cells.flatMap (fun c => c.2.cartJobs.filter (fun j => j.ctx == ctx && (j.part.isSome || j.resid.isSome)))).foldl
    State.finishCart s
  let s := (s.cores.cells.flatMap (fun c => c.2.orphans.filter (fun o => o.ctx == ctx && o.port.part.isSome))).foldl State.finishOrphan s
  (s.threads.cells.filter (fun t => t.2.ctx == ctx)).foldl (fun s t =>
    (t.2.ports.cells.filter (fun p => p.2.part.isSome)).foldl (fun s p => s.finishPort t.1 p.1 p.2) s) s

end Sys2Proof.Machine
end

