-- ==== Sys2Proof/Machine/Ending.lean ====
section
/-!
DEFINITION. How a task leaves its slot (R148, R17) and what becomes of the state of a context that ends (R328).
-/
namespace Sys2Proof.Machine

/-- The mill still has jobs of the slot. -/
def Core.millBusy (c : Core) (tid : Nat) : Bool :=
  c.millQ.any (fun j => j.tid == tid) || (match c.millCur with | some j => j.tid == tid | none => false)
/-- The core has mill work. -/
def Core.millWork (c : Core) : Bool := c.millCur.isSome || !c.millQ.isEmpty
/-- The visit of a croft's mill arbiter ends when the core it serves has no more work (R251). -/
def State.millVisit (s : State) (croft : Nat) : State :=
  if (s.core (croft * 8 + (s.croft croft).millAt)).millWork then s else s.modCroft croft (fun c => { c with millLeft := 0 })
/-- When the last job of an earlier task is gone, the slot's tiles are zero (R19). -/
def State.millIdle (s : State) (tid : Nat) : State :=
  let t := s.thread tid
  if t.tilesOld && !(s.core (coreOf tid)).millBusy tid then s.setThread tid { t with tilesOld := false, tiles := {} } else s
/-- A slot issued or left Ready: no slot of its core ranks below it any more (R249). -/
def State.leftReady (s : State) (tid : Nat) : State :=
  let slot := slotOf tid
  (List.range 5).foldl (fun s k =>
    let t := s.thread (tidOf (coreOf tid) k)
    if t.behind.contains slot then s.setThread (tidOf (coreOf tid) k) { t with behind := t.behind.filter (fun x => x != slot) } else s) s
/-- The key of a context's kin set. -/
def kinKey (ctx set : Nat) : Nat := ctx * 4096 + set

/-- The task in slot `tid` ends: by `done`, or with its context (R148, R17, R152, R135, R195). Pushed elements of a
write stream are still written after `done`, and discarded when the context ends (R328). -/
def State.endTask (s : State) (tid : Nat) (byCtx : Bool) : State :=
  let t := s.thread tid
  let core := coreOf tid
  let writes := t.ports.cells.filter (fun p => p.2.kind == .writeStream && !p.2.entries.isEmpty && !byCtx)
  let orph := writes.map (fun p => Orphan.mk tid p.1 t.ctx p.2)
  let busy := (s.core core).millBusy tid
  let s := s.modCore core (fun c =>
    { c with linkOwn := ⟨c.linkOwn.cells.filter (fun o => o.2 != tid)⟩, orphans := c.orphans ++ orph })
  let s := s.modCroft (croftOf core) (fun c => { c with sfu := c.sfu.filter (fun r => r.tid != tid) })
  let s : State := match t.kin with
    | some set => { s with kinOps := s.kinOps ++ [⟨tid, t.act, kinKey t.ctx set, .ended⟩] }
    | none => s
  let s := { s with stores := s.stores.map (fun (p : PStore) => if p.tid = tid then { p with dead := true } else p) }
  let s := { s with well := { s.well with reqs := s.well.reqs.filter (fun r => r.tid != tid) } }
  let s := s.leftReady tid
  let tiles := if busy then t.tiles else {}
  let s := s.setThread tid
    { act := t.act + 1, msgNo := t.msgNo, seqs := t.seqs, lastIss := t.lastIss, tiles := tiles, tilesOld := busy }
  let s : State := match t.launch, byCtx with
    | some lid, false => s.launchEnded lid tid
    | _, _ => s
  s.sweepTokens

/-- What the end of a context takes from one core (R328). -/
def Core.dropCtx (c : Core) (ctx : Nat) (gone : List Msg) : Core :=
  let keep (m : Msg) : Bool := m.ctx != ctx
  { c with
    millQ := c.millQ.filter (fun j => j.ctx != ctx),
    millCur := c.millCur.map (fun j => if j.ctx = ctx then { j with dead := true } else j),
    cartQ := c.cartQ.filter (fun j => j.ctx != ctx),
    cartCur := c.cartCur.filter (fun j => j.ctx != ctx),
    cartWait := c.cartWait.filter (fun j => j.ctx != ctx),
    orphans := c.orphans.filter (fun o => o.ctx != ctx),
    entries := c.entries.map (fun _ l => l.filter keep),
    spill := c.spill.map (fun _ l => l.filter keep),
    resend := c.resend.filter keep,
    bounces := c.bounces.filter (fun b => !gone.any (fun m => m.pair == b.pair && m.no == b.no && m.chan == b.chan)) }

/-- The packets of an ended context that have not sent their first codeword are discarded, the answers to the others will
be (R328). -/
def State.dropRemote (s : State) (ctx : Nat) : State :=
  let mine (o : OutPkt) : Option ROp := s.sq.ops.find? (fun r => r.id == o.op && r.ctx == ctx)
  let unsent (o : OutPkt) : Bool := match o.at_ with | .sent _ _ => false | .own => false | .answered => false | _ => o.sends == 0
  let s' := s.sq.out.foldl (fun a o =>
    match mine o, a.sq.out.find? (fun x => x.pkt.id == o.pkt.id) with
    | some r, some x => if unsent x then a.discardOut x r.tok else a
    | _, _ => a) s
  let ops := s'.sq.ops.map (fun r => if r.ctx = ctx then { r with dead := true } else r)
  let live (r : ROp) : Bool := !r.dead || s'.sq.out.any (fun o => o.op == r.id)
  { s' with sq := { s'.sq with ops := ops.filter live } }

/-- Tracked launches of an ended context, those still queued included, complete with ENDED or POWER_KILL; RESULT counts the launch tasks that ended
with it (R328, R312). `n` gives that count for a launch; `slots` are those of the tasks that ended. -/
def State.dropTracked (s : State) (ctx status : Nat) (slots : List Nat) (n : Nat → Nat) : State :=
  let late := s.sq.launches.filter (fun l => l.ctx == ctx && !l.isTrig)
  let s := late.foldl (fun s l => s.remember l.lid (l.sers ++ slots.map (fun t => (t, s.nextSer)))) s
  let ls : List Launch := s.sq.launches.filter (fun l => l.ctx == ctx && !l.done)
  let sq : Square := s.sq
  let sq : Square := { sq with launches := sq.launches.map (fun (l : Launch) => if l.ctx = ctx then { l with done := true, isTrig := true } else l) }
  let sq : Square := { sq with trigQ := sq.trigQ.filter (fun q => !late.any (fun l => l.lid == q)) }
  let s := { s with sq := { sq with relNot := sq.relNot.filter (fun r => !ls.any (fun l => l.lid == r.2.1)) } }
  let queued := s.host.cmds.filter (fun c => isLaunch c && cmdCtx c.block == ctx)
  let s := queued.foldl (fun s c => s.setCmd c.q 3 status 0) s
  (ls.foldl (fun s l => s.setCmd l.q 3 status (n l.lid)) s).dropLaunches

/-- Bytes of a save area for `n` cores (R331). -/
def areaSize (n : Nat) : Nat := 0x80000 * (1 + n)
/-- The cores that hold a context, ascending. -/
def State.holders (s : State) (x : Nat) : List Nat := (s.cores.cells.filter (fun c => c.2.ctx == some x)).map (·.1)
/-- The task slots of a context. -/
def State.slotsOf (s : State) (ctx : Nat) : List Nat :=
  (s.threads.cells.filter (fun t => t.2.st != .free && t.2.ctx == ctx && t.1 % 8 != 4)).map (·.1)

/-- A context ends (R17, R328, R329): one error record, every task, job, message, packet, grant, window and launch. The
record's CAUSE is `shown` where that is not the cause (R329). -/
def State.endContext (s : State) (ctx cause : Nat) (nested : Bool) (whr : Nat) (pc val : B64) (shown : Option Nat := none) : State :=
  match s.ctx? ctx with
  | none => s
  | some c =>
    if c.ended then s else
    let s := (s.finishParts ctx).setCtx ctx
      { c with
        ended := true, stop := false, noStart := false, saved := false, toks := [], tasks := [], kept := [], skips := [], faults := [],
        digest := [], cause := cause }
    let status := if cause = 0x0C then 0x0A else 0x0B
    let slots := s.slotsOf ctx
    let launches := slots.map (fun t => (s.thread t).launch) ++ c.tasks.map (fun t => some t.2)
    let gone := s.drift ++ s.sqHeld ++ s.cores.cells.flatMap (fun k => k.2.resend)
    let gone := gone.filter (fun m => m.ctx == ctx)
    let s :=
      { s with
        cores := s.cores.map (fun _ k => k.dropCtx ctx gone),
        drift := s.drift.filter (fun m => m.ctx != ctx),
        sqHeld := s.sqHeld.filter (fun m => m.ctx != ctx) }
    let s := slots.foldl (fun s t => s.endTask t true) s
    let s := s.crofts.cells.foldl (fun s c => s.millVisit c.1) s
    let s := (s.threads.cells.foldl (fun s c => s.millIdle c.1) s).sweepTokens
    let s := s.dropRemote ctx
    let s := (s.well.paths.cells.filter (fun p => p.2.ctx == ctx)).foldl (fun s p => s.darken p.1) s
    let s := { s with sq := { s.sq with wins := s.sq.wins.map (fun _ w => if w.ctx = ctx then { w with revoked := true } else w) } }
    let s := { s with well := { s.well with reqs := s.well.reqs.filter (fun r => r.ctx != ctx) } }
    let s := s.dropTracked ctx status slots (fun lid => (launches.filter (fun l => l == some lid)).length)
    let s := (s.saves.filter (fun v => v.ctx == ctx)).foldl (fun s v => s.setCmd v.q 4 status 0) s
    let s := { s with saves := s.saves.filter (fun v => v.ctx != ctx) }
    s.errRecord 1 ctx (shown.getD cause) nested whr pc val
/-- The form of a refused operation, as its record carries it (R185; log entry 28): the instruction, with the operation and
width of a `ramo`; `.of`; how many tokens it carried. -/
def RKind.form (k : RKind) (p : Packet) : Nat :=
  let ins := match k with | .rld => 1 | .rst => 2 | .rstc => 3 | .mcast => 4 | .ramo op w => 5 + 8 * op.code + (if w then 128 else 0) | .cart => 0
  ins + (if p.ordered then 256 else 0) + 512 * p.toks.length
/-- A refused plain form of slot `tid` ends its context (R185): with TOKEN_EXPIRED when a token-carrying store expired, else
with CONTEXT_END. The record has the status in CAUSE, sA in VAL, and above WHERE the cause and the form (R185, R329; log
entry 28). -/
def State.endRefused (s : State) (ctx tid status : Nat) (k : RKind) (p : Packet) (pc va : B64) : State :=
  let cause := if status = 6 ∧ !p.toks.isEmpty then 0x07 else 0x0D
  s.endContext ctx cause false (whereOf tid + 2 ^ 19 * cause + 2 ^ 27 * k.form p) pc va (some status)

end Sys2Proof.Machine
end

