-- ==== Sys2Proof/Machine/Ops.lean ====
section
/-!
DEFINITION. The frame every instruction's meaning stands in: its three ends (retire, stall, trap), taking a trap
(R113, R330) and returning from one (R114), and the accesses to memory a thread makes (R97 to R103).
-/
namespace Sys2Proof.Machine

/-! ## How an instruction ends -/

/-- Why an instruction does not retire: it stalls; it traps (`next`: the return address is the next instruction's;
`clr`: the port whose oldest write-stream fault the report clears, R157); the translation of an address denies it the
access, which is PROT after a walk (R98, R323); or it has put the machine in a state of its own. -/
inductive Stop where
  | stall (w : Wait)
  | trap (cause : Nat) (val : B64) (next : Bool) (clr : Option Nat)
  | denied (va : B64)
  | halt (s : State)
/-- The body of an instruction: it changes the state, and may stop. -/
abbrev Exec := StateT State (Except Stop)

/-- The instruction waits on a condition (R15). -/
def stall {α : Type} (w : Wait) : Exec α := throw (.stall w)
/-- The instruction traps (R112). -/
def trap {α : Type} (cause : Nat) (val : B64) : Exec α := throw (.trap cause val false none)
/-- The instruction leaves the machine in a state of its own. -/
def halt {α : Type} (s : State) : Exec α := throw (.halt s)

/-- Causes of R112. -/
def cILLEGAL : Nat := 1
def cMISALIGN : Nat := 2
def cXLATE : Nat := 3
def cPROT : Nat := 4
def cWEAVE : Nat := 5
def cREMOTE : Nat := 6
def cBREAK : Nat := 8
def cTRAP : Nat := 9
def cPRIV : Nat := 0x0A
def cPORT : Nat := 0x0B

/-- The current thread. -/
def thr : Exec Thread := do
  let s ← get
  pure (s.thread s.cur)
/-- Changes the current thread. -/
def modThr (f : Thread → Thread) : Exec Unit := modify (fun s => s.modThread s.cur f)
/-- Changes the current core. -/
def modCore (f : Core → Core) : Exec Unit := modify (fun s => s.modCore s.curCore f)

/-! ## Traps (R112, R113, R114, R330) -/

/-- TVEC's handler address (R112). -/
def tvecAddr (v : B64) : B64 := v &&& 0x000FFFFFFFFFFFFE#64
/-- TCAUSE.IN. -/
def tcauseIN (v : B64) : Bool := v.getLsbD 15
/-- TCAUSE at an entry (R113). -/
def tcauseOf (sys compact : Bool) (cause : Nat) : B64 :=
  0x8000#64 ||| (if sys then 0x4000#64 else 0) ||| (if compact then 0x2000#64 else 0) ||| BitVec.ofNat 64 cause

/-- A trap in a core's system slot (R330): a record of kind 3, the reeve restarts; the fourth within 1 ms clears the
terrace's readiness bit and ends the contexts its cores hold (log entry 20). WHERE has two bits for a slot, which cannot
hold the system slot's 4: they are 0. The spec gives no address for the reeve's entry: the slot is left as after reset, Free
with pc 0 (the model's choices; log entries 20, 45). -/
def State.systemTrap (s : State) (core cause : Nat) (pc val : B64) : State :=
  let s := s.errRecord 3 0 cause false (whereOf (tidOf core 4) % 2 ^ 19) pc val
  let c := s.core core
  let recent := s.now :: c.sysTraps.filter (fun t => s.now < t + 2000000)
  let s := s.setThread (tidOf core 4) (slotInit (tidOf core 4))
  let s := s.setCore core { c with sysTraps := recent.take 4 }
  if recent.length < 4 then s else
  let ter := terraceOf core
  let s := (s.setReady 0 ter false).setTerrace ter { s.terrace ter with fallen := true }
  let ctxs := (s.cores.cells.filter (fun k => terraceOf k.1 == ter)).filterMap (fun k => k.2.ctx)
  ctxs.foldl (fun s x => s.endContext x 0x0D false (whereOf (tidOf core 4) % 2 ^ 19) pc val) s

/-- TakeTrap of R113 for the current slot: entry to the handler, or the end of the context. -/
def State.takeTrap (s : State) (cause : Nat) (val ret : B64) (compact : Bool) : State :=
  let t := s.thread s.cur
  let s := if cause = cXLATE then (s.walked s.curCore t.ctx val).bumpWalk t.ctx val else s
  if slotOf s.cur = 4 then s.systemTrap s.curCore cause ret val
  else if tvecAddr (s.core s.curCore).tvec = 0 ∨ tcauseIN t.tcause then
    s.endContext t.ctx cause (tcauseIN t.tcause) (whereOf s.cur) ret val
  else
    s.setThread s.cur
      { t with
        tpc := ret &&& 0x000FFFFFFFFFFFFF#64, tval := val, tcause := tcauseOf t.sysMode compact cause, sysMode := true,
        pc := tvecAddr (s.core s.curCore).tvec, charged := false, phase := .idle, skipped := 0, skipArg := none,
        holds := [] }

/-- The current thread goes back to where it was interrupted (R114); TPC.PC is even here. -/
def State.trapReturn (s : State) : State :=
  let t := s.thread s.cur
  s.setThread s.cur
    { t with pc := t.tpc, sysMode := t.tcause.getLsbD 14, tcause := t.tcause &&& ~~~0x8000#64, charged := false }

/-- Retires: the pc moves on and the next instruction is charged anew. -/
def State.retire (s : State) (len : Nat) : State :=
  s.modThread s.cur (fun t =>
    { t with pc := t.pc + BitVec.ofNat 64 len, charged := false, phase := .idle, skipped := 0, skipArg := none, holds := [] })
/-- The current slot is Stalled (R15). -/
def State.stallCur (s : State) (w : Wait) : State :=
  (s.modThread s.cur (fun t => { t with st := .stalled w })).leftReady s.cur
/-- What a stop makes of the state before the instruction (R89). -/
def State.stopped (s : State) (len : Nat) : Stop → State
  | .stall w => s.stallCur w
  | .trap cause val next clr =>
    let t := s.thread s.cur
    let s := match clr with
      | none => s
      | some k =>
        let ports := t.ports.map (fun (n : Nat) (p : Port) => if n = k then { p with fault := p.later.head?, later := p.later.tail } else p)
        s.setThread s.cur { t with ports := ports }
    s.takeTrap cause val (if next then t.pc + BitVec.ofNat 64 len else t.pc) (len == 2)
  | .denied va => (s.walked s.curCore (s.thread s.cur).ctx va).takeTrap cPROT va (s.thread s.cur).pc (len == 2)
  | .halt s' => s'
/-- Runs the body of an instruction of `len` bytes that falls through. -/
def runI (len : Nat) (body : Exec Unit) (s : State) : State :=
  match body.run s with
  | .ok r => r.2.retire len
  | .error e => s.stopped len e
/-- Runs the body of an instruction that answers the next pc. -/
def runJ (len : Nat) (body : Exec B64) (s : State) : State :=
  match body.run s with
  | .ok r => r.2.modThread r.2.cur (fun t => { t with pc := r.1, charged := false, phase := .idle, skipped := 0, skipArg := none, holds := [] })
  | .error e => s.stopped len e

/-! ## Modes -/

/-- The word of a 32-bit instruction, as TVAL holds it. -/
def wordVal (i : Instr) : B64 := BitVec.ofNat 64 ((encode i).getD 0)
/-- An instruction of system mode: PRIV in context mode, with TVAL the word (R22, R109). -/
def needSys (i : Instr) : Exec Unit := do
  let t ← thr
  if t.sysMode then pure () else trap cPRIV (wordVal i)

/-! ## Memory accesses of a thread -/

/-- MISALIGN unless `n` divides the address (R97, R101). -/
def aligned (n : Nat) (va : B64) : Exec Unit := if va.toNat % n = 0 then pure () else trap cMISALIGN va
/-- The location an ordinary access selects, or XLATE or PROT (R98, R30, R23, R32). -/
def locOf (acc : Acc) (va : B64) : Exec Nat := do
  let s ← get
  let t := s.thread s.cur
  set (s.walked s.curCore t.ctx va)
  match s.route s.curCore t.ctx t.sysMode acc va with
  | .loc l => pure l
  | .win _ _ _ => throw (.denied va)
  | .xlate => trap cXLATE va
  | .prot => throw (.denied va)
/-- A scratchpad access waits until the core's bin unit has filed every `ksend` (R154), unless it has been sent. -/
def filed (l : Nat) : Exec Unit := do
  let s ← get
  if (s.thread s.cur).phase = .idle && (spadCore l).isSome && !(s.core s.curCore).ksq.isEmpty then stall .filing else pure ()
/-- A location in another core's scratchpad, reached over Drift (R98). -/
def State.isFar (s : State) (l : Nat) : Bool := match spadCore l with | some c => c != s.curCore | none => false
/-- An access whose value comes over Drift: the thread is Stalled until LOAD_VALUE_RETURN, and reads then (R98, R127;
log entry 9). `s0` is the state before the instruction. -/
def awaitValue (s0 : State) (isFar : Bool) : Exec Unit := do
  if !isFar then pure () else
  match (s0.thread s0.cur).phase with
  | .answered _ _ => pure ()
  | .lanes _ back => if back then pure () else stall .value
  | .sent => stall .value
  | .idle => halt ((s0.modThread s0.cur (fun t => { t with phase := .sent })).stallCur .value)
/-- A read that is a directory event at a switched-off home: the event wakes that core, and the thread is Stalled for as
long as the wake takes, its access sent (R36, R332). `s0` is the state before the instruction. -/
def dirGate (s0 : State) (l : Nat) : Exec Unit :=
  if s0.dirAsleep s0.curCore l then
    halt (((s0.dirRequest l s0.curCore false).modThread s0.cur (fun t => { t with phase := .sent })).stallCur (.dirWake l))
  else pure ()
/-- Reads `n` bytes at a location for the current thread. -/
def readLoc (l n : Nat) : Exec Nat := do
  modify (fun s => s.prepRead s.cur l n)
  let s ← get
  pure (leNat (s.readFor s.cur l n))
/-- Stores bytes at a location: pending until its port performs it (R209). -/
def storeLoc (l : Nat) (data : List Byte) (grp : Nat := 0) : Exec Unit :=
  modify (fun s => s.pushStore { ser := 0, tid := s.cur, loc := l, data := data, grp := grp, tag := s.tag })
/-- A load of R97: `n` bytes at `va`. -/
def loadMem (s0 : State) (n : Nat) (va : B64) : Exec Nat := do
  aligned n va
  let l ← locOf .read va
  filed l
  dirGate s0 l
  awaitValue s0 (s0.isFar l)
  readLoc l n
/-- A store of R97: the low `n` bytes of `v`. -/
def storeMem (n : Nat) (va v : B64) : Exec Unit := do
  aligned n va
  let l ← locOf .write va
  filed l
  storeLoc l (leBytes n v.toNat)

end Sys2Proof.Machine
end

