-- ==== Sys2Proof/Machine/Operands.lean ====
section
/-!
DEFINITION. Operands (R18, R20, R88): every register file, constant registers, pending registers, and ports popped by
reads and pushed by writes (R155 to R162).
-/
namespace Sys2Proof.Machine

/-! ## Stream records (R156) -/

/-- Dword `i` of a record. -/
def dwordAt (bs : List Byte) (i : Nat) : Nat := leNat ((bs.drop (8 * i)).take 8)
/-- Count and stride of dimension `i`. -/
def streamCount (r : List Byte) (i : Nat) : Nat := dwordAt r (1 + i) / 2 ^ 32
def streamStride (r : List Byte) (i : Nat) : Int := intVal 32 true (dwordAt r (1 + i))
/-- NDIM − 1 of a record. -/
def streamNdim (r : List Byte) : Nat := dwordAt r 5 % 4
def streamDir (r : List Byte) : Bool := (dwordAt r 5).testBit 2
def streamIndirect (r : List Byte) : Bool := (dwordAt r 5).testBit 3
def streamEsize (r : List Byte) : Nat := dwordAt r 5 / 16 % 4
/-- The number of elements: the product of the counts of the dimensions in use. -/
def streamTotal (r : List Byte) : Nat :=
  (List.range (streamNdim r + 1)).foldl (fun p i => p * streamCount r i) 1
/-- The address of element n of a direct stream (R157). -/
def streamAddr (r : List Byte) (n : Nat) : B64 :=
  let c := streamCount r
  let i0 := n % c 0
  let i1 := n / c 0 % c 1
  let i2 := n / (c 0 * c 1) % c 2
  let i3 := n / (c 0 * c 1 * c 2)
  let nd := streamNdim r
  let off : Int := i0 * streamStride r 0 + (if 1 ≤ nd then i1 * streamStride r 1 else 0) +
    (if 2 ≤ nd then i2 * streamStride r 2 else 0) + (if 3 ≤ nd then i3 * streamStride r 3 else 0)
  BitVec.ofNat 64 (dwordAt r 0) + BitVec.ofInt 64 off

/-! ## Ports -/

/-- Bytes of a port's elements: 64 for a vector register, 8 for a scalar one. -/
def portBytes (key : Nat) : Nat := if key < 32 then 64 else 8
/-- TVAL of a PORT trap (R162). -/
def portVal (reason key addr : Nat) : B64 :=
  BitVec.ofNat 64 (reason * 2 ^ 60 + key / 32 % 2 * 2 ^ 59 + key % 32 * 2 ^ 52 + addr % 2 ^ 52)
/-- PORT with a reason and an address. -/
def portTrap {α : Type} (reason key addr : Nat) : Exec α := trap cPORT (portVal reason key addr)
/-- The neighbour of a core in a direction (R155). -/
def neighbour (core : Nat) (d : Dir) : Nat :=
  let x := core % 320
  let y := core / 320
  match d with
  | .n => (y + 319) % 320 * 320 + x
  | .e => y * 320 + (x + 1) % 320
  | .s => (y + 1) % 320 * 320 + x
  | .w => y * 320 + (x + 319) % 320
/-- The opposite direction. -/
def Dir.opp : Dir → Dir | .n => .s | .e => .w | .s => .n | .w => .e

/-- The registers' ports of the current thread are changed. -/
def setPort (key : Nat) (p : Port) : Exec Unit := modThr (fun t => { t with ports := t.ports.put key p })
/-- Pushes a word to the link toward `d`: the neighbour's link from the opposite direction, of 4 entries (R159). -/
def linkPush (w : Wait) (d : Dir) (v : B512) : Exec Unit := do
  let s ← get
  let nb := neighbour s.curCore d
  let k := Dir.code (Dir.opp d)
  let q := (s.core nb).links.get [] k
  if 4 ≤ q.length then stall w
  else set (s.modCore nb (fun c => { c with links := c.links.put k (q ++ [v]) }))
/-- Messages of a channel that wait: port entries, then the spill queue (R160). -/
def Core.waiting (c : Core) (ch : Nat) : List Msg := c.entries.get [] ch ++ c.spill.get [] ch
/-- Another slot's request in flight has read the oldest word of a channel and takes it as it retires. -/
def State.wordsHeld (s : State) (tid ch : Nat) : Bool :=
  (List.range 4).any (fun k => tidOf (coreOf tid) k != tid && (s.thread (tidOf (coreOf tid) k)).holds.contains ch)
/-- Puts a channel's waiting messages back into 8 entries and the spill queue. -/
def Core.setWaiting (c : Core) (ch : Nat) (l : List Msg) : Core :=
  { c with entries := c.entries.put ch (l.take 8), spill := c.spill.put ch (l.drop 8) }
/-- Lanes of 64 bits, the first the least significant. -/
def packLanes (l : List B64) : B512 := BitVec.ofNat 512 (l.foldr (fun v acc => v.toNat + 2 ^ 64 * acc) 0)

/-- A pop (R157, R159, R160); of a channel, behind what another slot's request in flight takes. A message that a scalar port has popped in
part stays, after `unbind` too, with the words not yet popped (log entry 45). -/
def popPort (key : Nat) (p : Port) : Exec B512 := do
  match p.kind with
  | .writeStream => portTrap 3 key 0
  | .readStream =>
    match p.entries with
    | e :: es =>
      if e.past then portTrap 2 key 0 else
      match e.fault with
      | some a => portTrap 1 key a.toNat
      | none =>
        setPort key { p with entries := es, next := p.next + 1 }
        pure e.val
    | [] => if streamTotal p.recd ≤ p.next then portTrap 2 key 0 else stall (.pop key)
  | .link d fwd =>
    let s ← get
    match (s.core s.curCore).links.get [] (Dir.code d) with
    | [] => stall (.pop key)
    | v :: vs =>
      let v := if key < 32 then v else v &&& BitVec.ofNat 512 (2 ^ 64 - 1)
      modCore (fun c => { c with links := c.links.put (Dir.code d) vs })
      if fwd then linkPush (.pop key) (Dir.opp d) v else pure ()
      pure v
  | .chan ch =>
    let s ← get
    let c := s.core s.curCore
    if s.wordsHeld s.cur ch then stall (.pop key) else
    if key < 32 then
      match c.waiting ch with
      | [] => stall (.pop key)
      | m :: ms =>
        set (s.setCore s.curCore (c.setWaiting ch ms))
        pure (packLanes m.pay)
    else
      match (c.waiting ch).dropWhile (fun m => m.pay.isEmpty) with
      | [] => stall (.pop key)
      | m :: ms =>
        let rest := m.pay.drop 1
        set (s.setCore s.curCore (c.setWaiting ch (if rest.isEmpty then ms else { m with pay := rest } :: ms)))
        pure ((m.pay.headD 0).setWidth 512)

/-- A push (R157, R159, R160). The report of a write stream's fault clears it. -/
def pushPort (key : Nat) (p : Port) (v : B512) : Exec Unit := do
  match p.kind with
  | .readStream => portTrap 3 key 0
  | .chan _ => portTrap 3 key 0
  | .writeStream =>
    match p.fault with
    | some a => throw (.trap cPORT (portVal 1 key a.toNat) false (some key))
    | none =>
      if streamTotal p.recd ≤ p.next then portTrap 2 key 0
      else if 8 ≤ p.entries.length then stall (.push key)
      else setPort key { p with entries := p.entries ++ [{ n := p.next, val := v }], next := p.next + 1 }
  | .link d _ => linkPush (.push key) d v

/-! ## Registers -/

/-- A register that a retired instruction will still write makes its readers and writers wait (R184, R134, R154). -/
def settled (c : RegCls) (n : Nat) : Exec Unit := do
  let t ← thr
  if t.pend.any (fun p => p.cls == c && p.num == n) then stall (.pending c n) else pure ()
/-- Reads a scalar register: s0 reads zero, a bound port pops (R18, R20). -/
def readS (r : SReg) : Exec B64 := do
  if r = 0 then pure 0 else
  settled .s r.val
  let t ← thr
  match t.ports.get? (32 + r.val) with
  | some p => do
    let v ← popPort (32 + r.val) p
    pure (v.setWidth 64)
  | none => pure (t.s.get 0 r.val)
/-- Writes a scalar register: s0 discards, a bound port pushes. -/
def writeS (r : SReg) (v : B64) : Exec Unit := do
  if r = 0 then pure () else
  settled .s r.val
  let t ← thr
  match t.ports.get? (32 + r.val) with
  | some p => pushPort (32 + r.val) p (v.setWidth 512)
  | none => modThr (fun t => { t with s := t.s.put r.val v })
/-- Reads a vector register. -/
def readV (r : VReg) : Exec B512 := do
  settled .v r.val
  let t ← thr
  match t.ports.get? r.val with
  | some p => popPort r.val p
  | none => pure (t.v.get 0 r.val)
/-- Writes a vector register whole. -/
def writeV (r : VReg) (v : B512) : Exec Unit := do
  settled .v r.val
  let t ← thr
  match t.ports.get? r.val with
  | some p => pushPort r.val p v
  | none => modThr (fun t => { t with v := t.v.put r.val v })
/-- Reads a mask register: m0 is all ones (R18). -/
def readM (r : MReg) : Exec B64 := do
  if r = 0 then pure (BitVec.allOnes 64) else
  settled .m r.val
  let t ← thr
  pure (t.m.get 0 r.val)
/-- Writes a mask register: m0 discards. -/
def writeM (r : MReg) (v : B64) : Exec Unit := do
  if r = 0 then pure () else
  settled .m r.val
  modThr (fun t => { t with m := t.m.put r.val v })
/-- Reads a token register (R189). -/
def readD (r : DReg) : Exec (BitVec 32) := do
  let t ← thr
  pure (t.d.get 0 r.val)
/-- Writes a token register; the token it held is dropped (R190, R195). -/
def writeD (r : DReg) (v : BitVec 32) : Exec Unit := do
  modThr (fun t => { t with d := t.d.put r.val v })
  modify State.sweepTokens
/-- Reads a weave register (R199). -/
def readW (r : WReg) : Exec WVal := do
  let t ← thr
  pure (t.w.get {} r.val)
/-- Writes a weave register. -/
def writeW (r : WReg) (v : WVal) : Exec Unit := modThr (fun t => { t with w := t.w.put r.val v })
/-- A register written after the instruction retires is no bound port: PORT with reason 7, before every other check
(R162). `key` numbers vector registers from 0, scalar ones from 32. -/
def notPort (key : Nat) : Exec Unit := do
  let t ← thr
  if (t.ports.get? key).isSome then portTrap 7 key 0 else pure ()

end Sys2Proof.Machine
end

