-- ==== Sys2Proof/Machine/Flags.lean ====
section
/-!
DEFINITION. FFLAGS (R26, R82), the rounding mode an instruction uses (R74) and the thread's stochastic generator (R76).
-/
namespace Sys2Proof.Machine

/-- Merges an instruction's flags into FFLAGS; they are sticky (R82). -/
def orFlags (f : Flags) : Exec Unit := modThr (fun t => { t with fflags := t.fflags ||| f })
/-- The mode VRND names (R24): 6 and 7 are refused by `crw` (R25). -/
def vrndMode (v : BitVec 3) : RMode :=
  match v.toNat with | 0 => .rne | 1 => .rtz | 2 => .rdn | 3 => .rup | 4 => .rna | _ => .sto
/-- A rounding code: 6 takes VRND (R74). -/
def modeOf (r : RMode) : Exec RMode := do
  let t ← thr
  pure (if r = .dyn then vrndMode t.vrnd else r)
/-- The generator's state. -/
def genOf : Exec B64 := do
  let t ← thr
  pure t.gen
/-- Keeps the generator's state after the draws of an instruction. -/
def setGen (g : B64) : Exec Unit := modThr (fun t => { t with gen := g })
/-- SRSEED is written (R24): the generator takes the value, or the fixed one for 0. -/
def seedOf (v : B64) : B64 := if v = 0 then 0x9E3779B97F4A7C15#64 else v
/-- A rounded result: its flags merge and its draws advance the generator. -/
def keepRound (r : Rounded) : Exec B64 := do
  setGen r.gen
  orFlags r.flags
  pure (BitVec.ofNat 64 r.bits)

end Sys2Proof.Machine
end

