-- ==== Sys2Proof/Machine/Waits.lean ====
section
/-!
DEFINITION. When the conditions of R15 hold: what a Stalled slot waits for, as its instruction tests it again.
-/
namespace Sys2Proof.Machine

/-- Numbers of the sources of messages that are no thread slot: a core's cart, and the Square (R248). -/
def cartPair (core : Nat) : Nat := core * 8 + 5
def squarePair : Nat := 8 * nCores
/-- A channel has HOLD set, or a port bound to it (R150, R160, R247). -/
def State.chanHeld (s : State) (core ch : Nat) : Bool :=
  ((s.core core).chSet.get 0 ch).testBit 8 ||
  (List.range 4).any (fun k => (s.thread (tidOf core k)).ports.cells.any (fun p => p.2.kind == .chan ch))
/-- The link from a core toward `d` has room (R159). -/
def State.linkRoom (s : State) (core : Nat) (d : Dir) : Bool :=
  decide (((s.core (neighbour core d)).links.get [] (Dir.code (Dir.opp d))).length < 4)
/-- A pop of the port would not stall. -/
def State.popReady (s : State) (tid key : Nat) : Bool :=
  match (s.thread tid).ports.get? key with
  | none => true
  | some p =>
    match p.kind with
    | .writeStream => true
    | .readStream => !p.entries.isEmpty || decide (streamTotal p.recd ≤ p.next)
    | .link d fwd => !((s.core (coreOf tid)).links.get [] (Dir.code d)).isEmpty && (!fwd || s.linkRoom (coreOf tid) (Dir.opp d))
    | .chan ch => !s.wordsHeld tid ch && ((s.core (coreOf tid)).waiting ch).any (fun m => key < 32 || !m.pay.isEmpty)
/-- A push to the port would not stall. -/
def State.pushReady (s : State) (tid key : Nat) : Bool :=
  match (s.thread tid).ports.get? key with
  | none => true
  | some p =>
    match p.kind with
    | .writeStream => p.fault.isSome || decide (streamTotal p.recd ≤ p.next) || decide (p.entries.length < 8)
    | .link d _ => s.linkRoom (coreOf tid) d
    | _ => true
/-- Every predecessor of the task's launch has released this core (R245). -/
def State.depsMet (s : State) (tid : Nat) : Bool :=
  match (s.thread tid).launch with
  | none => true
  | some lid =>
    match s.sq.launches.find? (fun l => l.lid == lid && !l.done) with
    | none => true
    | some l => l.waits.all (fun w => (s.core (coreOf tid)).rel.contains (lid, w))
/-- The conditions of a `waitev` mask that hold (R149). -/
def State.evMask (s : State) (tid mask : Nat) : Nat :=
  (List.range 32).foldl (fun a i =>
    let holds := if i < 16 then !((s.core (coreOf tid)).waiting i).isEmpty else (s.thread tid).kc.get 0 (i - 16) == 0
    if mask.testBit i && holds then a + 2 ^ i else a) 0
/-- A `send` of the slot to a channel must wait (R248): an earlier message of its pair is bounced and not yet accepted,
or the core's resend buffer is full. -/
def State.sendBlocked (s : State) (tid dest ch : Nat) : Bool :=
  let c := s.core (coreOf tid)
  decide (16 ≤ c.resend.length) || c.resend.any (fun m => m.pair == tid && m.dest == dest && m.chan == ch)
/-- The remote operations a core has outstanding (R181). -/
def State.remoteOut (s : State) (core : Nat) : Nat := (s.sq.ops.filter (fun o => coreOf o.tid == core && o.uid == 0)).length
/-- FLOOR: the lowest number of the pair that has no reply, or the packet's own (R289). -/
def State.floorSeq (s : State) (tid dev seq : Nat) : Nat :=
  let mine := s.sq.ops.filterMap (fun r => if r.tid = tid ∧ r.dev = dev then r.seq else none)
  mine.foldl (fun b x => if (seq + 2 ^ 16 - b) % 2 ^ 16 < (seq + 2 ^ 16 - x) % 2 ^ 16 then x else b) seq
/-- The next number of a slot for a destination (R186). -/
def State.newSeq (s : State) (tid dev : Nat) : Nat := ((s.thread tid).seqs.get 0 dev + 1) % 2 ^ 16
/-- Its FLOOR lies at most 63 below it (R289). -/
def State.floorRoom (s : State) (tid dev : Nat) : Bool :=
  let n := s.newSeq tid dev
  decide ((n + 2 ^ 16 - s.floorSeq tid dev n) % 2 ^ 16 ≤ 63)
/-- Room in the special-function queue: 32 requests, 8 of a core (R134). An entry is free once its service has finished,
though its result is not yet written (log entry 45). -/
def State.sfuRoom (s : State) (core : Nat) : Bool :=
  let q := (s.croft (croftOf core)).sfu.filter (fun r => !r.served)
  decide (q.length < 32) && decide ((q.filter (fun r => coreOf r.tid == core)).length < 8)
/-- A mill job of the slot's task into a tile has not completed (R170). -/
def State.tileBusy (s : State) (tid a : Nat) : Bool :=
  let t := s.thread tid
  let c := s.core (coreOf tid)
  let mine (j : MillJob) : Bool := j.tid == tid && j.act == t.act && j.tile == a
  c.millQ.any mine || (match c.millCur with | some j => mine j | none => false)
/-- A mill job of the slot's task has not started (R164). -/
def State.millUnstarted (s : State) (tid : Nat) : Bool :=
  (s.core (coreOf tid)).millQ.any (fun j => j.tid == tid && j.act == (s.thread tid).act)

/-- What the instruction waited for has come back. -/
def Phase.back : Phase → Bool
  | .answered _ _ => true
  | .lanes _ b => b
  | _ => false
/-- The awaited condition of a Stalled slot holds (R15). -/
def State.waitOver (s : State) (tid : Nat) (w : Wait) : Bool :=
  let t := s.thread tid
  let core := coreOf tid
  let c := s.core core
  let answered := t.phase.back
  match w with
  | .pop k => s.popReady tid k
  | .push k => s.pushReady tid k
  | .counter k n => decide (t.kc.get 0 k ≤ n)
  | .value => answered
  | .kbar => answered
  | .kcount => answered
  | .well => answered
  | .pending cl n => !t.pend.any (fun p => p.cls == cl && p.num == n)
  | .filing => c.ksq.isEmpty
  | .waitdep => s.depsMet tid
  | .waitev m => s.evMask tid m != 0
  | .millQueue => decide (c.millQ.length < 16)
  | .cartQueue => decide (c.cartQ.length < 16)
  | .sfuQueue => s.sfuRoom core
  | .remoteLimit => decide (s.remoteOut core < 64)
  | .remoteFloor dev => s.floorRoom tid dev
  | .fenceAck => t.ackcnt == 0
  | .token slot g => (s.tok slot).gen != g || (s.tok slot).st != .pending
  | .reserve => !c.reserve.isEmpty
  | .millCreg => !s.millUnstarted tid
  | .binCreg => c.ksq.isEmpty
  | .tile a => !s.tileBusy tid a
  | .oldJobs => !t.tilesOld
  | .sdrain k => match t.ports.get? k with | some p => p.entries.isEmpty || p.fault.isSome | none => true
  | .backPressure dest ch => !s.sendBlocked tid dest ch
  | .ration => !c.asleep
  | .dirWake l => !s.dirAsleep core l
  | .idle => false
  | .resumed => true
/-- A save has stopped the slot's context: its slots stay Stalled but for what an access already sent waits for, and
a phase of `kbar` that completes (R332, R340). -/
def State.kept (s : State) (tid : Nat) (w : Wait) : Bool :=
  slotOf tid != 4 && w != .value && w != .kbar && (match w with | .dirWake _ => false | _ => true) && (match s.ctx? (s.thread tid).ctx with | some c => c.stop | none => false)
/-- Stalled slots whose condition holds become Ready (R15); a `waitev` keeps what held as it woke (R149). -/
def State.refresh (s : State) : State :=
  let up (k : Nat) (t : Thread) : Thread :=
    match t.st with
    | .stalled w =>
      if s.waitOver k w && !s.kept k w then
        let t := { t with st := .ready, readyAt := s.issueCycle (coreOf k) }
        match w with
        | .waitev m => { t with phase := .answered (BitVec.ofNat 64 (s.evMask k m)) 0 }
        | .dirWake _ => { t with phase := .answered 0 0 }
        | _ => t
      else t
    | _ => t
  { s with threads := s.threads.map up }

end Sys2Proof.Machine
end

