-- ==== Sys2Proof/Machine/Int.lean ====
section
/-!
DEFINITION. Integer instructions (R90 to R93), bit fields (R96), jumps and branches (R94, R95).
-/
namespace Sys2Proof.Machine

/-! ## Values -/

/-- The signed and unsigned readings of a register (R90). -/
def sgn (x : B64) : Int := x.toInt
/-- High half of a signed product. -/
def mulHigh (a b : B64) : B64 := BitVec.ofInt 64 (a.toInt * b.toInt / 2 ^ 64)
/-- High half of an unsigned product. -/
def mulHighN (a b : B64) : B64 := BitVec.ofNat 64 (a.toNat * b.toNat / 2 ^ 64)
/-- Signed quotient of R91: truncated toward zero; all ones for b = 0; the wrap of −2^63 / −1. -/
def quotS (a b : B64) : B64 := if b = 0 then BitVec.allOnes 64 else BitVec.ofInt 64 (a.toInt.tdiv b.toInt)
/-- Signed remainder of R91, with the dividend's sign; a for b = 0. -/
def remS (a b : B64) : B64 := if b = 0 then a else BitVec.ofInt 64 (a.toInt.tmod b.toInt)
/-- Unsigned quotient of R91. -/
def quotN (a b : B64) : B64 := if b = 0 then BitVec.allOnes 64 else BitVec.ofNat 64 (a.toNat / b.toNat)
/-- Unsigned remainder of R91. -/
def remN (a b : B64) : B64 := if b = 0 then a else BitVec.ofNat 64 (a.toNat % b.toNat)
/-- A shift amount: b[5:0] (R90). -/
def shamt (b : B64) : Nat := b.toNat % 64
/-- Leading zero bits; 64 for 0. -/
def clz64 (a : B64) : B64 := if a = 0 then 64 else BitVec.ofNat 64 (63 - Nat.log2 a.toNat)
/-- Trailing zero bits; 64 for 0. -/
def ctz64 (a : B64) : B64 := if a = 0 then 64 else BitVec.ofNat 64 (Nat.log2 (a &&& (0 - a)).toNat)
/-- Number of one bits. -/
def popc64 (a : B64) : B64 := BitVec.ofNat 64 (((List.range 64).filter (fun i => a.getLsbD i)).length)
/-- The bytes in reverse order. -/
def bswap64 (a : B64) : B64 := BitVec.ofNat 64 (leNat (leBytes 8 a.toNat).reverse)
/-- The immediate of the I and S formats. -/
def immI (i : BitVec 12) : B64 := i.signExtend 64

/-! ## Shapes -/

/-- sD = f sA sB. -/
def binary (f : B64 → B64 → B64) (d a b : SReg) : Exec Unit := do
  let x ← readS a
  let y ← readS b
  writeS d (f x y)
/-- sD = f sA. -/
def unary (f : B64 → B64) (d a : SReg) : Exec Unit := do
  let x ← readS a
  writeS d (f x)
/-- A branch taken when `c sA sB` (R95). -/
def branch (len : Nat) (c : B64 → B64 → Bool) (off : B64) (a b : SReg) : Exec B64 := do
  let x ← readS a
  let y ← readS b
  let t ← thr
  pure (if c x y then t.pc + off else t.pc + BitVec.ofNat 64 len)
/-- A pc-relative offset in halfwords. -/
def offOf {n : Nat} (i : BitVec n) : B64 := i.signExtend 64 <<< 1
/-- A pc-relative jump that links in sD (R94). -/
def jumpRel (len : Nat) (d : SReg) (off : B64) : Exec B64 := do
  let t ← thr
  writeS d (t.pc + BitVec.ofNat 64 len)
  pure (t.pc + off)

/-! ## INT (R90, R91) -/

def execAdd (d a b : SReg) (s : State) : Host.Outcome State Fault Refusal := .next (runI 4 (binary (· + ·) d a b) s)
def execSub (d a b : SReg) (s : State) : Host.Outcome State Fault Refusal := .next (runI 4 (binary (· - ·) d a b) s)
def execAnd (d a b : SReg) (s : State) : Host.Outcome State Fault Refusal := .next (runI 4 (binary (· &&& ·) d a b) s)
def execOr (d a b : SReg) (s : State) : Host.Outcome State Fault Refusal := .next (runI 4 (binary (· ||| ·) d a b) s)
def execXor (d a b : SReg) (s : State) : Host.Outcome State Fault Refusal := .next (runI 4 (binary (· ^^^ ·) d a b) s)
def execAndn (d a b : SReg) (s : State) : Host.Outcome State Fault Refusal := .next (runI 4 (binary (fun x y => x &&& ~~~y) d a b) s)
def execSll (d a b : SReg) (s : State) : Host.Outcome State Fault Refusal := .next (runI 4 (binary (fun x y => x <<< shamt y) d a b) s)
def execSrl (d a b : SReg) (s : State) : Host.Outcome State Fault Refusal := .next (runI 4 (binary (fun x y => x >>> shamt y) d a b) s)
def execSra (d a b : SReg) (s : State) : Host.Outcome State Fault Refusal := .next (runI 4 (binary (fun x y => x.sshiftRight (shamt y)) d a b) s)
def execRotl (d a b : SReg) (s : State) : Host.Outcome State Fault Refusal := .next (runI 4 (binary (fun x y => x.rotateLeft (shamt y)) d a b) s)
def execMul (d a b : SReg) (s : State) : Host.Outcome State Fault Refusal := .next (runI 4 (binary (· * ·) d a b) s)
def execMulh (d a b : SReg) (s : State) : Host.Outcome State Fault Refusal := .next (runI 4 (binary mulHigh d a b) s)
def execMulhn (d a b : SReg) (s : State) : Host.Outcome State Fault Refusal := .next (runI 4 (binary mulHighN d a b) s)
def execDiv (d a b : SReg) (s : State) : Host.Outcome State Fault Refusal := .next (runI 4 (binary quotS d a b) s)
def execDivn (d a b : SReg) (s : State) : Host.Outcome State Fault Refusal := .next (runI 4 (binary quotN d a b) s)
def execRem (d a b : SReg) (s : State) : Host.Outcome State Fault Refusal := .next (runI 4 (binary remS d a b) s)
def execRemn (d a b : SReg) (s : State) : Host.Outcome State Fault Refusal := .next (runI 4 (binary remN d a b) s)
def execMin (d a b : SReg) (s : State) : Host.Outcome State Fault Refusal := .next (runI 4 (binary (fun x y => if sgn x ≤ sgn y then x else y) d a b) s)
def execMax (d a b : SReg) (s : State) : Host.Outcome State Fault Refusal := .next (runI 4 (binary (fun x y => if sgn x ≤ sgn y then y else x) d a b) s)
def execMinn (d a b : SReg) (s : State) : Host.Outcome State Fault Refusal := .next (runI 4 (binary (fun x y => if x.toNat ≤ y.toNat then x else y) d a b) s)
def execMaxn (d a b : SReg) (s : State) : Host.Outcome State Fault Refusal := .next (runI 4 (binary (fun x y => if x.toNat ≤ y.toNat then y else x) d a b) s)
def execSlt (d a b : SReg) (s : State) : Host.Outcome State Fault Refusal := .next (runI 4 (binary (fun x y => ofBool (x.slt y)) d a b) s)
def execSltn (d a b : SReg) (s : State) : Host.Outcome State Fault Refusal := .next (runI 4 (binary (fun x y => ofBool (x.ult y)) d a b) s)
def execClz (d a : SReg) (s : State) : Host.Outcome State Fault Refusal := .next (runI 4 (unary clz64 d a) s)
def execCtz (d a : SReg) (s : State) : Host.Outcome State Fault Refusal := .next (runI 4 (unary ctz64 d a) s)
def execPopc (d a : SReg) (s : State) : Host.Outcome State Fault Refusal := .next (runI 4 (unary popc64 d a) s)
def execBswap (d a : SReg) (s : State) : Host.Outcome State Fault Refusal := .next (runI 4 (unary bswap64 d a) s)
/-- sD = sA when sC is nonzero, else sB; A, B and C are read in that order (R88, R90). -/
def execCsel (d a b c : SReg) (s : State) : Host.Outcome State Fault Refusal :=
  .next (runI 4 (do
    let x ← readS a
    let y ← readS b
    let z ← readS c
    writeS d (if z = 0 then y else x)) s)

/-! ## INTI (R92) -/

def execAddi (d a : SReg) (i : BitVec 12) (s : State) : Host.Outcome State Fault Refusal := .next (runI 4 (unary (· + immI i) d a) s)
def execAndi (d a : SReg) (i : BitVec 12) (s : State) : Host.Outcome State Fault Refusal := .next (runI 4 (unary (· &&& immI i) d a) s)
def execOri (d a : SReg) (i : BitVec 12) (s : State) : Host.Outcome State Fault Refusal := .next (runI 4 (unary (· ||| immI i) d a) s)
def execXori (d a : SReg) (i : BitVec 12) (s : State) : Host.Outcome State Fault Refusal := .next (runI 4 (unary (· ^^^ immI i) d a) s)
def execSlti (d a : SReg) (i : BitVec 12) (s : State) : Host.Outcome State Fault Refusal := .next (runI 4 (unary (fun x => ofBool (x.slt (immI i))) d a) s)
def execSltni (d a : SReg) (i : BitVec 12) (s : State) : Host.Outcome State Fault Refusal := .next (runI 4 (unary (fun x => ofBool (x.ult (immI i))) d a) s)
def execSlli (d a : SReg) (h : BitVec 6) (s : State) : Host.Outcome State Fault Refusal := .next (runI 4 (unary (· <<< h.toNat) d a) s)
def execSrli (d a : SReg) (h : BitVec 6) (s : State) : Host.Outcome State Fault Refusal := .next (runI 4 (unary (· >>> h.toNat) d a) s)
def execSrai (d a : SReg) (h : BitVec 6) (s : State) : Host.Outcome State Fault Refusal := .next (runI 4 (unary (fun x => x.sshiftRight h.toNat) d a) s)

/-! ## Upper immediates, jumps, branches (R93 to R95) -/

/-- The immediate of `lui` and `auipc`. -/
def immU (i : BitVec 20) : B64 := (i.setWidth 32 <<< 12).signExtend 64
def execLui (d : SReg) (i : BitVec 20) (s : State) : Host.Outcome State Fault Refusal := .next (runI 4 (writeS d (immU i)) s)
def execAuipc (d : SReg) (i : BitVec 20) (s : State) : Host.Outcome State Fault Refusal :=
  .next (runI 4 (do
    let t ← thr
    writeS d (t.pc + immU i)) s)
def execJal (d : SReg) (i : BitVec 20) (s : State) : Host.Outcome State Fault Refusal := .next (runJ 4 (jumpRel 4 d (offOf i)) s)
/-- The target is taken before sD is written; an odd one is MISALIGN and leaves sD (R94, R43). -/
def execJalr (d a : SReg) (i : BitVec 12) (s : State) : Host.Outcome State Fault Refusal :=
  .next (runJ 4 (do
    let x ← readS a
    let t ← thr
    let target := x + immI i
    if target.getLsbD 0 then trap cMISALIGN target else do
      writeS d (t.pc + 4)
      pure target) s)
def execBeq (a b : SReg) (i : BitVec 12) (s : State) : Host.Outcome State Fault Refusal := .next (runJ 4 (branch 4 (· == ·) (offOf i) a b) s)
def execBne (a b : SReg) (i : BitVec 12) (s : State) : Host.Outcome State Fault Refusal := .next (runJ 4 (branch 4 (· != ·) (offOf i) a b) s)
def execBlt (a b : SReg) (i : BitVec 12) (s : State) : Host.Outcome State Fault Refusal := .next (runJ 4 (branch 4 (fun x y => x.slt y) (offOf i) a b) s)
def execBge (a b : SReg) (i : BitVec 12) (s : State) : Host.Outcome State Fault Refusal := .next (runJ 4 (branch 4 (fun x y => y.sle x) (offOf i) a b) s)
def execBltn (a b : SReg) (i : BitVec 12) (s : State) : Host.Outcome State Fault Refusal := .next (runJ 4 (branch 4 (fun x y => x.ult y) (offOf i) a b) s)
def execBgen (a b : SReg) (i : BitVec 12) (s : State) : Host.Outcome State Fault Refusal := .next (runJ 4 (branch 4 (fun x y => y.ule x) (offOf i) a b) s)

/-! ## BITF (R96): the width minus 1 is `w` -/

def execBfx (d a : SReg) (p w : BitVec 6) (s : State) : Host.Outcome State Fault Refusal := .next (runI 4 (unary (fun x => sext (w.toNat + 1) (x >>> p.toNat)) d a) s)
def execBfxn (d a : SReg) (p w : BitVec 6) (s : State) : Host.Outcome State Fault Refusal := .next (runI 4 (unary (fun x => zext (w.toNat + 1) (x >>> p.toNat)) d a) s)
/-- D is read before A. -/
def execBfi (d a : SReg) (p w : BitVec 6) (s : State) : Host.Outcome State Fault Refusal :=
  .next (runI 4 (do
    let old ← readS d
    let x ← readS a
    let f := BitVec.ofNat 64 (2 ^ (w.toNat + 1) - 1) <<< p.toNat
    writeS d ((old &&& ~~~f) ||| ((x <<< p.toNat) &&& f))) s)

end Sys2Proof.Machine
end

