-- ==== Sys2Proof/Machine/Mem.lean ====
section
/-!
DEFINITION. Loads and stores (R97, R98), atomics and update-only forms (R100 to R102), fences (R103).
-/
namespace Sys2Proof.Machine

/-- A load: `n` bytes at sA + imm, put in sD by `f` (R97). -/
def loadBody (n : Nat) (f : B64 → B64) (d a : SReg) (off : B64) : Exec Unit := do
  let s0 ← get
  let x ← readS a
  let v ← loadMem s0 n (x + off)
  writeS d (f (BitVec.ofNat 64 v))
/-- A store: the low `n` bytes of sB at sA + imm (R97). -/
def storeBody (n : Nat) (a b : SReg) (off : B64) : Exec Unit := do
  let x ← readS a
  let y ← readS b
  storeMem n (x + off) y

def execLdS8 (d a : SReg) (i : BitVec 12) (s : State) : Host.Outcome State Fault Refusal := .next (runI 4 (loadBody 1 (sext 8) d a (immI i)) s)
def execLdN8 (d a : SReg) (i : BitVec 12) (s : State) : Host.Outcome State Fault Refusal := .next (runI 4 (loadBody 1 (zext 8) d a (immI i)) s)
def execLdS16 (d a : SReg) (i : BitVec 12) (s : State) : Host.Outcome State Fault Refusal := .next (runI 4 (loadBody 2 (sext 16) d a (immI i)) s)
def execLdN16 (d a : SReg) (i : BitVec 12) (s : State) : Host.Outcome State Fault Refusal := .next (runI 4 (loadBody 2 (zext 16) d a (immI i)) s)
def execLdS32 (d a : SReg) (i : BitVec 12) (s : State) : Host.Outcome State Fault Refusal := .next (runI 4 (loadBody 4 (sext 32) d a (immI i)) s)
def execLdN32 (d a : SReg) (i : BitVec 12) (s : State) : Host.Outcome State Fault Refusal := .next (runI 4 (loadBody 4 (zext 32) d a (immI i)) s)
def execLd64 (d a : SReg) (i : BitVec 12) (s : State) : Host.Outcome State Fault Refusal := .next (runI 4 (loadBody 8 id d a (immI i)) s)
def execSt8 (a b : SReg) (i : BitVec 12) (s : State) : Host.Outcome State Fault Refusal := .next (runI 4 (storeBody 1 a b (immI i)) s)
def execSt16 (a b : SReg) (i : BitVec 12) (s : State) : Host.Outcome State Fault Refusal := .next (runI 4 (storeBody 2 a b (immI i)) s)
def execSt32 (a b : SReg) (i : BitVec 12) (s : State) : Host.Outcome State Fault Refusal := .next (runI 4 (storeBody 4 a b (immI i)) s)
def execSt64 (a b : SReg) (i : BitVec 12) (s : State) : Host.Outcome State Fault Refusal := .next (runI 4 (storeBody 8 a b (immI i)) s)

/-! ## Atomics -/

/-- Whether an order has its release half. -/
def Order.isRel : Order → Bool | .rel => true | .ar => true | _ => false
/-- An atomic read and write at a location, as one event there (R101): the old value. -/
def State.amoAt (s : State) (tid l : Nat) (op : AmoOp) (w64 : Bool) (v cmp : B64) : State × B64 :=
  let n := updBytes w64
  let s := s.drainOver tid l n
  let s := (s.observe tid .thread l n).recall l n
  let old := BitVec.ofNat 64 (leNat (readBytes s.mem l n))
  if amoWrites op w64 old cmp then
    (s.portWrite (coreOf tid) 1 s.tag s.fleet.devId l (leBytes n (amoNew op w64 old v).toNat), old)
  else (s.echo l (coreOf tid) 1 s.tag s.fleet.devId, old)
/-- The value an AMO gives sD: zero-extended for a 32-bit fadd, sign-extended else (R101). -/
def amoResult (op : AmoOp) (w64 : Bool) (old : B64) : B64 :=
  if w64 then old else match op with | .fadd => zext 32 old | _ => sext 32 old
/-- An AMO (R101): `cas` reads its compare value in D first. -/
def amoBody (op : AmoOp) (d a b : SReg) (q : AmoMods) : Exec Unit := do
  let s0 ← get
  let cmp ← if op = .cas then readS d else pure 0
  let x ← readS a
  let y ← readS b
  aligned (updBytes q.w64) x
  let l ← locOf .write x
  filed l
  awaitValue s0 (s0.isFar l)
  if Order.isRel q.order then modify (fun s => s.release s.cur q.scope false) else pure ()
  let s ← get
  let r := s.amoAt s.cur l op q.w64 y cmp
  set r.1
  writeS d (amoResult op q.w64 r.2)

def execAmoSwap (d a b : SReg) (q : AmoMods) (s : State) : Host.Outcome State Fault Refusal := .next (runI 4 (amoBody .swap d a b q) s)
def execAmoAdd (d a b : SReg) (q : AmoMods) (s : State) : Host.Outcome State Fault Refusal := .next (runI 4 (amoBody .add d a b q) s)
def execAmoAnd (d a b : SReg) (q : AmoMods) (s : State) : Host.Outcome State Fault Refusal := .next (runI 4 (amoBody .and d a b q) s)
def execAmoOr (d a b : SReg) (q : AmoMods) (s : State) : Host.Outcome State Fault Refusal := .next (runI 4 (amoBody .or d a b q) s)
def execAmoXor (d a b : SReg) (q : AmoMods) (s : State) : Host.Outcome State Fault Refusal := .next (runI 4 (amoBody .xor d a b q) s)
def execAmoMin (d a b : SReg) (q : AmoMods) (s : State) : Host.Outcome State Fault Refusal := .next (runI 4 (amoBody .min d a b q) s)
def execAmoMax (d a b : SReg) (q : AmoMods) (s : State) : Host.Outcome State Fault Refusal := .next (runI 4 (amoBody .max d a b q) s)
def execAmoMinn (d a b : SReg) (q : AmoMods) (s : State) : Host.Outcome State Fault Refusal := .next (runI 4 (amoBody .minn d a b q) s)
def execAmoMaxn (d a b : SReg) (q : AmoMods) (s : State) : Host.Outcome State Fault Refusal := .next (runI 4 (amoBody .maxn d a b q) s)
def execAmoCas (d a b : SReg) (q : AmoMods) (s : State) : Host.Outcome State Fault Refusal := .next (runI 4 (amoBody .cas d a b q) s)
def execAmoFadd (d a b : SReg) (q : AmoMods) (s : State) : Host.Outcome State Fault Refusal := .next (runI 4 (amoBody .fadd d a b q) s)

/-! ## Update-only forms -/

/-- An `upd` (R102): a combine into the core's Update-only line for device memory (R39); at the memory port for a
scratchpad; one of order .rel waits, pending, for everything earlier of its thread (R216). -/
def updBody (op : UpdOp) (a b : SReg) (q : AmoMods) : Exec Unit := do
  let x ← readS a
  let y ← readS b
  let n := updBytes q.w64
  aligned n x
  let l ← locOf .write x
  filed l
  if (spadCore l).isSome || Order.isRel q.order then
    modify (fun s => s.pushStore { ser := 0, tid := s.cur, loc := l, data := leBytes n y.toNat, comb := some (op, q.w64),
                                   rel := Order.isRel q.order, tag := s.tag })
  else modify (fun s => s.updLine s.cur l op q.w64 y)

def execUpdAdd (a b : SReg) (q : AmoMods) (s : State) : Host.Outcome State Fault Refusal := .next (runI 4 (updBody .add a b q) s)
def execUpdFadd (a b : SReg) (q : AmoMods) (s : State) : Host.Outcome State Fault Refusal := .next (runI 4 (updBody .fadd a b q) s)
def execUpdMin (a b : SReg) (q : AmoMods) (s : State) : Host.Outcome State Fault Refusal := .next (runI 4 (updBody .min a b q) s)
def execUpdMax (a b : SReg) (q : AmoMods) (s : State) : Host.Outcome State Fault Refusal := .next (runI 4 (updBody .max a b q) s)
def execUpdOr (a b : SReg) (q : AmoMods) (s : State) : Host.Outcome State Fault Refusal := .next (runI 4 (updBody .or a b q) s)

/-! ## Fences -/

/-- A fence of R103: its release half makes earlier accesses visible at the scope (log entry 8); its acquire half adds
nothing where every read has returned before the fence issues (R210). -/
def fenceBody (o : Order) (sc : Scope) (eng : Bool) : Exec Unit :=
  if Order.isRel o then modify (fun s => s.release s.cur sc eng) else pure ()
def execFence (o : Order) (sc : Scope) (s : State) : Host.Outcome State Fault Refusal := .next (runI 4 (fenceBody o sc false) s)
def execFenceEng (o : Order) (sc : Scope) (s : State) : Host.Outcome State Fault Refusal := .next (runI 4 (fenceBody o sc true) s)
/-- Stalled until ACKCNT is 0. -/
def execFenceAck (s : State) : Host.Outcome State Fault Refusal :=
  .next (runI 4 (do
    let t ← thr
    if t.ackcnt = 0 then pure () else stall .fenceAck) s)

end Sys2Proof.Machine
end

