-- ==== Sys2Proof/Machine/Fp.lean ====
section
/-!
DEFINITION. Scalar floating point (R104 to R107).
-/
namespace Sys2Proof.Machine

/-- The value of a scalar operand: an F32 is taken from bits 31:0 (R104). -/
def fpVal (p : Prec) (x : B64) : FV := (precFmt p).value (x.toNat % 2 ^ (precFmt p).width)
/-- Rounds an exact result into sD, with the flags of the operation and of the rounding (R105, R82). -/
def fpWrite (p : Prec) (rm : RMode) (d : SReg) (r : FV × Flags) : Exec Unit := do
  let g ← genOf
  let x ← keepRound (roundTo (precFmt p) rm false g r.1)
  orFlags r.2
  writeS d x
/-- sD = Round(f a b). -/
def fpBinary (f : RMode → FV → FV → FV × Flags) (p : Prec) (r : RMode) (d a b : SReg) : Exec Unit := do
  let x ← readS a
  let y ← readS b
  let rm ← modeOf r
  fpWrite p rm d (f rm (fpVal p x) (fpVal p y))

def execFadd (p : Prec) (r : RMode) (d a b : SReg) (s : State) : Host.Outcome State Fault Refusal := .next (runI 4 (fpBinary addFV p r d a b) s)
def execFsub (p : Prec) (r : RMode) (d a b : SReg) (s : State) : Host.Outcome State Fault Refusal := .next (runI 4 (fpBinary (fun rm x y => addFV rm x y.neg) p r d a b) s)
def execFmul (p : Prec) (r : RMode) (d a b : SReg) (s : State) : Host.Outcome State Fault Refusal := .next (runI 4 (fpBinary (fun _ x y => mulFV x y) p r d a b) s)
def execFdiv (p : Prec) (r : RMode) (d a b : SReg) (s : State) : Host.Outcome State Fault Refusal := .next (runI 4 (fpBinary (fun _ x y => divFV x y) p r d a b) s)
def execFsqrt (p : Prec) (r : RMode) (d a : SReg) (s : State) : Host.Outcome State Fault Refusal :=
  .next (runI 4 (do
    let x ← readS a
    let rm ← modeOf r
    fpWrite p rm d (sqrtFV (fpVal p x))) s)
/-- a × b + d, rounded once; D is read first (R88, R105). -/
def execFma (p : Prec) (r : RMode) (d a b : SReg) (s : State) : Host.Outcome State Fault Refusal :=
  .next (runI 4 (do
    let z ← readS d
    let x ← readS a
    let y ← readS b
    let rm ← modeOf r
    fpWrite p rm d (fmaFV rm (fpVal p z) (fpVal p x) (fpVal p y))) s)

/-- NV when an operand is NaN (R106). -/
def nanFlag (l : List FV) : Flags := if l.any FV.isNan then flagNV else 0
/-- A minimum or maximum (R106): an operand, or the canonical NaN, without rounding. -/
def fpMinMax (mx : Bool) (p : Prec) (d a b : SReg) : Exec Unit := do
  let x ← readS a
  let y ← readS b
  let r := minMaxFV mx (fpVal p x) (fpVal p y)
  orFlags r.2
  writeS d (BitVec.ofNat 64 (roundTo (precFmt p) .rne false 0 r.1).bits)
/-- A comparison (R106): 0 with a NaN. -/
def fpCompare (c : Int → Bool) (p : Prec) (d a b : SReg) : Exec Unit := do
  let x ← readS a
  let y ← readS b
  orFlags (nanFlag [fpVal p x, fpVal p y])
  writeS d (ofBool (match cmpFV (fpVal p x) (fpVal p y) with | some o => c o | none => false))
/-- The one-hot class of a value (R106). -/
def fpClass (f : FFmt) : FV → Nat
  | .nan => 8
  | .inf s => if s then 0 else 7
  | .fin s m _ =>
    if m = 0 then (if s then 3 else 4)
    else if m < 2 ^ f.mbits then (if s then 2 else 5)
    else (if s then 1 else 6)

def execFmin (p : Prec) (d a b : SReg) (s : State) : Host.Outcome State Fault Refusal := .next (runI 4 (fpMinMax false p d a b) s)
def execFmax (p : Prec) (d a b : SReg) (s : State) : Host.Outcome State Fault Refusal := .next (runI 4 (fpMinMax true p d a b) s)
def execFeq (p : Prec) (d a b : SReg) (s : State) : Host.Outcome State Fault Refusal := .next (runI 4 (fpCompare (· == 0) p d a b) s)
def execFlt (p : Prec) (d a b : SReg) (s : State) : Host.Outcome State Fault Refusal := .next (runI 4 (fpCompare (fun o => decide (o < 0)) p d a b) s)
def execFle (p : Prec) (d a b : SReg) (s : State) : Host.Outcome State Fault Refusal := .next (runI 4 (fpCompare (fun o => decide (o ≤ 0)) p d a b) s)
def execFclass (p : Prec) (d a : SReg) (s : State) : Host.Outcome State Fault Refusal :=
  .next (runI 4 (do
    let x ← readS a
    orFlags (nanFlag [fpVal p x])
    writeS d (BitVec.ofNat 64 (2 ^ fpClass (precFmt p) (fpVal p x)))) s)

/-- An integer, or a value of the other format, rounded to `p` (R107). -/
def fpFrom (v : B64 → FV) (p : Prec) (r : RMode) (d a : SReg) : Exec Unit := do
  let x ← readS a
  let rm ← modeOf r
  fpWrite p rm d (v x, 0)
/-- A floating value to a 64-bit integer (R80, R107). -/
def fpTo (signed : Bool) (p : Prec) (r : RMode) (d a : SReg) : Exec Unit := do
  let x ← readS a
  let rm ← modeOf r
  let g ← genOf
  let y ← keepRound (roundToInt rm 64 signed g (fpVal p x))
  writeS d y
def execFcvtFromS64 (p : Prec) (r : RMode) (d a : SReg) (s : State) : Host.Outcome State Fault Refusal := .next (runI 4 (fpFrom (fun x => FV.ofInt x.toInt) p r d a) s)
def execFcvtFromN64 (p : Prec) (r : RMode) (d a : SReg) (s : State) : Host.Outcome State Fault Refusal := .next (runI 4 (fpFrom (fun x => FV.ofInt x.toNat) p r d a) s)
def execFcvtFromOther (p : Prec) (r : RMode) (d a : SReg) (s : State) : Host.Outcome State Fault Refusal :=
  .next (runI 4 (fpFrom (fun x => fpVal (match p with | .f32 => .f64 | .f64 => .f32) x) p r d a) s)
def execFcvtToS64 (p : Prec) (r : RMode) (d a : SReg) (s : State) : Host.Outcome State Fault Refusal := .next (runI 4 (fpTo true p r d a) s)
def execFcvtToN64 (p : Prec) (r : RMode) (d a : SReg) (s : State) : Host.Outcome State Fault Refusal := .next (runI 4 (fpTo false p r d a) s)

end Sys2Proof.Machine
end

