-- ==== Sys2Proof/Machine/Creg.lean ====
section
/-!
DEFINITION. Control registers (R24 to R27, R108, R153, R164, R353).
-/
namespace Sys2Proof.Machine

/-- The numbers R24 lists. -/
def cregListed (n : Nat) : Bool :=
  n ≤ 4 || (8 ≤ n && n ≤ 0xB) || (0x10 ≤ n && n ≤ 0x16) || (0x20 ≤ n && n ≤ 0x22) || n == 0x30 || n == 0x31 ||
  (0x40 ≤ n && n ≤ 0x4F) || (0x80 ≤ n && n ≤ 0x83) || (0x100 ≤ n && n ≤ 0x1FF)
/-- Registers marked "—" in the context column: PRIV in context mode. -/
def cregPriv (n : Nat) : Bool := 0x80 ≤ n && n ≤ 0x83
/-- Whether a write is taken in a mode; elsewhere it is ignored. -/
def cregWritable (sys : Bool) (n : Nat) : Bool :=
  if sys then !(n ≤ 2 || n == 0x31 || 0x100 ≤ n) else (8 ≤ n && n ≤ 0xB) || (0x10 ≤ n && n ≤ 0x16) || (0x20 ≤ n && n ≤ 0x22)
/-- THREAD, CORE and CTX (R24). THREAD.SLOT names the thread slots 0 to 3 only; read in the system slot it is 0 here (log
entry 45). -/
def State.threadReg (s : State) (tid : Nat) : B64 := BitVec.ofNat 64 (slotOf tid % 4 + 4 * coreOf tid + 2 ^ 19 * s.fleet.devId)
def coreReg (core : Nat) : B64 :=
  BitVec.ofNat 64 (core + 2 ^ 17 * croftOf core + 2 ^ 31 * terraceOf core + 2 ^ 44 * fieldOf core)
def State.ctxReg (s : State) (ctx : Nat) : B64 :=
  match s.ctx? ctx with
  | none => BitVec.ofNat 64 ctx
  | some c => BitVec.ofNat 64 (ctx + 2 ^ 16 * c.prio + (if c.sys then 2 ^ 19 else 0))
/-- RATION (R27). -/
def rationReg (c : Core) : B64 := BitVec.ofNat 64 (c.bal.toNat + 2 ^ 16 * c.fill.toNat + 2 ^ 32 * c.cap.toNat)
/-- What the clock adds to event counter n of a core's croft: cycles for source 1, cycles asleep for source 3 (R353). -/
def State.evClock (s : State) (core : Nat) (sel : BitVec 14) : B64 :=
  let c := core / 8 * 8 + sel.toNat / 256 % 8
  if sel.toNat % 256 = 1 then BitVec.ofNat 64 (s.cycles c) else if sel.toNat % 256 = 3 then BitVec.ofNat 64 (s.sleepCycles c) else 0
/-- EVCNT n as read. -/
def State.evRead (s : State) (core n : Nat) : B64 :=
  let cr := s.croft (croftOf core)
  cr.evcnt.get 0 n + s.evClock core (cr.evsel.get 0 n)
/-- The value a control register reads as; CYCLE counts the cycle of the reading instruction (R108). -/
def State.cregRead (s : State) (tid n : Nat) : B64 :=
  let t := s.thread tid
  let core := coreOf tid
  let c := s.core core
  match n with
  | 0x000 => s.threadReg tid
  | 0x001 => coreReg core
  | 0x002 => s.ctxReg t.ctx
  | 0x003 => BitVec.ofNat 64 (s.cycles core + 1)
  | 0x004 => rationReg c
  | 0x008 => t.fflags.setWidth 64
  | 0x009 => t.vrnd.setWidth 64
  | 0x00A => t.srseed
  | 0x00B => t.wshape.setWidth 64
  | 0x010 => t.mfmt.setWidth 64
  | 0x011 => t.mkReg
  | 0x012 => t.mpitcha
  | 0x013 => t.mpitchb
  | 0x014 => t.msca
  | 0x015 => t.mscb
  | 0x016 => t.mscn
  | 0x020 => t.hashk
  | 0x021 => c.binbase
  | 0x022 => c.bincnt
  | 0x030 => s.poundto.setWidth 64
  | 0x031 => BitVec.ofNat 64 t.ackcnt
  | 0x080 => c.tvec
  | 0x081 => t.tcause
  | 0x082 => t.tval
  | 0x083 => t.tpc
  | n =>
    if n < 0x48 then ((s.croft (croftOf core)).evsel.get 0 (n - 0x40)).setWidth 64
    else if n < 0x50 then s.evRead core (n - 0x48)
    else
      let p := n - 0x100
      let held := match s.path? p with | some x => x.ctx == t.ctx | none => false
      if held then BitVec.ofNat 64 (c.ackOwed.get 0 p % 2 ^ 16 + 2 ^ 16 * (c.ackRecv.get 0 p % 2 ^ 32)) else 0
/-- A value the register refuses (R25). -/
def cregRefuses (n : Nat) (v : B64) : Bool :=
  match n with
  | 0x009 => 6 ≤ v.toNat % 8
  | 0x00B =>
    let d := v.toNat % 256
    let b := v.toNat / 256 % 256
    d == 0 || 8 < d || b == 0 || 32 < b || 64 < d * b
  | 0x030 => v.toNat % 2 ^ 16 == 0
  | _ => false
/-- A write waits: FFLAGS for special-function flags (R134), a mill register for the thread's unstarted jobs (R164), a
bin register for the core's `ksend`s (R154). -/
def State.cregBusy (s : State) (tid n : Nat) : Option Wait :=
  let t := s.thread tid
  let c := s.core (coreOf tid)
  if 0x10 ≤ n ∧ n ≤ 0x16 then (if c.millQ.any (fun j => j.tid == tid && j.act == t.act) then some .millCreg else none)
  else if 0x20 ≤ n ∧ n ≤ 0x22 then (if c.ksq.isEmpty then none else some .binCreg)
  else none
/-- Event counters of delivered cycles of a core keep their counts when its CYCLE becomes `new` (R353). -/
def State.keepCounts (s : State) (core new : Nat) : State :=
  let cr := s.croft (croftOf core)
  let mine (i : Nat) : Bool := (cr.evsel.get 0 i).toNat % 256 == 1 && (cr.evsel.get 0 i).toNat / 256 % 8 == core % 8
  let delta := BitVec.ofNat 64 (s.cycles core) - BitVec.ofNat 64 new
  if (List.range 8).any mine then
    s.setCroft (croftOf core)
      { cr with evcnt := (List.range 8).foldl (fun m i => if mine i then m.put i (m.get 0 i + delta) else m) cr.evcnt }
  else s
/-- A control register takes a value it accepts. -/
def State.cregWrite (s : State) (tid n : Nat) (v : B64) : State :=
  let core := coreOf tid
  let onT (f : Thread → Thread) : State := s.modThread tid f
  let onC (f : Core → Core) : State := s.modCore core f
  match n with
  | 0x003 => (s.keepCounts core (v.toNat + 2 ^ 64 - 1)).modCore core (fun c =>
      let c := c.clocked s.now
      { c with cyc := v.toNat, cycAt := s.now + c.period, cycBase := c.cycBase + s.cycles core + 1 - v.toNat,
               halfTill := v.toNat + (c.halfTill - s.cycles core) })
  | 0x004 => onC (fun c => { c with fill := (v >>> 16).setWidth 16, cap := (v >>> 32).setWidth 16 })
  | 0x008 => onT (fun t => { t with fflags := v.setWidth 5 })
  | 0x009 => onT (fun t => { t with vrnd := v.setWidth 3 })
  | 0x00A => onT (fun t => { t with srseed := v, gen := seedOf v })
  | 0x00B => onT (fun t => { t with wshape := v.setWidth 16 })
  | 0x010 => onT (fun t => { t with mfmt := v.setWidth 10 })
  | 0x011 => onT (fun t => { t with mkReg := v })
  | 0x012 => onT (fun t => { t with mpitcha := v })
  | 0x013 => onT (fun t => { t with mpitchb := v })
  | 0x014 => onT (fun t => { t with msca := v })
  | 0x015 => onT (fun t => { t with mscb := v })
  | 0x016 => onT (fun t => { t with mscn := v })
  | 0x020 => onT (fun t => { t with hashk := v })
  | 0x021 => onC (fun c => { c with binbase := v &&& 0x3FFFF#64 })
  | 0x022 => onC (fun c => { c with bincnt := v &&& 0x7FFFFF#64 })
  | 0x030 => { s with poundto := v.setWidth 16 }
  | 0x080 => onC (fun c => { c with tvec := tvecAddr v })
  | 0x081 => onT (fun t => { t with tcause := v &&& 0xE0FF#64 })
  | 0x082 => onT (fun t => { t with tval := v })
  | 0x083 => onT (fun t => { t with tpc := v &&& 0x000FFFFFFFFFFFFF#64 })
  | n =>
    if n < 0x40 then s
    else if n < 0x48 then
      let old := s.evRead core (n - 0x40)
      let sel : BitVec 14 := v.setWidth 14
      let cr := s.croft (croftOf core)
      s.setCroft (croftOf core)
        { cr with evsel := cr.evsel.put (n - 0x40) sel, evcnt := cr.evcnt.put (n - 0x40) (old - s.evClock core sel) }
    else if n < 0x50 then
      let cr := s.croft (croftOf core)
      s.setCroft (croftOf core)
        { cr with evcnt := cr.evcnt.put (n - 0x48) (v - s.evClock core (cr.evsel.get 0 (n - 0x48))), evAt := cr.evAt.put (n - 0x48) s.now }
    else s
/-- An access is checked: an unlisted number is ILLEGAL, one kept from context mode PRIV; TVAL holds the number. -/
def cregCheck (n : Nat) : Exec Unit := do
  let t ← thr
  if !cregListed n then trap cILLEGAL (BitVec.ofNat 64 n)
  else if cregPriv n && !t.sysMode then trap cPRIV (BitVec.ofNat 64 n)
  else if n = 0x008 then settled .fflags 0
  else pure ()
/-- Reads a control register. -/
def cregGet (n : Nat) : Exec B64 := do
  cregCheck n
  let s ← get
  pure (s.cregRead s.cur n)
/-- Writes a control register: ignored where it is ro, refused by R25, else taken for every later instruction. -/
def cregPut (n : Nat) (v : B64) : Exec Unit := do
  let s ← get
  if !cregWritable (s.thread s.cur).sysMode n then pure ()
  else if cregRefuses n v then trap cILLEGAL (BitVec.ofNat 64 n)
  else match s.cregBusy s.cur n with
    | some w => stall w
    | none => set (s.cregWrite s.cur n v)

def execCrr (d : SReg) (c : BitVec 12) (s : State) : Host.Outcome State Fault Refusal :=
  .next (runI 4 (do
    let v ← cregGet c.toNat
    writeS d v) s)
def execCrw (c : BitVec 12) (a : SReg) (s : State) : Host.Outcome State Fault Refusal :=
  .next (runI 4 (do
    cregCheck c.toNat
    let v ← readS a
    cregPut c.toNat v) s)
/-- Sets or clears bits; sD receives the old value (R108). -/
def cregBits (f : B64 → B64 → B64) (d : SReg) (c : BitVec 12) (a : SReg) : Exec Unit := do
  let old ← cregGet c.toNat
  let v ← readS a
  cregPut c.toNat (f old v)
  writeS d old
def execCrs (d : SReg) (c : BitVec 12) (a : SReg) (s : State) : Host.Outcome State Fault Refusal := .next (runI 4 (cregBits (· ||| ·) d c a) s)
def execCrc (d : SReg) (c : BitVec 12) (a : SReg) (s : State) : Host.Outcome State Fault Refusal := .next (runI 4 (cregBits (fun x y => x &&& ~~~y) d c a) s)

end Sys2Proof.Machine
end

