-- ==== Sys2Proof/Machine/Sys.lean ====
section
/-!
DEFINITION. System instructions (R109 to R114), and what a fetch gives instead of an instruction (R43, R63).
-/
namespace Sys2Proof.Machine

/-- The slot stays Ready behind every other slot of the core that is Ready (R149, R249). -/
def State.yieldCur (s : State) : State :=
  let others := (List.range 4).filter (fun k =>
    tidOf s.curCore k != s.cur && (match (s.thread (tidOf s.curCore k)).st with | .ready => true | .running => true | _ => false))
  s.modThread s.cur (fun t => { t with behind := others })

def execTrap (c : BitVec 6) (s : State) : Host.Outcome State Fault Refusal :=
  .next (runI 4 (throw (.trap cTRAP (c.setWidth 64) true none)) s)
/-- `break` (R109). -/
def breakBody (c : B64) : Exec Unit := throw (.trap cBREAK c true none)
def execBrk (c : BitVec 6) (s : State) : Host.Outcome State Fault Refusal := .next (runI 4 (breakBody (c.setWidth 64)) s)
def execRett (s : State) : Host.Outcome State Fault Refusal :=
  .next (runI 4 (do
    needSys .rett
    let s ← get
    let t := s.thread s.cur
    if t.tpc.getLsbD 0 then trap cMISALIGN t.tpc else halt s.trapReturn) s)
/-- `idle` (R110): a thread slot yields; the system slot retires it and issues nothing more until a directory event or a
notice of the steward. -/
def execIdle (s : State) : Host.Outcome State Fault Refusal :=
  .next (runI 4 (do
    needSys .idle
    let s ← get
    if slotOf s.cur = 4 then modThr (fun t => { t with st := .stalled .idle }) else set s.yieldCur) s)
def execTstamp (d : SReg) (s : State) : Host.Outcome State Fault Refusal :=
  .next (runI 4 (do
    let s ← get
    writeS d (BitVec.ofNat 64 (s.now / 2))) s)
/-- An address in a scratchpad window (R30). -/
def inSpadWindow (va : B64) : Bool :=
  let v := va.toNat
  decide (0xFFF0000000000 ≤ v ∧ v < 0xFFF0640000000) || decide (0xFFFFFFFFC0000 ≤ v ∧ v < 2 ^ 52)
/-- `cflush` (R111): this core's copy of the line goes home and becomes Invalid. -/
def State.flushLine (s : State) (l : Nat) : State :=
  let line := l / 256
  let s := s.drainOver s.cur (line * 256) 256
  let s := s.mergeWhere (fun u => u.core == s.curCore && u.line == line)
  s.modCore s.curCore (fun c => { c with l1 := c.l1.erase line })
def execCflush (a : SReg) (s : State) : Host.Outcome State Fault Refusal :=
  .next (runI 4 (do
    let x ← readS a
    if inSpadWindow x then pure () else do
      let l ← locOf .read x
      modify (fun s => s.flushLine l)) s)
/-- `cinv` (R111, R222): the line leaves this core's instruction cache, and what is visible to the thread is fetched from
now on: the home merges Update-only copies when it serves the fetch (R39). -/
def State.cinvLine (s : State) (l : Nat) : State :=
  let line := l / 256
  let own (p : PStore) : Bool := overlap p.loc p.data.length (line * 256) 256 && p.vis != .t && inScope p.vis p.tid s.cur
  let s := (s.stores.filter own).foldl State.force s
  s.modCore s.curCore (fun c => { c with icache := c.icache.erase line })
def execCinv (a : SReg) (s : State) : Host.Outcome State Fault Refusal :=
  .next (runI 4 (do
    let x ← readS a
    let s ← get
    let t := s.thread s.cur
    set (s.walked s.curCore t.ctx x)
    if inSpadWindow x then pure ()
    else if 2 ^ 52 ≤ x.toNat || 0xFFF0000000000 ≤ x.toNat then trap cXLATE x
    else match s.leafFor s.curCore t.ctx x.toNat with
      | .none _ => trap cXLATE x
      | .leaf log2 e =>
        if !t.sysMode && !e.testBit 4 then throw (.denied x)
        else if e.testBit 5 then pure ()
        else modify (fun s => s.cinvLine (bits e 39 12 * 2 ^ 12 + x.toNat % 2 ^ log2))) s)
/-- `tlbinv` (R111): the page's entry, or with A = 0 every entry of the context, in this core's TLB and its croft's. -/
def State.tlbDrop (s : State) (core : Nat) (p : TlbEntry → Bool) : State :=
  let s := s.modCore core (fun c => { c with tlb := c.tlb.filter (fun e => !p e) })
  s.modCroft (croftOf core) (fun c => { c with tlb2 := c.tlb2.filter (fun e => !p e) })
def execTlbinv (a : SReg) (s : State) : Host.Outcome State Fault Refusal :=
  .next (runI 4 (do
    needSys (.tlbinv a)
    let x ← readS a
    let t ← thr
    modify (fun s => s.tlbDrop s.curCore (fun e => e.ctx == t.ctx && (a == 0 || e.hits t.ctx x.toNat)))) s)

/-- An encoding that is no instruction (R63): ILLEGAL with the word or halfword. -/
def execIllegalEncoding (w : BitVec 32) (compact : Bool) (s : State) : Host.Outcome State Fault Refusal :=
  .next (runI (if compact then 2 else 4) (trap cILLEGAL (w.setWidth 64)) s)
/-- A fetch that fails (R43): TVAL holds the halfword's address. -/
def execInstructionFetchFault (prot : Bool) (addr : B64) (s : State) : Host.Outcome State Fault Refusal :=
  .next (runI 4 (if prot then throw (.denied addr) else trap cXLATE addr) s)

end Sys2Proof.Machine
end

