-- ==== Sys2Proof/Machine/Task.lean ====
section
/-!
DEFINITION. Messages and tasks: the task instructions (R146 to R150), arrival, start, spill, bounce and refusal
(R16, R18, R147, R246 to R248).
-/
namespace Sys2Proof.Machine

/-! ## Starting tasks -/

/-- The record of a refused message (R329, kind 2). -/
def State.refuse (s : State) (m : Msg) (reason cause : Nat) (pc : B64) : State :=
  s.errRecord 2 m.ctx cause false m.dest pc
    (BitVec.ofNat 64 (m.cls + 2 ^ 6 * reason + 2 ^ 8 * m.src + 2 ^ 25 * s.fleet.devId))
/-- s9 of a task a message starts (R18). -/
def headerOf (dev : Nat) (m : Msg) : B64 :=
  BitVec.ofNat 64 (m.src + 2 ^ 17 * dev + 2 ^ 27 * m.cls + 2 ^ 33 * m.pay.length)
/-- The scalar registers at task start (R18, R34). -/
def startRegs (slot : Nat) (data hdr : B64) (pay : List B64) : SMap B64 :=
  ⟨[(2, BitVec.ofNat 64 (0xFFFFFFFFF9000 + slot * 0x1000)), (3, data), (9, hdr)] ++ pay.mapIdx (fun i v => (10 + i, v))⟩
/-- A message starts a task in a slot (R18, R246), or is refused for its class entry (R147, R43; log entry 18). -/
def State.startTask (s : State) (tid : Nat) (m : Msg) : State :=
  match s.ctx? m.ctx with
  | none => s.refuse m 0 0 0
  | some c =>
    let e := c.classes.get ⟨0, 0⟩ m.cls
    if e.entry = 0 then s.refuse m 1 0 0
    else if e.entry.getLsbD 0 then s.refuse m 2 cMISALIGN e.entry
    else
      let t := s.thread tid
      s.setThread tid
        { act := t.act, msgNo := t.msgNo, seqs := t.seqs, lastIss := t.lastIss,
          tiles := if t.tilesOld then t.tiles else {}, tilesOld := t.tilesOld, st := .ready, ctx := m.ctx, sysMode := c.sys, pc := e.entry,
          s := startRegs (slotOf tid) e.data (headerOf s.fleet.devId m) m.pay,
          prio := (s.core m.dest).chSet.get 0 m.chan % 8, launch := m.launch.map (·.lid), readyAt := s.issueCycle m.dest }
/-- The lowest-numbered free slot of a core that may start tasks: not while it is switched off (R351) or its context is
held for a save (R332). -/
def State.freeSlot (s : State) (core : Nat) : Option Nat :=
  let blocked := match (s.core core).ctx with
    | some x => (match s.ctx? x with | some c => c.stop || c.noStart || c.ended || c.saved | none => true)
    | none => true
  if blocked || (s.core core).isoff then none else ((List.range 4).map (tidOf core)).find? (fun t => (s.thread t).st == .free)
/-- The channel whose oldest waiting message starts next: highest priority, then lowest number (R246, R247). -/
def State.nextChan (s : State) (core : Nat) : Option Nat :=
  let c := s.core core
  let cands := (List.range 16).filter (fun ch => !s.chanHeld core ch && !(c.waiting ch).isEmpty)
  cands.foldl (fun best ch => match best with
    | none => some ch
    | some b => if c.chSet.get 0 b % 8 < c.chSet.get 0 ch % 8 then some ch else some b) none
/-- The oldest waiting message of a channel leaves; the others stay in the entries and in the spill queue (R246, R248). -/
def Core.takeFirst (c : Core) (ch : Nat) : Core :=
  match c.entries.get [] ch with
  | _ :: ms => { c with entries := c.entries.put ch ms }
  | [] => { c with spill := c.spill.put ch (c.spill.get [] ch).tail }
/-- Free slots of a core take waiting messages, lowest slot first (R246). -/
def fillSlots : Nat → Nat → State → State
  | 0, _, s => s
  | fuel + 1, core, s =>
    match s.freeSlot core, s.nextChan core with
    | some tid, some ch =>
      match (s.core core).waiting ch with
      | [] => s
      | m :: _ => fillSlots fuel core ((s.modCore core (fun c => c.takeFirst ch)).startTask tid m)
    | _, _ => s
/-- All that can start now: at most the messages a core can hold. -/
def State.startAll (s : State) (core : Nat) : State := fillSlots 400 core s

/-! ## Arrival -/

/-- The destination bounces the message (R248): back-pressure, or a record of its pair for another number. -/
def State.bounces (s : State) (m : Msg) : Bool :=
  let c := s.core m.dest
  decide (16 ≤ (c.spill.get [] m.chan).length) ||
  c.bounces.any (fun b => b.pair == m.pair && b.chan == m.chan && b.no != m.no)
/-- Adds a bounce record for the pair unless one stands. -/
def Core.recordBounce (c : Core) (m : Msg) : Core :=
  if c.bounces.any (fun b => b.pair == m.pair && b.chan == m.chan) then c
  else { c with bounces := c.bounces ++ [⟨m.pair, m.chan, m.no⟩] }
/-- The class entry a message names is valid (R147). -/
def State.hasClass (s : State) (m : Msg) : Bool :=
  match s.ctx? m.ctx with | some c => (c.classes.get ⟨0, 0⟩ m.cls).entry != 0 | none => false
/-- A core takes a message: one of a class without a valid entry is refused as it arrives, whatever its channel (R147; the model's
choice, log entry 18); held or waiting messages of its channel come first; else a slot may start it (R246, R160). -/
def State.accept (s : State) (m : Msg) : State :=
  let s := s.modCore m.dest (fun c =>
    { c with bounces := c.bounces.filter (fun b => !(b.pair == m.pair && b.chan == m.chan && b.no == m.no)) })
  let held := s.chanHeld m.dest m.chan
  if !s.hasClass m then s.refuse m 1 0 0 else
  let e := (s.core m.dest).entries.get [] m.chan
  let sp := (s.core m.dest).spill.get [] m.chan
  if held && e.length < 8 && sp.isEmpty then s.modCore m.dest (fun c => { c with entries := c.entries.put m.chan (e ++ [m]) })
  else ((s.modCore m.dest (fun c => { c with spill := c.spill.put m.chan (sp ++ [m]) })).wakeCore m.dest).startAll m.dest
/-- Whether the destination holds the sender's context (R147). -/
def State.holds (s : State) (core ctx : Nat) : Bool :=
  (s.core core).ctx == some ctx && (match s.ctx? ctx with | some c => !c.ended | none => false)
/-- A message meets its destination: refused, bounced (false) or accepted. Launch weights are set as it arrives (R243), again
at each arrival of one that was bounced (log entry 45). A full spill queue bounces a message before its class is looked at
(log entry 18). -/
def State.deliver (s : State) (m : Msg) : State × Bool :=
  if !s.holds m.dest m.ctx then (s.refuse m 0 0 0, true) else
  let s := match m.launch with
    | some l => s.modCore m.dest (fun c => { c with mw := if l.mw = 0 then c.mw else l.mw, cw := if l.cw = 0 then c.cw else l.cw })
    | none => s
  if s.bounces m then (s.modCore m.dest (fun c => c.recordBounce m), false) else (s.accept m, true)
/-- Whether a message in flight may arrive now: it is the first of its pair, and the stores it must follow are visible
(R147, R214); the cart sends as `send` would, so its message waits out back-pressure (R178, R248). -/
def State.mayArrive (s : State) (n : Nat) : Bool :=
  match s.drift[n]? with
  | none => false
  | some m =>
    !(s.drift.take n).any (fun x => x.pair == m.pair && x.dest == m.dest && x.chan == m.chan) &&
    (m.launch.isSome || (if m.pair % 8 = 5 then !s.sendBlocked m.pair m.dest m.chan else s.visibleUpTo m.pair m.after))
/-- A message that its destination would bounce and that the resend buffer of its source has no entry for (R248). -/
def State.noReturn (s : State) (m : Msg) : Bool :=
  m.launch.isNone && s.holds m.dest m.ctx && s.bounces m && decide (16 ≤ (s.core m.src).resend.length)
/-- Message `n` in flight arrives (R246, R248). One that would be bounced to a full resend buffer stays on Drift (log entry
45). -/
def State.arrive (s : State) (n : Nat) : State :=
  if !s.mayArrive n then s else
  match s.drift[n]? with
  | none => s
  | some m =>
    if s.noReturn m then s else
    let s := { s with drift := s.drift.eraseIdx n }
    let r := s.deliver m
    if r.2 then r.1
    else if m.launch.isSome then { r.1 with sqHeld := r.1.sqHeld ++ [m] }
    else r.1.modCore m.src (fun c => { c with resend := c.resend ++ [m] })
/-- Sends bounced messages again, in sequence order; those bounced again stay (R248), and those of a saved context. -/
def resendAll : List Msg → State → State × List Msg
  | [], s => (s, [])
  | m :: ms, s =>
    let held := match s.ctx? m.ctx with | some c => c.saved | none => false
    let r := if held then (s, false) else s.deliver m
    let q := resendAll ms r.1
    (q.1, if r.2 then q.2 else m :: q.2)

def execMessageArrival (n : Nat) (s : State) : Host.Outcome State Fault Refusal := .next (s.arrive n)
def execSpilledMessageStart (core : Nat) (s : State) : Host.Outcome State Fault Refusal := .next (s.startAll core)
def execBouncedMessageResend (core : Option Nat) (s : State) : Host.Outcome State Fault Refusal :=
  match core with
  | some c =>
    let r := resendAll (s.core c).resend s
    .next (r.1.modCore c (fun k => { k with resend := r.2 }))
  | none =>
    let r := resendAll s.sqHeld s
    .next { r.1 with sqHeld := r.2 }

/-! ## Sending -/

/-- The registers from `b` on, `n` of them, each read once in ascending order (R147). -/
def readRun : Nat → Nat → Exec (List B64)
  | _, 0 => pure []
  | b, n + 1 => do
    let v ← readS (Fin.ofNat 32 b)
    let vs ← readRun (b + 1) n
    pure (v :: vs)
/-- The message leaves for a destination word (R147). -/
def post (dw : B64) (pay : List B64) : Exec Unit := do
  let dest := dw.toNat % 2 ^ 17
  let chan := dw.toNat / 2 ^ 17 % 16
  if nCores ≤ dest || dw.toNat / 2 ^ 27 != 0 then trap cPROT dw else do
    let s ← get
    if s.sendBlocked s.cur dest chan then stall (.backPressure dest chan) else do
      let t := s.thread s.cur
      let m : Msg := ⟨s.curCore, s.cur, t.ctx, dest, chan, dw.toNat / 2 ^ 21 % 64, pay, t.msgNo, s.nextSer, none⟩
      set { s.modThread s.cur (fun t => { t with msgNo := (t.msgNo + 1) % 64 }) with drift := s.drift ++ [m] }

def execSend (a b : SReg) (n : BitVec 4) (s : State) : Host.Outcome State Fault Refusal :=
  .next (runI 4 (do
    let dw ← readS a
    let pay ← readRun b.val n.toNat
    post dw pay) s)
/-- Lane i of a vector as 64 bits. -/
def lane64 (v : B512) (i : Nat) : B64 := (v >>> (64 * i)).setWidth 64
def execSendv (a : SReg) (b : VReg) (n : BitVec 4) (s : State) : Host.Outcome State Fault Refusal :=
  .next (runI 4 (do
    let dw ← readS a
    let v ← readV b
    post dw ((List.range n.toNat).map (lane64 v))) s)

/-! ## The other task instructions -/

/-- `done` (R148). -/
def doneBody : Exec Unit := do
  let s ← get
  halt ((s.endTask s.cur false).startAll s.curCore)
def execTaskDone (s : State) : Host.Outcome State Fault Refusal := .next (runI 4 doneBody s)
/-- `yield` (R149). -/
def yieldBody : Exec Unit := modify State.yieldCur
def execYield (s : State) : Host.Outcome State Fault Refusal := .next (runI 4 yieldBody s)
/-- `waitk` (R149): Stalled until the count is at most n; the reading form, A not s0, takes count and E and clears E. -/
def waitkBody (k : KReg) (n : Nat) (a : SReg) : Exec Unit := do
  let t ← thr
  let cnt := t.kc.get 0 k.val
  if n < cnt then stall (.counter k.val n)
  else if a = 0 then pure () else do
    modThr (fun t => { t with ke := t.ke.put k.val false })
    writeS a (BitVec.ofNat 64 (cnt + (if t.ke.get false k.val then 256 else 0)))
def execWaitk (k : KReg) (n : BitVec 8) (a : SReg) (s : State) : Host.Outcome State Fault Refusal := .next (runI 4 (waitkBody k n.toNat a) s)
def execWaitdep (s : State) : Host.Outcome State Fault Refusal :=
  .next (runI 4 (do
    let s ← get
    if s.depsMet s.cur then pure () else stall .waitdep) s)
def execTrig (s : State) : Host.Outcome State Fault Refusal :=
  .next (runI 4 (do
    let s ← get
    let t := s.thread s.cur
    match t.launch with
    | some lid => if t.trig then pure () else set ((s.launchTrig lid s.cur).modThread s.cur (fun t => { t with trig := true }))
    | none => pure ()) s)
/-- `waitev` (R149): the conditions that hold as it wakes. -/
def execWaitev (d a : SReg) (s : State) : Host.Outcome State Fault Refusal :=
  .next (runI 4 (do
    let m ← readS a
    if m.toNat / 2 ^ 32 != 0 then trap cILLEGAL m else do
      let s ← get
      match (s.thread s.cur).phase with
      | .answered v _ => writeS d v
      | _ =>
        let r := s.evMask s.cur m.toNat
        if m != 0 && r == 0 then stall (.waitev m.toNat) else writeS d (BitVec.ofNat 64 r)) s)
/-- `chbind` (R150): the messages that wait on a channel with HOLD, or bound to a port, fill the 8 entries before the spill
queue (R247); those of another stay where they wait (R246). -/
def execChbind (a b : SReg) (s : State) : Host.Outcome State Fault Refusal :=
  .next (runI 4 (do
    let ch ← readS a
    let v ← readS b
    if 16 ≤ ch.toNat then trap cILLEGAL ch
    else if v &&& 0x107#64 != v then trap cILLEGAL v
    else do
      modCore (fun c => { c with chSet := c.chSet.put ch.toNat v.toNat })
      let s ← get
      if s.chanHeld s.curCore ch.toNat then modCore (fun c => c.setWaiting ch.toNat (c.waiting ch.toNat)) else pure ()) s)

end Sys2Proof.Machine
end

