-- ==== Sys2Proof/Machine/Kin.lean ====
section
/-!
DEFINITION. Kin sets (R151, R152) and their keepers (R253).
-/
namespace Sys2Proof.Machine

/-! ## At the keeper -/

/-- A phase completes: its arrived threads are released, pending members join, and those of them that have arrived open
the next phase (R152). -/
def completeOnce (r : KinSet × List (Nat × Nat)) : KinSet × List (Nat × Nat) :=
  let k := r.1
  if k.arr ≠ [] ∧ k.arr.length = k.mem.length then
    ({ mem := k.mem ++ k.pend, pend := [], arr := k.pendArr, pendArr := [], phase := k.phase + 1 }, r.2 ++ k.arr)
  else r
/-- Completes what can: a phase opened by pending members may be complete at once. -/
def completePhase (k : KinSet) : KinSet × List (Nat × Nat) := completeOnce (completeOnce (k, []))
/-- Takes a thread out of a set; an arrival is withdrawn only by the end of its task. -/
def KinSet.without (k : KinSet) (tid : Nat) : KinSet :=
  { k with mem := k.mem.filter (fun m => m != tid), pend := k.pend.filter (fun m => m != tid),
           pendArr := k.pendArr.filter (fun m => m.1 != tid) }
/-- An operation applied to its set (R152): the set after it and the threads released. -/
def KinSet.apply (k : KinSet) (o : KinOp) : KinSet × List (Nat × Nat) :=
  match o.kind with
  | .join =>
    if k.mem.contains o.tid || k.pend.contains o.tid then (k, [])
    else if k.arr.isEmpty then ({ k with mem := k.mem ++ [o.tid] }, [])
    else ({ k with pend := k.pend ++ [o.tid] }, [])
  | .leave => completePhase (k.without o.tid)
  | .bar =>
    if k.mem.contains o.tid then completePhase { k with arr := k.arr ++ [(o.tid, o.act)] }
    else ({ k with pendArr := k.pendArr ++ [(o.tid, o.act)] }, [])
  | .ended => completePhase { k.without o.tid with arr := k.arr.filter (fun a => a.1 != o.tid) }
  | .count => (k, [])
/-- The value of `kcount` (R152). -/
def KinSet.value (k : KinSet) : B64 :=
  BitVec.ofNat 64 (k.phase % 2 ^ 20 * 2 ^ 40 + k.arr.length % 2 ^ 20 * 2 ^ 20 + k.mem.length % 2 ^ 20)
/-- Operation `n` on its way reaches the keeper; those of one thread keep their order (R253). -/
def State.kinArrive (s : State) (n : Nat) : State :=
  match s.kinOps[n]? with
  | none => s
  | some o =>
    if (s.kinOps.take n).any (fun x => x.tid == o.tid) then s else
    let s := { s with kinOps := s.kinOps.eraseIdx n }
    let k := s.kin.get (KinSet.mk [] [] [] [] 0) o.set
    match o.kind with
    | .count => { s with kinAns := s.kinAns ++ [⟨o.tid, o.act, k.value⟩] }
    | _ =>
      let r := k.apply o
      { s with kin := s.kin.put o.set r.1, kinRel := s.kinRel ++ r.2 }
/-- An answer or a release reaches a thread whose task still waits for it. -/
def State.answer (s : State) (tid act : Nat) (v v2 : B64) : State :=
  let t := s.thread tid
  if t.act = act ∧ t.phase = .sent then s.setThread tid { t with phase := .answered v v2 } else s

def execKinOpAtKeeper (n : Nat) (s : State) : Host.Outcome State Fault Refusal := .next (s.kinArrive n)
def execKinReleaseArrival (n : Nat) (s : State) : Host.Outcome State Fault Refusal :=
  match s.kinRel[n]? with
  | none => .next s
  | some r => .next ({ s with kinRel := s.kinRel.eraseIdx n }.answer r.1 r.2 0 0)
def execKcountAnswer (n : Nat) (s : State) : Host.Outcome State Fault Refusal :=
  match s.kinAns[n]? with
  | none => .next s
  | some a => .next ({ s with kinAns := s.kinAns.eraseIdx n }.answer a.tid a.act a.val 0)

/-! ## At the thread -/

/-- The set id of an operand (R151). -/
def kinSet (a : SReg) : Exec (Nat × B64) := do
  let x ← readS a
  if 4096 ≤ x.toNat then trap cILLEGAL x else pure (x.toNat, x)
/-- Sends an operation to a set's keeper. -/
def kinSend (set : Nat) (k : KinOpK) : Exec Unit :=
  modify (fun s => { s with kinOps := s.kinOps ++ [⟨s.cur, (s.thread s.cur).act, kinKey (s.thread s.cur).ctx set, k⟩] })
/-- Stalls for an answer that is on its way: the state with the request sent. -/
def sentWait (w : Wait) : Exec Unit := do
  let s ← get
  halt ((s.modThread s.cur (fun t => { t with phase := .sent })).stallCur w)
/-- Channels of a core whose waiting messages differ between two states. -/
def chansRead (s s' : State) : List Nat :=
  (List.range 16).filter (fun ch => (s.core s.curCore).waiting ch != (s'.core s.curCore).waiting ch)
/-- An instruction that asks and waits for a value. A save runs it again (R332), so its operands are taken as it retires; what
it has read of a channel is held for it meanwhile (the model's choice; log entries 33, 45). -/
def asking {α : Type} (w : Wait) (operands : Exec α) (send : α → Exec Unit) (use : B64 → B64 → Exec Unit) : Exec Unit := do
  let s0 ← get
  let x ← operands
  let s1 ← get
  match (s0.thread s0.cur).phase with
  | .answered v v2 => use v v2
  | .idle => do
    set s0
    send x
    modThr (fun t => { t with holds := chansRead s0 s1 })
    sentWait w
  | _ => stall w

def execKjoin (a : SReg) (s : State) : Host.Outcome State Fault Refusal :=
  .next (runI 4 (do
    let x ← kinSet a
    let t ← thr
    if t.kin = some x.1 then pure () else do
      match t.kin with
      | some old => kinSend old .leave
      | none => pure ()
      kinSend x.1 .join
      modThr (fun t => { t with kin := some x.1 })) s)
def execKleave (a : SReg) (s : State) : Host.Outcome State Fault Refusal :=
  .next (runI 4 (do
    let x ← kinSet a
    let t ← thr
    if t.kin != some x.1 then pure () else do
      kinSend x.1 .leave
      modThr (fun t => { t with kin := none })) s)
/-- `kbar` (R152): earlier accesses are visible at scope .d, the arrival leaves, the thread waits for the release. Its
operand is taken as it arrives: no arrival is made twice (R340). -/
def execKbar (a : SReg) (s : State) : Host.Outcome State Fault Refusal :=
  .next (runI 4 (do
    let t ← thr
    match t.phase with
    | .answered _ _ => modThr (fun t => { t with kinArr := false })
    | .idle => do
      let x ← kinSet a
      if t.kin != some x.1 then trap cILLEGAL x.2 else do
        modify (fun s => s.release s.cur .d true)
        kinSend x.1 .bar
        modThr (fun t => { t with kinArr := true })
        sentWait .kbar
    | _ => stall .kbar) s)
def execKcount (d a : SReg) (s : State) : Host.Outcome State Fault Refusal :=
  .next (runI 4 (asking .kcount (kinSet a) (fun x => kinSend x.1 .count) (fun v _ => writeS d v)) s)

end Sys2Proof.Machine
end

