-- ==== Sys2Proof/Machine/Ports.lean ====
section
/-!
DEFINITION. Ports (R155 to R162): binding and unbinding, `skip`, `sdrain`, and the cart's side of streams.
-/
namespace Sys2Proof.Machine

/-- Key of a port register: vector registers from 0, scalar ones from 32. -/
def PortReg.key (p : PortReg) : Nat := p.num.val + (if p.scalar then 32 else 0)
/-- The port bound to a register; PORT with reason 5 for none. -/
def boundPort (key : Nat) : Exec Port := do
  let t ← thr
  match t.ports.get? key with
  | some p => pure p
  | none => portTrap 5 key 0
/-- The register must not be bound. -/
def freePort (key : Nat) : Exec Unit := do
  let t ← thr
  if (t.ports.get? key).isSome then portTrap 5 key 0 else pure ()

/-! ## Records (R156, R158) -/

/-- Reads a 64-byte record of the local scratchpad's context data area; PORT with reason 6 elsewhere. -/
def readRecord (key : Nat) (va : B64) : Exec (List Byte) := do
  let s ← get
  match ownSpad s.curCore va with
  | none => portTrap 6 key va.toNat
  | some off =>
    if off % 64 != 0 || 0x30000 < off + 64 then portTrap 6 key va.toNat else do
      let l := spadLoc s.curCore off
      filed l
      modify (fun s => s.prepRead s.cur l 64)
      let s ← get
      pure (s.readFor s.cur l 64)
/-- Reserved bits and unused dimensions are 0 (R156). -/
def recordOk (r : List Byte) : Bool :=
  dwordAt r 5 / 64 == 0 && dwordAt r 7 == 0 &&
  ((List.range 4).filter (fun i => streamNdim r < i)).all (fun i => dwordAt r (1 + i) == 0)
/-- A main record of R156, R158. -/
def mainOk (r : List Byte) : Bool :=
  recordOk r && streamEsize r == 0 && (if streamIndirect r then streamNdim r == 0 else dwordAt r 6 == 0)
/-- An index record of R158. -/
def indexOk (r : List Byte) : Bool :=
  recordOk r && (streamEsize r == 1 || streamEsize r == 2) && !streamIndirect r && !streamDir r && dwordAt r 6 == 0
def execBindStream (p : PortReg) (a : SReg) (s : State) : Host.Outcome State Fault Refusal :=
  .next (runI 4 (do
    let va ← readS a
    let key := PortReg.key p
    freePort key
    let r ← readRecord key va
    if !mainOk r then portTrap 6 key va.toNat else do
      let iva := BitVec.ofNat 64 (dwordAt r 6)
      let idx ← if streamIndirect r then readRecord key iva else pure []
      if streamIndirect r && !indexOk idx then portTrap 6 key iva.toNat else do
        let s ← get
        setPort key
          { kind := if streamDir r then .writeStream else .readStream, recd := r, idx := idx,
            sys := (s.thread s.cur).sysMode, after := s.nextSer }) s)
def execBindLink (p : PortReg) (r : Dir) (f : Bool) (s : State) : Host.Outcome State Fault Refusal :=
  .next (runI 4 (do
    let key := PortReg.key p
    freePort key
    let s ← get
    match (s.core s.curCore).linkOwn.get? (Dir.code r) with
    | some o => if o != s.cur then portTrap 5 key 0 else setPort key { kind := .link r f }
    | none => do
      modCore (fun c => { c with linkOwn := c.linkOwn.put (Dir.code r) s.cur })
      setPort key { kind := .link r f }) s)
def execBindChan (p : PortReg) (h : Fin 16) (s : State) : Host.Outcome State Fault Refusal :=
  .next (runI 4 (do
    let key := PortReg.key p
    freePort key
    setPort key { kind := .chan h.val }
    modCore (fun c => c.setWaiting h.val (c.waiting h.val))) s)

/-! ## unbind, skip, sdrain (R161) -/

/-- A write stream's fault is raised, and cleared; else the thread waits until its elements are written (R157, R161). -/
def drainPort (key : Nat) (p : Port) : Exec Unit := do
  match p.kind with
  | .writeStream =>
    match p.fault with
    | some a => throw (.trap cPORT (portVal 1 key a.toNat) false (some key))
    | none => if p.entries.isEmpty then pure () else stall (.sdrain key)
  | _ => pure ()
def execUnbind (p : PortReg) (s : State) : Host.Outcome State Fault Refusal :=
  .next (runI 4 (do
    let key := PortReg.key p
    let q ← boundPort key
    drainPort key q
    modThr (fun t => { t with ports := t.ports.erase key })
    match q.kind with
    | .link d _ => do
      let t ← thr
      let more := t.ports.cells.any (fun x => match x.2.kind with | .link g _ => g == d | _ => false)
      if more then pure () else modCore (fun c => { c with linkOwn := c.linkOwn.erase (Dir.code d) })
    | _ => pure ()) s)
/-- Drops words from the front of waiting messages, as a scalar channel port counts them (R160): the words dropped and
what stays. -/
def dropWords : Nat → List Msg → Nat × List Msg
  | _, [] => (0, [])
  | 0, ms => (0, ms)
  | n, m :: ms =>
    if n < m.pay.length then (n, { m with pay := m.pay.drop n } :: ms)
    else
      let r := dropWords (n - m.pay.length) ms
      (m.pay.length + r.1, r.2)
/-- Discards up to `n` entries of a link or channel: how many went, and the state after. A link bound with the forward
flag does not forward what is discarded: forwarding is a pop's (R159; log entry 45). -/
def State.discard (s : State) (key n : Nat) : PortKind → Nat × State
  | .link d _ =>
    let q := (s.core s.curCore).links.get [] (Dir.code d)
    (min n q.length, s.modCore s.curCore (fun c => { c with links := c.links.put (Dir.code d) (q.drop n) }))
  | .chan ch =>
    let q := (s.core s.curCore).waiting ch
    if key < 32 then (min n q.length, s.modCore s.curCore (fun c => c.setWaiting ch (q.drop n)))
    else
      let r := dropWords n q
      (r.1, s.modCore s.curCore (fun c => c.setWaiting ch r.2))
  | _ => (0, s)
/-- `skip` (R161): a read stream moves on without reading; a link or channel gives up what it has and waits for more, the
operand read once. -/
def execSkipPort (p : PortReg) (a : SReg) (s : State) : Host.Outcome State Fault Refusal :=
  .next (runI 4 (do
    let key := PortReg.key p
    let t ← thr
    let q0 ← boundPort key
    if q0.kind == .writeStream then portTrap 3 key 0 else do
    let x ← match t.skipArg with
      | some x => pure x
      | none => readS a
    let q ← boundPort key
    let s ← get
    match q.kind with
    | .writeStream => portTrap 3 key 0
    | .readStream =>
      if streamTotal q.recd < q.next + x.toNat then portTrap 2 key 0 else
        let next := q.next + x.toNat
        setPort key { q with next := next, fetched := max q.fetched next, entries := q.entries.filter (fun e => decide (next ≤ e.n)) }
    | k =>
      let want := x.toNat - t.skipped
      let held := match k with | .chan ch => s.wordsHeld s.cur ch | _ => false
      let r := if held then (0, s) else s.discard key want k
      if r.1 < want then
        halt ((r.2.modThread r.2.cur (fun t => { t with skipped := t.skipped + r.1, skipArg := some x })).stallCur (.pop key))
      else set r.2) s)
def execSdrain (p : PortReg) (s : State) : Host.Outcome State Fault Refusal :=
  .next (runI 4 (do
    let key := PortReg.key p
    let q ← boundPort key
    drainPort key q) s)

/-! ## The cart's side (R157, R158, R214) -/

/-- Where the cart's access of a stream element goes, or the fault it has. -/
def State.streamLoc (s : State) (core ctx : Nat) (sys : Bool) (acc : Acc) (size : Nat) (va : B64) : Option Nat :=
  if va.toNat % size != 0 then none else
  match s.route core ctx sys acc va with
  | .loc l => some l
  | _ => none
/-- An engine access walks as a thread's does: misses and broken entries are counted, copies merged (R323, R324). -/
def State.noteWalk (s : State) (core ctx : Nat) (sys : Bool) (acc : Acc) (va : B64) : State :=
  let w := s.walked core ctx va
  match s.route core ctx sys acc va with
  | .xlate => w.bumpWalk ctx va
  | _ => w
/-- Bytes the cart has read early that element `n` of a stream takes (R208). -/
def Port.aheadOf (p : Port) (n : Nat) : List (Nat × Byte) := (p.ahead.filter (fun e => decide (n < e.1))).map (·.2)
/-- The element's address, read through the index stream of an indirect one (R158): an address, past the end of the
indices, or the fault of an index element, whose own address TVAL then holds (the model's choice; log entry 45). -/
inductive ElemAddr where | at (va : B64) | past | bad (va : B64)
def State.elemAddr (s : State) (tid ctx : Nat) (p : Port) (n : Nat) : State × ElemAddr :=
  if !streamIndirect p.recd then (s, .at (streamAddr p.recd n)) else
  if streamTotal p.idx ≤ n then (s, .past) else
  let size := if streamEsize p.idx = 1 then 4 else 8
  let iva := streamAddr p.idx n
  match s.streamLoc (coreOf tid) ctx p.sys .read size iva with
  | none => (s.noteWalk (coreOf tid) ctx p.sys .read iva, .bad iva)
  | some l =>
    let x := (s.walked (coreOf tid) ctx iva).byteRead tid .agent (p.aheadOf n) l size
    let i := leNat x.2
    (x.1, .at (BitVec.ofNat 64 (dwordAt p.recd 0) + BitVec.ofNat 64 i * BitVec.ofInt 64 (streamStride p.recd 0)))
/-- The cart reads the next element of a read stream ahead of the thread (R157). -/
def State.refillPort (s : State) (tid key : Nat) : State :=
  let t := s.thread tid
  match t.ports.get? key with
  | none => s
  | some p =>
    if p.kind != .readStream || 8 ≤ p.entries.length || streamTotal p.recd ≤ p.fetched || !s.visibleUpTo tid p.after then s else
    let put (s : State) (e : PEntry) : State :=
      let q : Port :=
        { p with fetched := p.fetched + 1, entries := p.entries ++ [e], ahead := p.ahead.filter (fun a => decide (p.fetched + 1 < a.1)) }
      s.modThread tid (fun t => { t with ports := t.ports.put key q })
    let r := s.elemAddr tid t.ctx p p.fetched
    match r.2 with
    | .past => put r.1 { n := p.fetched, val := 0, past := true }
    | .bad va => put r.1 { n := p.fetched, val := 0, fault := some va }
    | .at va =>
      match r.1.streamLoc (coreOf tid) t.ctx p.sys .read (portBytes key) va with
      | none => put (r.1.noteWalk (coreOf tid) t.ctx p.sys .read va) { n := p.fetched, val := 0, fault := some va }
      | some l =>
        let x := (r.1.walked (coreOf tid) t.ctx va).byteRead tid .agent (p.aheadOf p.fetched) l (portBytes key)
        put x.1 { n := p.fetched, val := BitVec.ofNat 512 (leNat x.2) }
/-- What is to be written of the oldest pushed element of a write stream, and where: the rest of one begun, or the whole
of the next; or the address of its fault (R157). An element that the index stream is too short for is reported as one
that faulted, at BASE (log entry 45). -/
def State.elemRest (s : State) (tid ctx key : Nat) (p : Port) (e : PEntry) : State × Except B64 (Nat × List Byte) :=
  match p.part with
  | some x => (s, .ok x)
  | none =>
    let r := s.elemAddr tid ctx p e.n
    match r.2 with
    | .past => (r.1, .error (BitVec.ofNat 64 (dwordAt p.recd 0)))
    | .bad va => (r.1, .error va)
    | .at va =>
      match r.1.streamLoc (coreOf tid) ctx p.sys .write (portBytes key) va with
      | none => (r.1.noteWalk (coreOf tid) ctx p.sys .write va, .error va)
      | some l => (r.1.walked (coreOf tid) ctx va, .ok (l, leBytes (portBytes key) e.val.toNat))
/-- A write stream's port after at most `n` bytes of its oldest pushed element have been written, whole bytes (R208), or its
fault noted. Elements after one that faulted are written too; each fault is reported once, in order. -/
def State.writeSome (s : State) (tid ctx key n : Nat) (p : Port) : State × Port :=
  match p.entries with
  | [] => (s, p)
  | e :: es =>
    let r := s.elemRest tid ctx key p e
    match r.2 with
    | .error a => (r.1, if p.fault.isNone then { p with entries := es, fault := some a } else { p with entries := es, later := p.later ++ [a] })
    | .ok (l, bs) =>
      (r.1.streamPoke tid l (bs.take n),
        if bs.length ≤ n then { p with entries := es, part := none } else { p with part := some (l + n, bs.drop n) })
/-- At most `n` bytes of the oldest pushed element are written: of a task that has ended first, else of the bound port
(R148, R157). -/
def State.writeBack (s : State) (tid key n : Nat) : State :=
  match (s.core (coreOf tid)).orphans.find? (fun o => o.tid == tid && o.num == key) with
  | some o =>
    let r := s.writeSome tid o.ctx key n o.port
    r.1.modCore (coreOf tid) (fun c => c.putOrphan o r.2)
  | none =>
    match (s.thread tid).ports.get? key with
    | none => s
    | some p =>
      if p.kind != .writeStream then s else
      let r := s.writeSome tid (s.thread tid).ctx key n p
      r.1.modThread tid (fun t => { t with ports := t.ports.put key r.2 })

end Sys2Proof.Machine
end

