-- ==== Sys2Proof/Machine/Bin.lean ====
section
/-!
DEFINITION. The bin unit and `ksend` (R153, R154).
-/
namespace Sys2Proof.Machine

/-- The oldest `ksend` of a core has filed; the bin unit stops in a stretch (R257). -/
def execKsendFilingDone (core : Nat) (s : State) : Host.Outcome State Fault Refusal :=
  .next (if s.clockless core then s else s.fileNext core)

/-- A lane of an S32 or S64 vector, sign-extended (R154). -/
def laneSx (t : Ty) (v : B512) (i : Nat) : B64 := if t = .s64 then lane64 v i else sext 32 (v >>> (32 * i))
/-- `ksend` (R154): the table's place is checked, the pairs and the configuration are taken, the thread goes on. -/
def execKsend (t : Ty) (m : MReg) (d : MReg) (a b : VReg) (s : State) : Host.Outcome State Fault Refusal :=
  .next (runI 4 (do
    let va ← readV a
    let vb ← readV b
    let mk ← readM m
    if d = 0 then pure () else settled .m d.val
    let s ← get
    let c := s.core s.curCore
    let base := c.binbase.toNat
    let cnt := c.bincnt.toNat
    if 0x30000 < base + 16 * (cnt % 2 ^ 16) then trap cPROT 0xFFFFFFFFF0000#64 else do
      let th := s.thread s.cur
      let lanes := ((List.range t.lanes).filter (fun i => mk.getLsbD i)).map (fun i => (i, laneSx t va i, laneSx t vb i))
      let op := s.sq.nextId
      modify (fun s => { s with sq := { s.sq with nextId := op + 1 }, nextSer := s.nextSer + 1 })
      modCore (fun c => { c with ksq := c.ksq ++ [{ op := op, tid := s.cur, act := th.act, d := d.val, lanes := lanes, hashk := th.hashk, base := base, cnt := cnt, tag := s.tag, ser := s.nextSer }] })
      if d = 0 then pure () else modThr (fun t => { t with pend := t.pend ++ [⟨.m, d.val, op⟩] })) s)

end Sys2Proof.Machine
end

