-- ==== Sys2Proof/Machine/Gcm.lean ====
section
/-!
DEFINITION. AES-256-GCM (FIPS 197, SP 800-38D), which seals the packets of a ciphered port (R347). The substitution is
computed from the inverse in the field of 256 elements that defines it; a state is a list of 16 bytes, column after column.
-/
namespace Sys2Proof.Machine

/-! ## The field of 256 elements -/

def twice (b : Byte) : Byte := (b <<< 1) ^^^ (if b.getLsbD 7 then 0x1B else 0)
/-- The product, the second factor's bits from the top. -/
def fieldMul (a b : Byte) : Byte := (List.range 8).foldl (fun z i => twice z ^^^ (if b.getMsbD i then a else 0)) 0
/-- The inverse: the product of the squares of all orders. -/
def fieldInv (a : Byte) : Byte :=
  ((List.range 7).foldl (fun (p : Byte × Byte) _ => (fieldMul p.1 p.1, fieldMul p.2 (fieldMul p.1 p.1))) (a, 1)).2
def subByte (a : Byte) : Byte :=
  let x := fieldInv a
  x ^^^ x.rotateLeft 1 ^^^ x.rotateLeft 2 ^^^ x.rotateLeft 3 ^^^ x.rotateLeft 4 ^^^ 0x63

/-! ## The cipher -/

def xorBytes (a b : List Byte) : List Byte := List.zipWith (· ^^^ ·) a b
/-- The words of the key schedule from word `i` on, the newest first. -/
def growKey : Nat → Nat → Byte → List (List Byte) → List (List Byte)
  | 0, _, _, ws => ws
  | n + 1, i, rc, ws =>
    let w := ws.headD []
    let back := ws.getD 7 []
    if i % 8 = 0 then
      let t := ((w.drop 1 ++ w.take 1).map subByte).modifyHead (· ^^^ rc)
      growKey n (i + 1) (twice rc) (xorBytes back t :: ws)
    else growKey n (i + 1) rc (xorBytes back (if i % 8 = 4 then w.map subByte else w) :: ws)
/-- The 60 words of a 32-byte key's schedule as bytes. -/
def roundKeys (key : List Byte) : List Byte :=
  ((growKey 52 8 1 ((List.range 8).map (fun i => (key.drop (4 * i)).take 4)).reverse).reverse).flatten
/-- Substitution, and the rows turned by their number. -/
def turnRows (a : List Byte) : List Byte := (List.range 16).map (fun i => subByte (a.getD ((i + 4 * (i % 4)) % 16) 0))
/-- Each column times 3 x^3 + x^2 + x + 2. -/
def mixBytes (a : List Byte) : List Byte :=
  (List.range 16).map (fun i =>
    let c (k : Nat) : Byte := a.getD (i / 4 * 4 + (i + k) % 4) 0
    twice (c 0 ^^^ c 1) ^^^ c 1 ^^^ c 2 ^^^ c 3)
/-- The block cipher. -/
def aesBlock (keys block : List Byte) : List Byte :=
  let key (r : Nat) : List Byte := (keys.drop (16 * r)).take 16
  let a := (List.range 13).foldl (fun a r => xorBytes (mixBytes (turnRows a)) (key (r + 1))) (xorBytes block (key 0))
  xorBytes (turnRows a) (key 14)

/-! ## The mode -/

/-- The product of GCM's field, whose bits rise from the top. -/
def ghashMul (x y : BitVec 128) : BitVec 128 :=
  ((List.range 128).foldl (fun (p : BitVec 128 × BitVec 128) i =>
    (if x.getMsbD i then p.1 ^^^ p.2 else p.1, (p.2 >>> 1) ^^^ (if p.2.getLsbD 0 then 0xE1#128 <<< 120 else 0))) (0, y)).1
/-- Bytes filled up with zeros to whole blocks. -/
def padded (b : List Byte) : List Byte := b ++ List.replicate ((16 - b.length % 16) % 16) 0
/-- The hash of whole blocks. -/
def ghash (h : BitVec 128) : Nat → List Byte → BitVec 128 → BitVec 128
  | 0, _, y => y
  | n + 1, b, y => ghash h n (b.drop 16) (ghashMul (y ^^^ BitVec.ofNat 128 (beNat (b.take 16))) h)
/-- The key stream from counter 2 on. -/
def ctrMask (keys : List Byte) (nonce : BitVec 96) (n : Nat) : List Byte :=
  (List.range ((n + 15) / 16)).flatMap (fun i => aesBlock keys (beBytes 12 nonce.toNat ++ beBytes 4 (i + 2)))
/-- Data under the key stream: both ways. -/
def gcmCrypt (key : List Byte) (nonce : BitVec 96) (data : List Byte) : List Byte :=
  xorBytes data (ctrMask (roundKeys key) nonce data.length)
/-- The tag of a ciphertext and its associated data, 16 bytes. -/
def gcmTag (key : List Byte) (nonce : BitVec 96) (aad ct : List Byte) : List Byte :=
  let keys := roundKeys key
  let h := BitVec.ofNat 128 (beNat (aesBlock keys (List.replicate 16 0)))
  let b := padded aad ++ padded ct ++ beBytes 8 (8 * aad.length) ++ beBytes 8 (8 * ct.length)
  xorBytes (beBytes 16 (ghash h (b.length / 16) b 0).toNat) (aesBlock keys (beBytes 12 nonce.toNat ++ beBytes 4 1))

end Sys2Proof.Machine
end

