-- ==== Sys2Proof/Machine/Lanes.lean ====
section
/-!
DEFINITION. Lanes and view elements of a vector register (R115 to R117, R121 to R124): reading them at their exact
values, writing results into them, and the frame of the lane-wise instructions (R118, R119).
-/
namespace Sys2Proof.Machine

/-! ## Bits of a register -/

/-- The pattern of element `i` of `w` bits (R115, R116). -/
def elemBits (w i : Nat) (x : B512) : Nat := (x >>> (w * i)).toNat % 2 ^ w
/-- Puts a pattern into element `i`; every other bit keeps its value (R123). -/
def putElem (w i p : Nat) (x : B512) : B512 :=
  let mask : B512 := BitVec.ofNat 512 (2 ^ w - 1) <<< (w * i)
  (x &&& ~~~mask) ||| ((BitVec.ofNat 512 p <<< (w * i)) &&& mask)
/-- The view word that changes nothing. -/
def noView : View := ⟨none, none, none, 0, .rne, false⟩

/-! ## Sources (R121, R122) -/

/-- The exact integer in lane `j` of a source. -/
def srcInt (t : Ty) (v : Option SrcView) (x : B512) (j : Nat) : Int :=
  match v with
  | none => intVal t.width (tySigned t) (elemBits t.width j x)
  | some v => intVal v.fmt.bits (vSigned v.fmt) (elemBits v.fmt.bits (v.group.val * t.lanes + j) x)
/-- The exact floating value in lane `j` of a source. -/
def srcFlt (t : Ty) (v : Option SrcView) (x : B512) (j : Nat) : FV :=
  match v with
  | none => (tyFmt t).value (elemBits t.width j x)
  | some v => (vFmt v.fmt).value (elemBits v.fmt.bits (v.group.val * t.lanes + j) x)
/-- The destination of a view read as a source: the element that lane `j` is written to (R123). -/
def dstSrc (v : View) : Option SrcView := v.dn.map (fun f => ⟨f, v.di⟩)

/-! ## Results (R120, R121, R124) -/

/-- A destination register as its lanes are written, the flags gathered and the generator (R82, R76). -/
structure LaneAcc where
  reg   : B512
  flags : Flags
  gen   : B64
/-- Writes a pattern to lane `j`, or to its element under a destination view. -/
def LaneAcc.put (a : LaneAcc) (t : Ty) (v : View) (j p : Nat) : LaneAcc :=
  match v.dn with
  | none => { a with reg := putElem t.width j p a.reg }
  | some f => { a with reg := putElem f.bits (v.di.val * t.lanes + j) p a.reg }
/-- The width of the element a lane is written to. -/
def outWidth (v : View) (t : Ty) : Nat := match v.dn with | none => t.width | some f => f.bits
/-- Whether an integer element a lane is written to is signed. -/
def outSigned (v : View) (t : Ty) : Bool := match v.dn with | none => tySigned t | some f => vSigned f
/-- Writes an exact integer (R121); `none` is the all-ones pattern of R131. -/
def LaneAcc.putInt (a : LaneAcc) (t : Ty) (v : View) (j : Nat) (x : Option Int) : LaneAcc :=
  let w := outWidth v t
  a.put t v j (match x with
    | none => 2 ^ w - 1
    | some x => wrapInt w (if v.dn.isSome && v.ds then clampInt w (outSigned v t) x else x))
/-- Keeps a rounding's flags and draws, and writes its pattern. -/
def LaneAcc.putRounded (a : LaneAcc) (t : Ty) (v : View) (j : Nat) (f : Flags) (r : Rounded) : LaneAcc :=
  ({ a with flags := a.flags ||| f ||| r.flags, gen := r.gen }).put t v j r.bits
/-- Writes an exact floating value (R120), rounded once under `rm`. -/
def LaneAcc.putFlt (a : LaneAcc) (t : Ty) (v : View) (rm : RMode) (j : Nat) (x : FV × Flags) : LaneAcc :=
  let r := match v.dn with
    | none => roundTo (tyFmt t) rm false a.gen x.1
    | some f => roundTo (vFmt f) rm v.ds a.gen x.1
  a.putRounded t v j x.2 r
/-- Writes a floating value to an integer lane or element (R80, R124). -/
def LaneAcc.putFltInt (a : LaneAcc) (t : Ty) (v : View) (rm : RMode) (j : Nat) (x : FV) : LaneAcc :=
  a.putRounded t v j 0 (roundToInt rm (outWidth v t) (outSigned v t) a.gen x)

/-! ## The frame of a lane-wise instruction -/

/-- The rounding mode of a lane's result (R120, R124): DRM under a floating destination view, else VRND. -/
def elemMode (v : View) : Exec RMode :=
  match v.dn with
  | some f => if f.isFloat then modeOf v.drm else modeOf .dyn
  | none => modeOf .dyn
/-- A masked or viewed write to a bound port: PORT with reason 4 (R118). -/
def destOk (v : View) (m : MReg) (d : VReg) : Exec Unit := do
  let t ← thr
  if (t.ports.get? d.val).isSome && (m != 0 || v.dn.isSome) then portTrap 4 d.val 0 else pure ()
/-- What the lanes an instruction does not write keep: a bound port is only written whole (R118). -/
def oldV (d : VReg) : Exec B512 := do
  settled .v d.val
  let t ← thr
  pure (if (t.ports.get? d.val).isSome then 0 else t.v.get 0 d.val)
/-- The active lanes below `n` (R117). -/
def activeLanes (n : Nat) (mk : B64) : List Nat := (List.range n).filter (fun i => mk.getLsbD i)
/-- Both sources of a binary form, or the one of a unary form. -/
def readAB (a : VReg) (b : Option VReg) : Exec (B512 × B512) := do
  let x ← readV a
  match b with
  | none => pure (x, 0)
  | some b => do
    let y ← readV b
    pure (x, y)
/-- Runs a lane function over the active lanes below `n`; it gets the rounding mode, D, A, B, the lane, and the
destination so far. -/
def lanesOf (v : View) (n : Nat) (m : MReg) (d : VReg) (readsD : Bool) (a : VReg) (b : Option VReg)
    (f : RMode → B512 → B512 → B512 → Nat → LaneAcc → LaneAcc) : Exec LaneAcc := do
  let dv ← if readsD then readV d else oldV d
  let ab ← readAB a b
  let mk ← readM m
  let rm ← elemMode v
  let g ← genOf
  pure ((activeLanes n mk).foldl (fun acc i => f rm dv ab.1 ab.2 i acc) ⟨dv, 0, g⟩)
/-- A lane-wise instruction that writes vD as it retires. -/
def laneBody (v : View) (n : Nat) (m : MReg) (d : VReg) (readsD : Bool) (a : VReg) (b : Option VReg)
    (f : RMode → B512 → B512 → B512 → Nat → LaneAcc → LaneAcc) : Exec Unit := do
  destOk v m d
  let r ← lanesOf v n m d readsD a b f
  setGen r.gen
  orFlags r.flags
  writeV d r.reg

end Sys2Proof.Machine
end

