-- ==== Sys2Proof/Machine/VecArith.lean ====
section
/-!
DEFINITION. Vector arithmetic (R130 to R132). Each body takes the view in front of the instruction.
-/
namespace Sys2Proof.Machine

/-- An integer lane operation: width, d, a, b; `none` for the all-ones result of R131. -/
abbrev IntOp := Nat → Int → Int → Int → Option Int
/-- A floating lane operation: rounding mode (for the sign of a zero sum), d, a, b. -/
abbrev FltOp := RMode → FV → FV → FV → FV × Flags
/-- One lane of an arithmetic instruction. -/
def arithLane (fi : IntOp) (ff : FltOp) (v : View) (t : Ty) (rm : RMode) (d a b : B512) (j : Nat) (acc : LaneAcc) : LaneAcc :=
  if t.isFloat then
    acc.putFlt t v rm j (ff rm (srcFlt t (dstSrc v) d j) (srcFlt t v.av a j) (srcFlt t v.bv b j))
  else acc.putInt t v j (fi t.width (srcInt t (dstSrc v) d j) (srcInt t v.av a j) (srcInt t v.bv b j))
/-- A binary form, which may read D first. -/
def vBin (fi : IntOp) (ff : FltOp) (readsD : Bool) (v : View) (t : Ty) (m : MReg) (d a b : VReg) : Exec Unit :=
  laneBody v t.lanes m d readsD a (some b) (arithLane fi ff v t)
/-- A unary form. -/
def vUn (fi : IntOp) (ff : FltOp) (v : View) (t : Ty) (m : MReg) (d a : VReg) : Exec Unit :=
  laneBody v t.lanes m d false a none (arithLane fi ff v t)

/-- No integer or no floating result: the form does not take such a TY. -/
def noInt : IntOp := fun _ _ _ _ => some 0
def noFlt : FltOp := fun _ _ _ _ => (.nan, 0)
/-- The shift distance of R130: (b mod 2^w) mod w. -/
def shiftOf (w : Nat) (b : Int) : Nat := wrapInt w b % w
def iAdd : IntOp := fun _ _ a b => some (a + b)
def iSub : IntOp := fun _ _ a b => some (a - b)
def iMul : IntOp := fun _ _ a b => some (a * b)
def iMulh : IntOp := fun w _ a b => some ((a * b) / 2 ^ w)
def iMa : IntOp := fun _ d a b => some (d + a * b)
def iMs : IntOp := fun _ d a b => some (d - a * b)
def iMin : IntOp := fun _ _ a b => some (if a ≤ b then a else b)
def iMax : IntOp := fun _ _ a b => some (if b ≤ a then a else b)
def iAbs : IntOp := fun _ _ a _ => some a.natAbs
def iNeg : IntOp := fun _ _ a _ => some (-a)
def iAnd : IntOp := fun w _ a b => some (wrapInt w a &&& wrapInt w b : Nat)
def iOr : IntOp := fun w _ a b => some (wrapInt w a ||| wrapInt w b : Nat)
def iXor : IntOp := fun w _ a b => some (wrapInt w a ^^^ wrapInt w b : Nat)
def iSll : IntOp := fun w _ a b => some (wrapInt w (a * 2 ^ shiftOf w b))
def iSrl : IntOp := fun w _ a b => some (wrapInt w a / 2 ^ shiftOf w b : Nat)
def iSra : IntOp := fun w _ a b => some (a / 2 ^ shiftOf w b)
def iDiv : IntOp := fun _ _ a b => if b = 0 then none else some (a.tdiv b)
def fAdd : FltOp := fun rm _ a b => addFV rm a b
def fSub : FltOp := fun rm _ a b => addFV rm a b.neg
def fMul : FltOp := fun _ _ a b => mulFV a b
def fMa : FltOp := fun rm d a b => fmaFV rm d a b
def fMs : FltOp := fun rm d a b => fmaFV rm d a.neg b
def fMin : FltOp := fun _ _ a b => minMaxFV false a b
def fMax : FltOp := fun _ _ a b => minMaxFV true a b
def fAbs : FltOp := fun _ _ a _ => (a.abs, 0)
def fNeg : FltOp := fun _ _ a _ => (a.neg, 0)
def fDiv : FltOp := fun _ _ a b => divFV a b
def fSqrt : FltOp := fun _ _ a _ => sqrtFV a

def vaddBody : View → Ty → MReg → VReg → VReg → VReg → Exec Unit := vBin iAdd fAdd false
def vsubBody : View → Ty → MReg → VReg → VReg → VReg → Exec Unit := vBin iSub fSub false
def vmulBody : View → Ty → MReg → VReg → VReg → VReg → Exec Unit := vBin iMul fMul false
def vmulhBody : View → Ty → MReg → VReg → VReg → VReg → Exec Unit := vBin iMulh noFlt false
def vmaBody : View → Ty → MReg → VReg → VReg → VReg → Exec Unit := vBin iMa fMa true
def vmsBody : View → Ty → MReg → VReg → VReg → VReg → Exec Unit := vBin iMs fMs true
def vminBody : View → Ty → MReg → VReg → VReg → VReg → Exec Unit := vBin iMin fMin false
def vmaxBody : View → Ty → MReg → VReg → VReg → VReg → Exec Unit := vBin iMax fMax false
def vabsBody : View → Ty → MReg → VReg → VReg → Exec Unit := vUn iAbs fAbs
def vnegBody : View → Ty → MReg → VReg → VReg → Exec Unit := vUn iNeg fNeg
def vandBody : View → Ty → MReg → VReg → VReg → VReg → Exec Unit := vBin iAnd noFlt false
def vorBody : View → Ty → MReg → VReg → VReg → VReg → Exec Unit := vBin iOr noFlt false
def vxorBody : View → Ty → MReg → VReg → VReg → VReg → Exec Unit := vBin iXor noFlt false
def vsllBody : View → Ty → MReg → VReg → VReg → VReg → Exec Unit := vBin iSll noFlt false
def vsrlBody : View → Ty → MReg → VReg → VReg → VReg → Exec Unit := vBin iSrl noFlt false
def vsraBody : View → Ty → MReg → VReg → VReg → VReg → Exec Unit := vBin iSra noFlt false
def vdivBody : View → Ty → MReg → VReg → VReg → VReg → Exec Unit := vBin iDiv fDiv false
def vsqrtBody : View → Ty → MReg → VReg → VReg → Exec Unit := vUn noInt fSqrt

def execVadd (t : Ty) (m : MReg) (d a b : VReg) (s : State) : Host.Outcome State Fault Refusal := .next (runI 4 (vaddBody noView t m d a b) s)
def execVsub (t : Ty) (m : MReg) (d a b : VReg) (s : State) : Host.Outcome State Fault Refusal := .next (runI 4 (vsubBody noView t m d a b) s)
def execVmul (t : Ty) (m : MReg) (d a b : VReg) (s : State) : Host.Outcome State Fault Refusal := .next (runI 4 (vmulBody noView t m d a b) s)
def execVmulh (t : Ty) (m : MReg) (d a b : VReg) (s : State) : Host.Outcome State Fault Refusal := .next (runI 4 (vmulhBody noView t m d a b) s)
def execVma (t : Ty) (m : MReg) (d a b : VReg) (s : State) : Host.Outcome State Fault Refusal := .next (runI 4 (vmaBody noView t m d a b) s)
def execVms (t : Ty) (m : MReg) (d a b : VReg) (s : State) : Host.Outcome State Fault Refusal := .next (runI 4 (vmsBody noView t m d a b) s)
def execVmin (t : Ty) (m : MReg) (d a b : VReg) (s : State) : Host.Outcome State Fault Refusal := .next (runI 4 (vminBody noView t m d a b) s)
def execVmax (t : Ty) (m : MReg) (d a b : VReg) (s : State) : Host.Outcome State Fault Refusal := .next (runI 4 (vmaxBody noView t m d a b) s)
def execVabs (t : Ty) (m : MReg) (d a : VReg) (s : State) : Host.Outcome State Fault Refusal := .next (runI 4 (vabsBody noView t m d a) s)
def execVneg (t : Ty) (m : MReg) (d a : VReg) (s : State) : Host.Outcome State Fault Refusal := .next (runI 4 (vnegBody noView t m d a) s)
def execVand (t : Ty) (m : MReg) (d a b : VReg) (s : State) : Host.Outcome State Fault Refusal := .next (runI 4 (vandBody noView t m d a b) s)
def execVor (t : Ty) (m : MReg) (d a b : VReg) (s : State) : Host.Outcome State Fault Refusal := .next (runI 4 (vorBody noView t m d a b) s)
def execVxor (t : Ty) (m : MReg) (d a b : VReg) (s : State) : Host.Outcome State Fault Refusal := .next (runI 4 (vxorBody noView t m d a b) s)
def execVsll (t : Ty) (m : MReg) (d a b : VReg) (s : State) : Host.Outcome State Fault Refusal := .next (runI 4 (vsllBody noView t m d a b) s)
def execVsrl (t : Ty) (m : MReg) (d a b : VReg) (s : State) : Host.Outcome State Fault Refusal := .next (runI 4 (vsrlBody noView t m d a b) s)
def execVsra (t : Ty) (m : MReg) (d a b : VReg) (s : State) : Host.Outcome State Fault Refusal := .next (runI 4 (vsraBody noView t m d a b) s)
def execVdiv (t : Ty) (m : MReg) (d a b : VReg) (s : State) : Host.Outcome State Fault Refusal := .next (runI 4 (vdivBody noView t m d a b) s)
def execVsqrt (t : Ty) (m : MReg) (d a : VReg) (s : State) : Host.Outcome State Fault Refusal := .next (runI 4 (vsqrtBody noView t m d a) s)

end Sys2Proof.Machine
end

