-- ==== Sys2Proof/Machine/VecMem.lean ====
section
/-!
DEFINITION. Vector memory access (R126 to R129).
-/
namespace Sys2Proof.Machine

/-! ## Places -/

/-- Bytes of a lane. -/
def laneBytes (t : Ty) : Nat := t.width / 8
/-- Places of the active lanes at given addresses, each checked, in ascending lane order (R128). -/
def lanePlaces (acc : Acc) (n : Nat) : List (Nat × B64) → Exec (List (Nat × Nat))
  | [] => pure []
  | c :: cs => do
    aligned n c.2
    let l ← locOf acc c.2
    let rest ← lanePlaces acc n cs
    pure ((c.1, l) :: rest)
/-- Places of the active lanes of the 64-byte block at `va`, checked as one access (R128). -/
def blockPlaces (acc : Acc) (n : Nat) (va : B64) (lanes : List Nat) : Exec (List (Nat × Nat)) := do
  if lanes.isEmpty then pure [] else
  aligned 64 va
  let l ← locOf acc va
  pure (lanes.map (fun i => (i, l + i * n)))
/-- Every access of the list that touches a scratchpad waits for `ksend` (R154). -/
def allFiled : List (Nat × Nat) → Exec Unit
  | [] => pure ()
  | c :: cs => do
    filed c.2
    allFiled cs

/-! ## Loads -/

/-- The lanes of a load as a state reads them. -/
def State.lanesRead (s : State) (t : Ty) (places : List (Nat × Nat)) (x : B512) : B512 :=
  places.foldl (fun x c => putElem t.width c.1 (leNat (s.readFor s.cur c.2 (laneBytes t))) x) x
/-- Reads every place into its lane. Each part of the access, a lane or an aligned 8-byte part of a block, is read before
the stores of other agents that arrive meanwhile, or after them (R129; log entry 46). -/
def readLanes (t : Ty) (part : Nat → Nat) (places : List (Nat × Nat)) (x : B512) : Exec B512 := do
  modify (fun s => places.foldl (fun s c => s.prepRead s.cur c.2 (laneBytes t)) s)
  let s ← get
  let s' := s.arrivals (fun p => places.any (fun c => overlap p.loc p.data.length c.2 (laneBytes t)))
  if s'.freeCtr = s.freeCtr then pure (s.lanesRead t places x) else
  set ({ s' with freeCtr := s'.freeCtr + 1 } : State)
  pure (s.lanesRead t (places.filter (fun c => !s'.partBit (part c.1))) (s'.lanesRead t (places.filter (fun c => s'.partBit (part c.1))) x))
/-- The lanes of the load that have been read already. -/
def Phase.got : Phase → List (Nat × Nat)
  | .lanes got _ => got
  | _ => []
/-- Some parts of a load are read before the others, which come back later: the thread stays Stalled (R127, R129). -/
def State.lanesEarly (s : State) (t : Ty) (places : List (Nat × Nat)) : State :=
  let s := places.foldl (fun s c => s.prepRead s.cur c.2 (laneBytes t)) s
  let new := places.map (fun c => (c.1, leNat (s.readFor s.cur c.2 (laneBytes t))))
  (s.modThread s.cur (fun u => { u with phase := .lanes (u.phase.got ++ new) false, split := 0 })).stallCur .value
/-- The end of a load: the thread waits until every lane has returned (R127). Lanes of parts that the agenda has named are
read first (R129; log entry 46). -/
def loadLanes (s0 : State) (t : Ty) (d : VReg) (old : B512) (part : Nat → Nat) (places : List (Nat × Nat)) : Exec Unit := do
  allFiled places
  match places.find? (fun c => s0.dirAsleep s0.curCore c.2) with
  | some c => dirGate s0 c.2
  | none => pure ()
  awaitValue s0 (places.any (fun c => s0.isFar c.2))
  let me := s0.thread s0.cur
  let left := places.filter (fun c => !me.phase.got.any (fun g => g.1 == c.1))
  let early := left.filter (fun c => me.split.getLsbD (part c.1))
  if !early.isEmpty && decide (early.length < left.length) then halt (s0.lanesEarly t early) else do
    let x ← readLanes t part left (me.phase.got.foldl (fun x g => putElem t.width g.1 g.2 x) old)
    writeV d x
/-- The aligned 8-byte part of a block that holds a lane. -/
def blockPart (t : Ty) (i : Nat) : Nat := i * laneBytes t / 8
/-- Addresses of the active lanes for a stride, and for a register of offsets (R126). -/
def strideAddrs (lanes : List Nat) (base stride : B64) : List (Nat × B64) :=
  lanes.map (fun i => (i, base + BitVec.ofNat 64 i * stride))
def offsetAddrs (t : Ty) (lanes : List Nat) (base : B64) (offs : B512) : List (Nat × B64) :=
  lanes.map (fun i => (i, base + BitVec.ofNat 64 (elemBits t.width i offs)))

def execVld (t : Ty) (m : MReg) (d : VReg) (a : SReg) (s : State) : Host.Outcome State Fault Refusal :=
  .next (runI 4 (do
    let s0 ← get
    destOk noView m d
    let old ← oldV d
    let va ← readS a
    let mk ← readM m
    let places ← blockPlaces .read (laneBytes t) va (activeLanes t.lanes mk)
    loadLanes s0 t d old (blockPart t) places) s)
def execVlds (t : Ty) (m : MReg) (d : VReg) (a b : SReg) (s : State) : Host.Outcome State Fault Refusal :=
  .next (runI 4 (do
    let s0 ← get
    destOk noView m d
    let old ← oldV d
    let va ← readS a
    let st ← readS b
    let mk ← readM m
    let places ← lanePlaces .read (laneBytes t) (strideAddrs (activeLanes t.lanes mk) va st)
    loadLanes s0 t d old id places) s)
def execVgather (t : Ty) (m : MReg) (d : VReg) (a : SReg) (b : VReg) (s : State) : Host.Outcome State Fault Refusal :=
  .next (runI 4 (do
    let s0 ← get
    destOk noView m d
    let old ← oldV d
    let va ← readS a
    let offs ← readV b
    let mk ← readM m
    let places ← lanePlaces .read (laneBytes t) (offsetAddrs t (activeLanes t.lanes mk) va offs)
    loadLanes s0 t d old id places) s)

/-! ## Stores -/

/-- Stores each lane at its place, ascending; lanes of a nonzero group are one access. -/
def writeLanes (t : Ty) (data : B512) (grp : Nat) : List (Nat × Nat) → Exec Unit
  | [] => pure ()
  | c :: cs => do
    storeLoc c.2 (leBytes (laneBytes t) (elemBits t.width c.1 data)) grp
    writeLanes t data grp cs
/-- Stores the active lanes of one aligned 8-byte part of a block as one access (R129). -/
def writePart (t : Ty) (data : B512) (places : List (Nat × Nat)) (k : Nat) : Exec Unit := do
  let mine := places.filter (fun c => blockPart t c.1 == k)
  match mine with
  | [] => pure ()
  | c :: _ =>
    if mine.length * laneBytes t = 8 then storeLoc c.2 (leBytes 8 (elemBits 64 k data))
    else do
      let s ← get
      writeLanes t data (s.nextSer + 1) mine
/-- Stores a block part by part. -/
def writeBlock (t : Ty) (data : B512) (places : List (Nat × Nat)) : List Nat → Exec Unit
  | [] => pure ()
  | k :: ks => do
    writePart t data places k
    writeBlock t data places ks

def execVst (t : Ty) (m : MReg) (a : SReg) (b : VReg) (s : State) : Host.Outcome State Fault Refusal :=
  .next (runI 4 (do
    let va ← readS a
    let data ← readV b
    let mk ← readM m
    let places ← blockPlaces .write (laneBytes t) va (activeLanes t.lanes mk)
    allFiled places
    writeBlock t data places (List.range 8)) s)
def execVsts (t : Ty) (m : MReg) (d : VReg) (a b : SReg) (s : State) : Host.Outcome State Fault Refusal :=
  .next (runI 4 (do
    let data ← readV d
    let va ← readS a
    let st ← readS b
    let mk ← readM m
    let places ← lanePlaces .write (laneBytes t) (strideAddrs (activeLanes t.lanes mk) va st)
    allFiled places
    writeLanes t data 0 places) s)
def execVscatter (t : Ty) (m : MReg) (d : VReg) (a : SReg) (b : VReg) (s : State) : Host.Outcome State Fault Refusal :=
  .next (runI 4 (do
    let data ← readV d
    let va ← readS a
    let offs ← readV b
    let mk ← readM m
    let places ← lanePlaces .write (laneBytes t) (offsetAddrs t (activeLanes t.lanes mk) va offs)
    allFiled places
    writeLanes t data 0 places) s)

end Sys2Proof.Machine
end

