-- ==== Sys2Proof/Machine/VecPerm.lean ====
section
/-!
DEFINITION. Permutes, reductions and scan (R136 to R138), compares and masks (R139, R140), conversions, selection and
dot products (R141 to R143).
-/
namespace Sys2Proof.Machine

/-! ## Moves and permutes (R136) -/

/-- log2(L) low bits of an index select a lane. -/
def laneIndex (t : Ty) (x : Nat) : Nat := x % t.lanes
/-- The lanes of a form that copies patterns: lane i gets `f i`. -/
def copyLanes (t : Ty) (mk : B64) (f : Nat → Nat) (old : B512) : B512 :=
  (activeLanes t.lanes mk).foldl (fun acc i => putElem t.width i (f i) acc) old
def execVshuf (t : Ty) (m : MReg) (d a b : VReg) (s : State) : Host.Outcome State Fault Refusal :=
  .next (runI 4 (do
    destOk noView m d
    let old ← oldV d
    let x ← readV a
    let y ← readV b
    let mk ← readM m
    writeV d (copyLanes t mk (fun i => elemBits t.width (laneIndex t (elemBits t.width i y)) x) old)) s)
def execVbcast (t : Ty) (m : MReg) (d : VReg) (a : SReg) (s : State) : Host.Outcome State Fault Refusal :=
  .next (runI 4 (do
    destOk noView m d
    let old ← oldV d
    let x ← readS a
    let mk ← readM m
    writeV d (copyLanes t mk (fun _ => x.toNat % 2 ^ t.width) old)) s)
/-- A lane as a scalar register holds it: sign-extended for a signed integer TY, zero-extended else (R136). -/
def laneToS (t : Ty) (p : Nat) : B64 :=
  if tySigned t && !t.isFloat then BitVec.ofInt 64 (intVal t.width true p) else BitVec.ofNat 64 p
def execVextr (t : Ty) (d : SReg) (a : VReg) (b : SReg) (s : State) : Host.Outcome State Fault Refusal :=
  .next (runI 4 (do
    let x ← readV a
    let n ← readS b
    writeS d (laneToS t (elemBits t.width (laneIndex t n.toNat) x))) s)
def execVins (t : Ty) (d : VReg) (a b : SReg) (s : State) : Host.Outcome State Fault Refusal :=
  .next (runI 4 (do
    let old ← readV d
    let x ← readS a
    let n ← readS b
    writeV d (putElem t.width (laneIndex t n.toNat) (x.toNat % 2 ^ t.width) old)) s)
def execVslide (t : Ty) (m : MReg) (d a : VReg) (b : SReg) (s : State) : Host.Outcome State Fault Refusal :=
  .next (runI 4 (do
    destOk noView m d
    let old ← oldV d
    let x ← readV a
    let n ← readS b
    let mk ← readM m
    let at_ (i : Nat) : Nat :=
      let k : Int := (i : Int) + n.toInt
      if 0 ≤ k ∧ k < t.lanes then elemBits t.width k.toNat x else 0
    writeV d (copyLanes t mk at_ old)) s)

/-! ## Reductions (R83, R137) -/

/-- The reductions. -/
inductive RedOp where | sum | max | min
  deriving DecidableEq, Repr
/-- One level of the pairwise tree, neighbours combined left to right, an accumulator passed along. -/
def treeLevel {α β : Type} (f : β → α → α → β × α) : β → List α → β × List α
  | b, x :: y :: rest =>
    let r := f b x y
    let q := treeLevel f r.1 rest
    (q.1, r.2 :: q.2)
  | b, l => (b, l)
/-- The tree of R83 over 2^n leaves. -/
def treeFold {α β : Type} (f : β → α → α → β × α) : Nat → β → List α → β × List α
  | 0, b, l => (b, l)
  | n + 1, b, l =>
    let r := treeLevel f b l
    treeFold f n r.1 r.2
/-- The identity of an integer reduction (R83): the type's least value for a maximum, its greatest for a minimum, under a
source view too. -/
def redIdInt (op : RedOp) (t : Ty) : Int :=
  match op with
  | .sum => 0
  | .max => if tySigned t then -(2 ^ (t.width - 1)) else 0
  | .min => if tySigned t then 2 ^ (t.width - 1) - 1 else 2 ^ t.width - 1
/-- The identity of a floating reduction (R83). -/
def redIdFlt (op : RedOp) : FV := match op with | .sum => .fin true 0 0 | .max => .inf true | .min => .inf false
/-- One integer node. -/
def redInt (op : RedOp) (x y : Int) : Int :=
  match op with | .sum => x + y | .max => if y ≤ x then x else y | .min => if x ≤ y then x else y
/-- One floating node: a sum is rounded to F32 under VRND; a maximum or minimum with a NaN is NaN (R83). -/
def redFlt (op : RedOp) (rm : RMode) (b : Flags × B64) (x y : FV) : (Flags × B64) × FV :=
  match op with
  | .sum =>
    let r := addFV rm x y
    let q := roundTo fmtF32 rm false b.2 r.1
    ((b.1 ||| r.2 ||| q.flags, q.gen), fmtF32.value q.bits)
  | _ =>
    if x.isNan || y.isNan then ((b.1 ||| flagNV, b.2), .nan) else (b, (minMaxFV (op == .max) x y).1)
/-- A reduction's body: sD, the flags and the draws. -/
def vRed (op : RedOp) (v : View) (t : Ty) (m : MReg) (d : SReg) (a : VReg) : Exec Unit := do
  let x ← readV a
  let mk ← readM m
  let rm ← modeOf .dyn
  let g ← genOf
  let levels := Nat.log2 t.lanes
  if t.isFloat then
    let leaves := (List.range t.lanes).map (fun i => if mk.getLsbD i then srcFlt t v.av x i else redIdFlt op)
    let r := treeFold (redFlt op rm) levels (0, g) leaves
    setGen r.1.2
    orFlags r.1.1
    writeS d (BitVec.ofNat 64 (roundTo fmtF32 .rne false 0 (r.2.headD .nan)).bits)
  else
    let leaves := (List.range t.lanes).map (fun i => if mk.getLsbD i then srcInt t v.av x i else redIdInt op t)
    let r := treeFold (fun (_ : Unit) x y => ((), redInt op x y)) levels () leaves
    writeS d (BitVec.ofInt 64 (r.2.headD 0))
def execVredsum (t : Ty) (m : MReg) (d : SReg) (a : VReg) (s : State) : Host.Outcome State Fault Refusal := .next (runI 4 (vRed .sum noView t m d a) s)
def execVredmax (t : Ty) (m : MReg) (d : SReg) (a : VReg) (s : State) : Host.Outcome State Fault Refusal := .next (runI 4 (vRed .max noView t m d a) s)
def execVredmin (t : Ty) (m : MReg) (d : SReg) (a : VReg) (s : State) : Host.Outcome State Fault Refusal := .next (runI 4 (vRed .min noView t m d a) s)

/-! ## Scan (R84, R138) -/

/-- The scan over all lanes: the running value (none before lane 0) and the destination so far. A floating prefix is
rounded to TY with VRND, and then to the element of a destination view. -/
def scanFlt (v : View) (t : Ty) (vr rm : RMode) (mk : B64) (x : B512) (r : Option FV × LaneAcc) (j : Nat) : Option FV × LaneAcc :=
  if !mk.getLsbD j then (some (r.1.getD (.fin true 0 0)), r.2) else
  let sum := match r.1 with
    | none => (srcFlt t v.av x j, 0)
    | some y => addFV vr y (srcFlt t v.av x j)
  let q := roundTo (tyFmt t) vr false r.2.gen sum.1
  let y := (tyFmt t).value q.bits
  let acc := { r.2 with flags := r.2.flags ||| sum.2 ||| q.flags, gen := q.gen }
  (some y, match v.dn with | none => acc.put t v j q.bits | some _ => acc.putFlt t v rm j (y, 0))
/-- An integer scan: the exact running sum. -/
def scanInt (v : View) (t : Ty) (mk : B64) (x : B512) (r : Int × LaneAcc) (j : Nat) : Int × LaneAcc :=
  if !mk.getLsbD j then r else
  let y := r.1 + srcInt t v.av x j
  (y, r.2.putInt t v j (some y))
def vScan (v : View) (t : Ty) (m : MReg) (d a : VReg) : Exec Unit := do
  destOk v m d
  let old ← oldV d
  let x ← readV a
  let mk ← readM m
  let vr ← modeOf .dyn
  let rm ← elemMode v
  let g ← genOf
  let acc := if t.isFloat then ((List.range t.lanes).foldl (scanFlt v t vr rm mk x) (none, ⟨old, 0, g⟩)).2
    else ((List.range t.lanes).foldl (scanInt v t mk x) (0, ⟨old, 0, g⟩)).2
  setGen acc.gen
  orFlags acc.flags
  writeV d acc.reg
def execVscan (t : Ty) (m : MReg) (d a : VReg) (s : State) : Host.Outcome State Fault Refusal := .next (runI 4 (vScan noView t m d a) s)

/-! ## Compares and masks (R139, R140) -/

/-- A comparison's truth, from the order of the operands; none with a NaN. -/
def cmpHolds (c : Cmp) (o : Option Int) : Bool :=
  match c, o with
  | .ne, none => true
  | .un, none => true
  | _, none => false
  | .eq, some o => o == 0
  | .ne, some o => o != 0
  | .lt, some o => decide (o < 0)
  | .le, some o => decide (o ≤ 0)
  | .gt, some o => decide (0 < o)
  | .ge, some o => decide (0 ≤ o)
  | .un, some _ => false
/-- One lane's order: exact values. -/
def laneOrder (v : View) (t : Ty) (x y : B512) (j : Nat) : Option Int :=
  if t.isFloat then cmpFV (srcFlt t v.av x j) (srcFlt t v.bv y j)
  else some (srcInt t v.av x j - srcInt t v.bv y j)
def vCmp (v : View) (c : Cmp) (t : Ty) (m : MReg) (d : MReg) (a b : VReg) : Exec Unit := do
  let ab ← readAB a (some b)
  let mk ← readM m
  let act := activeLanes t.lanes mk
  let r := act.foldl (fun (acc : B64) j => if cmpHolds c (laneOrder v t ab.1 ab.2 j) then acc ||| (1#64 <<< j) else acc) 0
  if act.any (fun j => (laneOrder v t ab.1 ab.2 j).isNone) then orFlags flagNV else pure ()
  writeM d r
def execVcmp (c : Cmp) (t : Ty) (m : MReg) (d : MReg) (a b : VReg) (s : State) : Host.Outcome State Fault Refusal := .next (runI 4 (vCmp noView c t m d a b) s)
/-- A mask form of two sources. -/
def maskBin (f : B64 → B64 → B64) (d a b : MReg) : Exec Unit := do
  let x ← readM a
  let y ← readM b
  writeM d (f x y)
def execMand (d a b : MReg) (s : State) : Host.Outcome State Fault Refusal := .next (runI 4 (maskBin (· &&& ·) d a b) s)
def execMor (d a b : MReg) (s : State) : Host.Outcome State Fault Refusal := .next (runI 4 (maskBin (· ||| ·) d a b) s)
def execMxor (d a b : MReg) (s : State) : Host.Outcome State Fault Refusal := .next (runI 4 (maskBin (· ^^^ ·) d a b) s)
def execMnot (d a : MReg) (s : State) : Host.Outcome State Fault Refusal :=
  .next (runI 4 (do
    let x ← readM a
    writeM d (~~~x)) s)
/-- A count over (mA and mk). -/
def maskCount (f : B64 → Nat) (m : MReg) (d : SReg) (a : MReg) : Exec Unit := do
  let x ← readM a
  let mk ← readM m
  writeS d (BitVec.ofNat 64 (f (x &&& mk)))
def execMpop (m : MReg) (d : SReg) (a : MReg) (s : State) : Host.Outcome State Fault Refusal :=
  .next (runI 4 (maskCount (fun x => (activeLanes 64 x).length) m d a) s)
def execMfirst (m : MReg) (d : SReg) (a : MReg) (s : State) : Host.Outcome State Fault Refusal :=
  .next (runI 4 (maskCount (fun x => (activeLanes 64 x).headD 64) m d a) s)

/-! ## Conversion (R141) -/

/-- One lane of `vcvt` from source type `st`. A source view needs `st` = TY. Between equal floating types with no view the
value is exact and no draw is taken. -/
def cvtLane (st : Ty) (v : View) (t : Ty) (rm : RMode) (_ a _b : B512) (j : Nat) (acc : LaneAcc) : LaneAcc :=
  let rm := if st = t ∧ v.av.isNone ∧ v.dn.isNone then .rne else rm
  if st.isFloat then
    let x := srcFlt st v.av a j
    if t.isFloat then acc.putFlt t v rm j (x, 0) else acc.putFltInt t v rm j x
  else
    let x := srcInt st v.av a j
    if t.isFloat then acc.putFlt t v rm j (FV.ofInt x, 0)
    else acc.putInt t v j (some (if v.dn.isSome then x else clampInt t.width (tySigned t) x))
def vCvt (v : View) (t st : Ty) (m : MReg) (d a : VReg) : Exec Unit :=
  laneBody v (min t.lanes st.lanes) m d false a none (cvtLane st v t)
def execVcvt (t st : Ty) (m : MReg) (d a : VReg) (s : State) : Host.Outcome State Fault Refusal := .next (runI 4 (vCvt noView t st m d a) s)

/-! ## Selection (R142) -/

/-- One lane of `vsel` through a view: the selected source's exact value. -/
def selLane (v : View) (t : Ty) (mk : B64) (rm : RMode) (x y : B512) (j : Nat) (acc : LaneAcc) : LaneAcc :=
  let on := mk.getLsbD j
  if t.isFloat then acc.putFlt t v rm j (if on then srcFlt t v.av x j else srcFlt t v.bv y j, 0)
  else acc.putInt t v j (some (if on then srcInt t v.av x j else srcInt t v.bv y j))
def vSel (v : View) (t : Ty) (m : MReg) (d a b : VReg) : Exec Unit := do
  destOk v m d
  let old ← oldV d
  let ab ← readAB a (some b)
  let mk ← readM m
  if v.av.isNone && v.bv.isNone && v.dn.isNone then
    writeV d ((List.range t.lanes).foldl (fun acc i =>
      putElem t.width i (elemBits t.width i (if mk.getLsbD i then ab.1 else ab.2)) acc) old)
  else do
    let rm ← elemMode v
    let g ← genOf
    let r := (List.range t.lanes).foldl (fun acc j => selLane v t mk rm ab.1 ab.2 j acc) ⟨old, 0, g⟩
    setGen r.gen
    orFlags r.flags
    writeV d r.reg
def execVsel (t : Ty) (m : MReg) (d a b : VReg) (s : State) : Host.Outcome State Fault Refusal := .next (runI 4 (vSel noView t m d a b) s)

/-! ## Dot products (R143) -/

/-- The half-width type `vdot` reads without views; none where views are required. -/
def dotHalf : Ty → Option Ty | .s16 => some .s8 | .s32 => some .s16 | .s64 => some .s32 | .f32 => some .bf16 | _ => none
/-- The number of products of a lane. -/
def dotCount (v : View) (t : Ty) : Nat := match v.av with | none => 2 | some a => a.fmt.count / t.lanes
/-- The exact integer and floating value of element `k` of a `vdot` source. -/
def dotInt (t : Ty) (v : Option SrcView) (x : B512) (k : Nat) : Int :=
  match v with
  | none => intVal (t.width / 2) true (elemBits (t.width / 2) k x)
  | some a => intVal a.fmt.bits (vSigned a.fmt) (elemBits a.fmt.bits k x)
def dotFlt (v : Option SrcView) (x : B512) (k : Nat) : FV :=
  match v with
  | none => fmtBF16.value (elemBits 16 k x)
  | some a => (vFmt a.fmt).value (elemBits a.fmt.bits k x)
/-- One lane: d and the products, exact, rounded once. -/
def dotLane (v : View) (t : Ty) (rm : RMode) (d a b : B512) (i : Nat) (acc : LaneAcc) : LaneAcc :=
  let ks := (List.range (dotCount v t)).map (fun k => i * dotCount v t + k)
  if t.isFloat then
    acc.putFlt t v rm i (ks.foldl (fun r k =>
      let q := fmaFV rm r.1 (dotFlt v.av a k) (dotFlt v.bv b k)
      (q.1, r.2 ||| q.2)) (srcFlt t (dstSrc v) d i, 0))
  else acc.putInt t v i (some (ks.foldl (fun r k => r + dotInt t v.av a k * dotInt t v.bv b k) (srcInt t (dstSrc v) d i)))
def vDot (v : View) (t : Ty) (m : MReg) (d a b : VReg) : Exec Unit :=
  laneBody v t.lanes m d true a (some b) (dotLane v t)
/-- A TY of `vdot` that needs views is ILLEGAL without them. -/
def execVdot (t : Ty) (m : MReg) (d a b : VReg) (s : State) : Host.Outcome State Fault Refusal :=
  .next (runI 4 (if (dotHalf t).isSome then vDot noView t m d a b else trap cILLEGAL (wordVal (.vdot t m d a b))) s)

end Sys2Proof.Machine
end

