-- ==== Sys2Proof/Machine/Trans.lean ====
section
/-!
DEFINITION. The exact functions of the special-function unit (R133). A value that is no dyadic number is held as a
truncation to at least 200 significant bits with an odd last bit, so that every rounding of R75 sees which side of its
boundary the exact value lies on (log entry 11).
-/
namespace Sys2Proof.Machine

/-- Fraction bits of the fixed-point values below. -/
def fixP : Nat := 320
def fixOne : Nat := 2 ^ fixP
/-- Sum of x^k / k! for k from `k` on, `term` being the term before. -/
def expSum (x : Nat) : Nat → Nat → Nat → Nat → Nat
  | 0, _, _, acc => acc
  | fuel + 1, k, term, acc =>
    let term := term * x / fixOne / k
    expSum x fuel (k + 1) term (acc + term)
/-- e^x for x below 1. -/
def expFix (x : Nat) : Nat := expSum x 80 1 fixOne fixOne
/-- Sum of z^(2k+1) / (2k+1): half the logarithm of (1 + z) / (1 - z), for z at most 1/3. -/
def atanhSum (z2 : Nat) : Nat → Nat → Nat → Nat → Nat
  | 0, _, _, acc => acc
  | fuel + 1, k, pow, acc =>
    let pow := pow * z2 / fixOne
    atanhSum z2 fuel (k + 2) pow (acc + pow / k)
def atanhFix (z : Nat) : Nat := atanhSum (z * z / fixOne) 110 3 z z
/-- ln 2 = 2 atanh(1/3). -/
def ln2Fix : Nat := 2 * atanhFix (fixOne / 3)
/-- A truncated magnitude `q / 2^sh` with an odd last bit. -/
def sticky (neg : Bool) (q : Nat) (sh : Nat) : FV := .fin neg (2 * q + 1) (-(sh : Int) - 1)
/-- A nonzero magnitude below, and one above, every format the unit writes. -/
def tinyFV (neg : Bool) : FV := .fin neg 1 (-2000)
def hugeFV : FV := .fin false 1 2000
/-- The magnitude is at least 512. -/
def isBig (m : Nat) (e : Int) : Bool := decide (9 ≤ (Nat.log2 m : Int) + e)
/-- A magnitude as a fixed-point number; exact for every format the unit reads. -/
def toFix (m : Nat) (e : Int) : Nat := m * 2 ^ ((fixP : Int) + e).toNat
def oneFV : FV := .fin false 1 0

/-- 1 / a. -/
def rcpFV (a : FV) : FV × Flags := divFV oneFV a
/-- 1 / sqrt a. -/
def rsqFV (a : FV) : FV × Flags :=
  let r := sqrtFV a
  let q := divFV oneFV r.1
  (q.1, r.2 ||| q.2)
/-- 2^a. -/
def exp2FV : FV → FV × Flags
  | .nan => (.nan, flagNV)
  | .inf s => (if s then .fin false 0 0 else .inf false, 0)
  | .fin s m e =>
    if m = 0 then (oneFV, 0)
    else if isBig m e then (if s then tinyFV false else hugeFV, 0)
    else
      let x : Int := if s then -(toFix m e : Int) else toFix m e
      let n := x / (fixOne : Int)
      let f := (x % (fixOne : Int)).toNat
      if f = 0 then (.fin false 1 n, 0) else
      let y := expFix (f * ln2Fix / fixOne)
      (.fin false (2 * y + 1) (n - fixP - 1), 0)
/-- log2 a. -/
def log2FV : FV → FV × Flags
  | .nan => (.nan, flagNV)
  | .inf s => if s then (.nan, flagNV) else (.inf false, 0)
  | .fin s m e =>
    if m = 0 then (.inf true, flagDZ) else if s then (.nan, flagNV) else
    let k := Nat.log2 m
    if m = 2 ^ k then (FV.ofInt (k + e), 0) else
    let z := (m - 2 ^ k) * fixOne / (m + 2 ^ k)
    let l := 2 * atanhFix z * fixOne / ln2Fix
    let i : Int := (k + e) * (fixOne : Int) + l
    (if 0 ≤ i then sticky false i.toNat fixP else sticky true ((-i).toNat - 1) fixP, 0)
/-- 1 / (1 + e^x) for a positive fixed-point x: a truncated numerator over 2^(second part). -/
def sigTail (x : Nat) : Nat × Nat :=
  let y := x * fixOne / ln2Fix
  let n := y / fixOne
  let big := expFix (y % fixOne * ln2Fix / fixOne)
  (2 ^ (2 * fixP + n) / (fixOne + big * 2 ^ n), fixP + n)
/-- The sigmoid. -/
def sigFV : FV → FV × Flags
  | .nan => (.nan, flagNV)
  | .inf s => (if s then .fin false 0 0 else oneFV, 0)
  | .fin s m e =>
    if m = 0 then (.fin false 1 (-1), 0)
    else if isBig m e then (if s then tinyFV false else sticky false (2 ^ 2000 - 1) 2000, 0)
    else
      let t := sigTail (toFix m e)
      (if s then sticky false t.1 t.2 else sticky false (2 ^ t.2 - t.1 - 1) t.2, 0)
/-- The hyperbolic tangent; below 2^-40 it lies less than 2^-80 of the operand under it. -/
def tanhFV : FV → FV × Flags
  | .nan => (.nan, flagNV)
  | .inf s => (.fin s 1 0, 0)
  | .fin s m e =>
    if m = 0 then (.fin s 0 0, 0)
    else if isBig m e then (sticky s (2 ^ 2000 - 1) 2000, 0)
    else if (Nat.log2 m : Int) + e < -40 then (.fin s (m * 2 ^ 60 - 1) (e - 60), 0)
    else
      let t := sigTail (2 * toFix m e)
      (sticky s (2 ^ t.2 - 2 * t.1 - 2) t.2, 0)

end Sys2Proof.Machine
end

