-- ==== Sys2Proof/Machine/VecSpec.lean ====
section
/-!
DEFINITION. The special-function unit (R133 to R135): issue, service, and the writing of results.
-/
namespace Sys2Proof.Machine

/-- The bits of vD that the lanes of an instruction write. -/
def writtenBits (v : View) (t : Ty) (act : List Nat) : B512 :=
  act.foldl (fun x j => match v.dn with
    | none => putElem t.width j (2 ^ t.width - 1) x
    | some f => putElem f.bits (v.di.val * t.lanes + j) (2 ^ f.bits - 1) x) 0
/-- Issue of a VSPEC instruction: its result and draws are formed, the request enters the croft's queue, and vD and
FFLAGS are pending (R134); the croft counts it (R353). -/
def specBody (f : FV → FV × Flags) (v : View) (t : Ty) (m : MReg) (d a : VReg) : Exec Unit := do
  notPort d.val
  let s ← get
  if !s.sfuRoom s.curCore then stall .sfuQueue else do
    let r ← lanesOf v t.lanes m d false a none (fun rm _ x _ j acc => acc.putFlt t v rm j (f (srcFlt t v.av x j)))
    let mk ← readM m
    let s ← get
    let op := s.sq.nextId
    let th := s.thread s.cur
    let q : SfuReq := ⟨op, s.cur, th.act, d.val, r.reg, writtenBits v t (activeLanes t.lanes mk), r.flags, false⟩
    let s := ({ s with sq := { s.sq with nextId := op + 1 } }).modCroft (croftOf s.curCore) (fun c => { c with sfu := c.sfu ++ [q] })
    set (s.count s.curCore (slotOf s.cur) 8 1)
    modThr (fun t => { t with gen := r.gen, pend := t.pend ++ [⟨.v, d.val, op⟩, ⟨.fflags, 0, op⟩] })

def vrcpBody : View → Ty → MReg → VReg → VReg → Exec Unit := specBody rcpFV
def vrsqBody : View → Ty → MReg → VReg → VReg → Exec Unit := specBody rsqFV
def vexp2Body : View → Ty → MReg → VReg → VReg → Exec Unit := specBody exp2FV
def vlog2Body : View → Ty → MReg → VReg → VReg → Exec Unit := specBody log2FV
def vsigBody : View → Ty → MReg → VReg → VReg → Exec Unit := specBody sigFV
def vtanhBody : View → Ty → MReg → VReg → VReg → Exec Unit := specBody tanhFV
def execVrcp (t : Ty) (m : MReg) (d a : VReg) (s : State) : Host.Outcome State Fault Refusal := .next (runI 4 (vrcpBody noView t m d a) s)
def execVrsq (t : Ty) (m : MReg) (d a : VReg) (s : State) : Host.Outcome State Fault Refusal := .next (runI 4 (vrsqBody noView t m d a) s)
def execVexp2 (t : Ty) (m : MReg) (d a : VReg) (s : State) : Host.Outcome State Fault Refusal := .next (runI 4 (vexp2Body noView t m d a) s)
def execVlog2 (t : Ty) (m : MReg) (d a : VReg) (s : State) : Host.Outcome State Fault Refusal := .next (runI 4 (vlog2Body noView t m d a) s)
def execVsig (t : Ty) (m : MReg) (d a : VReg) (s : State) : Host.Outcome State Fault Refusal := .next (runI 4 (vsigBody noView t m d a) s)
def execVtanh (t : Ty) (m : MReg) (d a : VReg) (s : State) : Host.Outcome State Fault Refusal := .next (runI 4 (vtanhBody noView t m d a) s)

/-! ## The unit -/

/-- Marks the first request that has not been served. -/
def serveFirst : List SfuReq → List SfuReq
  | [] => []
  | r :: rs => if r.served then r :: serveFirst rs else { r with served := true } :: rs
/-- A croft's engines receive no clock edge while its terrace is stretched (R257). -/
def State.croftStopped (s : State) (croft : Nat) : Bool := s.stretched (croft * 8)
/-- The unit finishes the service of its oldest request (R134). -/
def execSfuRequestService (croft : Nat) (s : State) : Host.Outcome State Fault Refusal :=
  if s.croftStopped croft then .next s else
  match (s.croft croft).sfu.find? (fun r => !r.served) with
  | none => .next s
  | some _ => .next (s.modCroft croft (fun c => { c with sfu := serveFirst c.sfu }))
/-- A served request's lanes are written and its flags merged (R134), unless its task has ended (R135). -/
def execSfuResultWrite (croft : Nat) (s : State) : Host.Outcome State Fault Refusal :=
  if s.croftStopped croft then .next s else
  match (s.croft croft).sfu with
  | [] => .next s
  | r :: rs =>
    if !r.served then .next s else
    let s := s.modCroft croft (fun c => { c with sfu := rs })
    let t := s.thread r.tid
    if t.act != r.act then .next s else
    let old := t.v.get 0 r.d
    .next (s.setThread r.tid
      { t with
        v := t.v.put r.d ((old &&& ~~~r.wmask) ||| (r.val &&& r.wmask)), fflags := t.fflags ||| r.flags,
        pend := t.pend.filter (fun p => p.op != r.op) })

end Sys2Proof.Machine
end

