-- ==== Sys2Proof/Machine/Fetch.lean ====
section
/-!
DEFINITION. Fetching (R42, R43, R222) and the view prefix, which runs together with the instruction after it (R60 to
R62, R64).
-/
namespace Sys2Proof.Machine

/-! ## Fetch -/

/-- One byte as the core's fetch sees it: from its instruction cache if it holds the line (R222), else from the line's
home, which recalls Update-only copies first (R39). -/
def State.fetchByte (s : State) (core l : Nat) : Byte :=
  match (s.core core).icache.get? (l / 256) with
  | some bs => bs.getD (l % 256) 0
  | none => readByte (s.recall l 1).mem l
/-- A fetched halfword, or the fault of its address: whether it is PROT. -/
def State.fetchHalf (s : State) (tid : Nat) (va : B64) : Except Bool Nat :=
  let t := s.thread tid
  match s.route (coreOf tid) t.ctx t.sysMode .fetch va with
  | .loc l => .ok ((s.fetchByte (coreOf tid) l).toNat + 256 * (s.fetchByte (coreOf tid) (l + 1)).toNat)
  | .xlate => .error false
  | _ => .error true
/-- The instruction at an address: decoded, or the step that a fetch fault or an encoding is; `bad` says what a 32-bit
word is that no instruction has (R43, R63). -/
def State.codeAt (s : State) (tid : Nat) (va : B64) (bad : Nat → Instr) : Instr :=
  match s.fetchHalf tid va with
  | .error p => .instructionFetchFault p va
  | .ok h =>
    if h % 2 = 0 then (decode16 h).getD (.illegalEncoding (BitVec.ofNat 32 h) true) else
    match s.fetchHalf tid (va + 2) with
    | .error p => .instructionFetchFault p (va + 2)
    | .ok h' => (decode32 (h + 65536 * h')).getD (bad (h + 65536 * h'))
/-- A 32-bit word without a meaning is an ILLEGAL step. -/
def illegalWord (w : Nat) : Instr := .illegalEncoding (BitVec.ofNat 32 w) false
def State.wordAt (s : State) (tid : Nat) (va : B64) : Instr := s.codeAt tid va illegalWord
/-- Major 0x1B of format P: a view word. -/
def isView (w : Nat) : Bool := w / 2 % 64 == 0x1B
/-- What issues from an address: a view word illegal in itself gives way to a fetch fault of its follower (R64). -/
def State.instrAt (s : State) (tid : Nat) (va : B64) : Instr :=
  s.codeAt tid va (fun w =>
    match isView w, s.wordAt tid (va + 4) with
    | true, .instructionFetchFault p a => .instructionFetchFault p a
    | _, _ => illegalWord w)
/-- Bytes fetched for the instruction at an address: a view's with its follower. -/
def State.fetchSpan (s : State) (tid : Nat) (va : B64) : Nat :=
  match s.fetchHalf tid va with
  | .ok h => if h % 2 = 0 then 2 else if isView h then 8 else 4
  | .error _ => 2
/-- What the fetch of the slot's instruction does: its translation, once for each 64 KiB unit, and the recall of the
Update-only copies of its lines. -/
def State.fetched (s : State) (tid : Nat) : State :=
  let t := s.thread tid
  let last := t.pc + BitVec.ofNat 64 (s.fetchSpan tid t.pc - 2)
  (if t.pc >>> 16 = last >>> 16 then [t.pc] else [t.pc, last]).foldl (fun s va =>
    match s.route (coreOf tid) t.ctx t.sysMode .fetch va with
    | .loc l => (s.walked (coreOf tid) t.ctx va).recall l 8
    | _ => s) s

/-! ## The view prefix (R61, R62) -/

/-- A source view or a destination view pairs with TY and its group lies in the register (R61). -/
def viewFits (v : Option SrcView) (t : Ty) : Bool :=
  match v with | none => true | some a => a.fmt.pairs t && a.fmt.fits a.group.val t
/-- Every view of the word is legal for TY. -/
def viewPairs (v : View) (t : Ty) : Bool := viewFits v.av t && viewFits v.bv t && viewFits (dstSrc v) t
/-- The views of a `vdot`: both or neither, of group 0 and the same number of products (R143); without them the TY has
a half-width format. -/
def dotFits (v : View) (t : Ty) : Bool :=
  match v.av, v.bv with
  | none, none => (dotHalf t).isSome
  | some a, some b => a.group == 0 && b.group == 0 && a.fmt.count / t.lanes == b.fmt.count / t.lanes
  | _, _ => false
/-- A follower that reads a vector B operand and has a vector destination. -/
def fitBin (v : View) (t : Ty) (x : Exec Unit) : Option (Exec Unit) := if viewPairs v t then some x else none
/-- A follower without a vector B operand. -/
def fitUn (v : View) (t : Ty) (x : Exec Unit) : Option (Exec Unit) := if viewPairs v t && v.bv.isNone then some x else none
/-- A reduction: neither. -/
def fitRed (v : View) (t : Ty) (x : Exec Unit) : Option (Exec Unit) :=
  if viewPairs v t && v.bv.isNone && v.dn.isNone then some x else none
/-- What a permitted follower does under a view; none when R61, R62, R141 or R143 refuses the pair. -/
def followBody (v : View) : Instr → Option (Exec Unit)
  | .vadd t m d a b => fitBin v t (vaddBody v t m d a b)
  | .vsub t m d a b => fitBin v t (vsubBody v t m d a b)
  | .vmul t m d a b => fitBin v t (vmulBody v t m d a b)
  | .vmulh t m d a b => fitBin v t (vmulhBody v t m d a b)
  | .vma t m d a b => fitBin v t (vmaBody v t m d a b)
  | .vms t m d a b => fitBin v t (vmsBody v t m d a b)
  | .vmin t m d a b => fitBin v t (vminBody v t m d a b)
  | .vmax t m d a b => fitBin v t (vmaxBody v t m d a b)
  | .vabs t m d a => fitUn v t (vabsBody v t m d a)
  | .vneg t m d a => fitUn v t (vnegBody v t m d a)
  | .vand t m d a b => fitBin v t (vandBody v t m d a b)
  | .vor t m d a b => fitBin v t (vorBody v t m d a b)
  | .vxor t m d a b => fitBin v t (vxorBody v t m d a b)
  | .vsll t m d a b => fitBin v t (vsllBody v t m d a b)
  | .vsrl t m d a b => fitBin v t (vsrlBody v t m d a b)
  | .vsra t m d a b => fitBin v t (vsraBody v t m d a b)
  | .vdiv t m d a b => fitBin v t (vdivBody v t m d a b)
  | .vsqrt t m d a => fitUn v t (vsqrtBody v t m d a)
  | .vrcp t m d a => fitUn v t (vrcpBody v t m d a)
  | .vrsq t m d a => fitUn v t (vrsqBody v t m d a)
  | .vexp2 t m d a => fitUn v t (vexp2Body v t m d a)
  | .vlog2 t m d a => fitUn v t (vlog2Body v t m d a)
  | .vsig t m d a => fitUn v t (vsigBody v t m d a)
  | .vtanh t m d a => fitUn v t (vtanhBody v t m d a)
  | .vredsum t m d a => fitRed v t (vRed .sum v t m d a)
  | .vredmax t m d a => fitRed v t (vRed .max v t m d a)
  | .vredmin t m d a => fitRed v t (vRed .min v t m d a)
  | .vscan t m d a => fitUn v t (vScan v t m d a)
  | .vcmp c t m d a b => if v.dn.isNone then fitBin v t (vCmp v c t m d a b) else none
  | .vcvt t st m d a => if v.av.isNone || st == t then fitUn v t (vCvt v t st m d a) else none
  | .vsel t m d a b => fitBin v t (vSel v t m d a b)
  | .vdot t m d a b => if dotFits v t then fitBin v t (vDot v t m d a b) else none
  | _ => none
/-- The encoding of a follower, as TVAL holds it. -/
def followVal : Instr → B64
  | .illegalEncoding w _ => w.setWidth 64
  | i => wordVal i
/-- The instruction after a view. -/
def State.follower (s : State) (tid : Nat) : Instr := s.wordAt tid ((s.thread tid).pc + 4)
/-- `view` with its follower: eight bytes, one instruction (R62). -/
def viewBody (v : View) : Exec Unit := do
  let s ← get
  match s.follower s.cur with
  | .instructionFetchFault p a => trap (if p then cPROT else cXLATE) a
  | i =>
    match followBody v i with
    | some x => x
    | none => trap cILLEGAL (followVal i)
def execView (v : View) (s : State) : Host.Outcome State Fault Refusal := .next (runI 8 (viewBody v) s)

/-- The slot's instruction is one whose answer retires it during a save's drain (R332): not one that waits for the Well,
for a count or for events, which is saved at its PC and executes again. -/
def State.retiresSaved (s : State) (tid : Nat) : Bool :=
  match s.instrAt tid (s.thread tid).pc with
  | .grant _ _ _ => false
  | .grq _ _ _ => false
  | .pathset _ _ _ => false
  | .kcount _ _ => false
  | .waitev _ _ => false
  | _ => true

end Sys2Proof.Machine
end

