-- ==== Sys2Proof/Machine/Weave.lean ====
section
/-!
DEFINITION. Weave codes and boxes (R199 to R206), and the vector weave forms (R207).
-/
namespace Sys2Proof.Machine

/-! ## Codes (R199) -/

/-- `Axis(c, a)`: bit j is code bit j × D + a, for j below `b`. -/
def wAxis (d : Nat) : Nat → Nat → Nat → Nat
  | 0, _, _ => 0
  | b + 1, c, a => (if c.testBit a then 1 else 0) + 2 * wAxis d b (c / 2 ^ d) a
/-- A code with only the bits of axis `a`, of value `v`. -/
def wSpread (d : Nat) : Nat → Nat → Nat → Nat
  | 0, _, _ => 0
  | b + 1, a, v => (if v.testBit 0 then 2 ^ a else 0) + 2 ^ d * wSpread d b a (v / 2)
/-- `Put(c, a, v)`. -/
def wPut (d b c a v : Nat) : Nat := c - wSpread d b a (wAxis d b c a) + wSpread d b a (v % 2 ^ b)
/-- The axis-by-axis sum, or difference, of R203: the code and the axes that wrap. -/
def wSum (sub : Bool) (d b x y : Nat) : Nat × BitVec 8 :=
  (List.range d).foldl (fun (r : Nat × BitVec 8) a =>
    let s : Int := if sub then (wAxis d b x a : Int) - wAxis d b y a else (wAxis d b x a : Int) + wAxis d b y a
    let wrap := decide (s < 0) || decide ((2 ^ b : Nat) ≤ s)
    (r.1 + wSpread d b a (s % (2 ^ b : Nat)).toNat, if wrap then r.2 ||| (1#8 <<< a) else r.2)) (0, 0)

/-! ## Boxes (R204 to R206) -/

/-- The box has no axis whose low corner is above its high one. -/
def boxHolds (d b lo hi : Nat) : Bool := (List.range d).all (fun a => decide (wAxis d b lo a ≤ wAxis d b hi a))
/-- A point lies in a box. -/
def inBox (d b lo hi c : Nat) : Bool :=
  (List.range d).all (fun a => decide (wAxis d b lo a ≤ wAxis d b c a) && decide (wAxis d b c a ≤ wAxis d b hi a))
/-- The bits of `k`'s axis below bit `k`: k − d, k − 2d, …. -/
def axisBelow (d k : Nat) : Nat := ((List.range k).filter (fun i => i % d == k % d)).foldl (fun m i => m + 2 ^ i) 0
/-- The corners of a box's part in the lower half of a cube whose top bit is `k`, and in the upper half. -/
def lowerHalf (d k lo hi : Nat) : Nat × Nat := (lo % 2 ^ k, if hi.testBit k then hi % 2 ^ k ||| axisBelow d k else hi % 2 ^ k)
def upperHalf (d k lo hi : Nat) : Nat × Nat :=
  (if lo.testBit k then lo % 2 ^ k else lo % 2 ^ k - (lo % 2 ^ k &&& axisBelow d k), hi % 2 ^ k)
/-- The least code at or above `c` in the cube of `n` bits whose point lies in a box that is not empty (R205). -/
def nextIn (d : Nat) : Nat → Nat → Nat → Nat → Option Nat
  | 0, _, _, _ => some 0
  | k + 1, lo, hi, c =>
    let up := upperHalf d k lo hi
    if c.testBit k then
      if hi.testBit k then (nextIn d k up.1 up.2 (c % 2 ^ k)).map (· + 2 ^ k) else none
    else
      let low := lowerHalf d k lo hi
      match (if lo.testBit k then none else nextIn d k low.1 low.2 c) with
      | some r => some r
      | none => if hi.testBit k then some (2 ^ k + up.1) else none
/-- The least code at or above `c` in the cube of `n` bits whose point lies outside the box. -/
def nextOut (d : Nat) : Nat → Nat → Nat → Nat → Option Nat
  | 0, _, _, _ => none
  | k + 1, lo, hi, c =>
    if lo % 2 ^ (k + 1) = 0 ∧ hi % 2 ^ (k + 1) = 2 ^ (k + 1) - 1 then none else
    let up := upperHalf d k lo hi
    if c.testBit k then
      if hi.testBit k then (nextOut d k up.1 up.2 (c % 2 ^ k)).map (· + 2 ^ k) else some c
    else
      let low := lowerHalf d k lo hi
      if lo.testBit k then some c else
      match nextOut d k low.1 low.2 c with
      | some r => some r
      | none => if hi.testBit k then (nextOut d k up.1 up.2 0).map (· + 2 ^ k) else some (2 ^ k)
/-- `wv.next`: the least code of the box at or above the cursor. -/
def boxNext (d b lo hi c : Nat) : Option Nat := if boxHolds d b lo hi then nextIn d (d * b) lo hi c else none
/-- `wv.cut`: the range of the box at or above the cursor. -/
def boxCut (d b lo hi c : Nat) : Option (Nat × Nat) :=
  match boxNext d b lo hi c with
  | none => none
  | some f => some (f, match nextOut d (d * b) lo hi f with | some o => o - 1 | none => 2 ^ (d * b) - 1)
/-- The maximal ranges from a cursor on, in code order. -/
def boxRanges (d b lo hi : Nat) : Nat → Nat → List (Nat × Nat)
  | 0, _ => []
  | fuel + 1, c =>
    if 2 ^ (d * b) ≤ c then [] else
    match boxCut d b lo hi c with
    | none => []
    | some r => r :: boxRanges d b lo hi fuel (r.2 + 1)
/-- The sizes of the gaps between neighbouring ranges. -/
def gapsOf : List (Nat × Nat) → List Nat
  | x :: y :: rest => (y.1 - x.2 - 1) :: gapsOf (y :: rest)
  | _ => []
/-- How many gaps rank above gap `i` of size `g`: larger ones, and equal ones at higher codes. -/
def gapRank (gaps : List (Nat × Nat)) (g : Nat × Nat) : Nat :=
  (gaps.filter (fun h => decide (g.1 < h.1) || (h.1 == g.1 && decide (g.2 < h.2)))).length
/-- Merges ranges across the gaps that are not kept. -/
def mergeRanges : List (Nat × Nat) → List Bool → List (Nat × Nat)
  | x :: rest, keep :: ks =>
    match mergeRanges rest ks with
    | [] => [x]
    | y :: ys => if keep then x :: y :: ys else (x.1, y.2) :: ys
  | l, _ => l
/-- The cover of R206 with at most `k` ranges. -/
def boxCover (rs : List (Nat × Nat)) (k : Nat) : List (Nat × Nat) :=
  if rs.length ≤ k then rs else if k = 0 then [] else
  let gaps := (gapsOf rs).zipIdx
  mergeRanges rs (gaps.map (fun g => decide (gapRank gaps g < k - 1)))

/-! ## Checks (R201) -/

/-- WEAVE_OVF with a reason. -/
def weaveTrap {α : Type} (reason lane axes : Nat) : Exec α :=
  trap cWEAVE (BitVec.ofNat 64 (reason * 2 ^ 60 + lane * 2 ^ 16 + axes))
/-- R25's rule for a shape. -/
def shapeOk (d b : Nat) : Bool := decide (1 ≤ d) && decide (d ≤ 8) && decide (1 ≤ b) && decide (b ≤ 32) && decide (d * b ≤ 64)
/-- A weave source or box register, which must have a shape. -/
def shaped (r : WReg) : Exec WVal := do
  let w ← readW r
  if w.dims = 0 then weaveTrap 2 0 0 else pure w
/-- Two operands of one shape. -/
def sameShape (x y : WVal) : Exec Unit :=
  if x.dims = y.dims ∧ x.bits = y.bits then pure () else weaveTrap 3 0 0
/-- The low corner register's partner. -/
def boxHi (b : WReg) : WReg := Fin.ofNat 8 (b.val + 1)
/-- A box's registers (reason 2 before reason 3), with the shape of `x` if the form has one. -/
def boxOf (x : Option WVal) (b : WReg) : Exec (WVal × WVal) := do
  let lo ← shaped b
  let hi ← shaped (boxHi b)
  sameShape lo hi
  match x with
  | some w => sameShape w lo
  | none => pure ()
  pure (lo, hi)

/-! ## Scalar forms (R202 to R205) -/

def execWvShape (d : WReg) (a : SReg) (s : State) : Host.Outcome State Fault Refusal :=
  .next (runI 4 (do
    let x ← readS a
    let v := x.toNat
    if v / 2 ^ 16 != 0 || !shapeOk (v % 256) (v / 256) then weaveTrap 4 0 0
    else writeW d { code := 0, dims := v % 256, bits := v / 256, flags := 0 }) s)
/-- The eight flags with those at or above D clear (R199). -/
def maskFlags (d : Nat) (f : BitVec 8) : BitVec 8 := f &&& BitVec.ofNat 8 (2 ^ d - 1)
def execWvPack (d : WReg) (a b : SReg) (s : State) : Host.Outcome State Fault Refusal :=
  .next (runI 4 (do
    let x ← readS a
    let y ← readS b
    let v := y.toNat
    let dm := v % 256
    let bm := v / 256 % 256
    if v / 2 ^ 24 != 0 || !shapeOk dm bm then weaveTrap 4 0 0
    else
      let w : WVal := ⟨BitVec.ofNat 64 (x.toNat % 2 ^ (dm * bm)), dm, bm, maskFlags dm (BitVec.ofNat 8 (v / 2 ^ 16))⟩
      writeW d w) s)
def execWvUnpk (d : SReg) (a : WReg) (b : SReg) (s : State) : Host.Outcome State Fault Refusal :=
  .next (runI 4 (do
    let y ← readS b
    let w ← shaped a
    writeS d (if y.getLsbD 0 then BitVec.ofNat 64 (w.flags.toNat * 2 ^ 16 + w.bits * 2 ^ 8 + w.dims) else w.code)) s)
def execWvSet (d : WReg) (a b : SReg) (s : State) : Host.Outcome State Fault Refusal :=
  .next (runI 4 (do
    let x ← readS a
    let n ← readS b
    let w ← shaped d
    if w.dims ≤ n.toNat then weaveTrap 5 0 0
    else
      let code := BitVec.ofNat 64 (wPut w.dims w.bits w.code.toNat n.toNat x.toNat)
      let flags := if 2 ^ w.bits ≤ x.toNat then w.flags ||| (1#8 <<< n.toNat) else w.flags
      writeW d { w with code := code, flags := flags }) s)
def execWvGet (d : SReg) (a : WReg) (b : SReg) (s : State) : Host.Outcome State Fault Refusal :=
  .next (runI 4 (do
    let n ← readS b
    let w ← shaped a
    if w.dims ≤ n.toNat then weaveTrap 5 0 0
    else writeS d (BitVec.ofNat 64 (wAxis w.dims w.bits w.code.toNat n.toNat))) s)
/-- `wv.add` and `wv.sub` (R203). -/
def weaveSum (sub t : Bool) (d a b : WReg) : Exec Unit := do
  let x ← shaped a
  let y ← shaped b
  sameShape x y
  let r := wSum sub x.dims x.bits x.code.toNat y.code.toNat
  if t && r.2 != 0 then weaveTrap 1 0 r.2.toNat else do
    let old ← readW d
    writeW d { code := BitVec.ofNat 64 r.1, dims := x.dims, bits := x.bits, flags := maskFlags x.dims (old.flags ||| r.2) }
def execWvAdd (t : Bool) (d a b : WReg) (s : State) : Host.Outcome State Fault Refusal := .next (runI 4 (weaveSum false t d a b) s)
def execWvSub (t : Bool) (d a b : WReg) (s : State) : Host.Outcome State Fault Refusal := .next (runI 4 (weaveSum true t d a b) s)
def execWvCmp (d : SReg) (a b : WReg) (s : State) : Host.Outcome State Fault Refusal :=
  .next (runI 4 (do
    let x ← shaped a
    let y ← shaped b
    sameShape x y
    writeS d (if x.code = y.code then 0 else if y.code < x.code then 1 else BitVec.allOnes 64)) s)
def execWvInbox (d : SReg) (a b : WReg) (s : State) : Host.Outcome State Fault Refusal :=
  .next (runI 4 (do
    let x ← shaped a
    let q ← boxOf (some x) b
    writeS d (ofBool (inBox x.dims x.bits q.1.code.toNat q.2.code.toNat x.code.toNat))) s)
/-- The scalar register after sD, for the forms that write a pair. -/
def nextS (d : SReg) : SReg := Fin.ofNat 32 (d.val + 1)
def execWvNext (d : SReg) (a b : WReg) (s : State) : Host.Outcome State Fault Refusal :=
  .next (runI 4 (do
    let x ← shaped a
    let q ← boxOf (some x) b
    let r := boxNext x.dims x.bits q.1.code.toNat q.2.code.toNat x.code.toNat
    writeS d (BitVec.ofNat 64 (r.getD 0))
    writeS (nextS d) (ofBool r.isSome)) s)
def execWvCut (d : SReg) (a b : WReg) (s : State) : Host.Outcome State Fault Refusal :=
  .next (runI 4 (do
    let x ← shaped a
    let q ← boxOf (some x) b
    let r := (boxCut x.dims x.bits q.1.code.toNat q.2.code.toNat x.code.toNat).getD (1, 0)
    writeS d (BitVec.ofNat 64 r.1)
    writeS (nextS d) (BitVec.ofNat 64 r.2)) s)
def execWvClrf (d : WReg) (s : State) : Host.Outcome State Fault Refusal :=
  .next (runI 4 (do
    let w ← readW d
    writeW d { w with flags := 0 }) s)

/-! ## `wv.rlist` (R206) -/

/-- The offset of `n` bytes at `va` in the context data area of the core's own scratchpad; PROT with the first address
outside it. -/
def dataArea (va : B64) (n : Nat) : Exec Nat := do
  let s ← get
  match ownSpad s.curCore va with
  | none => trap cPROT va
  | some off =>
    if 0x30000 ≤ off then trap cPROT va
    else if 0x30000 < off + n then trap cPROT (va + BitVec.ofNat 64 (0x30000 - off))
    else pure off
/-- Writes the records, each as two plain 8-byte stores. -/
def writeRecords (l : Nat) : List (Nat × Nat) → Exec Unit
  | [] => pure ()
  | r :: rs => do
    storeLoc l (leBytes 8 r.1)
    storeLoc (l + 8) (leBytes 8 r.2)
    writeRecords (l + 16) rs
def execWvRlist (d a : SReg) (b : WReg) (s : State) : Host.Outcome State Fault Refusal :=
  .next (runI 4 (do
    let budget ← readS d
    let va ← readS a
    let q ← boxOf none b
    aligned 16 va
    let k := min budget.toNat 4096
    let rs := boxRanges q.1.dims q.1.bits q.1.code.toNat q.2.code.toNat (2 ^ (q.1.dims * q.1.bits) + 1) 0
    let out := boxCover rs k
    let s ← get
    if k = 0 then pure () else do
      let off ← dataArea va (16 * k)
      filed (spadLoc s.curCore off)
      writeRecords (spadLoc s.curCore off) out
    writeS d (BitVec.ofNat 64 (out.length + 2 ^ 32 * min rs.length (2 ^ 31 - 1) + (if k < rs.length then 2 ^ 63 else 0)))) s)

/-! ## Vector forms (R207) -/

/-- WSHAPE's shape, which must fit the lanes (R201 reason 3). -/
def vecShape (t : Ty) : Exec (Nat × Nat) := do
  let th ← thr
  let d := th.wshape.toNat % 256
  let b := th.wshape.toNat / 256
  if t.width < d * b then weaveTrap 3 0 0 else pure (d, b)
/-- The code in a lane. -/
def laneCode (t : Ty) (d b : Nat) (x : B512) (i : Nat) : Nat := elemBits t.width i x % 2 ^ (d * b)
/-- `vwadd` and `vwadd.t`. -/
def vecAdd (tt : Bool) (t : Ty) (m : MReg) (d a b : VReg) : Exec Unit := do
  destOk noView m d
  let old ← oldV d
  let ab ← readAB a (some b)
  let mk ← readM m
  let sh ← vecShape t
  let sum (i : Nat) := wSum false sh.1 sh.2 (laneCode t sh.1 sh.2 ab.1 i) (laneCode t sh.1 sh.2 ab.2 i)
  match (if tt then (activeLanes t.lanes mk).find? (fun i => (sum i).2 != 0) else none) with
  | some i => weaveTrap 1 i (sum i).2.toNat
  | none => writeV d (copyLanes t mk (fun i => (sum i).1) old)
def execVwadd (t : Ty) (m : MReg) (d a b : VReg) (s : State) : Host.Outcome State Fault Refusal := .next (runI 4 (vecAdd false t m d a b) s)
def execVwaddT (t : Ty) (m : MReg) (d a b : VReg) (s : State) : Host.Outcome State Fault Refusal := .next (runI 4 (vecAdd true t m d a b) s)
def execVwinbox (t : Ty) (m : MReg) (d : MReg) (a b : VReg) (s : State) : Host.Outcome State Fault Refusal :=
  .next (runI 4 (do
    let ab ← readAB a (some b)
    let mk ← readM m
    let sh ← vecShape t
    let lo := laneCode t sh.1 sh.2 ab.2 0
    let hi := laneCode t sh.1 sh.2 ab.2 1
    writeM d ((activeLanes t.lanes mk).foldl (fun (r : B64) i =>
      if inBox sh.1 sh.2 lo hi (laneCode t sh.1 sh.2 ab.1 i) then r ||| (1#64 <<< i) else r) 0)) s)

end Sys2Proof.Machine
end

