-- ==== Sys2Proof/Machine/Thatch.lean ====
section
/-!
DEFINITION. Thatch blocks (R71 to R73), the element and scale formats of mill operands (R27, R69, R165).
-/
namespace Sys2Proof.Machine

/-! ## Formats -/

/-- Groups of element formats that may be paired (R165), by MFMT code (R27); none for a code that is no format. -/
def millClass : Nat → Option Nat
  | 0 => some 1 | 1 => some 1 | 4 => some 2 | 5 => some 3 | 6 => some 4 | 8 => some 5 | 9 => some 5 | 13 => some 5
  | 10 => some 6 | 11 => some 6 | 12 => some 7 | _ => none
/-- Element width in bits. -/
def millWidth : Nat → Nat | 4 => 16 | 5 => 16 | 6 => 32 | 10 => 6 | 11 => 6 | 12 => 4 | _ => 8
/-- The exact value of an element pattern; a Thatch element is its E4 pattern. -/
def millVal (code p : Nat) : FV :=
  match code with
  | 0 => FV.ofInt (intVal 8 true p)
  | 1 => FV.ofInt (intVal 8 false p)
  | 4 => fmtBF16.value p
  | 5 => fmtH16.value p
  | 6 => fmtF32.value p
  | 9 => fmtE5.value p
  | 10 => fmtF6a.value p
  | 11 => fmtF6b.value p
  | 12 => fmtF4.value p
  | _ => fmtE4.value p
/-- Whether the pairing and SCL are accepted (R165). -/
def pairOk (fa fb scl : Nat) : Bool :=
  match millClass fa, millClass fb with
  | some x, some y => x == y && decide (scl ≤ (if x = 7 then 2 else if x = 5 ∨ x = 6 then 1 else 0))
  | _, _ => false
/-- The largest MK of a pairing. -/
def maxK (fa : Nat) : Nat := if fa = 6 then 512 else 2048
/-- Rations of a block (R254). -/
def blockCost (fa : Nat) : Nat := match millClass fa with | some 2 => 6 | some 3 => 6 | some 4 => 16 | some 6 => 3 | some 7 => 3 | _ => 4
/-- The value of a scale byte: X8 for SCL 1, Q8 for SCL 2 (R69). -/
def scaleVal (scl p : Nat) : FV :=
  if scl = 1 then (if p = 255 then .nan else .fin false 1 ((p : Int) - 127))
  else if p < 0x7F then fmtE4.value p else .nan

/-! ## Thatch (R71, R72) -/

/-- Why a block gives no elements: it breaks R72, or its bytes end before it does. -/
inductive ThBad | broken | short
  deriving DecidableEq, Repr
/-- Stream bit `b`, if the stream reaches it. -/
def streamBit (xs : List Byte) (b : Nat) : Except ThBad Bool :=
  match xs[b / 8]? with | some x => .ok (x.getLsbD (b % 8)) | none => .error .short
/-- `n` stream bits from bit `b`, the first the most significant. -/
def streamBits (xs : List Byte) (b : Nat) : Nat → Except ThBad Nat
  | 0 => .ok 0
  | n + 1 => do
    let hi ← streamBit xs b
    let lo ← streamBits xs (b + 1) n
    pure ((if hi then 2 ^ n else 0) + lo)
/-- One code of the exponent stream from bit `b`: the exponent and the bit after it. -/
def thCode (mode : Nat) (xs : List Byte) (b : Nat) : Except ThBad (Nat × Nat) := do
  if !(← streamBit xs b) then pure (mode, b + 1)
  else if !(← streamBit xs (b + 1)) then (if mode = 15 then throw .broken else pure (mode + 1, b + 2))
  else if !(← streamBit xs (b + 2)) then (if mode = 0 then throw .broken else pure (mode - 1, b + 3))
  else pure (← streamBits xs (b + 3) 4, b + 7)
/-- The elements from `i` on: their E4 patterns, and the bit after the last code. -/
def thElems (mode : Nat) (sm xs : List Byte) : Nat → Nat → Nat → Except ThBad (List Nat × Nat)
  | 0, _, b => pure ([], b)
  | n + 1, i, b => do
    let c ← thCode mode xs b
    let r ← thElems mode sm xs n (i + 1) c.2
    let nib := (sm.getD (i / 2) 0).toNat / 16 ^ (i % 2) % 16
    pure ((nib / 8 * 128 + c.1 * 8 + nib % 8) :: r.1, r.2)
/-- A block at the front of a row's remaining bytes: its 32 E4 patterns and its length (R71). -/
def thBlock (row : List Byte) : Except ThBad (List Nat × Nat) :=
  match row with
  | [] => throw .short
  | h :: rest =>
    if h.toNat / 16 != 0 then throw .broken else
    if rest.length < 16 then throw .short else do
      let r ← thElems (h.toNat % 16) (rest.take 16) (rest.drop 16) 32 0 0
      pure (r.1, 17 + (r.2 + 7) / 8)

end Sys2Proof.Machine
end

