-- ==== Sys2Proof/Machine/Mill.lean ====
section
/-!
DEFINITION. The mill (R163 to R171, R250, R251, R265, R266): its instructions, its arbiter, its jobs.
-/
namespace Sys2Proof.Machine

/-! ## Completion (R144) -/

/-- A job of the task `act` of a slot completes: its counter falls, E is set for a nonzero status; the croft counts
the failures (R353). A later task's counters do not change (R148). -/
def State.jobDone (s : State) (tid act k status : Nat) : State :=
  let t := s.thread tid
  let s := if status = 0 then s else s.count (coreOf tid) (slotOf tid) 6 1
  if t.act != act then s else
  s.setThread tid { t with kc := t.kc.put k (t.kc.get 0 k - 1), ke := if status = 0 then t.ke else t.ke.put k true }
/-- What the mill remembers of a job changes (R171). -/
def State.modJob (s : State) (tid act id : Nat) (f : JobMem → JobMem) : State :=
  let t := s.thread tid
  if t.act != act then s else
  s.setThread tid { t with jobs := t.jobs.map (fun j => if j.id = id then f j else j) }
/-- A mill job's status becomes readable, then its counter falls (R144). -/
def State.millRetire (s : State) (j : MillJob) (status : Nat) : State :=
  (s.modJob j.tid j.act j.id (fun m => { m with status := status, done := true })).jobDone j.tid j.act j.k status

/-! ## Issue -/

/-- The first mill instruction of a task waits for the jobs of an earlier task of its slot (R17, R19). -/
def oldJobsGone : Exec Unit := do
  let t ← thr
  if t.tilesOld then stall .oldJobs else pure ()
/-- A counter below 255 (R144). -/
def counterRoom (k : KReg) : Exec Unit := do
  let t ← thr
  if 255 ≤ t.kc.get 0 k.val then stall (.counter k.val 254) else pure ()
/-- The sequence number after one (R145). -/
def seqAfter (n : Nat) : Nat := if n = 65535 then 1 else n + 1
/-- Reads an operand that a form may not have. -/
def readOpt : Option SReg → Exec B64
  | none => pure 0
  | some r => readS r
/-- Issue of a mill job (R145, R163, R164). -/
def millIssue (op : MillOp) (tile : AReg) (k : KReg) (d : SReg) (a b : Option SReg) : Exec Unit := do
  oldJobsGone
  counterRoom k
  let s ← get
  if 16 ≤ (s.core s.curCore).millQ.length then stall .millQueue else do
    let x ← readOpt a
    let y ← readOpt b
    let t ← thr
    let id := slotOf s.cur % 4 * 2 ^ 16 + t.nextMill
    writeS d (BitVec.ofNat 64 id)
    let s ← get
    let j : MillJob :=
      { id := id, tid := s.cur, act := t.act, ctx := t.ctx, op := op, tile := tile.val, k := k.val, a := x, b := y,
        mfmt := t.mfmt, mkReg := t.mkReg, pitchA := t.mpitcha, pitchB := t.mpitchb, sca := t.msca, scb := t.mscb,
        scn := t.mscn, after := s.nextSer, tag := s.tag }
    modCore (fun c => { c with millQ := c.millQ ++ [j] })
    modThr (fun t =>
      { t with
        nextMill := seqAfter t.nextMill, kc := t.kc.put k.val (t.kc.get 0 k.val + 1),
        jobs := (t.jobs.filter (fun (m : JobMem) => m.id != id) ++ [JobMem.mk id 0 false false]).drop (t.jobs.length - 63) })

def execMmMma (t : AReg) (k : KReg) (d a b : SReg) (s : State) : Host.Outcome State Fault Refusal := .next (runI 4 (millIssue .mma t k d (some a) (some b)) s)
def execMmMmag (t : AReg) (k : KReg) (d a b : SReg) (s : State) : Host.Outcome State Fault Refusal := .next (runI 4 (millIssue .mmag t k d (some a) (some b)) s)
def execMmZero (t : AReg) (k : KReg) (d : SReg) (s : State) : Host.Outcome State Fault Refusal := .next (runI 4 (millIssue .zero t k d none none) s)
def execMmLdacc (t : AReg) (k : KReg) (d a : SReg) (s : State) : Host.Outcome State Fault Refusal := .next (runI 4 (millIssue .ldacc t k d (some a) none) s)
def execMmStacc (t : AReg) (k : KReg) (d a : SReg) (s : State) : Host.Outcome State Fault Refusal := .next (runI 4 (millIssue .stacc t k d (some a) none) s)

/-! ## The forms that run in the thread (R170, R171) -/

/-- Waits for every earlier job of the thread into a tile. -/
def tileFree (a : AReg) : Exec Unit := do
  let s ← get
  if s.tileBusy s.cur a.val then stall (.tile a.val) else pure ()
/-- The tile element of lane `i` of half-row `h`. -/
def halfIdx (a h i : Nat) : Nat := a * 1024 + h % 64 / 2 * 32 + h % 2 * 16 + i
def execMmMova (t : AReg) (d : VReg) (a : SReg) (s : State) : Host.Outcome State Fault Refusal :=
  .next (runI 4 (do
    oldJobsGone
    tileFree t
    let h ← readS a
    let th ← thr
    writeV d ((List.range 16).foldl (fun x i => putElem 32 i (th.tiles.get 0 (halfIdx t.val h.toNat i)).toNat x) 0)) s)
def execMmMovv (t : AReg) (a : SReg) (b : VReg) (s : State) : Host.Outcome State Fault Refusal :=
  .next (runI 4 (do
    oldJobsGone
    tileFree t
    let h ← readS a
    let v ← readV b
    modThr (fun th => { th with tiles := (List.range 16).foldl (fun m i =>
      m.put (halfIdx t.val h.toNat i) (BitVec.ofNat 32 (elemBits 32 i v))) th.tiles })) s)
def execMmQuery (d a : SReg) (s : State) : Host.Outcome State Fault Refusal :=
  .next (runI 4 (do
    oldJobsGone
    let x ← readS a
    let t ← thr
    let bit (b : Bool) : Nat := if b then 1 else 0
    writeS d (match t.jobs.find? (fun j => j.id == x.toNat) with
      | some j => BitVec.ofNat 64 (j.status + 256 * bit j.done + 512 * bit j.started)
      | none => 0x1FF#64)) s)
/-- The unstarted jobs of the current task that `mm.cancel` names. -/
def State.cancelled (s : State) (id : Nat) : List MillJob :=
  (s.core s.curCore).millQ.filter (fun j => j.tid == s.cur && j.act == (s.thread s.cur).act && (id == 0 || j.id == id))
def execMmCancel (d a : SReg) (s : State) : Host.Outcome State Fault Refusal :=
  .next (runI 4 (do
    oldJobsGone
    let x ← readS a
    let s ← get
    let js := s.cancelled x.toNat
    let s := (s.modCore s.curCore (fun c => { c with millQ := c.millQ.filter (fun j => !js.any (fun i => i == j)) })).millVisit (croftOf s.curCore)
    set (js.foldl (fun s j => s.millRetire j 8) s)
    writeS d (BitVec.ofNat 64 js.length)) s)

/-! ## Operand bytes (R166, R167) -/

/-- Where the bytes of a job's range lie: their first location, or status ADDRESS or PROT. -/
inductive MillAt where | at (l : Nat) | address | prot
  deriving DecidableEq, Repr
/-- The place of `n` bytes at `va` for a job of `core`: the data areas of the croft's scratchpads. -/
def millPlace (core : Nat) (va : B64) (n : Nat) : MillAt :=
  let v := va.toNat
  let base := croftOf core * 8 * 0x40000
  let at_ (off : Nat) : MillAt :=
    if off % 0x40000 + n ≤ 0x30000 then .at (spadBase + off) else .prot
  if 0xFFFFFFFFC0000 ≤ v ∧ v + n ≤ 2 ^ 52 then at_ (core * 0x40000 + (v - 0xFFFFFFFFC0000))
  else if 0xFFF0000000000 + base ≤ v ∧ v + n ≤ 0xFFF0000000000 + base + 8 * 0x40000 then at_ (v - 0xFFF0000000000)
  else .address
/-- The first status of a list of ranges: ADDRESS before PROT. -/
def placesStatus (core : Nat) (rs : List (B64 × Nat)) : Nat :=
  let ps := rs.map (fun r => millPlace core r.1 r.2)
  if ps.contains .address then 5 else if ps.contains .prot then 6 else 0
/-- The job as an agent that accesses memory (R208, R215). -/
def MillJob.party (j : MillJob) : Party := .job j.after j.start
/-- A job's read of a range that has been checked. -/
def State.millRead (s : State) (j : MillJob) (va : B64) (n : Nat) : State × List Byte :=
  match millPlace (coreOf j.tid) va n with
  | .at l => s.byteRead j.tid j.party j.ahead l n
  | _ => (s, [])
/-- Reads several ranges. -/
def State.millReads (s : State) (j : MillJob) : List (B64 × Nat) → State × List (List Byte)
  | [] => (s, [])
  | r :: rs =>
    let x := s.millRead j r.1 r.2
    let y := x.1.millReads j rs
    (y.1, x.2 :: y.2)

/-! ## Start (R164, R167) -/

/-- FA, FB, SCL of MFMT and the number of blocks. -/
def MillJob.fa (j : MillJob) : Nat := j.mfmt.toNat % 16
def MillJob.fb (j : MillJob) : Nat := j.mfmt.toNat / 16 % 16
def MillJob.scl (j : MillJob) : Nat := j.mfmt.toNat / 256
def MillJob.isMul (j : MillJob) : Bool := j.op == .mma || j.op == .mmag
/-- Blocks a job runs: those of MK, one for the others, none with a status (R250, R251). -/
def MillJob.need (j : MillJob) : Nat := if j.status != 0 then 0 else if j.isMul then (j.mkReg.toNat + 31) / 32 else 1
/-- FORMAT, K_RANGE and SCALE_COUNT of a product (R165, R166, R167). -/
def MillJob.early (j : MillJob) : Nat :=
  if !pairOk j.fa j.fb j.scl || (j.op == .mmag && j.fa == 13) then 1
  else if j.mkReg.toNat = 0 ∨ maxK j.fa < j.mkReg.toNat then 2
  else if j.scl != 0 && j.scn.toNat != (j.mkReg.toNat + 31) / 32 then 3 else 0
/-- Row `i` of A, row `k` of B. -/
def MillJob.rowA (j : MillJob) (i : Nat) : B64 := j.abase + BitVec.ofNat 64 (j.idx.getD i 0) * j.pitchA
def MillJob.rowB (j : MillJob) (k : Nat) : B64 := j.b + BitVec.ofNat 64 k * j.pitchB
/-- The scale bytes of row `i` of A and of column `c` of B. -/
def MillJob.scaleA (j : MillJob) (i : Nat) : B64 := j.sca + BitVec.ofNat 64 (j.idx.getD i 0) * j.scn
def MillJob.scaleB (j : MillJob) (c : Nat) : B64 := j.scb + BitVec.ofNat 64 c * j.scn
/-- The row offsets and the data length a Thatch header holds (R166). -/
def thHeader (bs : List Byte) : List Nat := (List.range 33).map (fun i => leNat ((bs.drop (4 * i)).take 4))
/-- What a Thatch row holds from a position on: its next address, the bytes that a block may take and the row still has
(R71, R73), and how many of them lie where a job may read. -/
def thNext (core : Nat) (hdr : B64) (offs : List Nat) (pos i : Nat) : B64 × Nat × Nat :=
  let va := hdr + 136 + BitVec.ofNat 64 pos
  let n := min 45 (offs.getD (i + 1) 0 - pos)
  let ok (k : Nat) : Bool := match millPlace core (va + BitVec.ofNat 64 k) 1 with | .at _ => true | _ => false
  (va, n, ((List.range n).takeWhile ok).length)
/-- A row's next block read out of the bytes that lie where a job may read: its elements and its length, or the status it
gives. A block that runs out of them gives ADDRESS or PROT, one that runs past its row cannot be decoded (R72, R167). -/
def thTake (core : Nat) (r : B64 × Nat × Nat) (bs : List Byte) : Except Nat (List Nat × Nat) :=
  match thBlock bs with
  | .ok b => .ok b
  | .error .broken => .error 7
  | .error .short =>
    if r.2.2 = r.2.1 then .error 7 else
    match millPlace core (r.1 + BitVec.ofNat 64 r.2.2) 1 with | .prot => .error 6 | _ => .error 5
/-- MISALIGN of a product's bases, pitches and headers (R166). -/
def MillJob.misaligned (j : MillJob) : Bool :=
  (if j.fa = 13 then j.abase.toNat % 8 != 0 else j.abase.toNat % 16 != 0 || j.pitchA.toNat % 16 != 0) ||
  (if j.fb = 13 then j.b.toNat % 8 != 0 else j.b.toNat % 16 != 0 || j.pitchB.toNat % 16 != 0)
/-- The ranges a product reads, but for the rows of a Thatch operand. -/
def MillJob.ranges (j : MillJob) : List (B64 × Nat) :=
  let k := j.mkReg.toNat
  let nb := (k + 31) / 32
  (if j.fa = 13 then [(j.abase, 136)] else (List.range 32).map (fun i => (j.rowA i, (k * millWidth j.fa + 7) / 8))) ++
  (if j.fb = 13 then [(j.b, 136)] else (List.range k).map (fun r => (j.rowB r, 4 * millWidth j.fb))) ++
  (if j.scl = 0 then [] else (List.range 32).flatMap (fun i => [(j.scaleA i, nb), (j.scaleB i, nb)]))
/-- Whether `n` blocks of a Thatch row lie where a job may read: ADDRESS, PROT, or 0. Bytes that no block takes are not
read, and none of a row after a block that cannot be decoded. The rows' bytes are read as a job reads them (R215). -/
def State.thStatus (s : State) (j : MillJob) (hdr : B64) (offs : List Nat) (i : Nat) : Nat → Nat → State × Nat
  | 0, _ => (s, 0)
  | n + 1, pos =>
    let r := thNext (coreOf j.tid) hdr offs pos i
    let x := s.millRead j r.1 r.2.2
    match thTake (coreOf j.tid) r x.2 with
    | .ok b => x.1.thStatus j hdr offs i n (pos + b.2)
    | .error e => (x.1, if e = 7 then 0 else e)
/-- The statuses of the rows of a Thatch operand, where its header could be read. -/
def State.thStatuses (s : State) (j : MillJob) (hdr : B64) (offs : List Nat) : State × List Nat :=
  (List.range (offs.length - 1)).foldl (fun (a : State × List Nat) i =>
    let x := a.1.thStatus j hdr offs i ((j.mkReg.toNat + 31) / 32) (offs.getD i 0)
    (x.1, a.2 ++ [x.2])) (s, [])
/-- A Thatch header, read if it lies where a job may read. -/
def State.thHead (s : State) (j : MillJob) (code : Nat) (va : B64) : State × List Nat :=
  if code ≠ 13 ∨ placesStatus (coreOf j.tid) [(va, 136)] ≠ 0 then (s, []) else
  let h := s.millRead j va 136
  (h.1, thHeader h.2)
/-- A product's operands are checked (R166, R167), its gather block and Thatch headers read (R265). -/
def State.startMul (s : State) (j : MillJob) : State × MillJob :=
  let core := coreOf j.tid
  let fail (s : State) (n : Nat) : State × MillJob := (s, { j with status := n })
  if j.early != 0 then fail s j.early else
  let gst := if j.op != .mmag then 0 else if j.a.toNat % 8 != 0 then 4 else placesStatus core [(j.a, 136)]
  if gst != 0 then fail s gst else
  let g := if j.op = .mmag then s.millRead j j.a 136 else (s, [])
  let j := if j.op = .mmag then
      { j with abase := BitVec.ofNat 64 (leNat (g.2.take 8)), idx := (List.range 32).map (fun i => leNat ((g.2.drop (8 + 4 * i)).take 4)) }
    else { j with abase := j.a, idx := List.range 32 }
  if j.misaligned then (g.1, { j with status := 4 }) else
  let ha := g.1.thHead j j.fa j.abase
  let hb := ha.1.thHead j j.fb j.b
  let j := { j with offsA := ha.2, offsB := hb.2, posA := ha.2.take 32, posB := hb.2.take 32 }
  let st := placesStatus core j.ranges
  let ta := hb.1.thStatuses j j.abase j.offsA
  let tb := ta.1.thStatuses j j.b j.offsB
  let th := ta.2 ++ tb.2
  (tb.1, { j with status := if st = 5 ∨ th.contains 5 then 5 else if st = 6 ∨ th.contains 6 then 6 else 0 })
/-- The tile's contents, row after row. -/
def Thread.tileList (t : Thread) (a : Nat) : List (BitVec 32) :=
  let cells := t.tiles.cells.filter (fun c => decide (a * 1024 ≤ c.1) && decide (c.1 < a * 1024 + 1024))
  let m : SMap (BitVec 32) := ⟨cells⟩
  (List.range 1024).map (fun i => m.get 0 (a * 1024 + i))
/-- A job starts: its statuses are found; its work begins from the tile (R167, R168). -/
def State.startJob (s : State) (j : MillJob) : State × MillJob :=
  let s := (s.flushBefore j.tid j.after).modJob j.tid j.act j.id (fun m => { m with started := true })
  let j := { j with work := (s.thread j.tid).tileList j.tile, start := s.nextSer }
  match j.op with
  | .zero => (s, j)
  | .ldacc => (s, { j with status := if j.a.toNat % 16 != 0 then 4 else placesStatus (coreOf j.tid) [(j.a, 4096)] })
  | .stacc => (s, { j with status := if j.a.toNat % 16 != 0 then 4 else placesStatus (coreOf j.tid) [(j.a, 4096)] })
  | _ => s.startMul j

/-! ## A block (R86) -/

/-- Elements packed in bytes (R68). -/
def unpackElems (w n : Nat) (bs : List Byte) : List Nat :=
  let x := leNat bs
  (List.range n).map (fun i => x / 2 ^ (w * i) % 2 ^ w)
/-- Thatch rows' next blocks: their elements and the positions after them, or a status. -/
def thRows (core : Nat) : List (B64 × Nat × Nat) → List (List Byte) → List Nat → Except Nat (List (List Nat) × List Nat)
  | r :: rs, bs :: bss, p :: ps => do
    let b ← thTake core r bs
    let q ← thRows core rs bss ps
    pure (b.1 :: q.1, (p + b.2) :: q.2)
  | _, _, _ => pure ([], [])
/-- The next blocks of a Thatch operand's rows, from positions `pos`. -/
def State.blockTh (s : State) (j : MillJob) (hdr : B64) (offs pos : List Nat) : State × Except Nat (List (List Nat) × List Nat) :=
  let rs := (pos.zipIdx).map (fun p => thNext (coreOf j.tid) hdr offs p.1 p.2)
  let x := s.millReads j (rs.map (fun r => (r.1, r.2.2)))
  (x.1, thRows (coreOf j.tid) rs x.2 pos)
/-- The elements of the 32 rows of A, or columns of B, in block `b`: `n` of them, with the Thatch positions after. -/
def State.blockA (s : State) (j : MillJob) (b n : Nat) : State × Except Nat (List (List Nat) × List Nat) :=
  if j.fa = 13 then s.blockTh j j.abase j.offsA j.posA
  else
    let w := millWidth j.fa
    let r := s.millReads j ((List.range 32).map (fun i => (j.rowA i + BitVec.ofNat 64 (4 * w * b), (n * w + 7) / 8)))
    (r.1, .ok (r.2.map (unpackElems w n), []))
def State.blockB (s : State) (j : MillJob) (b n : Nat) : State × Except Nat (List (List Nat) × List Nat) :=
  if j.fb = 13 then s.blockTh j j.b j.offsB j.posB
  else
    let w := millWidth j.fb
    let r := s.millReads j ((List.range n).map (fun k => (j.rowB (32 * b + k), 4 * w)))
    let rows := r.2.map (unpackElems w 32)
    (r.1, .ok ((List.range 32).map (fun c => rows.map (fun row => row.getD c 0)), []))
/-- The scales of the 32 rows of A and the 32 columns of B in block `b`. -/
def State.blockScales (s : State) (j : MillJob) (b : Nat) : State × List FV × List FV :=
  if j.scl = 0 then (s, [], []) else
  let x := s.millReads j ((List.range 32).map (fun i => (j.scaleA i + BitVec.ofNat 64 b, 1)))
  let y := x.1.millReads j ((List.range 32).map (fun c => (j.scaleB c + BitVec.ofNat 64 b, 1)))
  let val (bs : List Byte) : FV := scaleVal j.scl (leNat bs)
  (y.1, x.2.map val, y.2.map val)
/-- The exact sum of products of one row and one column. -/
def dotFV : List FV → List FV → FV → FV
  | a :: as, b :: bs, acc => dotFV as bs (addFV .rne acc (mulFV a b).1).1
  | _, _, acc => acc
/-- One output element after a block. -/
def blockElem (acc : BitVec 32) (row col : List FV) (sa sb : FV) : BitVec 32 :=
  let p := (mulFV (mulFV (dotFV row col (.fin false 0 0)) sa).1 sb).1
  let x := if p.isZero then .fin false 0 0 else fmtF32.value (roundTo fmtF32 .rne false 0 p).bits
  BitVec.ofNat 32 (roundTo fmtF32 .rne false 0 (addFV .rne (fmtF32.value acc.toNat) x).1).bits
/-- A Thatch header as a block finds it: each byte as the job has it, or as it stands there now, a free choice where they
differ (R215, R266). -/
def State.thAgain (s : State) (j : MillJob) (code : Nat) (hdr : B64) (offs : List Nat) : State × List Nat :=
  if code ≠ 13 then (s, offs) else
  let held := offs.flatMap (leBytes 4)
  let x := s.millRead j hdr 132
  if x.2 = held then (x.1, offs) else
  ({ x.1 with freeCtr := x.1.freeCtr + 3 }, thHeader ((List.range 132).map (fun i => if x.1.partBit i then x.2.getD i 0 else held.getD i 0)))
/-- The job with the Thatch headers that its next block finds; the first block begins at each row's offset. -/
def State.headers (s : State) (j : MillJob) : State × MillJob :=
  let a := s.thAgain j j.fa j.abase j.offsA
  let b := a.1.thAgain j j.fb j.b j.offsB
  (b.1, { j with
    offsA := a.2, offsB := b.2, posA := if j.blocks = 0 then a.2.take 32 else j.posA, posB := if j.blocks = 0 then b.2.take 32 else j.posB })
/-- One K-block of a product: the state its reads leave and the job after it; a Thatch block that cannot be decoded
gives THATCH_DECODE (R72). -/
def State.mulBlock (s : State) (j : MillJob) : State × MillJob :=
  let b := j.blocks
  let n := min 32 (j.mkReg.toNat - 32 * b)
  let h := s.headers j
  let j := h.2
  let x := h.1.blockA j b n
  let y := x.1.blockB j b n
  let z := y.1.blockScales j b
  match x.2, y.2 with
  | .ok ra, .ok cb =>
    let rows := ra.1.map (fun r => (r.take n).map (millVal j.fa))
    let cols := cb.1.map (fun c => (c.take n).map (millVal j.fb))
    let work := j.work.mapIdx (fun i acc =>
      blockElem acc (rows.getD (i / 32) []) (cols.getD (i % 32) []) (z.2.1.getD (i / 32) oneFV) (z.2.2.getD (i % 32) oneFV))
    (z.1, { j with work := work, posA := ra.2, posB := cb.2 })
  | .error e, _ => (z.1, { j with status := e })
  | _, .error e => (z.1, { j with status := e })
/-- The work of one block of a job. -/
def State.runBlock (s : State) (j : MillJob) : State × MillJob :=
  match j.op with
  | .zero => (s, { j with work := List.replicate 1024 0 })
  | .ldacc =>
    let r := s.millRead j j.a 4096
    (r.1, { j with work := (unpackElems 32 1024 r.2).map (BitVec.ofNat 32) })
  | .stacc => (s, j)
  | _ => s.mulBlock j

/-! ## The arbiter (R251) -/

/-- A save drains the core: its jobs are served without the limits of MW and CW (R332). -/
def State.saving (s : State) (core : Nat) : Bool :=
  match (s.core core).ctx with | some x => s.saves.any (fun v => v.ctx == x) | none => false
/-- The core the arbiter serves now, and the blocks left of its visit: the same core, or the next with work. -/
def State.millPick (s : State) (croft : Nat) : Option (Nat × Nat) :=
  let cr := s.croft croft
  let at_ := croft * 8 + cr.millAt
  if (cr.millLeft != 0 || s.saving at_) && (s.core at_).millWork then some (cr.millAt, cr.millLeft) else
  ((List.range 8).map (fun i => (cr.millAt + 1 + i) % 8)).findSome? (fun r =>
    let c := s.core (croft * 8 + r)
    if c.millWork then some (r, c.mw) else none)
/-- The arbiter takes the head of the queue of the core it serves. -/
def execMillJobStart (croft : Nat) (s : State) : Host.Outcome State Fault Refusal :=
  if s.croftStopped croft then .next s else
  match s.millPick croft with
  | none => .next s
  | some p =>
    let core := croft * 8 + p.1
    let c := s.core core
    match c.millCur, c.millQ with
    | none, j :: js =>
      let s := s.modCroft croft (fun k => { k with millAt := p.1, millLeft := p.2 })
      let s := s.modCore core (fun c => { c with millQ := js })
      let r := s.startJob j
      .next (r.1.modCore core (fun c => { c with millCur := some r.2 }))
    | _, _ => .next s
/-- A K-block of the job the arbiter serves ends; the croft counts it (R353). A block that cannot be decoded ends the job
and does not count (R251). -/
def execMillBlockEnd (croft : Nat) (s : State) : Host.Outcome State Fault Refusal :=
  if s.croftStopped croft then .next s else
  match s.millPick croft with
  | none => .next s
  | some p =>
    let core := croft * 8 + p.1
    match (s.core core).millCur with
    | none => .next s
    | some j =>
      if j.dead || j.need ≤ j.blocks then .next s else
      let r := s.runBlock j
      let ran := r.2.status = j.status
      let s := r.1.modCroft croft (fun k => { k with millAt := p.1, millLeft := if ran then p.2 - 1 else p.2 })
      let s := s.modCore core (fun c => { c with millCur := some { r.2 with blocks := if ran then j.blocks + 1 else j.blocks } })
      .next (if ran then s.count core (slotOf j.tid) 5 1 else s)
/-- A tile takes 32 rows of 32 values. -/
def Thread.setTile (t : Thread) (a : Nat) (l : List (BitVec 32)) : Thread :=
  { t with tiles := ⟨t.tiles.cells.filter (fun c => decide (c.1 < a * 1024)) ++ l.mapIdx (fun i x => (a * 1024 + i, x)) ++
                     t.tiles.cells.filter (fun c => decide (a * 1024 + 1024 ≤ c.1))⟩ }
/-- A job's writes take effect together (R168). -/
def State.millWrite (s : State) (j : MillJob) : State :=
  match j.op with
  | .stacc =>
    match millPlace (coreOf j.tid) j.a 4096 with
    | .at l => s.partyWrite j.tid j.party 0 j.tag l (j.work.flatMap (fun x => leBytes 4 x.toNat))
    | _ => s
  | _ => s.modThread j.tid (fun t => t.setTile j.tile j.work)
/-- The started job of a core retires once its blocks have run: with its writes, its status and its counter; of an
ended context with none of them (R328). -/
def execMillJobComplete (core : Nat) (s : State) : Host.Outcome State Fault Refusal :=
  if s.croftStopped (croftOf core) then .next s else
  match (s.core core).millCur with
  | none => .next s
  | some j =>
    if !j.dead && decide (j.blocks < j.need) then .next s else
    let s := (s.modCore core (fun c => { c with millCur := none })).millVisit (croftOf core)
    let s := if j.dead then s else if j.status != 0 then s.millRetire j j.status else (s.millWrite j).millRetire j 0
    .next (s.millIdle j.tid)

end Sys2Proof.Machine
end

