-- ==== Sys2Proof/Machine/Square.lean ====
section
/-!
DEFINITION. Remote packets at the Square: their way out (R277, R279, R285 to R288, R302, R357) and, at a destination,
the order table (R289 to R291), the pound (R303 to R306), the window check and the application (R183, R326).
-/
namespace Sys2Proof.Machine

/-! ## Outgoing packets -/

/-- The outgoing packet of an id. -/
def State.outPkt? (s : State) (id : Nat) : Option OutPkt := s.sq.out.find? (fun o => o.pkt.id == id)
/-- Replaces an outgoing packet. -/
def State.setOut (s : State) (o : OutPkt) : State :=
  { s with sq := { s.sq with out := s.sq.out.map (fun x => if x.pkt.id = o.pkt.id then o else x) } }
/-- Replaces an outgoing packet, last in its queue. -/
def State.outLast (s : State) (o : OutPkt) : State :=
  { s with sq := { s.sq with out := s.sq.out.filter (fun x => x.pkt.id != o.pkt.id) ++ [o] } }
/-- The operation of a packet. -/
def State.opOf (s : State) (o : OutPkt) : Option ROp := s.sq.ops.find? (fun r => r.id == o.op)
/-- A packet before its first codeword. -/
def OutAt.unsent : OutAt → Bool | .drift => true | .held => true | .waiting => true | .queued _ _ => true | _ => false
/-- The path a packet is counted against. -/
def OutAt.pathOf : OutAt → Option Nat | .queued _ p => some p | .sent _ p => some p | _ => none
/-- ACKPATH's owed count of a core's path changes (R288). -/
def State.addOwed (s : State) (core p n : Nat) : State := s.modCore core (fun c => { c with ackOwed := c.ackOwed.put p (c.ackOwed.get 0 p + n) })
def State.subOwed (s : State) (core p n : Nat) : State := s.modCore core (fun c => { c with ackOwed := c.ackOwed.put p (c.ackOwed.get 0 p - n) })
/-- A packet leaves the path it was counted against without a reply (R288). -/
def State.unowe (s : State) (o : OutPkt) : State :=
  match o.at_.pathOf with
  | some p => s.subOwed o.pkt.srcCore p o.owed.length
  | none => s
/-- A packet carrying tokens has yet to leave the Square (R300, R302). -/
def State.carry (s : State) (p : Packet) : State := s.countCarried p (· + 1)
/-- Members of a packet, or of a unicast packet its source, are answered UNREACHABLE. -/
def State.answerLost (s : State) (o : OutPkt) (ms : List Nat) : State :=
  { s with sq := { s.sq with replies := s.sq.replies ++ ms.map (fun m => Reply.mk o.pkt.id 8 [] m) } }
/-- UNREACHABLE (R285, R287, R302): a packet never sent is announced by its skip notice; the answer has status 8. -/
def State.unreachable (s : State) (o : OutPkt) : State :=
  let s := s.unowe o
  let s := if o.at_.unsent then s.uncarry o.pkt else s
  let s := if o.sends = 0 then s.skipNotice o.pkt o.pkt.dest else s
  (s.setOut { o with at_ := .answered }).answerLost o o.owed

/-! ## The spray (R286) -/

/-- F of R286 by order code. -/
def sprayF : Nat → Nat | 1 => 2 | 2 => 4 | 3 => 5 | 4 => 6 | _ => 0
/-- The weight of a port now. -/
def State.weight (s : State) (q : Nat) : Nat := (if (s.oport q).narrow then 6 else 8) * sprayF (s.oport q).order
/-- The ports of a lit multicast path, each with the path. -/
def State.eligiblePath (s : State) (ctx p : Nat) : List (Nat × Nat) :=
  match s.path? p with
  | some x => if x.mcast && x.ctx == ctx && s.isLit x then ((portList x.ports).filter s.mayCarry).map (fun q => (q, p)) else []
  | none => []
/-- The key of a spray state: the destination device, or 1024 + p for a multicast path p, which has one with the same
weights (the model's choice; log entry 45). -/
def OutPkt.sprayKey (o : OutPkt) : Nat := match o.path with | some p => 1024 + p | none => o.pkt.dest
/-- The eligible ports of a spray state. -/
def State.eligibleOf (s : State) (ctx key : Nat) : List (Nat × Nat) :=
  if key < 1024 then s.eligible ctx key else s.eligiblePath ctx (key - 1024)
/-- A path of the packet is still lighting (R277). -/
def State.lightingOf (s : State) (ctx key : Nat) : Bool :=
  if key < 1024 then s.lighting ctx key else
  match s.path? (key - 1024) with
  | some x => x.mcast && x.ctx == ctx && x.grant != 0 && !s.isLit x
  | none => false
/-- Values of 0 for the ports of a set. -/
def zeroVals (el : List (Nat × Nat)) : SMap Int := el.foldl (fun m x => m.put x.1 0) {}
/-- The same ports hold values. -/
def sameKeys (a b : SMap Int) : Bool := a.cells.map (·.1) == b.cells.map (·.1)
/-- The port of greatest value, the lowest among equals. -/
def topPort : List (Nat × Int) → Option Nat
  | [] => none
  | c :: cs => some (cs.foldl (fun b x => if b.2 < x.2 then x else b) c).1
/-- One choice: the state after it, the port and its path; none without an eligible port. -/
def State.spray (s : State) (ctx key : Nat) : Option (State × Nat × Nat) :=
  let el := s.eligibleOf ctx key
  let zero := zeroVals el
  let mine (x : Spray) : Bool := x.ctx == ctx && x.dev == key
  let old : SMap Int := match s.sq.sprays.find? mine with | some x => if sameKeys x.vals zero then x.vals else zero | none => zero
  let vals := old.map (fun q (c : Int) => c + (s.weight q : Int))
  match topPort vals.cells with
  | none => none
  | some q =>
    let total : Int := vals.cells.foldl (fun a c => a + s.weight c.1) 0
    let vals := vals.put q (vals.get 0 q - total)
    let p := match el.find? (fun e => e.1 == q) with | some e => e.2 | none => 0
    some ({ s with sq := { s.sq with sprays := s.sq.sprays.filter (fun x => !mine x) ++ [⟨ctx, key, vals⟩] } }, q, p)
/-- Spray states whose eligible set has changed are set to 0. -/
def State.resetSprays (s : State) : State :=
  { s with sq := { s.sq with sprays := s.sq.sprays.map (fun x =>
      let zero := zeroVals (s.eligibleOf x.ctx x.dev)
      if sameKeys x.vals zero then x else { x with vals := zero }) } }
/-- The part of a packet that goes to the members a test selects. -/
def OutPkt.partTo (o : OutPkt) (f : Nat → Bool) : OutPkt :=
  let ms := (o.mems.zip o.pkt.members).filter (fun c => f c.2)
  { o with pkt := { o.pkt with members := ms.map (·.2), dest := (ms.map (·.2)).headD 0 }, mems := ms.map (·.1),
           owed := o.owed.filter (fun m => ms.any (fun c => c.1 == m)) }
/-- The members of a copy toward which every port has failed are answered UNREACHABLE; the copy goes to the rest (R280). -/
def State.cutLost (s : State) (o : OutPkt) : State × OutPkt :=
  let down := s.sq.retDown.contains
  if o.path.isNone || !o.pkt.members.any down then (s, o) else
  let lost := o.partTo down
  let lost := { lost with pkt := { lost.pkt with id := s.sq.nextId }, at_ := .answered }
  let s := { s with sq := { s.sq with nextId := s.sq.nextId + 1, out := s.sq.out ++ [lost] } }
  (s.answerLost lost lost.owed, o.partTo (fun d => !down d))
/-- A packet gets a port, waits for light, or is unreachable (R285, R286, R288). `last`: it goes to the end of its queue. A
packet chosen or sent again waits too while another path to its device is lighting (the model's choice; log entry 45). -/
def State.choosePort (s : State) (o : OutPkt) (last : Bool := true) : State :=
  match s.opOf o with
  | none => s
  | some r =>
    let c := s.cutLost o
    let s := c.1
    let o := c.2
    if o.path.isSome && o.mems.isEmpty then { s with sq := { s.sq with out := s.sq.out.filter (fun x => x.pkt.id != o.pkt.id) } } else
    match s.spray r.ctx o.sprayKey with
    | some c =>
      let o := { o with at_ := .queued c.2.1 c.2.2 }
      let s := c.1.addOwed o.pkt.srcCore c.2.2 o.owed.length
      if last then s.outLast o else s.setOut o
    | none => if s.lightingOf r.ctx o.sprayKey then s.setOut { o with at_ := .waiting } else s.unreachable { o with at_ := .drift }
/-- A packet that was sent is sent again whole, at most three times (R287, R302). -/
def State.resendPkt (s : State) (o : OutPkt) : State :=
  if 4 ≤ o.sends then s.unreachable o
  else ((s.unowe o).carry o.pkt).choosePort { o with at_ := .drift }
/-- A queued packet's port is still eligible, toward every member it reaches. -/
def State.keepsPort (s : State) (o : OutPkt) : Bool :=
  match s.opOf o, o.at_ with
  | some r, .queued q p => (s.eligibleOf r.ctx o.sprayKey).contains (q, p) && !o.pkt.members.any s.sq.retDown.contains
  | _, _ => true
/-- x was issued before y: by operation, the copies of one in member order. -/
def OutPkt.issuedBefore (x y : OutPkt) : Bool := decide (x.op < y.op) || (x.op == y.op && decide (x.mems.headD 0 < y.mems.headD 0))
/-- Puts a packet among others in issue order. -/
def OutPkt.insertIn (o : OutPkt) : List OutPkt → List OutPkt
  | [] => [o]
  | x :: xs => if o.issuedBefore x then o :: x :: xs else x :: o.insertIn xs
/-- Packets in issue order. -/
def inIssueOrder (l : List OutPkt) : List OutPkt := l.foldr OutPkt.insertIn []
/-- After a change of eligible ports: spray states are reset, unsent packets on a port that has left are chosen for
again, then waiting ones leave in issue order or are unreachable (R277, R286, R287). -/
def State.lightChanged (s : State) : State :=
  let s := s.resetSprays
  let wait := inIssueOrder (s.sq.out.filter (fun o => o.at_ == .waiting))
  let s := s.sq.out.foldl (fun s o => if s.keepsPort o then s else (s.unowe o).choosePort { o with at_ := .drift }) s
  wait.foldl State.choosePort s

/-! ## At the Square -/

/-- Lists of at most `f` elements (R188): copy c reaches members c × f to c × f + f − 1. -/
def chunks {α : Type} (f : Nat) : Nat → List α → List (List α)
  | 0, _ => []
  | _, [] => []
  | fuel + 1, l => l.take f :: chunks f fuel (l.drop f)
/-- The fan-out of a path, at least 1. -/
def State.pathFan (s : State) (p : Nat) : Nat := match s.path? p with | some x => max 1 x.fan | none => 1
/-- The first id that is free beside those of a packet's copies. -/
def State.freshId (s : State) (id : Nat) : Nat := max s.sq.nextId (id + 1)
/-- The optical copies of a multicast packet (R188, R274, R279); the destination a copy's header names is its first
member. -/
def State.copiesOf (s : State) (o : OutPkt) (p : Nat) : List OutPkt :=
  let f := s.pathFan p
  let n := o.mems.length
  ((chunks f n o.mems).zip (chunks f n o.pkt.members)).zipIdx.map (fun g =>
    { o with
      pkt := { o.pkt with id := if g.2 = 0 then o.pkt.id else s.freshId o.pkt.id + g.2, members := g.1.2, dest := g.1.2.headD 0 },
      mems := g.1.1, owed := g.1.1, fan := f, at_ := .drift })
/-- Replaces an outgoing packet, in its place, by several, for each of which a port is chosen. -/
def State.replaceOut (s : State) (id : Nat) (cs : List OutPkt) : State :=
  let s := { s with sq := { s.sq with
    nextId := s.freshId id + cs.length + 1, out := s.sq.out.flatMap (fun x => if x.pkt.id = id then cs else [x]) } }
  cs.foldl (fun s o => s.choosePort o false) s
/-- A multicast packet that reaches the Square is cut into its copies, the last of their queues. -/
def State.splitCopies (s : State) (o : OutPkt) (p : Nat) : State :=
  (s.outLast o).replaceOut o.pkt.id (s.copiesOf o p)
/-- A packet reaches the Square from Drift (R285, R286): to this device it needs no port. -/
def State.atSquare (s : State) (n : Nat) : State :=
  match s.outPkt? n with
  | none => s
  | some o =>
    if o.at_ != .drift then s else
    match o.path with
    | some p => s.splitCopies o p
    | none =>
      if o.pkt.dest = s.fleet.devId then (s.uncarry o.pkt).setOut { o with at_ := .own, sends := 1 }
      else s.choosePort o
/-- Payload bytes of a packet (R357). -/
def pktPayload : PktOp → Nat
  | .read _ => 0
  | .write d => d.length
  | .amo op w _ _ => (if w then 8 else 4) * (if op = .cas then 2 else 1)
/-- Codewords a packet occupies on a port (R357). -/
def State.codewords (s : State) (q : Nat) (p : Packet) : Nat :=
  let d := if (s.oport q).narrow then 90 else 130
  (32 + pktPayload p.op + (if (s.oport q).cipher then 16 else 0) + d - 1) / d
/-- Copies of one multicast packet. -/
def OutPkt.sibling (o x : OutPkt) : Bool := x.op == o.op && x.pkt.off == o.pkt.off && x.path.isSome
/-- The copies of a packet none of which has been sent are grouped anew, in member order and in the place of `o`, when the
fan-out has changed (R188, R279); those that had a port are sprayed again (the model's choice; log entry 45). -/
def State.regroup (s : State) (o : OutPkt) (p : Nat) : State :=
  let sibs := inIssueOrder (s.sq.out.filter (fun x => o.sibling x && x.at_ != .answered))
  let s := sibs.foldl State.unowe s
  let whole := { o with mems := sibs.flatMap (·.mems), pkt := { o.pkt with members := sibs.flatMap (fun x => x.pkt.members) } }
  let others (x : OutPkt) : Bool := x.pkt.id == o.pkt.id || !sibs.any (fun y => y.pkt.id == x.pkt.id)
  ({ s with sq := { s.sq with out := s.sq.out.filter others } } : State).replaceOut o.pkt.id (s.copiesOf whole p)
/-- A copy of a packet that has begun on a path is still to be sent: the packet is in progress (R279). -/
def State.inProgress (s : State) (p : Nat) : Bool :=
  s.sq.out.any (fun o => o.begun && o.path == some p && (match o.at_ with | .queued _ _ => true | .waiting => true | _ => false))
/-- Once the packet in progress has ended, the step points of a narrowing are found (R275, R279). -/
def State.stepClock (s : State) (p : Nat) : State :=
  match s.path? p with
  | some x => if x.step.isSome && x.fanTo < x.fan && !s.inProgress p then s.setPath p { x with step := some s.now } else s
  | none => s
/-- The newest 64 flits of a port (R345). -/
def lastFlits (l : List Flit) : List Flit := l.drop (l.length - 64)
/-- Flits of a codeword. -/
def State.cwFlits (s : State) (q : Nat) : Nat := max 1 (Config.codewordFlits (s.oport q).narrow)
/-- The payload of a packet (R357), and the packet with another. -/
def pktData : PktOp → List Byte
  | .read _ => []
  | .write d => d
  | .amo op w b cmp =>
    let n := if w then 8 else 4
    leBytes n b.toNat ++ (if op = .cas then leBytes n cmp.toNat else [])
def opWith : PktOp → List Byte → PktOp
  | .read n, _ => .read n
  | .write _, d => .write d
  | .amo op w _ _, d =>
    let n := if w then 8 else 4
    .amo op w (BitVec.ofNat 64 (leNat (d.take n))) (BitVec.ofNat 64 (leNat ((d.drop n).take n)))
def pktWith (p : Packet) (d : List Byte) : Packet := { p with op := opWith p.op d }
/-- The associated data of a packet: its header, whatever its payload (R347). -/
def pktAad (p : Packet) : List Byte := Config.packetHeader (pktWith p (List.replicate (pktData p.op).length 0))
/-- A packet as a ciphered port sends it: its payload encrypted, and the tag over header and ciphertext (R347). -/
def sealPkt (p : Packet) (key : List Byte) (nonce : BitVec 96) : Packet × Seal :=
  let ct := gcmCrypt key nonce (pktData p.op)
  (pktWith p ct, ⟨nonce, gcmTag key nonce (pktAad p) ct⟩)
/-- What stands in a sealed packet, if its tag is that of its header and ciphertext under the key. -/
def openPkt (p : Packet) (key : List Byte) (m : Seal) : Option Packet :=
  if gcmTag key m.nonce (pktAad p) (pktData p.op) = m.tag then some (pktWith p (gcmCrypt key m.nonce (pktData p.op))) else none
/-- The generation a seal names. -/
def sealGen (m : Seal) : Nat := m.nonce.toNat / 2 ^ 64
/-- A packet as it leaves a port: sealed where it has a nonce. Before the first SWITCH of a device TXGEN is 0 and no key of
generation 0 is held: the seal is then made with the empty key, and its payload and tag come out empty (R347 does not say
what such a port sends; the model's choice, log entry 45). -/
def State.onWire (s : State) (p : Packet) (gen : Nat) : Option (BitVec 96) → Packet × Option Seal
  | none => (p, none)
  | some n =>
    let r := sealPkt p (s.fleet.keys.get [] gen) n
    (r.1, some r.2)
/-- A packet's codewords are sent on a port: its flits enter the replay buffer; on a ciphered port it is sealed under the
next nonce (R345, R347). -/
def State.sendOn (s : State) (q : Nat) (o : OutPkt) : State × OutPkt :=
  let port := s.oport q
  let gen := s.fleet.txGen
  let cw := s.codewords q o.pkt
  let nonce : Option (BitVec 96) := if port.cipher then some (BitVec.ofNat 32 gen ++ port.packets) else none
  let flits := (List.range cw).flatMap (fun c =>
    (List.range (s.cwFlits q)).map (fun i => Flit.mk o.pkt.id c (if port.cipher then some gen else none) (i == 0)))
  (s.setOport q { port with packets := if port.cipher then port.packets + 1 else port.packets, flits := lastFlits (port.flits ++ flits) },
    { o with sends := o.sends + 1, gen := gen, cws := cw, nonce := nonce })
/-- The first codeword of the first packet in a port's queue is sent (R300, R302, R357). -/
def State.depart (s : State) (n : Nat) : State :=
  match s.outPkt? n with
  | none => s
  | some o =>
    match o.at_ with
    | .queued q p =>
      let first := s.sq.out.find? (fun x => match x.at_ with | .queued r _ => r == q | _ => false)
      if first != some o then s else
      if o.path.isSome && !o.begun && o.fan != s.pathFan p then s.regroup o p else
      let r := s.sendOn q o
      let o := r.2
      let s := ((r.1.countSq 2 q 1).countSq 3 q o.cws).uncarry o.pkt
      let s := s.setOut { o with at_ := .sent q p }
      let s := { s with sq := { s.sq with out := s.sq.out.map (fun x => if o.sibling x then { x with begun := true } else x) } }
      let w := s.onWire o.pkt o.gen o.nonce
      (if o.path.isSome then s.stepClock p else s).emit (.packet q o.gen w.2 w.1)
    | _ => s

/-! ## The order table (R289 to R291) -/

/-- The pair a packet belongs to. -/
def pairKey (dev core slot : Nat) : Nat := (dev * 2 ^ 17 + core) * 8 + slot
def pktPair (p : Packet) : Nat := pairKey p.srcDev p.srcCore p.srcSlot
/-- x lies below DONE (R289). -/
def seqBelow (x done : Nat) : Bool :=
  let d := (done + 2 ^ 16 - x % 2 ^ 16) % 2 ^ 16
  decide (1 ≤ d) && decide (d ≤ 32768)
/-- While DONE is marked, it rises. -/
def OrdEntry.advance : Nat → OrdEntry → OrdEntry
  | 0, e => e
  | fuel + 1, e => if e.map % 2 = 1 then OrdEntry.advance fuel { e with done := (e.done + 1) % 2 ^ 16, map := e.map / 2 } else e
/-- A number is marked settled. -/
def OrdEntry.mark (e : OrdEntry) (n : Nat) : OrdEntry :=
  if seqBelow n e.done then e else
  let d := (n + 2 ^ 16 - e.done) % 2 ^ 16
  OrdEntry.advance 65 (if 64 ≤ d ∨ e.map.testBit d then e else { e with map := e.map + 2 ^ d })
/-- A FLOOR above DONE moves it. -/
def OrdEntry.lift (e : OrdEntry) (floor : Nat) : OrdEntry :=
  if seqBelow e.done floor then
    OrdEntry.advance 65 { e with done := floor % 2 ^ 16, map := e.map / 2 ^ ((floor + 2 ^ 16 - e.done) % 2 ^ 16) }
  else e
/-- A packet received and still held. -/
def InPkt.held (i : InPkt) : Bool := !i.toks.isEmpty || i.order || i.table
/-- Notes the release of a packet whose last hold has cleared. -/
def InPkt.freed (i : InPkt) (now : Nat) : InPkt := if i.held then i else { i with relAt := now }
/-- Pound entries in use (R303). -/
def State.poundUse (s : State) : Nat := (s.sq.inp.filter InPkt.held).length
/-- The `.of` packet of a pair whose turn has come is released. -/
def State.releaseOrder (s : State) (key : Nat) : State :=
  match s.sq.order.get? key with
  | none => s
  | some e =>
    { s with sq := { s.sq with inp := s.sq.inp.map (fun i =>
        if i.order && !i.table && (pktPair i.pkt) == key && (i.pkt.seq == some e.done || (match i.pkt.seq with | some n => seqBelow n e.done | none => true))
        then ({ i with order := false } : InPkt).freed s.now else i) } }
/-- The pair's entry is found or allocated and its DONE brought up to FLOOR; none with no free entry (R290). -/
def State.touchPair (s : State) (key floor : Nat) : Option State :=
  match s.sq.order.get? key with
  | some e => some ({ s with sq := { s.sq with order := s.sq.order.put key { (e.lift floor) with touched := s.now } } }.releaseOrder key)
  | none =>
    if 4096 ≤ s.sq.order.cells.length then none
    else some { s with sq := { s.sq with order := s.sq.order.put key ⟨floor % 2 ^ 16, 0, s.now⟩ } }
/-- A number is settled at its pair's entry, if it has one. A packet refused while its pair has none leaves no mark of its
number: R290 marks it at the entry, and says nothing of a pair without one (the model's choice; log entry 45). -/
def State.settleSeq (s : State) (key : Nat) (seq : Option Nat) : State :=
  match seq, s.sq.order.get? key with
  | some n, some e => { s with sq := { s.sq with order := s.sq.order.put key { (e.mark n) with touched := s.now } } }.releaseOrder key
  | _, _ => s
/-- A `.of` packet must wait for lower numbers of its pair. -/
def State.outOfTurn (s : State) (p : Packet) : Bool :=
  p.ordered && (match p.seq, s.sq.order.get? (pktPair p) with
    | some n, some e => n != e.done && !seqBelow n e.done
    | _, _ => true)

/-! ## Replies and refusals -/

/-- A reply leaves for the packet's source. -/
def State.replyTo (s : State) (p : Packet) (status : BitVec 8) (data : List Byte) : State :=
  if p.srcDev = s.fleet.devId then { s with sq := { s.sq with replies := s.sq.replies ++ [⟨p.id, status, data, 0⟩] } }
  else s.emit (.reply p.srcDev p.id status data)
/-- A packet is refused: its number is settled, the reply is negative (R290). -/
def State.refusePkt (s : State) (p : Packet) (status : BitVec 8) : State := (s.settleSeq (pktPair p) p.seq).replyTo p status []

/-! ## Arrival (R290, R291, R303, R306, R346, R348) -/

/-- A notice is still in the cache: for 1 ms from its acceptance (R301). -/
def Notice.live (n : Notice) (now : Nat) : Bool := decide (now < n.till)
/-- The notice held for a token. -/
def State.noticeOf (s : State) (t : BitVec 32) : Option Notice := s.sq.cache.find? (fun n => n.tok == t && n.live s.now)
/-- Cache entries in use. -/
def State.cacheUse (s : State) : Nat := (s.sq.cache.filter (fun n => n.live s.now)).length
/-- The first whole microsecond at or after arrival plus POUNDTO (R305). -/
def State.poundDue (s : State) : Nat := (s.now + s.poundto.toNat * 2000 + 1999) / 2000 * 2000
/-- A packet this device is the destination of. -/
def State.receive (s : State) (p : Packet) (port : Option Nat) : State :=
  if s.sq.seen.contains (p.srcDev, p.id) then s else
  let s := { s with sq := { s.sq with seen := s.sq.seen ++ [(p.srcDev, p.id)] } }
  let ent := if p.seq.isNone then some s else s.touchPair (pktPair p) p.floor
  let s := ent.getD s
  let void (t : BitVec 32) : Bool := match s.noticeOf t with | some n => !n.landed | none => false
  if p.toks.any void then s.refusePkt p 5 else
  let toks := p.toks.filter (fun t => (s.noticeOf t).isNone)
  let i : InPkt :=
    { pkt := p, port := port, at_ := s.now, due := s.poundDue, toks := toks, order := s.outOfTurn p, table := ent.isNone, pounded := false,
      relAt := s.now }
  if !i.held then { s with sq := { s.sq with inp := s.sq.inp ++ [i] } }
  else if 512 ≤ s.poundUse || 128 ≤ (s.sq.inp.filter (fun x => x.held && x.pkt.srcDev == p.srcDev)).length then
    let s := s.countSq 10 0 1
    if ent.isNone then s.replyTo p 7 [] else s.refusePkt p 7
  else
    let s := { s with sq := { s.sq with inp := s.sq.inp ++ [{ i with pounded := true }] } }
    { s with sq := { s.sq with peak := max s.sq.peak s.poundUse } }.countSq 8 0 1
/-- A packet from another device: a stray goes back; on a ciphered port one in an unheld generation, or whose tag is not
that of its bytes, is discarded, and the others are decrypted (R346, R347, R348). -/
def State.fromOutside (s : State) (p : Packet) (port : Nat) (mark : Option Seal) : State :=
  let mine := if p.members.isEmpty then p.dest == s.fleet.devId else p.members.contains s.fleet.devId
  if !mine then s.emit (.stray p.srcDev p.id)
  else if !(s.oport port).cipher then s.receive p (some port)
  else match mark with
    | none => (s.portStat port 7 1).emit (.stray p.srcDev p.id)
    | some m =>
      match s.fleet.keys.get? (sealGen m) with
      | none => (s.portStat port 7 1).emit (.uncorrectable p.srcDev p.id none)
      | some key =>
        match openPkt p key m with
        | none => (s.portStat port 7 1).emit (.stray p.srcDev p.id)
        | some p => s.receive p (some port)
/-- A packet of this device reaches its own Square's destination side. -/
def State.fromSelf (s : State) (n : Nat) : State :=
  match s.outPkt? n with
  | none => s
  | some o => if o.at_ != .own then s else (s.setOut { o with at_ := .answered }).receive o.pkt none

/-- A skip notice reaches its pair's entry, or waits for one (R290). -/
def State.skipIn (s : State) (k : SkipIn) : State :=
  let key := pairKey k.dev k.core k.slot
  match s.touchPair key k.floor with
  | some s => s.settleSeq key (some k.seq)
  | none => { s with sq := { s.sq with skips := s.sq.skips ++ [k] } }
/-- Packets and skip notices that wait for an entry take one (R290). -/
def State.seatPairs (s : State) : State :=
  let ks := s.sq.skips
  let s := ks.foldl State.skipIn { s with sq := { s.sq with skips := [] } }
  (s.sq.inp.filter (·.table)).foldl (fun s i =>
    match s.touchPair (pktPair i.pkt) i.pkt.floor with
    | none => s
    | some s =>
      { s with sq := { s.sq with inp := s.sq.inp.map (fun x =>
        if x.pkt.srcDev = i.pkt.srcDev ∧ x.pkt.id = i.pkt.id then ({ x with table := false, order := s.outOfTurn x.pkt } : InPkt).freed s.now else x) } }) s
/-- A held packet has waited for POUNDTO (R305). -/
def State.expirePkt (s : State) (n : Nat) : State :=
  match s.sq.inp[n]? with
  | none => s
  | some i =>
    if !i.held || s.now < i.due then s else
    ({ s with sq := { s.sq with inp := s.sq.inp.eraseIdx n } }.countSq 9 0 1).refusePkt i.pkt 6
/-- An entry untouched for 1 ms and with no packet held for it is freed (R290). -/
def State.freePair (s : State) (dev core slot : Nat) : State :=
  let key := pairKey dev core slot
  match s.sq.order.get? key with
  | none => s
  | some e =>
    if s.now < e.touched + 2000000 || s.sq.inp.any (fun i => (pktPair i.pkt) == key && i.pkt.seq.isSome) then s
    else { s with sq := { s.sq with order := s.sq.order.erase key } }.seatPairs

/-! ## Application (R183, R326, R334) -/

/-- The location an address of a window's owner selects for a system-mode access: device memory or a global scratchpad
window. -/
def State.winLoc (s : State) (ctx va : Nat) (acc : Acc) : Option Nat :=
  let x := if 0xFFF0640000000 ≤ va then .xlate
    else if 0xFFF0000000000 ≤ va then spadPlace true acc ((va - 0xFFF0000000000) / 0x40000) ((va - 0xFFF0000000000) % 0x40000)
    else match s.walk ctx va with | .leaf log2 e => leafPlace true acc va log2 e | .none _ => .xlate
  match x with | .loc l => some l | _ => none
/-- The places of `n` bytes, page by page. -/
def State.winLocs (s : State) (ctx : Nat) (acc : Acc) : Nat → Nat → Nat → Option (List (Nat × Nat))
  | 0, _, _ => some []
  | _, _, 0 => some []
  | fuel + 1, va, n =>
    let k := min n (0x10000 - va % 0x10000)
    match s.winLoc ctx va acc, s.winLocs ctx acc fuel (va + k) (n - k) with
    | some l, some r => some ((l, k) :: r)
    | _, _ => none
/-- Bytes a packet reads or writes. -/
def pktSize : PktOp → Nat
  | .read n => n
  | .write d => d.length
  | .amo _ w _ _ => if w then 8 else 4
/-- The right a packet needs: its bit. -/
def pktRight : PktOp → Nat | .read _ => 0 | .write _ => 1 | .amo _ _ _ _ => 2
/-- The window includes a scratchpad page. -/
def Window.hasSpad (w : Window) : Bool := decide (0xFFF0000000000 < w.base + w.len)
/-- The status of the window check, 0 for a pass. -/
def State.winCheck (s : State) (p : Packet) : Nat :=
  match s.sq.wins.get? p.wid with
  | none => 1
  | some w =>
    let saved := match s.ctx? w.ctx with | some c => c.saved | none => false
    if w.revoked || (saved && w.hasSpad) then 2
    else if w.len < p.off + pktSize p.op then 3
    else if !w.rights.testBit (pktRight p.op) then 4 else 0
/-- A packet of this device acts at its thread's core: the stores a fence has made visible there come first (R208). -/
def State.pktObserve (s : State) (p : Packet) (l n : Nat) : State :=
  if p.srcDev = s.fleet.devId then s.observe (tidOf p.srcCore p.srcSlot) .agent l n else s
/-- Bytes read at a list of places by a read that is an event for each byte (R208), `ahead` of which it has made already. -/
def State.readEach (s : State) (p : Packet) (ahead : List (Nat × Byte)) : List (Nat × Nat) → State × List Byte
  | [] => (s, [])
  | r :: rs =>
    let a := (s.pktObserve p r.1 r.2).portRead ahead r.1 r.2
    let x := a.1.readEach p ahead rs
    (x.1, a.2 ++ x.2)
/-- Bytes read at a list of places by one event. -/
def State.readPlaces (s : State) (p : Packet) : List (Nat × Nat) → State × List Byte
  | [] => (s, [])
  | r :: rs =>
    let s := (s.pktObserve p r.1 r.2).recall r.1 r.2
    let x := s.readPlaces p rs
    (x.1, readBytes s.mem r.1 r.2 ++ x.2)
/-- The job in flight on this device whose packet it is. -/
def State.jobOf (s : State) (p : Packet) : Option CartJob :=
  if !p.cart || p.srcDev != s.fleet.devId then none else
  match (s.outPkt? p.id).bind s.opOf with
  | some r => (s.core (coreOf r.tid)).cartJob? r.uid
  | none => none
/-- Bytes written at a place by a remote application. Those of a cart job of this device may be bytes that another job in
flight writes too (R179). -/
def State.landBytes (s : State) (p : Packet) (l : Nat) (data : List Byte) : State :=
  let s := s.pktObserve p l data.length
  match s.jobOf p with
  | none => s.portWrite p.srcCore 3 p.tag p.srcDev l data
  | some j =>
    let x := s.cartMix { j with segs := [] } l data
    let r := (x.1.portWrite p.srcCore 3 p.tag p.srcDev l x.2).cartTell { j with wrote := addRange l data.length j.wrote }
    r.1.modCore j.core (fun c => c.putCart r.2)
/-- Bytes written at a list of places by a remote application. -/
def State.writePlaces (s : State) (p : Packet) : List (Nat × Nat) → List Byte → State
  | [], _ => s
  | r :: rs, d => (s.landBytes p r.1 (d.take r.2)).writePlaces p rs (d.drop r.2)
/-- Bytes by the places they go to. -/
def piecesOf : List (Nat × Nat) → List Byte → List (Nat × List Byte)
  | [], _ => []
  | r :: rs, d => (r.1, d.take r.2) :: piecesOf rs (d.drop r.2)
/-- The first `k` bytes of pieces are written: the state after, and what is left. -/
def State.landSome (s : State) (p : Packet) : Nat → List (Nat × List Byte) → State × List (Nat × List Byte)
  | _, [] => (s, [])
  | k, x :: xs =>
    if k = 0 then (s, x :: xs)
    else if k < x.2.length then (s.landBytes p x.1 (x.2.take k), (x.1 + k, x.2.drop k) :: xs)
    else (s.landBytes p x.1 x.2).landSome p (k - x.2.length) xs
/-- The effect of a packet at its places: the state after and the data of the reply. A write of 8 bytes, a multicast
member's words and a read-modify-write are one event each (R208). -/
def State.applyAt (s : State) (p : Packet) (ahead : List (Nat × Byte)) (ls : List (Nat × Nat)) : State × List Byte :=
  match p.op with
  | .read _ => s.readEach p ahead ls
  | .write d => (s.writePlaces p ls d, [])
  | .amo op w b cmp =>
    let x := s.readPlaces p ls
    let old := BitVec.ofNat 64 (leNat x.2)
    if amoWrites op w old cmp then (x.1.writePlaces p ls (leBytes (pktSize p.op) (amoNew op w old b).toNat), x.2)
    else (ls.foldl (fun s l => s.echo l.1 p.srcCore 3 p.tag p.srcDev) x.1, x.2)
/-- The access a packet makes. -/
def pktAcc : PktOp → Acc | .read _ => .read | _ => .write
/-- The places of a packet's bytes in its window. -/
def State.pktPlaces (s : State) (w : Window) (p : Packet) : Option (List (Nat × Nat)) :=
  s.winLocs w.ctx (pktAcc p.op) (pktSize p.op / 0x10000 + 2) (w.base + p.off) (pktSize p.op)
/-- The address of the first page that a packet's bytes have no place in: where the walk failed (R323). -/
def State.winMiss (s : State) (ctx : Nat) (acc : Acc) : Nat → Nat → Nat → Nat
  | 0, va, _ => va
  | fuel + 1, va, n =>
    let k := min n (0x10000 - va % 0x10000)
    if (s.winLoc ctx va acc).isNone || n ≤ k then va else s.winMiss ctx acc fuel (va + k) (n - k)
/-- A released packet is checked and applied; the reply leaves (R183). Bytes of a read made before are `ahead`. -/
def State.applyPkt (s : State) (p : Packet) (ahead : List (Nat × Byte) := []) : State :=
  let st := s.winCheck p
  if st != 0 then s.refusePkt p (BitVec.ofNat 8 st) else
  match s.sq.wins.get? p.wid with
  | none => s
  | some w =>
    match s.pktPlaces w p with
    | none =>
      let va := s.winMiss w.ctx (pktAcc p.op) (pktSize p.op / 0x10000 + 2) (w.base + p.off) (pktSize p.op)
      (s.bumpWalk w.ctx (BitVec.ofNat 64 va)).refusePkt p 9
    | some ls =>
      let x := s.applyAt p ahead ls
      (x.1.settleSeq (pktPair p) p.seq).replyTo p 0 x.2
/-- A released packet `x` must be applied before `i` (R291, R304). -/
def InPkt.before (x i : InPkt) (earlier : Bool) : Bool :=
  let samePair := x.pkt.ordered && i.pkt.ordered && (pktPair x.pkt) == (pktPair i.pkt)
  if x.held || i.pkt.id == x.pkt.id && i.pkt.srcDev == x.pkt.srcDev then false
  else if samePair then (match x.pkt.seq, i.pkt.seq with | some a, some b => a != b && seqBelow a b | _, _ => false)
  else earlier && x.pounded && i.pounded && x.relAt == i.relAt
/-- Packet `n` of those received may be applied now: a released one no earlier than the cycle after (R291, R304). -/
def State.mayApply (s : State) (n : Nat) (i : InPkt) : Bool :=
  !i.held && (decide (i.relAt < s.now) || !(i.pounded || i.pkt.ordered || !i.pkt.toks.isEmpty)) &&
  !(s.sq.inp.zipIdx.any (fun x => x.1.before i (decide (x.2 < n))))
/-- The rest of a packet that has been checked is written; the reply leaves. -/
def State.landRest (s : State) (p : Packet) (rest : List (Nat × List Byte)) : State :=
  let s := rest.foldl (fun s x => s.landBytes p x.1 x.2) s
  (s.settleSeq (pktPair p) p.seq).replyTo p 0 []
/-- Received packet `n` is applied (R183), or what is left of it. -/
def State.remoteApply (s : State) (n : Nat) : State :=
  match s.sq.inp[n]? with
  | none => s
  | some i =>
    if !s.mayApply n i then s else
    let s : State := { s with sq := { s.sq with inp := s.sq.inp.eraseIdx n } }
    match i.rest with
    | some rest => s.landRest i.pkt rest
    | none => s.applyPkt i.pkt i.ahead
/-- The pieces of a cart packet that still have to be written: of one begun, or of one that passes the check (R208). -/
def State.restOf (s : State) (i : InPkt) : Option (List (Nat × List Byte)) :=
  match i.rest, i.pkt.op, s.sq.wins.get? i.pkt.wid with
  | some r, _, _ => some r
  | none, .write d, some w => if i.pkt.cart && s.winCheck i.pkt == 0 then (s.pktPlaces w i.pkt).map (fun ls => piecesOf ls d) else none
  | none, _, _ => none
/-- At most `k` bytes of received cart packet `n` are written, which other agents may see before the rest (R208). -/
def State.applyBytes (s : State) (n k : Nat) : State :=
  match s.sq.inp[n]? with
  | none => s
  | some i =>
    if !s.mayApply n i then s else
    match s.restOf i with
    | none => s
    | some r =>
      let x := s.landSome i.pkt k r
      { x.1 with sq := { x.1.sq with inp := x.1.sq.inp.set n { i with rest := some x.2 } } }
/-- The packets that a test selects among those begun are written to their ends. -/
def State.endApplies (s : State) (f : Packet → Bool) : State :=
  let on (i : InPkt) : Bool := i.rest.isSome && f i.pkt
  let is := s.sq.inp.filter on
  let s := { s with sq := { s.sq with inp := s.sq.inp.filter (fun i => !on i) } }
  is.foldl (fun s i => s.landRest i.pkt (i.rest.getD [])) s

def execPacketAtSquare (n : Nat) (s : State) : Host.Outcome State Fault Refusal := .next (s.atSquare n)
def execPacketDeparture (n : Nat) (s : State) : Host.Outcome State Fault Refusal := .next (s.depart n)
def execPacketArrival (a : Arrive) (s : State) : Host.Outcome State Fault Refusal :=
  match a with
  | .outside p port m => .next (s.fromOutside p port m)
  | .own n => .next (s.fromSelf n)
def execRemoteApply (n : Nat) (s : State) : Host.Outcome State Fault Refusal := .next (s.remoteApply n)
def execPoundExpiry (n : Nat) (s : State) : Host.Outcome State Fault Refusal := .next (s.expirePkt n)
def execOrderEntryFree (dev core slot : Nat) (s : State) : Host.Outcome State Fault Refusal := .next (s.freePair dev core slot)
/-- A skip notice arrives: one of this device's own leaves its queue (R186, R290). -/
def execSkipNoticeArrival (dev core slot seq floor : Nat) (s : State) : Host.Outcome State Fault Refusal :=
  let k : SkipIn := ⟨dev, core, slot, seq, floor⟩
  if dev = s.fleet.devId then
    if s.sq.skips.contains k then .next ({ s with sq := { s.sq with skips := s.sq.skips.erase k } }.skipIn k) else .next s
  else .next (s.skipIn k)

end Sys2Proof.Machine
end

