-- ==== Sys2Proof/Machine/Token.lean ====
section
/-!
DEFINITION. Causal tokens (R189 to R195): the table and the cores' reserves (R298, R299), notices (R300, R301), the
token instructions (R194).
-/
namespace Sys2Proof.Machine

/-! ## Slots (R298, R299) -/

/-- A core asks the Square for token slots. -/
def State.askTokens (s : State) (core : Nat) : State :=
  if (s.core core).asked then s else
  let s := s.modCore core (fun c => { c with asked := true })
  { s with sq := { s.sq with tokReq := s.sq.tokReq ++ [core] } }
/-- The `k` lowest-numbered free slots from `n` on. -/
def State.freeToks (s : State) : Nat → Nat → Nat → List Nat
  | 0, _, _ => []
  | _, _, 0 => []
  | fuel + 1, n, k + 1 =>
    let t := s.tok n
    if t.st = .free ∧ ¬ t.inRes then n :: s.freeToks fuel (n + 1) k else s.freeToks fuel (n + 1) (k + 1)
/-- The Square answers a core's request: its lowest-numbered free slots, up to 8 in the reserve (R299). -/
def State.grantToks (s : State) (core : Nat) : State :=
  if !s.sq.tokReq.contains core then s else
  let c := s.core core
  match s.freeToks 16384 0 (8 - c.reserve.length) with
  | [] => s
  | ns =>
    let s := ns.foldl (fun s n => s.setTok n { s.tok n with inRes := true }) s
    let s := s.setCore core { c with reserve := c.reserve ++ ns, asked := false }
    { s with sq := { s.sq with tokReq := s.sq.tokReq.filter (fun x => x != core) } }
/-- A generation after one (R189). -/
def nextGen (g : Nat) : Nat := if g = 255 then 1 else g + 1
/-- Takes a slot from the reserve; the thread is Stalled while it is empty (R190, R299). `s0` is the state before the
instruction. -/
def newToken (s0 : State) (inA inB : BitVec 32) : Exec (BitVec 32) := do
  let s ← get
  match (s.core s.curCore).reserve with
  | [] => halt ((s0.askTokens s0.curCore).stallCur .reserve)
  | n :: rest =>
    let g := nextGen (s.tok n).gen
    let s := s.setTok n { st := .pending, gen := g, ctx := (s.thread s.cur).ctx, inA := inA, inB := inB }
    let s := s.modCore s.curCore (fun c => { c with reserve := rest })
    let s := if rest.length ≤ 4 then s.askTokens s.curCore else s
    set (s.countSq 14 0 1)
    pure (mkToken s.fleet.devId n g)

/-! ## Notices (R192, R300, R301) -/

/-- A dependent of a slot changes. -/
def State.modDep (s : State) (slot dev : Nat) (f : TokDep → TokDep) : State :=
  let k := s.tok slot
  s.setTok slot { k with deps := k.deps.map (fun d => if d.dev = dev then f d else d) }
/-- An accepted notice acts on every held packet that carries its token (R301, R193). -/
def State.noticeActs (s : State) (tok : BitVec 32) (landed : Bool) : State :=
  if landed then
    { s with sq := { s.sq with inp := s.sq.inp.map (fun i =>
        if i.toks.contains tok then ({ i with toks := i.toks.filter (fun t => t != tok) } : InPkt).freed s.now else i) } }
  else
    let gone := s.sq.inp.filter (fun i => i.toks.contains tok)
    let s := { s with sq := { s.sq with inp := s.sq.inp.filter (fun i => !i.toks.contains tok) } }
    gone.foldl (fun s i => s.refusePkt i.pkt 5) s
/-- A notice reaches this device: accepted, or refused by a full cache. One whose token has a live entry already is accepted
whatever the cache holds, takes that entry's place and begins its 1 ms anew: R301 speaks of a notice not yet accepted only
(the model's choice; log entry 45). -/
def State.noticeIn (s : State) (tok : BitVec 32) (landed : Bool) : State × Bool :=
  if (s.noticeOf tok).isNone && 4096 ≤ s.cacheUse then (s.countSq 13 0 1, false) else
  let n : Notice := ⟨tok, landed, s.now + 2000000⟩
  let old := s.sq.cache.filter (fun (x : Notice) => x.tok != tok && x.live s.now)
  (({ s with sq := { s.sq with cache := old ++ [n] } }).noticeActs tok landed, true)
/-- The notice of a settled slot leaves for a dependent, or is taken at once by this device. -/
def State.sendNotice (s : State) (slot dev : Nat) : State :=
  let k := s.tok slot
  let landed := k.st == .landed
  let tok := mkToken s.fleet.devId slot k.gen
  let s := (s.modDep slot dev (fun d => { d with sent := true, retryAt := s.now + 4000 })).countSq (if landed then 11 else 12) 0 1
  if dev = s.fleet.devId then
    let r := s.noticeIn tok landed
    if r.2 then (r.1.modDep slot dev (fun d => { d with accepted := true })).sweepTokens
    else r.1.modDep slot dev (fun d => { d with refused := true })
  else s.emit (.notice dev tok landed)
/-- A settled slot has a dependent device that has not accepted its notice and that a test selects. -/
def State.depDue (s : State) (slot dev : Nat) (p : TokDep → Bool) : Bool :=
  let k := s.tok slot
  (k.st == .landed || k.st == .void) && k.deps.any (fun d => d.dev == dev && !d.accepted && p d)

/-- A notice leaves once every packet that carries the token to the dependent has (R300). -/
def execNoticeSend (slot dev : Nat) (s : State) : Host.Outcome State Fault Refusal :=
  .next (if s.depDue slot dev (fun d => d.pkts == 0 && !d.sent) then s.sendNotice slot dev else s)
/-- A full cache of another device has refused a notice (R301). -/
def State.noticeRefused (s : State) (slot dev : Nat) : State :=
  if s.depDue slot dev (·.sent) then s.modDep slot dev (fun d => { d with refused := true }) else s
/-- A notice that was refused is sent again, every 2 µs until it is accepted, though a packet may since be waiting to be
sent again: only a notice not yet sent waits for that (R301, R302). -/
def execNoticeResend (slot dev : Nat) (s : State) : Host.Outcome State Fault Refusal :=
  .next (if s.depDue slot dev (fun d => d.sent && d.refused && decide (d.retryAt ≤ s.now)) then s.sendNotice slot dev else s)
/-- A notice of another device arrives; its acknowledgement says whether it was accepted. -/
def execNoticeArrival (tok : BitVec 32) (landed : Bool) (s : State) : Host.Outcome State Fault Refusal :=
  let r := s.noticeIn tok landed
  .next (r.1.emit (.noticeAck (tok.toNat / 2 ^ 22) tok r.2))
/-- The acceptance of a notice reaches the issuer; it holds though a packet may since be waiting to be sent again (R195,
R301, R302). -/
def execNoticeAckArrival (slot dev : Nat) (s : State) : Host.Outcome State Fault Refusal :=
  .next (if s.depDue slot dev (fun d => d.sent) then (s.modDep slot dev (fun d => { d with accepted := true })).sweepTokens else s)
/-- A notice leaves the cache 1 ms after its acceptance. -/
def execNoticeCacheExpiry (tok : BitVec 32) (s : State) : Host.Outcome State Fault Refusal :=
  .next { s with sq := { s.sq with cache := s.sq.cache.filter (fun n => !(n.tok == tok && decide (n.till ≤ s.now))) } }
def execTokenReserveGrant (core : Nat) (s : State) : Host.Outcome State Fault Refusal := .next (s.grantToks core)

/-! ## Instructions (R194) -/

def execTkwait (d : SReg) (a : DReg) (s : State) : Host.Outcome State Fault Refusal :=
  .next (runI 4 (do
    let t ← readD a
    let s ← get
    let k := s.tok (tokSlotOf t)
    if t = 0 then writeS d 0
    else match k.st with
      | .pending => stall (.token (tokSlotOf t) (tokGenOf t))
      | .void => writeS d (k.status.setWidth 64)
      | _ => writeS d 0) s)
def execTkdrop (d : DReg) (s : State) : Host.Outcome State Fault Refusal := .next (runI 4 (writeD d 0) s)
/-- A new merged slot is settled at once if its inputs decide it (R192, R194). -/
def State.settleMerge (s : State) (tok : BitVec 32) (a b : TokSt) : State :=
  if a = .void ∨ b = .void then s.settleTok (tokSlotOf tok) false 5
  else if a = .landed ∧ b = .landed then s.settleTok (tokSlotOf tok) true 0 else s
def execTkmerge (d a b : DReg) (s : State) : Host.Outcome State Fault Refusal :=
  .next (runI 4 (do
    let s0 ← get
    let x ← readD a
    let y ← readD b
    if x = 0 then writeD d y
    else if y = 0 ∨ x = y then writeD d x
    else do
      let sa := (s0.tok (tokSlotOf x)).st
      let sb := (s0.tok (tokSlotOf y)).st
      let tok ← newToken s0 (if sa = .landed then 0 else x) (if sb = .landed then 0 else y)
      modThr (fun t => { t with d := t.d.put d.val tok })
      modify (fun s => (s.settleMerge tok sa sb).sweepTokens)) s)

end Sys2Proof.Machine
end

