-- ==== Sys2Proof/Machine/Visit.lean ====
section
/-!
DEFINITION. The cart arbiter's visits (R252): the streams a visit serves first, the jobs that may start, the core
visited and the bytes left to it; the cart's refills and write-backs (R157).
-/
namespace Sys2Proof.Machine

/-! ## The work of a visit -/

/-- The cart can read an element ahead for a bound read stream. -/
def State.canRefill (s : State) (tid key : Nat) : Bool :=
  match (s.thread tid).ports.get? key with
  | some p => p.kind == .readStream && decide (p.entries.length < 8) && decide (p.fetched < streamTotal p.recd) && s.visibleUpTo tid p.after
  | none => false
/-- A pushed element waits to be written: of an ended task, or of a bound write stream. -/
def State.canWriteBack (s : State) (tid key : Nat) : Bool :=
  (s.core (coreOf tid)).orphans.any (fun o => o.tid == tid && o.num == key) ||
  (match (s.thread tid).ports.get? key with | some p => p.kind == .writeStream && !p.entries.isEmpty | none => false)
/-- Bytes the cart moves for a stream next: an element read ahead, or what is left of the one it writes. -/
def State.streamNeed (s : State) (tid key : Nat) : Nat :=
  let left (p : Port) : Nat := match p.part with | some x => x.2.length | none => portBytes key
  match (s.core (coreOf tid)).orphans.find? (fun o => o.tid == tid && o.num == key) with
  | some o => left o.port
  | none => match (s.thread tid).ports.get? key with | some p => left p | none => portBytes key
/-- The stream of a core that a visit with `left` bytes serves next: by slot, then by register. -/
def State.nextStream (s : State) (core left : Nat) : Option (Nat × Nat) :=
  ((List.range 4).flatMap (fun k => (s.thread (tidOf core k)).ports.cells.map (fun c => (tidOf core k, c.1))) ++
    (s.core core).orphans.map (fun o => (o.tid, o.num))).find?
    (fun x => decide (s.streamNeed x.1 x.2 ≤ left) && (s.canWriteBack x.1 x.2 || s.canRefill x.1 x.2))
/-- A job that waits for an earlier cart job of its thread (R172). -/
def Core.cartBlocked (c : Core) (j : CartJob) : Bool :=
  let earlier (x : CartJob) : Bool := x.tid == j.tid && x.act == j.act && decide (x.uid < j.uid)
  j.xafter && (c.cartQ.any earlier || c.cartWait.any earlier || (match c.cartCur with | some x => earlier x | none => false))
/-- The next job of a core's queue that may start. -/
def Core.cartNext (c : Core) : Option CartJob := c.cartQ.find? (fun j => !c.cartBlocked j)
/-- The core has work for the cart. -/
def State.cartWork (s : State) (core : Nat) : Bool :=
  (s.nextStream core 64).isSome || (s.core core).cartCur.isSome || (s.core core).cartNext.isSome

/-! ## Visits -/

/-- The core the arbiter visits: the same while its visit lasts, else the next with work. -/
def State.cartPick (s : State) (croft : Nat) : Option Nat :=
  let cr := s.croft croft
  let at_ := croft * 8 + cr.cartAt
  if (cr.cartLeft != 0 || s.saving at_) && s.cartWork at_ then some at_ else
  ((List.range 8).map (fun i => croft * 8 + (cr.cartAt + 1 + i) % 8)).find? s.cartWork
/-- The bytes the visit to a core may still move: CW × 256 at its start, without the limit for a core that is being
saved (R332). -/
def State.cartBudget (s : State) (core : Nat) : Nat :=
  let cr := s.croft (croftOf core)
  if s.saving core then 2 ^ 40
  else if cr.cartAt = core % 8 ∧ cr.cartLeft ≠ 0 then cr.cartLeft else (s.core core).cw * 256
/-- The visit to a core goes on with `left` bytes, or ends without work. -/
def State.cartVisit (s : State) (core left : Nat) : State :=
  s.modCroft (croftOf core) (fun c => { c with cartAt := core % 8, cartLeft := if s.cartWork core then left else 0 })
/-- One element of a stream is written or read ahead. -/
def State.serveStream (s : State) (x : Nat × Nat) : State := if s.canWriteBack x.1 x.2 then s.writeBack x.1 x.2 64 else s.refillPort x.1 x.2
/-- The streams of a core are served, those that fit the visit's `left` bytes, by at most `most` of them in this step: what is
left of both, and the state after. A stream that waits for more than `most` bytes takes what a write-back can, and nothing
is left for the jobs behind it. -/
def serveStreams (core : Nat) : Nat → Nat → Nat → State → Nat × Nat × State
  | 0, left, most, s => (left, most, s)
  | fuel + 1, left, most, s =>
    match s.nextStream core left with
    | none => (left, most, s)
    | some x =>
      let n := s.streamNeed x.1 x.2
      if n ≤ most then serveStreams core fuel (left - n) (most - n) (s.serveStream x)
      else if most ≠ 0 && s.canWriteBack x.1 x.2 then (left - most, 0, s.writeBack x.1 x.2 most)
      else (left, 0, s)
/-- `n` bytes of a stream are served in the visit to its core; a visit without room for them ends. -/
def State.visitStream (s : State) (tid n : Nat) (run : State → State) : State :=
  let core := coreOf tid
  if s.croftStopped (croftOf core) || s.cartPick (croftOf core) != some core then s
  else if s.cartBudget core < n then s.cartVisit core 0
  else (run s).cartVisit core (s.cartBudget core - n)
def execStreamRefill (tid port : Nat) (s : State) : Host.Outcome State Fault Refusal :=
  .next (if s.canRefill tid port then s.visitStream tid (portBytes port) (fun s => s.refillPort tid port) else s)
def execStreamWriteback (tid port : Nat) (s : State) : Host.Outcome State Fault Refusal :=
  .next (if s.canWriteBack tid port then s.visitStream tid (s.streamNeed tid port) (fun s => s.writeBack tid port 64) else s)
/-- A part of a pushed element is written: at most `n` bytes, which other agents may see before the rest (R208). -/
def State.streamBytes (s : State) (tid port n : Nat) : State :=
  let k := min n (s.streamNeed tid port)
  if s.canWriteBack tid port then s.visitStream tid k (fun s => s.writeBack tid port k) else s
/-- A visit is over as soon as its core has no more work for the cart (R252). -/
def State.restVisits (s : State) : State :=
  if s.crofts.cells.all (fun c => c.2.cartLeft == 0 || s.cartWork (c.1 * 8 + c.2.cartAt)) then s else
  { s with crofts := s.crofts.map (fun (n : Nat) (c : Croft) => if s.cartWork (n * 8 + c.cartAt) then c else { c with cartLeft := 0 }) }

end Sys2Proof.Machine
end

