-- ==== Sys2Proof/Machine/Cart.lean ====
section
/-!
DEFINITION. The cart (R172 to R179, R252): its instructions, its arbiter, its jobs' elements, packets and completion.
-/
namespace Sys2Proof.Machine

/-! ## The command block (R173) -/

def CartJob.src (j : CartJob) : B64 := BitVec.ofNat 64 (dwordAt j.blk 0)
def CartJob.dst (j : CartJob) : B64 := BitVec.ofNat 64 (dwordAt j.blk 1)
def CartJob.rows (j : CartJob) : Nat := bits (dwordAt j.blk 2) 47 32
def CartJob.count (j : CartJob) : Nat := bits (dwordAt j.blk 2) 31 0
def CartJob.spitch (j : CartJob) : Int := intVal 32 true (dwordAt j.blk 3)
def CartJob.dpitch (j : CartJob) : Int := intVal 32 true (dwordAt j.blk 3 / 2 ^ 32)
def CartJob.ctl (j : CartJob) : Nat := dwordAt j.blk 4
def CartJob.aux (j : CartJob) : B64 := BitVec.ofNat 64 (dwordAt j.blk 5)
def CartJob.seed (j : CartJob) : B64 := BitVec.ofNat 64 (dwordAt j.blk 6)
def CartJob.sfmt (j : CartJob) : Nat := bits j.ctl 2 0
def CartJob.dfmt (j : CartJob) : Nat := bits j.ctl 5 3
def CartJob.rm (j : CartJob) : Nat := bits j.ctl 8 6
def CartJob.sat (j : CartJob) : Bool := j.ctl.testBit 9
def CartJob.redOp (j : CartJob) : Nat := bits j.ctl 12 10
def CartJob.nen (j : CartJob) : Bool := j.ctl.testBit 59
def CartJob.ncore (j : CartJob) : Nat := bits j.ctl 48 32
/-- Bytes of an element of a format (R174). -/
def cartSize : Nat → Nat | 1 => 2 | 4 => 4 | _ => 1
/-- The floating format of a code. -/
def cartFmt : Nat → FFmt | 1 => fmtBF16 | 2 => fmtE4 | 3 => fmtE5 | _ => fmtF32
/-- The job's rounding mode: code 6 takes VRND at issue (R174). -/
def CartJob.mode (j : CartJob) : RMode :=
  match j.rm with | 0 => .rne | 1 => .rtz | 2 => .rdn | 3 => .rup | 4 => .rna | 5 => .sto | _ => vrndMode j.vrnd
/-- SHAPE of R173, but for the sides of `cp.remote`; AUX bits above the path number of `cp.mcast` are reserved (R175). -/
def CartJob.badShape (j : CartJob) : Bool :=
  bits (dwordAt j.blk 2) 63 48 != 0 || bits j.ctl 63 60 != 0 || bits j.ctl 31 13 != 0 || j.rows == 0 || j.count == 0 ||
  (j.op != .reduce && j.redOp != 0) || (j.nen && nCores ≤ j.ncore) || (j.op == .mcast && 256 ≤ j.aux.toNat)
/-- FORMAT of R174, R175, R176, R177. -/
def CartJob.badFormat (j : CartJob) : Bool :=
  5 ≤ j.sfmt || 5 ≤ j.dfmt || ((j.sfmt == 0) != (j.dfmt == 0)) || j.rm == 7 ||
  (j.op == .fill && j.sfmt != j.dfmt) ||
  (j.op == .rsend && !((j.sfmt == 1 || j.sfmt == 4) && (j.dfmt == 1 || j.dfmt == 2 || j.dfmt == 3))) ||
  (j.op == .reduce && (j.sfmt == 0 || 4 ≤ j.redOp))

/-! ## Issue (R144, R145, R172) -/

/-- The offset of a command block in the local scratchpad, if it lies as R172 wants. -/
def blockOff (core : Nat) (va : B64) : Option Nat :=
  match ownSpad core va with
  | some o => if o % 64 = 0 ∧ o + 64 ≤ 0x30000 then some o else none
  | none => none
/-- Issue of a cart job: a misplaced block completes it at once with E set. -/
def cartIssue (op : CartOp) (x : Bool) (k : KReg) (d a : SReg) : Exec Unit := do
  counterRoom k
  let s ← get
  if 16 ≤ (s.core s.curCore).cartQ.length then stall .cartQueue else do
    let va ← readS a
    let t ← thr
    let id := 2 ^ 18 + slotOf s.cur % 4 * 2 ^ 16 + t.nextCart
    match blockOff s.curCore va with
    | none => do
      writeS d (BitVec.ofNat 64 id)
      modThr (fun t => { t with nextCart := seqAfter t.nextCart, ke := t.ke.put k.val true })
      modify (fun s => s.count s.curCore (slotOf s.cur) 6 1)
    | some off => do
      let l := spadLoc s.curCore off
      filed l
      modify (fun s => s.prepRead s.cur l 56)
      let s ← get
      let blk := s.readFor s.cur l 56
      writeS d (BitVec.ofNat 64 id)
      let s ← get
      let uid := s.sq.nextId
      let j : CartJob :=
        { uid := uid, id := id, tid := s.cur, act := t.act, ctx := t.ctx, sys := t.sysMode, op := op, k := k.val,
          xafter := x, blk := blk, loc := l, vrnd := t.vrnd, after := s.nextSer }
      let j := { j with gen := seedOf j.seed, rivals := s.cartRivals j }
      set { s with sq := { s.sq with nextId := uid + 1 } }
      modCore (fun c => { c with cartQ := c.cartQ ++ [j] })
      modThr (fun t => { t with nextCart := seqAfter t.nextCart, kc := t.kc.put k.val (t.kc.get 0 k.val + 1) })

def execCpCopy (x : Bool) (k : KReg) (d a : SReg) (s : State) : Host.Outcome State Fault Refusal := .next (runI 4 (cartIssue .copy x k d a) s)
def execCpGather (x : Bool) (k : KReg) (d a : SReg) (s : State) : Host.Outcome State Fault Refusal := .next (runI 4 (cartIssue .gather x k d a) s)
def execCpFill (x : Bool) (k : KReg) (d a : SReg) (s : State) : Host.Outcome State Fault Refusal := .next (runI 4 (cartIssue .fill x k d a) s)
def execCpRemote (x : Bool) (k : KReg) (d a : SReg) (s : State) : Host.Outcome State Fault Refusal := .next (runI 4 (cartIssue .remote x k d a) s)
def execCpMcast (x : Bool) (k : KReg) (d a : SReg) (s : State) : Host.Outcome State Fault Refusal := .next (runI 4 (cartIssue .mcast x k d a) s)
def execCpRsend (x : Bool) (k : KReg) (d a : SReg) (s : State) : Host.Outcome State Fault Refusal := .next (runI 4 (cartIssue .rsend x k d a) s)
def execCpReduce (x : Bool) (k : KReg) (d a : SReg) (s : State) : Host.Outcome State Fault Refusal := .next (runI 4 (cartIssue .reduce x k d a) s)

/-! ## Addresses (R174, R175, R178) -/

/-- Base of source row `r`, of destination row `r`. -/
def CartJob.srcRow (j : CartJob) (r : Nat) : B64 := j.src + BitVec.ofInt 64 (r * j.spitch)
def CartJob.dstRow (j : CartJob) (r : Nat) : B64 := j.dst + BitVec.ofInt 64 (r * j.dpitch)
/-- Sizes of the elements. -/
def CartJob.ssize (j : CartJob) : Nat := cartSize j.sfmt
def CartJob.dsize (j : CartJob) : Nat := cartSize j.dfmt
/-- Elements the job moves: for a reduction other than a scan, those of one row. -/
def CartJob.total (j : CartJob) : Nat := if j.op = .reduce ∧ j.redOp ≠ 3 then j.count else j.rows * j.count
/-- A fault of R178: MISALIGN, XLATE, PROT. -/
inductive CartAt where
  | loc (l : Nat)
  | win (dev wid off : Nat)
  | bad (code : Nat)
/-- Where an element of `n` bytes lies, on the local or the remote side. -/
def State.cartAt (s : State) (j : CartJob) (va : B64) (n : Nat) (acc : Acc) (remote : Bool) : CartAt :=
  if va.toNat % n != 0 then .bad 6 else
  match s.route j.core j.ctx j.sys (if remote then .remote else acc) va with
  | .loc l => if remote then .bad 5 else .loc l
  | .win d w o => if remote then .win d w o else .bad 5
  | .xlate => .bad 4
  | .prot => .bad 5
/-- A word of the local scratchpad: an index, or a residual (R175, R176). -/
def State.cartSpad (s : State) (j : CartJob) (va : B64) (acc : Acc) : CartAt :=
  if va.toNat % 4 = 0 ∧ (ownSpad j.core va).isNone then .bad 5 else s.cartAt j va 4 acc false
/-- The job stops with a code; the first one stands (R178). -/
def CartJob.fail (j : CartJob) (code : Nat) : CartJob :=
  { j with code := if j.code = 0 then code else j.code, fin := true, stopped := true }
/-- A failed translation that a broken entry ended is counted (R323). -/
def State.noteCart (s : State) (j : CartJob) (va : B64) (acc : Acc) : State := s.noteWalk j.core j.ctx j.sys acc va
/-- The translation of an element: the cart makes one for each row and each 64 KiB of it (R324). -/
def State.cartWalk (s : State) (j : CartJob) (va : B64) : State :=
  if j.pos % j.count = 0 || va.toNat % 0x10000 < 4 then s.walked j.core j.ctx va else s
/-- Where a byte of a window of this device lies, if the window stands (R326). -/
def State.ownWindow (s : State) (dev wid off : Nat) : Option Nat :=
  if dev != s.fleet.devId then none else
  match s.sq.wins.get? wid with
  | some w => if w.revoked then none else match s.walk w.ctx (w.base + off) with
    | .leaf log2 e => if e.testBit 5 then none else some (bits e 39 12 * 2 ^ 12 + (w.base + off) % 2 ^ log2)
    | .none _ => if 0xFFF0000000000 ≤ w.base + off ∧ w.base + off < 0xFFF0640000000 then some (spadBase + (w.base + off - 0xFFF0000000000)) else none
  | none => none

/-! ## Packets of a job (R175, R187, R285) -/

/-- The members of a multicast path (R196). -/
def State.memsOf (s : State) (p : Nat) : List Nat := match s.path? p with | some x => x.mem | none => []
/-- A packet of a job leaves for the Square, its first byte at `va`; the job is owed an answer from each device it goes to. -/
def State.cartSend (s : State) (j : CartJob) (va : B64) (dev wid off : Nat) (op : PktOp) : State × CartJob × Nat :=
  let id := s.sq.nextId
  let mem := if j.op = .mcast then s.memsOf j.aux.toNat else []
  let n := if j.op = .mcast then mem.length else 1
  let r : ROp :=
    { id := id, tid := j.tid, act := j.act, ctx := j.ctx, kind := .cart, q := true, d := 0, addr := va, pc := 0, dev := dev,
      counted := false, uid := j.uid, left := n }
  let p : Packet :=
    { id := id, srcDev := s.fleet.devId, srcCore := j.core, srcSlot := slotOf j.tid, dest := dev, members := mem, seq := none,
      floor := 0, ordered := false, toks := [], wid := wid, off := off, op := op, tag := 0, cart := true }
  let o : OutPkt :=
    { pkt := p, op := id, at_ := .drift, mems := if j.op = .mcast then List.range n else [],
      path := if j.op = .mcast then some j.aux.toNat else none, owed := if j.op = .mcast then List.range n else [0] }
  ({ s with sq := { s.sq with nextId := id + 1, ops := s.sq.ops ++ [r], out := s.sq.out ++ [o] } },
   { j with owed := j.owed + n }, id)
/-- The packet being filled leaves. -/
def State.cartFlush (s : State) (j : CartJob) : State × CartJob :=
  match j.buf with
  | none => (s, j)
  | some b =>
    let r := s.cartSend j (b.next - BitVec.ofNat 64 b.data.length) b.dev b.wid b.off (.write b.data)
    (r.1, { r.2.1 with buf := none })
/-- Adds an element to the packet being filled: at most 4 KiB, contiguous in the address space and in the window, within one
window page. -/
def State.cartPut (s : State) (j : CartJob) (va : B64) (dev wid off : Nat) (data : List Byte) : State × CartJob :=
  let own := if j.segs.isEmpty then none else s.ownWindow dev wid off
  let data := match own with | some l => { j with rivals := [] }.freed s.freeCtr l [] data | none => data
  let s := (if own.isSome then s.freshCtr else s).cartWritten j.core data.length
  let cut := match j.buf with
    | none => false
    | some b => b.next != va || 4096 < b.data.length + data.length || va.toNat % 0x10000 == 0 ||
      b.dev != dev || b.wid != wid || b.off + b.data.length != off
  let r := if cut then s.cartFlush j else (s, j)
  let b := match r.2.buf with
    | some b => { b with data := b.data ++ data, next := va + BitVec.ofNat 64 data.length }
    | none => ⟨dev, wid, off, va + BitVec.ofNat 64 data.length, data⟩
  (r.1, { r.2 with buf := some b })

/-! ## Elements (R174 to R177, R179) -/

/-- A destination element goes where it belongs: its bytes are to be written, or join a packet; `va` is its address. -/
def State.cartWrite (s : State) (j : CartJob) (va : B64) (data : List Byte) : State × CartJob :=
  let remote := j.side == 2 || j.op == .mcast
  match s.cartAt j va data.length .write remote with
  | .bad c => (s.noteCart j va .write, j.fail c)
  | .win d w o => (s.cartWalk j va).cartPut j va d w o data
  | .loc l => (s.cartWalk j va, { j with part := some (l, data) })
/-- A source element of the local side. -/
def State.cartRead (s : State) (j : CartJob) (va : B64) : State × Except Nat Nat :=
  match s.cartAt j va j.ssize .read false with
  | .loc l =>
    let r := (s.cartWalk j va).byteRead j.tid j.party j.ahead l j.ssize
    (r.1, .ok (leNat r.2))
  | .bad c => (s.noteCart j va .read, .error c)
  | .win _ _ _ => (s, .error 5)
/-- Round to DFMT with RM and SAT, without flags (R174). -/
def CartJob.round (j : CartJob) (v : FV) : CartJob × Nat :=
  let r := roundTo (cartFmt j.dfmt) j.mode j.sat j.gen v
  ({ j with gen := r.gen }, r.bits)
/-- An element converted between the formats. -/
def CartJob.convert (j : CartJob) (x : Nat) : CartJob × Nat :=
  if j.sfmt = 0 then (j, x) else j.round ((cartFmt j.sfmt).value x)
/-- An element of `cp.fill` (R175). -/
def CartJob.fillElem (j : CartJob) (col : Nat) : Nat :=
  if j.dfmt = 0 then j.aux.toNat / 2 ^ (8 * (col % 8)) % 256 else j.aux.toNat % 2 ^ (8 * j.dsize)
/-- The address of the source row of position row `r`: through the index array for `cp.gather`. -/
def State.cartSrcRow (s : State) (j : CartJob) (r : Nat) : State × Except Nat B64 :=
  if j.op != .gather then (s, .ok (j.srcRow r)) else
  match s.cartSpad j (j.aux + BitVec.ofNat 64 (4 * r)) .read with
  | .loc l =>
    let x := s.byteRead j.tid j.party j.ahead l 4
    (x.1, .ok (j.srcRow (leNat x.2)))
  | .bad c => (s, .error c)
  | .win _ _ _ => (s, .error 5)
/-- The contribution and the residual of `cp.rsend` (R176): the element to send; the residual is to be written. Where another
job in flight has written it, either value stays, a free choice. -/
def State.cartResid (s : State) (j : CartJob) (x : Nat) : State × CartJob × Nat :=
  let ra := j.aux + BitVec.ofNat 64 (4 * j.pos)
  match s.cartSpad j ra .write with
  | .bad c => (s, j.fail c, 0)
  | .win _ _ _ => (s, j.fail 5, 0)
  | .loc l =>
    let r := s.byteRead j.tid j.party j.ahead l 4
    let sum := (addFV .rne ((cartFmt j.sfmt).value x) (fmtF32.value (leNat r.2))).1
    let xv := fmtF32.value (roundTo fmtF32 .rne false 0 sum).bits
    let q := j.round xv
    let diff := (addFV .rne xv ((cartFmt j.dfmt).value q.2).neg).1
    let res := if xv.isNan then 0 else (roundTo fmtF32 .rne false 0 diff).bits
    let rival := j.rivals.any (fun g => overlap g.1 g.2 l 4)
    if rival && (Config.freeValue r.1.freeCtr).getLsbD 0 then (r.1.freshCtr, q.1, q.2) else
    (if rival then r.1.freshCtr else r.1, { q.1 with resid := some (l, leBytes 4 res) }, q.2)
/-- Two values combined in F32 (R177): a sum rounded with RM, SAT left to the final narrowing (the model's choice; log
entry 45); the larger or smaller, +0 above −0, NaN for any NaN. -/
def CartJob.combine (j : CartJob) (a b : FV) : CartJob × FV :=
  if j.redOp = 1 ∨ j.redOp = 2 then
    (j, if a.isNan || b.isNan then .nan else (minMaxFV (j.redOp == 1) a b).1)
  else
    let r := roundTo fmtF32 j.mode false j.gen (addFV j.mode a b).1
    ({ j with gen := r.gen }, fmtF32.value r.bits)
/-- Combines the values of a column in an order the spec does not fix: each step takes two of them by a free value
(R85, R177; log entry 13). -/
def combineFree : Nat → Nat → CartJob → List FV → CartJob × FV
  | _, _, j, [] => (j, .fin false 0 0)
  | _, _, j, [v] => (j, v)
  | 0, _, j, v :: _ => (j, v)
  | fuel + 1, ctr, j, vs =>
    let f := (Config.freeValue ctr).toNat
    let i := f % vs.length
    let rest := vs.eraseIdx i
    let k := f / 2 ^ 32 % rest.length
    let r := j.combine (vs.getD i .nan) (rest.getD k .nan)
    combineFree fuel (ctr + 1) r.1 (r.2 :: rest.eraseIdx k)
/-- The values of column `e` of every row, from row `r` on. -/
def State.cartColumn (s : State) (j : CartJob) (col : Nat) : Nat → Nat → State × Except Nat (List FV)
  | 0, _ => (s, .ok [])
  | n + 1, r =>
    let x := s.cartRead j (j.srcRow r + BitVec.ofNat 64 (col * j.ssize))
    match x.2 with
    | .error c => (x.1, .error c)
    | .ok v =>
      let y := x.1.cartColumn j col n (r + 1)
      match y.2 with
      | .error c => (y.1, .error c)
      | .ok vs => (y.1, .ok ((cartFmt j.sfmt).value v :: vs))
/-- An element of a scan: the running value of its column (R85, R177). -/
def State.scanElem (s : State) (j : CartJob) (r col : Nat) : State × Except Nat (CartJob × Nat) :=
  let x := s.cartRead j (j.srcRow r + BitVec.ofNat 64 (col * j.ssize))
  match x.2 with
  | .error c => (x.1, .error c)
  | .ok v =>
    let fv := (cartFmt j.sfmt).value v
    let c := match j.acc.get? col with
      | none => (j, fv)
      | some a => j.combine (fmtF32.value a.toNat) fv
    let bits := (roundTo fmtF32 .rne false 0 c.2).bits
    let j := { c.1 with acc := c.1.acc.put col (BitVec.ofNat 32 bits) }
    (x.1, .ok (j.round c.2))
/-- The next element's destination value, or the code of its fault. -/
def State.cartElem (s : State) (j : CartJob) : State × Except Nat (CartJob × Nat) :=
  let r := j.pos / j.count
  let col := j.pos % j.count
  if j.op = .fill then (s, .ok (j, j.fillElem col))
  else if j.op = .reduce then
    if j.redOp = 3 then s.scanElem j r col
    else
      let x := s.cartColumn j col j.rows 0
      match x.2 with
      | .error c => (x.1, .error c)
      | .ok vs =>
        let y := combineFree vs.length x.1.freeCtr j vs
        ({ x.1 with freeCtr := x.1.freeCtr + vs.length }, .ok (y.1.round y.2))
  else
    let row := s.cartSrcRow j r
    match row.2 with
    | .error c => (row.1, .error c)
    | .ok base =>
      let x := row.1.cartRead j (base + BitVec.ofNat 64 (col * j.ssize))
      match x.2 with
      | .error c => (x.1, .error c)
      | .ok v =>
        if j.op = .rsend then
          let q := x.1.cartResid j v
          (q.1, .ok (q.2.1, q.2.2))
        else (x.1, .ok (j.convert v))
/-- The address of a destination element. -/
def CartJob.dstElem (j : CartJob) (pos : Nat) : B64 := j.dstRow (pos / j.count) + BitVec.ofNat 64 (pos % j.count * j.dsize)
/-- One element of a job whose source is local. -/
def State.cartStep (s : State) (j : CartJob) : State × CartJob :=
  let x := s.cartElem j
  match x.2 with
  | .error c => (x.1, j.fail c)
  | .ok (j', v) =>
    if j'.fin then (x.1, j') else
    let w := x.1.cartWrite j' (j'.dstElem j'.pos) (leBytes j'.dsize v)
    (w.1, { w.2 with pos := w.2.pos + 1 })
/-- A read packet of a job whose source is remote: the elements of a row from the position on, at most 4 KiB within
one window page (R285), and no more than `left` bytes of the destination. -/
def State.cartAsk (s : State) (j : CartJob) (left : Nat) : State × CartJob :=
  let r := j.pos / j.count
  let col := j.pos % j.count
  let va := j.srcRow r + BitVec.ofNat 64 (col * j.ssize)
  match s.cartAt j va j.ssize .read true with
  | .bad c => (s.noteCart j va .remote, j.fail c)
  | .loc _ => (s, j.fail 5)
  | .win d w o =>
    let n := min (max 1 (left / j.dsize)) (min (j.count - col) (min 4096 (0x10000 - va.toNat % 0x10000) / j.ssize))
    let x := (s.cartWalk j va).cartSend j va d w o (.read (n * j.ssize))
    (x.1, { x.2.1 with pos := j.pos + n, reqs := x.2.1.reqs ++ [⟨x.2.2, j.pos, n, none⟩] })
/-- Moves up to a number of bytes of a job: element after element, or one read packet after another, after what is left
of an element; the bytes left over. A residual's bytes are not of the destination: they are written with the element,
as far as `left` reaches, without counting. -/
def State.cartMove : Nat → Nat → State → CartJob → State × CartJob × Nat
  | 0, left, s, j => (s, j, left)
  | fuel + 1, left, s, j =>
    match j.resid, j.part with
    | some p, _ =>
      if left = 0 then (s, j, 0) else
      let r := s.cartResidPart j left
      State.cartMove fuel (if p.2.length ≤ left then left else 0) r.1 r.2
    | none, some p =>
      if left = 0 then (s, j, 0) else
      let r := s.cartPart j left
      State.cartMove fuel (left - p.2.length) r.1 r.2
    | none, none =>
      if j.fin then (s, j, left)
      else if j.total ≤ j.pos then
        let r := s.cartFlush j
        (r.1, { r.2 with fin := true }, left)
      else if left = 0 then (s, j, 0)
      else
        let r := if j.side = 1 then s.cartAsk j left else s.cartStep j
        State.cartMove fuel (if r.2.part.isSome then left else left - max 1 ((r.2.pos - j.pos) * j.dsize)) r.1 r.2
/-- Up to `left` bytes of what read packets have brought are written, in the order of the packets, element after element; a
refused packet has nothing to write (R178). -/
def State.cartDrain : Nat → Nat → State → CartJob → State × CartJob
  | 0, _, s, j => (s, j)
  | fuel + 1, left, s, j =>
    if left = 0 then (s, j) else
    match j.part, j.reqs with
    | some p, _ =>
      let r := s.cartPart j left
      State.cartDrain fuel (left - p.2.length) r.1 r.2
    | none, [] => (s, j)
    | none, r :: rs =>
      match r.back with
      | none => (s, j)
      | some none => State.cartDrain fuel left s { j with reqs := rs }
      | some (some bs) =>
        if j.stopped || r.n = 0 then State.cartDrain fuel left s { j with reqs := rs } else
        let rest : CartReq := { r with pos := r.pos + 1, n := r.n - 1, back := some (some (bs.drop j.ssize)) }
        let c := j.convert (leNat (bs.take j.ssize))
        let w := s.cartWrite { c.1 with reqs := rest :: rs, pos := r.pos } (c.1.dstElem r.pos) (leBytes j.dsize c.2)
        State.cartDrain fuel left w.1 { w.2 with pos := j.pos }
/-- Steps that write everything that has come. -/
def CartJob.drainFuel (j : CartJob) : Nat := j.reqs.foldl (fun a r => a + 2 * r.n + 1) 2

/-! ## Start (R173, R175, R178) -/

/-- A side's first address: remote, local, or without a translation. A page of a remote window is remote whoever may use it:
what its leaf forbids is the element's fault (R178). -/
def State.cartSide (s : State) (j : CartJob) (va : B64) : Option Bool :=
  match s.route j.core j.ctx j.sys .remote va with
  | .win _ _ _ => some true
  | .xlate => none
  | .prot => some (s.winPage j.core j.ctx va)
  | .loc _ => some false
/-- The places of a range, page by page, through a window of this device too; what has no place here is left out. -/
def State.cartPlaces (s : State) (j : CartJob) (acc : Acc) : Nat → B64 → Nat → List (Nat × Nat)
  | 0, _, _ => []
  | _, _, 0 => []
  | fuel + 1, va, n =>
    let k := min n (0x10000 - va.toNat % 0x10000)
    let rest := s.cartPlaces j acc fuel (va + BitVec.ofNat 64 k) (n - k)
    match s.route j.core j.ctx j.sys acc va with
    | .loc l => (l, k) :: rest
    | .win d w o => (match s.ownWindow d w o with | some l => (l, k) :: rest | none => rest)
    | _ => rest
/-- Where the source rows lie, if a destination row shares a byte with them (R179). -/
def State.cartSegs (s : State) (j : CartJob) : List (Nat × Nat) :=
  if j.op == .fill || j.op == .mcast then [] else
  let sn := j.count * j.ssize
  let dn := j.count * j.dsize
  let src := (List.range j.rows).flatMap (fun r =>
    match (s.cartSrcRow j r).2 with
    | .ok b => s.cartPlaces j (if j.side = 1 then .remote else .read) (sn / 0x10000 + 2) b sn
    | .error _ => [])
  let rows := if j.op = .reduce ∧ j.redOp ≠ 3 then 1 else j.rows
  let dst := (List.range rows).flatMap (fun r => s.cartPlaces j (if j.side = 2 then .remote else .write) (dn / 0x10000 + 2) (j.dstRow r) dn)
  if dst.any (fun d => src.any (fun g => overlap d.1 d.2 g.1 g.2)) then src else []
/-- The sides of a job with a remote one: the job, or a code. -/
def State.cartSides (s : State) (j : CartJob) : Except Nat CartJob :=
  if j.op = .rsend then
    (if s.cartSide j j.dst = some true then .ok { j with side := 2 } else .ok j)
  else if j.op != .remote then .ok j
  else match s.cartSide j j.src, s.cartSide j j.dst with
    | some a, some b => if a = b then .error 7 else .ok { j with side := if a then 1 else 2 }
    | _, _ => .error 4
/-- The path of a `cp.mcast` is held by the context and is multicast (R175): judged after FORMAT and before any element,
where R178 names no place for PATH (log entry 45). -/
def State.cartPathOk (s : State) (j : CartJob) : Bool :=
  j.op != .mcast || (match s.path? j.aux.toNat with | some x => x.mcast && x.ctx == j.ctx | none => false)
/-- A job starts: what its task did before is visible to it (R215); SHAPE, FORMAT and PATH are found. -/
def State.cartStart (s : State) (j : CartJob) : State × CartJob :=
  let s := s.flushBefore j.tid j.after
  let j := { j with start := s.nextSer }
  if j.badShape then (s, j.fail 7) else
  match s.cartSides j with
  | .error 4 => (s.noteCart j (if (s.cartSide j j.src).isNone then j.src else j.dst) .remote, j.fail 4)
  | .error c => (s, j.fail c)
  | .ok j =>
    if j.badFormat then (s, j.fail 1)
    else if !s.cartPathOk j then (s, j.fail 8)
    else (s, { j with segs := s.cartSegs j })

/-! ## The arbiter (R252) -/

/-- The arbiter starts a job of the core it visits. -/
def execCartJobStart (croft : Nat) (s : State) : Host.Outcome State Fault Refusal :=
  if s.croftStopped croft then .next s else
  match s.cartPick croft with
  | none => .next s
  | some core =>
    let c := s.core core
    match c.cartCur, c.cartNext with
    | none, some j =>
      let s := s.setCore core { c with cartQ := c.cartQ.filter (fun x => x.uid != j.uid) }
      let r := s.cartStart j
      .next ((r.1.modCore core (fun c => { c with cartCur := some r.2 })).cartVisit core (s.cartBudget core))
    | _, _ => .next s
/-- No element of the job has begun and waits to be written to its end. -/
def CartJob.idle (j : CartJob) : Bool := j.part.isNone && j.resid.isNone
/-- The visit to a core serves its streams, then moves its started job, by at most `most` bytes; `stay` leaves the visit
open. With its last packet gone the job is no longer the started one. -/
def State.cartServe (s : State) (core most : Nat) (stay : Bool) : State :=
  let b := s.cartBudget core
  let v := serveStreams core (min most b / 8 + 8) b (min most b) s
  let c := v.2.2.core core
  match c.cartCur with
  | none => v.2.2.cartVisit core (if stay || c.cartNext.isSome then v.1 else 0)
  | some j =>
    let r := v.2.2.cartMove (3 * v.2.1 + 4) v.2.1 j
    let w := r.1.cartTell r.2.1
    let s := w.1.modCore core (fun c =>
      if w.2.fin && w.2.idle && w.2.owed != 0 then { c with cartCur := none, cartWait := c.cartWait ++ [w.2] }
      else { c with cartCur := some w.2 })
    s.cartVisit core (if stay || (w.2.fin && !j.fin) then v.1 - (v.2.1 - r.2.2) else 0)
/-- A visit ends with the bytes it may move; a job that it finishes leaves the rest to the core's next (R252). -/
def execCartVisitEnd (croft : Nat) (s : State) : Host.Outcome State Fault Refusal :=
  if s.croftStopped croft then .next s else
  match s.cartPick croft with
  | none => .next s
  | some core => .next (s.cartServe core (s.cartBudget core) false)
/-- A part of a visit: `n` bytes, which other agents may see before the rest (R179, R208). -/
def State.cartBytes (s : State) (croft n : Nat) : State :=
  if s.croftStopped croft then s else
  match s.cartPick croft with
  | none => s
  | some core => s.cartServe core n true

/-! ## Answers and completion (R175, R178) -/

/-- A packet's answer: the first refusal is reported, a `cp.mcast` member's as PARTIAL with its bit in NEGMAP, a packet
UNREACHABLE at the issuer as NACK with 0x08 (R175, R178). -/
def CartJob.answered (j : CartJob) (pkt : Nat) (status : BitVec 8) (data : List Byte) (member : Nat) : CartJob :=
  let st := status.toNat
  let back : Option (List Byte) := if st = 0 then some data else none
  let j := { j with owed := j.owed - 1, reqs := j.reqs.map (fun (q : CartReq) => if q.pkt = pkt then { q with back := some back } else q) }
  if st = 0 then j
  else if j.op = .mcast ∧ st ≠ 8 then
    { j with code := if j.code = 0 then 9 else j.code, negmap := if j.negmap.testBit member then j.negmap else j.negmap + 2 ^ member }
  else if j.code != 0 then j
  else { j with code := if st = 2 then 2 else 3, detail := st }
/-- An answer reaches the core of a cart job. -/
def State.cartReply (s : State) (r : ROp) (pkt : Nat) (status : BitVec 8) (data : List Byte) (member : Nat) : State :=
  match (s.core (coreOf r.tid)).cartJob? r.uid with
  | none => s
  | some j => s.modCore (coreOf r.tid) (fun c => c.putCart (j.answered pkt status data member))
/-- The cart writes up to `n` bytes of what the answers to a job's read packets have brought, unless it is stopped (R250,
R257, R208). -/
def State.cartData (s : State) (core uid n : Nat) : State :=
  if s.croftStopped (croftOf core) then s else
  match (s.core core).cartJob? uid with
  | none => s
  | some j =>
    let x := s.cartDrain j.drainFuel n j
    let y := x.1.cartTell x.2
    y.1.modCore core (fun c => c.putCart y.2)
/-- The status word (R173). -/
def CartJob.word (j : CartJob) : Nat := j.code + 2 ^ 8 * j.detail + 2 ^ 16 * j.negmap
/-- The completion message (R178), numbered as the core's cart sends them. -/
def State.cartMessage (s : State) (j : CartJob) : State :=
  if !j.nen || 7 = j.code && nCores ≤ j.ncore then s else
  let c := s.core j.core
  let m : Msg :=
    ⟨j.core, cartPair j.core, j.ctx, j.ncore, bits j.ctl 58 55, bits j.ctl 54 49,
      [BitVec.ofNat 64 j.id, BitVec.ofNat 64 j.word], c.cartNo, 0, none⟩
  let s := s.setCore j.core { c with cartNo := (c.cartNo + 1) % 64 }
  { s with drift := s.drift ++ [m] }
/-- At most `n` bytes more of the job's status word are written; none of them is one event with another (R208). -/
def State.cartWord (s : State) (j : CartJob) (n : Nat) : State × CartJob :=
  let bs := ((leBytes 8 j.word).drop j.told).take n
  if bs.isEmpty then (s, j) else
  ((s.partyWrite j.tid j.party 4 0 (j.loc + 0x38 + j.told) bs).cartWritten j.core bs.length, { j with told := j.told + bs.length })
/-- A job completes: its status word, its counter, its message. -/
def State.cartFinish (s : State) (j : CartJob) : State :=
  ((s.cartWord j 8).1.jobDone j.tid j.act j.k (j.word % 256)).cartMessage j
/-- Cart job `n` of a core: 0 its started job, then those that wait for answers. -/
def Core.cartAt? (c : Core) : Nat → Option CartJob
  | 0 => c.cartCur
  | k + 1 => c.cartWait[k]?
/-- The job has moved everything and has every answer. -/
def CartJob.over (j : CartJob) : Bool := j.fin && (j.side == 1 || j.part.isNone) && j.resid.isNone && j.owed == 0
/-- A job completes once it is over; the last bytes that answers have brought are written first. -/
def execCartJobComplete (core n : Nat) (s : State) : Host.Outcome State Fault Refusal :=
  if s.croftStopped (croftOf core) then .next s else
  match (s.core core).cartAt? n with
  | none => .next s
  | some j =>
    if !j.over then .next s else
    let x := s.cartDrain j.drainFuel (2 ^ 40) j
    let y := x.1.cartTell x.2
    let s := y.1.modCore core (fun c => if n = 0 then { c with cartCur := none } else { c with cartWait := c.cartWait.eraseIdx (n - 1) })
    .next (s.cartFinish y.2)
/-- A part of the status word of such a job: `k` bytes, which other agents may see before the rest (R208). -/
def State.statusBytes (s : State) (core n k : Nat) : State :=
  if s.croftStopped (croftOf core) then s else
  match (s.core core).cartAt? n with
  | none => s
  | some j =>
    if !j.over then s else
    let x := s.cartDrain j.drainFuel (2 ^ 40) j
    let y := x.1.cartTell x.2
    let z := y.1.cartWord y.2 k
    z.1.modCore core (fun c => c.putCart z.2)

end Sys2Proof.Machine
end

