-- ==== Sys2Proof/Machine/Compact.lean ====
section
/-!
DEFINITION. Compact forms (R59): the bodies of their 32-bit equivalents, with the pc moving on by 2.
-/
namespace Sys2Proof.Machine

/-- The compact register set (R59). -/
def cset (r : Fin 8) : SReg :=
  match r.val with | 0 => 2 | 1 => 3 | 2 => 10 | 3 => 11 | 4 => 12 | 5 => 13 | 6 => 18 | _ => 19
/-- The offset of `c.ld` and `c.st`: off / 8 in five bits. -/
def coff (o : BitVec 5) : B64 := o.setWidth 64 <<< 3

def execCLi (d : SReg) (i : BitVec 6) (s : State) : Host.Outcome State Fault Refusal := .next (runI 2 (unary (· + i.signExtend 64) d 0) s)
def execCAddi (d : SReg) (i : BitVec 6) (s : State) : Host.Outcome State Fault Refusal := .next (runI 2 (unary (· + i.signExtend 64) d d) s)
def execCMv (d a : SReg) (s : State) : Host.Outcome State Fault Refusal := .next (runI 2 (unary (· + 0) d a) s)
def execCAdd (d b : SReg) (s : State) : Host.Outcome State Fault Refusal := .next (runI 2 (binary (· + ·) d d b) s)
def execCSub (d b : SReg) (s : State) : Host.Outcome State Fault Refusal := .next (runI 2 (binary (· - ·) d d b) s)
def execCLd (d b : Fin 8) (o : BitVec 5) (s : State) : Host.Outcome State Fault Refusal := .next (runI 2 (loadBody 8 id (cset d) (cset b) (coff o)) s)
/-- `c.st`: `r` is the register stored, `b` the base. -/
def execCSt (r b : Fin 8) (o : BitVec 5) (s : State) : Host.Outcome State Fault Refusal := .next (runI 2 (storeBody 8 (cset b) (cset r) (coff o)) s)
def execCBeqz (r : Fin 8) (o : BitVec 8) (s : State) : Host.Outcome State Fault Refusal := .next (runJ 2 (branch 2 (· == ·) (offOf o) (cset r) 0) s)
def execCBnez (r : Fin 8) (o : BitVec 8) (s : State) : Host.Outcome State Fault Refusal := .next (runJ 2 (branch 2 (· != ·) (offOf o) (cset r) 0) s)
def execCJ (o : BitVec 11) (s : State) : Host.Outcome State Fault Refusal := .next (runJ 2 (jumpRel 2 0 (offOf o)) s)
def execCNop (s : State) : Host.Outcome State Fault Refusal := .next (runI 2 (unary (· + 0) 0 0) s)
def execCDone (s : State) : Host.Outcome State Fault Refusal := .next (runI 2 doneBody s)
def execCYield (s : State) : Host.Outcome State Fault Refusal := .next (runI 2 yieldBody s)
def execCBreak (s : State) : Host.Outcome State Fault Refusal := .next (runI 2 (breakBody 0) s)
def execCWaitk (k : KReg) (n : BitVec 7) (s : State) : Host.Outcome State Fault Refusal := .next (runI 2 (waitkBody k n.toNat 0) s)
def execCSlli (d : SReg) (h : BitVec 6) (s : State) : Host.Outcome State Fault Refusal := .next (runI 2 (unary (· <<< h.toNat) d d) s)
def execCAndi (d : SReg) (i : BitVec 6) (s : State) : Host.Outcome State Fault Refusal := .next (runI 2 (unary (· &&& i.signExtend 64) d d) s)

end Sys2Proof.Machine
end

