-- ==== Sys2Proof/Machine/Hash.lean ====
section
/-!
DEFINITION. The sponges of FIPS 202: SHAKE256, by which images are measured (R237), attestation records extended (R321)
and save areas digested (R335), and those that ML-KEM uses (R348). A sponge state is a list of 25 words, word x + 5 y at column x of row y; the constants of the
permutation are computed from the recurrences that define them.
-/
namespace Sys2Proof.Machine

/-- A state whose words a function gives. -/
def plane (f : Nat → Nat → B64) : List B64 := (List.range 25).map (fun i => f (i % 5) (i / 5))
/-- The word at a column and a row, both modulo 5. -/
def wordAt (a : List B64) (x y : Nat) : B64 := a.getD (x % 5 + 5 * (y % 5)) 0
/-- Every word takes the parity of the column before it and the turned parity of the column after it. -/
def mixColumns (a : List B64) : List B64 :=
  let parity (x : Nat) : B64 := wordAt a x 0 ^^^ wordAt a x 1 ^^^ wordAt a x 2 ^^^ wordAt a x 3 ^^^ wordAt a x 4
  plane (fun x y => wordAt a x y ^^^ parity (x + 4) ^^^ (parity (x + 1)).rotateLeft 1)
/-- The word found at (x, y) moves to (y, 2 x + 3 y), turned left by the triangular number of its move; then the word
found there moves on, for the moves left. -/
def carryWords : Nat → Nat → Nat → Nat → B64 → List B64 → List B64
  | 0, _, _, _, _, a => a
  | n + 1, t, x, y, w, a =>
    let x' := y
    let y' := (2 * x + 3 * y) % 5
    carryWords n (t + 1) x' y' (wordAt a x' y') (a.set (x' + 5 * y') (w.rotateLeft (t * (t + 1) / 2 % 64)))
/-- Every word, where the next of its row is 0, takes the one after that. -/
def mixRows (a : List B64) : List B64 := plane (fun x y => wordAt a x y ^^^ (wordAt a (x + 2) y &&& ~~~ wordAt a (x + 1) y))
/-- A step of the feedback register whose low bits make the round constants: x^8 + x^6 + x^5 + x^4 + 1. -/
def feedback (r : Nat) : Nat := if r < 128 then 2 * r else Nat.xor (2 * r - 256) 0x71
/-- A round constant from the register: bit 2^j - 1 is the low bit after j steps, for j below 7; and the register after. -/
def roundConst (r : Nat) : B64 × Nat :=
  (List.range 7).foldl (fun c j => (if c.2 % 2 = 1 then c.1 ^^^ (1#64 <<< (2 ^ j - 1)) else c.1, feedback c.2)) (0, r)
/-- The permutation's rounds. -/
def permute : Nat → Nat → List B64 → List B64
  | 0, _, a => a
  | n + 1, r, a =>
    let k := roundConst r
    let m := mixColumns a
    let a := mixRows (carryWords 24 1 1 0 (wordAt m 1 0) m)
    permute n k.2 (a.set 0 (wordAt a 0 0 ^^^ k.1))
/-- A message in blocks of `rate` bytes, the last ended by a suffix byte and the pad bit 0x80. -/
def spongeBlocks (rate : Nat) (suffix : Byte) : Nat → List Byte → List (List Byte)
  | 0, _ => []
  | n + 1, m =>
    if rate ≤ m.length then m.take rate :: spongeBlocks rate suffix n (m.drop rate)
    else
      let gap := m ++ [suffix] ++ List.replicate (rate - m.length - 1) 0
      [gap.take (rate - 1) ++ [gap.getD (rate - 1) 0 ||| 0x80]]
/-- A block is added to the first words and the state permuted. -/
def takeBlock (a : List B64) (b : List Byte) : List B64 :=
  permute 24 1 (plane (fun x y =>
    let i := x + 5 * y
    if 8 * i < b.length then wordAt a x y ^^^ BitVec.ofNat 64 (leNat ((b.drop (8 * i)).take 8)) else wordAt a x y))
/-- `k` blocks of output of `rate` bytes. -/
def squeeze (rate : Nat) : Nat → List B64 → List Byte
  | 0, _ => []
  | k + 1, a => (a.flatMap (fun w => leBytes 8 w.toNat)).take rate ++ squeeze rate k (permute 24 1 a)
/-- The first `n` bytes a sponge gives of a message. -/
def sponge (rate : Nat) (suffix : Byte) (n : Nat) (m : List Byte) : List Byte :=
  (squeeze rate ((n + rate - 1) / rate) ((spongeBlocks rate suffix (m.length + 1) m).foldl takeBlock (List.replicate 25 0))).take n
/-- SHAKE256 and SHAKE128, SHA3-256 and SHA3-512. -/
def shake256 (n : Nat) (m : List Byte) : List Byte := sponge 136 0x1F n m
def shake128 (n : Nat) (m : List Byte) : List Byte := sponge 168 0x1F n m
def sha3x256 (m : List Byte) : List Byte := sponge 136 0x06 32 m
def sha3x512 (m : List Byte) : List Byte := sponge 72 0x06 64 m

end Sys2Proof.Machine
end

