-- ==== Sys2Proof/Machine/Kem.lean ====
section
/-!
DEFINITION. ML-KEM-1024 decapsulation (FIPS 203), by which a key blob gives its shared secret (R348). A polynomial is a list
of 256 coefficients modulo 3,329; a module has rank 4.
-/
namespace Sys2Proof.Machine

def kemQ : Nat := 3329
/-- Coefficients added, subtracted, scaled. -/
def polyAdd (f g : List Nat) : List Nat := List.zipWith (fun a b => (a + b) % kemQ) f g
def polySub (f g : List Nat) : List Nat := List.zipWith (fun a b => (a + kemQ - b) % kemQ) f g
def polyScale (c : Nat) (f : List Nat) : List Nat := f.map (fun a => c * a % kemQ)
/-- A number of 7 bits turned around. -/
def turn7 (i : Nat) : Nat := (List.range 7).foldl (fun a k => 2 * a + i / 2 ^ k % 2) 0
/-- A power of 17, the 256th root of unity. -/
def root17 (n : Nat) : Nat := 17 ^ (n % 256) % kemQ

/-! ## The transform -/

/-- The blocks of a layer, each rebuilt from its halves and its number. -/
def overBlocks (len : Nat) (f : List Nat) (build : Nat → List Nat → List Nat → List Nat) : List Nat :=
  (List.range (128 / len)).flatMap (fun b =>
    let h := f.drop (2 * len * b)
    build b (h.take len) ((h.drop len).take len))
/-- A layer of the transform, of its inverse. -/
def layerOut (f : List Nat) (len : Nat) : List Nat :=
  overBlocks len f (fun b lo hi =>
    let t := polyScale (root17 (turn7 (128 / len + b))) hi
    polyAdd lo t ++ polySub lo t)
def layerBack (f : List Nat) (len : Nat) : List Nat :=
  overBlocks len f (fun b lo hi => polyAdd lo hi ++ polyScale (root17 (turn7 (256 / len - 1 - b))) (polySub hi lo))
def ntt (f : List Nat) : List Nat := [128, 64, 32, 16, 8, 4, 2].foldl layerOut f
def nttBack (f : List Nat) : List Nat := polyScale 3303 ([2, 4, 8, 16, 32, 64, 128].foldl layerBack f)
/-- The product of two transforms: in pairs, modulo X^2 minus an odd power of the root. -/
def nttMul (f g : List Nat) : List Nat :=
  (List.range 128).flatMap (fun i =>
    let a (l : List Nat) (k : Nat) : Nat := l.getD (2 * i + k) 0
    [(a f 0 * a g 0 + a f 1 * a g 1 % kemQ * root17 (2 * turn7 i + 1)) % kemQ, (a f 0 * a g 1 + a f 1 * a g 0) % kemQ])
/-- The inner product of two vectors of transforms. -/
def nttDot (f g : List (List Nat)) : List Nat := (List.zipWith nttMul f g).foldl polyAdd (List.replicate 256 0)

/-! ## Bytes and coefficients -/

/-- 256 numbers of `d` bits as bytes, the first the lowest; and back. -/
def packBits (d : Nat) (f : List Nat) : List Byte := leBytes (32 * d) (f.foldr (fun a acc => a + 2 ^ d * acc) 0)
def unpackBits (d : Nat) (b : List Byte) : List Nat :=
  let n := leNat b
  (List.range 256).map (fun i => n / 2 ^ (d * i) % 2 ^ d)
/-- Rounded to `d` bits, and back. -/
def squash (d : Nat) (f : List Nat) : List Nat := f.map (fun x => (2 ^ d * x + kemQ / 2) / kemQ % 2 ^ d)
def unsquash (d : Nat) (f : List Nat) : List Nat := f.map (fun y => (kemQ * y + 2 ^ (d - 1)) / 2 ^ d)
/-- Slice `i` of `n` bytes. -/
def sliceOf (n i : Nat) (b : List Byte) : List Byte := (b.drop (n * i)).take n
/-- A vector of polynomials from bytes. -/
def unpackVec (d : Nat) (b : List Byte) : List (List Nat) := (List.range 4).map (fun i => unpackBits d (sliceOf (32 * d) i b))
/-- Uniform coefficients below q from a byte stream: 12 bits at a time, those too large passed over. -/
def uniform : List Byte → List Nat
  | a :: b :: c :: rest =>
    let v := a.toNat + 256 * b.toNat + 65536 * c.toNat
    [v % 4096, v / 4096].filter (· < kemQ) ++ uniform rest
  | _ => []
/-- Entry (i, j) of the matrix a seed gives; the stream is cut after 1,008 bytes, which FIPS 203 lets an implementation
do after 840. -/
def matrixAt (seed : List Byte) (i j : Nat) : List Nat := (uniform (shake128 1008 (seed ++ [BitVec.ofNat 8 j, BitVec.ofNat 8 i]))).take 256
/-- Small coefficients: the difference of two sums of two bits. -/
def small (b : List Byte) : List Nat :=
  let n := leNat b
  (List.range 256).map (fun i =>
    let v := n / 16 ^ i % 16
    (v % 2 + v / 2 % 2 + kemQ - v / 4 % 2 - v / 8) % kemQ)
def smallAt (r : List Byte) (n : Nat) : List Nat := small (shake256 128 (r ++ [BitVec.ofNat 8 n]))

/-! ## Decapsulation -/

/-- The message a ciphertext holds under the secret vector. -/
def kemOpen (secret ct : List Byte) : List Byte :=
  let u := (unpackVec 11 ct).map (unsquash 11)
  let v := unsquash 5 (unpackBits 5 (ct.drop 1408))
  packBits 1 (squash 1 (polySub v (nttBack (nttDot (unpackVec 12 secret) (u.map ntt)))))
/-- The ciphertext of a message under an encapsulation key and a seed. -/
def kemSeal (ek m r : List Byte) : List Byte :=
  let seed := ek.drop 1536
  let y := (List.range 4).map (fun i => ntt (smallAt r i))
  let u := (List.range 4).map (fun i =>
    polyAdd (nttBack (nttDot ((List.range 4).map (fun j => matrixAt seed j i)) y)) (smallAt r (4 + i)))
  let v := polyAdd (polyAdd (nttBack (nttDot (unpackVec 12 ek) y)) (smallAt r 8)) (unsquash 1 (unpackBits 1 m))
  u.flatMap (fun f => packBits 11 (squash 11 f)) ++ packBits 5 (squash 5 v)
/-- The shared secret: a decapsulation key is the secret vector, the encapsulation key, its hash and a rejection value. -/
def kemDecap (dk ct : List Byte) : List Byte :=
  let ek := (dk.drop 1536).take 1568
  let m := kemOpen (dk.take 1536) ct
  let kr := sha3x512 (m ++ (dk.drop 3104).take 32)
  if kemSeal ek m (kr.drop 32) = ct then kr.take 32 else shake256 32 ((dk.drop 3136).take 32 ++ ct)

end Sys2Proof.Machine
end

