-- ==== Sys2Proof/Machine/Remote.lean ====
section
/-!
DEFINITION. Remote operations at their issuing core (R180 to R188, R191): issue, and what a reply does (R184, R185, R192,
R288).
-/
namespace Sys2Proof.Machine

/-! ## Issue -/

/-- A remote form: its registers written after it retires, and what its packet asks. -/
structure RForm where
  kind    : RKind
  q       : Bool
  ordered : Bool
  toks    : List (BitVec 32)
  op      : PktOp
  d       : SReg
  late    : List SReg
  newTok  : Option DReg

/-- The registers a form writes after it retires: the value's, the status's (R184). -/
def lateRegs (value q : Bool) (d : SReg) : List SReg :=
  if value then (if q then [d, d + 1] else [d]) else if q then [d] else []
/-- None of them is a bound port (R162), and each waits for an earlier operation that writes it (R184). -/
def lateOk : List SReg → Exec Unit
  | [] => pure ()
  | r :: rs => do
    if r = 0 then pure () else do
      notPort (32 + r.val)
      settled .s r.val
    lateOk rs
/-- Writes what an operation that completes at issue gives: 0 to a value register, then the status (R181). -/
def writeStatus (f : RForm) (status : B64) : Exec Unit :=
  match f.late with
  | [r, r'] => do
    writeS r 0
    writeS r' status
  | [r] => if f.q then writeS r status else pure ()
  | _ => pure ()
/-- The remote window byte an address names, or XLATE or PROT (R181). -/
def windowAt (va tval : B64) : Exec (Nat × Nat × Nat) := do
  let s ← get
  let t := s.thread s.cur
  set (s.walked s.curCore t.ctx va)
  match s.route s.curCore t.ctx t.sysMode .remote va with
  | .win dev wid off => pure (dev, wid, off)
  | .xlate => trap cXLATE tval
  | _ => throw (.denied va)
/-- The same for `rmcast`, whose operand holds a path number above the address: the walk is of the address alone (R187,
R323). `s0` is the state before the instruction. -/
def mcastWindow (s0 : State) (va x : B64) : Exec (Nat × Nat × Nat) :=
  let t := s0.thread s0.cur
  if va = x then windowAt va x else
  match s0.route s0.curCore t.ctx t.sysMode .remote va with
  | .win _ _ _ => windowAt va x
  | .xlate => halt (((s0.walked s0.curCore t.ctx va).bumpWalk t.ctx va).takeTrap cXLATE x t.pc false)
  | _ => halt ((s0.walked s0.curCore t.ctx va).takeTrap cPROT x t.pc false)
/-- At most 64 operations of a core are outstanding (R181). -/
def remoteRoom : Exec Unit := do
  let s ← get
  if 64 ≤ s.remoteOut s.curCore then stall .remoteLimit else pure ()
/-- Whether an operation takes a sequence number (R186). -/
def RKind.numbered : RKind → Bool | .rst => true | .rstc => true | .ramo _ _ => true | _ => false
/-- Each value once. -/
def nodupToks : List (BitVec 32) → List (BitVec 32)
  | [] => []
  | t :: ts => if ts.contains t then nodupToks ts else t :: nodupToks ts
/-- Records a destination as a dependent of a pending token: the state, and whether there was room (R191). -/
def State.recordDep (s : State) (t : BitVec 32) (dev : Nat) : State × Bool :=
  let k := s.tok (tokSlotOf t)
  if k.deps.any (fun d => d.dev == dev) then
    (s.setTok (tokSlotOf t) { k with deps := k.deps.map (fun d => if d.dev = dev then { d with pkts := d.pkts + 1 } else d) }, true)
  else if k.deps.length < 4 then (s.setTok (tokSlotOf t) { k with deps := k.deps ++ [{ dev := dev, pkts := 1 }] }, true)
  else (s, false)
/-- Records every token that leaves with a packet: those it carries and those it must wait for. -/
def State.recordDeps (s : State) (dev : Nat) : List (BitVec 32) → State × List (BitVec 32) × List (BitVec 32)
  | [] => (s, [], [])
  | t :: ts =>
    let r := s.recordDep t dev
    let q := r.1.recordDeps dev ts
    if r.2 then (q.1, t :: q.2.1, q.2.2) else (q.1, q.2.1, t :: q.2.2)
/-- The packet of an operation, numbered as R186 wants. -/
def State.packetOf (s : State) (f : RForm) (w : Nat × Nat × Nat) (mem : List Nat) (seq : Option Nat) (toks : List (BitVec 32)) : Packet :=
  { id := s.sq.nextId, srcDev := s.fleet.devId, srcCore := s.curCore, srcSlot := slotOf s.cur, dest := w.1, members := mem,
    seq := seq, floor := (match seq with | some n => s.floorSeq s.cur w.1 n | none => 0), ordered := f.ordered, toks := toks,
    wid := w.2.1, off := w.2.2, op := f.op, tag := s.tag }
/-- The operation and its packet leave the core; ACKCNT and the pending registers note it (R184). -/
def State.launchOp (s : State) (f : RForm) (va : B64) (p : Packet) (waits : List (BitVec 32)) (path : Option Nat) (tok : BitVec 32) : State :=
  let t := s.thread s.cur
  let mem := List.range p.members.length
  let counted := f.kind != .rld
  let r : ROp :=
    { id := p.id, tid := s.cur, act := t.act, ctx := t.ctx, kind := f.kind, q := f.q, d := f.d.val, addr := va, pc := t.pc,
      dev := p.dest, counted := counted, tok := tok, seq := p.seq, left := if path.isSome then mem.length else 1 }
  let o : OutPkt :=
    { pkt := p, op := p.id, at_ := if waits.isEmpty then .drift else .held, mems := if path.isSome then mem else [],
      path := path, waits := waits, owed := if path.isSome then mem else [0] }
  let pend : List Pend := if counted then (f.late.filter (fun x => x != 0)).map (fun x => ⟨.s, x.val, p.id⟩) else []
  let s := s.modThread s.cur (fun t => { t with ackcnt := t.ackcnt + (if counted then 1 else 0), pend := t.pend ++ pend })
  { s with sq := { s.sq with nextId := s.sq.nextId + 1, ops := s.sq.ops ++ [r], out := s.sq.out ++ [o] } }
/-- The token a `rstc` makes is void: the store was refused at its issuer. -/
def State.voidNew (s : State) (tok : BitVec 32) (status : BitVec 8) : State :=
  if tok = 0 then s else s.settleTok (tokSlotOf tok) false status
/-- VOID_DEP at issue: the number is taken and announced; a plain form ends the context (R181, R186). -/
def refuseVoid (f : RForm) (va : B64) (p : Packet) (tok : BitVec 32) : Exec Unit := do
  modify (fun s => ((s.skipNotice p p.dest).voidNew tok 5).sweepTokens)
  if f.q then writeStatus f 5 else do
    let s ← get
    let t := s.thread s.cur
    halt ((s.endRefused t.ctx s.cur 5 f.kind { p with toks := f.toks } t.pc va).startAll s.curCore)
/-- Issue of `rst`, `rstc`, `ramo` after their operands are read (R181, R186, R191): one whose FLOOR would lie more than 63
below its number waits (R289; log entry 28). `s0` is the state before the
instruction. -/
def remoteIssue (s0 : State) (f : RForm) (va : B64) : Exec Unit := do
  aligned (pktSize f.op) va
  let w ← windowAt va va
  remoteRoom
  let s ← get
  let dev := w.1
  let reach := dev == s.fleet.devId || s.reachable (s.thread s.cur).ctx dev
  if !reach && !f.q then trap cREMOTE va
  else if reach && !s.floorRoom s.cur dev then stall (.remoteFloor dev)
  else do
    let toks := nodupToks (f.toks.filter (fun t => t != 0))
    let void := toks.any (fun t => (s.tok (tokSlotOf t)).st == .void)
    let pending := toks.filter (fun t => (s.tok (tokSlotOf t)).st == .pending)
    let tok ← match f.newTok with
      | none => pure 0
      | some _ => newToken s0 0 0
    match f.newTok with
    | none => pure ()
    | some n => modThr (fun t => { t with d := t.d.put n.val tok })
    if !reach then do
      modify (fun s => (s.voidNew tok 8).sweepTokens)
      writeStatus f 8
    else do
      let s ← get
      let seq := s.newSeq s.cur dev
      if void then do
        let p := s.packetOf f w [] (some seq) []
        modThr (fun t => { t with seqs := t.seqs.put dev seq })
        refuseVoid f va p tok
      else do
        let r := s.recordDeps dev pending
        let p := r.1.packetOf f w [] (some seq) r.2.1
        let s := r.1.modThread s.cur (fun t => { t with seqs := t.seqs.put dev seq })
        set (s.launchOp f va p r.2.2 none tok).sweepTokens

/-- The value and status registers of `rld` (R180, R184); its operand is read once, as it asks. -/
def rldBody (q : Bool) (d a : SReg) : Exec Unit := do
  let f : RForm := ⟨.rld, q, false, [], .read 8, d, lateRegs true q d, none⟩
  let t ← thr
  match t.phase with
  | .answered v st => do
    writeS d v
    if q then writeS (d + 1) st else pure ()
  | .idle => do
    lateOk f.late
    let va ← readS a
    aligned 8 va
    let w ← windowAt va va
    remoteRoom
    let s ← get
    if w.1 == s.fleet.devId || s.reachable t.ctx w.1 then do
      set (s.launchOp f va (s.packetOf f w [] none []) [] none 0)
      sentWait .value
    else if q then writeStatus f 8
    else trap cREMOTE va
  | _ => stall .value
def execRld (q : Bool) (d a : SReg) (s : State) : Host.Outcome State Fault Refusal := .next (runI 4 (rldBody q d a) s)
/-- Bytes of a 64-bit word. -/
def wordBytes (v : B64) : List Byte := leBytes 8 v.toNat
/-- The tokens a `.t` form names. -/
def readToks : Toks → Exec (List (BitVec 32))
  | .none => pure []
  | .one a => do
    let x ← readD a
    pure [x]
  | .two a b => do
    let x ← readD a
    let y ← readD b
    pure [x, y]
def execRst (q o : Bool) (t : Toks) (d a b : SReg) (s : State) : Host.Outcome State Fault Refusal :=
  .next (runI 4 (do
    let s0 ← get
    let late := lateRegs false q d
    lateOk late
    let va ← readS a
    let v ← readS b
    let ts ← readToks t
    remoteIssue s0 ⟨.rst, q, o, ts, .write (wordBytes v), d, late, none⟩ va) s)
def execRamo (op : AmoOp) (w q o : Bool) (d a b : SReg) (s : State) : Host.Outcome State Fault Refusal :=
  .next (runI 4 (do
    let s0 ← get
    let late := lateRegs true q d
    lateOk late
    let c ← if op = .cas then readS d else pure 0
    let va ← readS a
    let v ← readS b
    remoteIssue s0 ⟨.ramo op w, q, o, [], .amo op w v c, d, late, none⟩ va) s)
def execRstc (q o : Bool) (t : Option DReg) (n : DReg) (d a b : SReg) (s : State) : Host.Outcome State Fault Refusal :=
  .next (runI 4 (do
    let s0 ← get
    let late := lateRegs false q d
    lateOk late
    let va ← readS a
    let v ← readS b
    let ts ← readToks (match t with | some x => .one x | none => .none)
    remoteIssue s0 ⟨.rstc, q, o, ts, .write (wordBytes v), d, late, some n⟩ va) s)
/-- `rmcast` (R187, R188). -/
def execRmcast (q : Bool) (n : Fin 8) (d a b : SReg) (s : State) : Host.Outcome State Fault Refusal :=
  .next (runI 4 (do
    let s0 ← get
    let late := lateRegs false q d
    lateOk late
    let x ← readS a
    let ws ← readRun b.val (n.val + 1)
    let f : RForm := ⟨.mcast, q, false, [], .write (ws.flatMap wordBytes), d, late, none⟩
    if x.toNat / 2 ^ 60 != 0 then trap cPROT x else do
      let va := x &&& 0x000FFFFFFFFFFFFF#64
      let p := x.toNat / 2 ^ 52 % 256
      if va.toNat % 8 != 0 then trap cMISALIGN x else do
        let w ← mcastWindow s0 va x
        remoteRoom
        let s ← get
        let refuse (st : B64) : Exec Unit := if q then writeStatus f st else trap cREMOTE x
        match s.path? p with
        | none => refuse 0x0A
        | some y =>
          if !y.mcast || y.ctx != (s.thread s.cur).ctx then refuse 0x0A
          else if y.grant = 0 then refuse 8
          else set (s.launchOp f x (s.packetOf f (0, w.2.1, w.2.2) y.mem none []) [] (some p) 0)) s)

/-! ## Replies (R184, R185, R188, R192, R288) -/

/-- The old value of a `ramo` as its register holds it (R101, R184). -/
def ramoValue (op : AmoOp) (w64 : Bool) (data : List Byte) : B64 :=
  let v := BitVec.ofNat 64 (leNat data)
  if w64 ∨ op = .fadd then v else sext 32 v
/-- The registers an answered operation writes: the value (0 on failure), then the status. -/
def ROp.results (r : ROp) (status : B64) (data : List Byte) : List (Nat × B64) :=
  match r.kind with
  | .ramo op w =>
    let v := if status = 0 then ramoValue op w data else 0
    (r.d, v) :: (if r.q then [(r.d + 1, status)] else [])
  | _ => if r.q then [(r.d, status)] else []
/-- The last answer of an operation of a task that still runs (R148): ACKCNT falls, its registers are written. -/
def State.settleOp (s : State) (r : ROp) (status : B64) (data : List Byte) : State :=
  let t := s.thread r.tid
  if t.act != r.act then s else
  let rs := (r.results status data).filter (fun x => x.1 != 0)
  s.setThread r.tid
    { t with
      ackcnt := t.ackcnt - 1, pend := t.pend.filter (fun p => p.op != r.id),
      s := rs.foldl (fun m x => m.put x.1 x.2) t.s }
/-- A refused plain form ends its context, and its core starts what waits there (R185). -/
def State.refusedPlain (s : State) (r : ROp) (status : Nat) (p : Packet) : State :=
  (s.endRefused r.ctx r.tid status r.kind p r.pc r.addr).startAll (coreOf r.tid)
/-- What an answer to packet `p` does for an operation of a live context. `last`: no other answer is owed. -/
def State.answerOp (s : State) (r : ROp) (last : Bool) (p : Packet) (status : BitVec 8) (data : List Byte) (member : Nat) : State :=
  let pkt := p.id
  match r.kind with
  | .cart => s.cartReply r pkt status data member
  | .rld =>
    if status != 0 && !r.q then s.refusedPlain r status.toNat p
    else s.answer r.tid r.act (if status = 0 then BitVec.ofNat 64 (leNat data) else 0) (status.setWidth 64)
  | .mcast =>
    let code := match r.low with | some l => l.2 | none => 0
    let s := if last then s.settleOp r (BitVec.ofNat 64 (code + 2 ^ 8 * r.nacks)) [] else s
    if status != 0 && !r.q then s.refusedPlain r status.toNat p else s
  | _ =>
    let s := s.settleOp r (status.setWidth 64) data
    if status != 0 && !r.q then s.refusedPlain r status.toNat p else s
/-- A refusal of one member is noted (R188). -/
def ROp.noted (r : ROp) (status : BitVec 8) (member : Nat) : ROp :=
  let r := { r with left := r.left - 1 }
  if status = 0 then r else
  { r with
    nacks := if r.nacks.testBit member then r.nacks else r.nacks + 2 ^ member,
    low := match r.low with
      | some l => if member < l.1 then some (member, status.toNat) else some l
      | none => some (member, status.toNat) }
/-- The path whose port carried the copy of a packet that a reply is for: its own, or the multicast path of copies that wait
to be sent again for other members. -/
def OutPkt.carriedBy (o : OutPkt) : Option Nat :=
  match o.at_ with
  | .sent _ q => some q
  | .queued _ q => if o.sends = 0 then none else some q
  | .waiting => if o.sends = 0 then none else o.path
  | _ => none
/-- A reply reaches the issuing core (R288). -/
def State.replyIn (s : State) (p : Reply) : State :=
  match s.outPkt? p.pkt with
  | none => s
  | some o =>
    match s.opOf o with
    | none => s
    | some r =>
      if !o.owed.contains p.member then s else
      let s := match o.carriedBy with
        | some q =>
          let s := if o.at_.pathOf.isSome then s.subOwed o.pkt.srcCore q 1 else s
          s.modCore o.pkt.srcCore (fun c => { c with ackRecv := c.ackRecv.put q (c.ackRecv.get 0 q + 1) })
        | none => s
      let o := { o with owed := o.owed.erase p.member }
      let s := if o.owed.isEmpty then { s with sq := { s.sq with out := s.sq.out.filter (fun x => x.pkt.id != p.pkt) } } else s.setOut o
      let r := r.noted p.status p.member
      let last := r.left == 0
      let ops := if last then s.sq.ops.filter (fun x => x.id != r.id) else s.sq.ops.map (fun x => if x.id = r.id then r else x)
      let s := { s with sq := { s.sq with ops := ops } }
      let s := if r.tok = 0 then s else s.settleTok (tokSlotOf r.tok) (p.status == 0) p.status
      if r.dead then s else s.answerOp r last o.pkt p.status p.data p.member
/-- A reply from another device answers a packet that has been sent, though it may be waiting to be sent again for another
member; one of this device's own leaves its queue. -/
def execReplyArrival (r : ReplyIn) (s : State) : Host.Outcome State Fault Refusal :=
  match r with
  | .outside pkt member status data =>
    match s.outPkt? pkt with
    | none => .next s
    | some o => .next (if o.carriedBy.isSome then s.replyIn ⟨pkt, status, data, member⟩ else s)
  | .own n =>
    match s.sq.replies[n]? with
    | none => .next s
    | some p => .next ({ s with sq := { s.sq with replies := s.sq.replies.eraseIdx n } }.replyIn p)

end Sys2Proof.Machine
end

