-- ==== Sys2Proof/Machine/Light.lean ====
section
/-!
DEFINITION. Light (R196 to R198, R269 to R284): the light instructions, the requests the Well serves, the steps of its
grant state machine, and lanes and ports that are erased, narrowed, failed or retrained (R344 to R346).
-/
namespace Sys2Proof.Machine

/-! ## `grq` (R198, R281) -/

/-- The order field of a port: 0 PAM2 to 3 PAM8; 0 for a port with no order in force (the model's choice; log entry 45). -/
def orderCode (k : Nat) : Nat := k - 1
/-- Hundredths of a dB a lane loses at `stages`, without the margin; the settling allowance in a haze. -/
def State.rxLoss (s : State) (n stages : Nat) (haze : Bool) : Int :=
  let l := s.lane n
  (l.loss + 25 * l.trim + 330 * stages + (if haze then 150 else 0) : Nat)
/-- PRE of a live lane. -/
def State.preOf (s : State) (n k stages : Nat) (haze : Bool) : Nat :=
  let x := reqDb (max 1 k) + s.rxLoss n stages haze
  let f := s.floorOf n
  match (List.range 10).find? (fun (j : Nat) => f != 0 && reaches f (x - 50 * (j : Int))) with
  | some j => 29 - 3 * j
  | none => 0
/-- POST of a port from its lowest PRE. -/
def postOf (pre : Nat) (oneErased : Bool) : Nat :=
  if 29 ≤ pre then (if oneErased then 40 else 136) else if 26 ≤ pre then (if oneErased then 24 else 96)
  else if 23 ≤ pre then (if oneErased then 12 else 56) else if 20 ≤ pre then (if oneErased then 0 else 16) else 0
/-- A lane word. A port with no live lane has no lowest PRE: the model takes 29. Read through a path whose port another path
has lit, HAZE and the split stages behind PRE are the reading path's, ORDER, POWER and F the lane's own: R281 does not say
(the model's choices; log entry 45). -/
def State.laneWord (s : State) (x : Path) (n : Nat) : B64 :=
  let q := n / 8
  if !x.ports.testBit q then 0 else
  let o := s.oport q
  let l := s.lane n
  let haze := x.st == 2 || x.st == 3
  let stages := stagesOf x x.fan
  let live := s.live (2 ^ q)
  let pre (m : Nat) : Nat := s.preOf m o.order stages haze
  let low := live.foldl (fun a m => min a (pre m)) 29
  let post := postOf low (live.length = 7 && !o.narrow)
  let bit (b : Bool) : Nat := if b then 1 else 0
  BitVec.ofNat 64 (orderCode o.order + 4 * bit haze + 8 * bit l.erased + 2 ^ 8 * (if l.erased then 0 else pre n) +
    2 ^ 16 * post + 2 ^ 24 * (if l.erased then 0 else l.set))
/-- The word `grq` reads of a path for a context. -/
def State.grqWord (s : State) (ctx p : Nat) (sel : B64) : B64 :=
  match s.path? p with
  | none => 0
  | some x =>
    if x.ctx != ctx then 0
    else if sel = 0 then
      BitVec.ofNat 64 (x.grant + 2 ^ 16 * s.minOf p x + 2 ^ 32 * s.ceilOf x + 2 ^ 48 * x.st + 2 ^ 51 * x.fan)
    else if sel = 1 then
      let quota := match s.ctx? ctx with | some c => c.quota | none => 0
      BitVec.ofNat 64 (quota + 2 ^ 16 * s.held ctx + 2 ^ 32 * s.well.free)
    else if 0x100 ≤ sel.toNat ∧ sel.toNat < 0x100 + 192 then s.laneWord x (sel.toNat - 0x100)
    else 0

/-! ## Requests (R196, R197) -/

/-- R197's decision: the state after it and sD. -/
def State.serveGrant (s : State) (ctx p g : Nat) : State × B64 :=
  let ans (st rep : Nat) : B64 := BitVec.ofNat 64 (st * 2 ^ 16 + rep)
  match s.path? p with
  | none => (s, ans 5 0)
  | some x =>
    if x.ctx != ctx then (s, ans 5 0)
    else if g = 0 then ((s.darken p).lightChanged, ans 0 0)
    else
      let lo := s.minOf p x
      if g < lo then (s, ans 3 x.grant) else
      let quota := match s.ctx? ctx with | some c => c.quota | none => 0
      let room := quota - s.held ctx
      let pool := s.well.free + x.drain
      let avail := x.grant + min room pool
      let new := min g (min avail (s.ceilOf x))
      if new < lo then (s, ans 4 x.grant)
      else
        let st := if new = g then 0 else if s.ceilOf x ≤ avail then 6 else if room ≤ pool then 1 else 2
        ((s.setGrant p new).lightChanged, ans st new)
/-- The members of a path record: its halfwords below NMEM; those at or beyond it are not looked at (R196; log entry 45). -/
def recMembers (r : List Byte) (n : Nat) : List Nat := (List.range n).map (fun i => leNat ((r.drop (16 + 2 * i)).take 2))
/-- A path record is refused (R196). -/
def State.badPath (s : State) (r : List Byte) : Bool :=
  let d := dwordAt r 0
  let valid := d.testBit 63
  let mc := d.testBit 62
  let nm := bits d 61 58
  let mem := recMembers r nm
  bits d 57 48 != 0 || bits d 23 10 != 0 || dwordAt r 1 / 2 ^ 16 != 0 ||
  (if mc then nm < 2 || 8 < nm || bits d 9 0 != 0 else nm != 0) || mem.any (fun m => 1024 ≤ m) ||
  (List.range nm).any (fun i => (mem.take i).contains (mem.getD i 0)) ||
  (if mc then mem.contains s.fleet.devId else bits d 9 0 == s.fleet.devId) || (valid && bits d 47 24 == 0)
/-- A path entry is written: its old grant is released, the new one starts with none. An entry out of use is held by no
context (id 2^16). -/
def State.writePath (s : State) (p : Nat) (r : List Byte) : State :=
  let s := s.darken p
  let x := (s.path? p).getD {}
  let d := dwordAt r 0
  let valid := d.testBit 63
  (s.setPath p
    { x with
      mcast := d.testBit 62, ports := if valid then bits d 47 24 else 0, dev := bits d 9 0,
      ctx := if valid then dwordAt r 1 % 2 ^ 16 else 2 ^ 16, mem := recMembers r (bits d 61 58), grant := 0, st := 0,
      step := none, toStep := [], lit := false, fan := 1 }).lightChanged
/-- What the Well does with a request, and its answer. -/
def State.serve (s : State) (q : WellReq) : State × B64 :=
  match q.kind with
  | 0 => s.serveGrant q.ctx q.p q.arg.toNat
  | 1 => (s, s.grqWord q.ctx q.p q.arg)
  | 2 => if s.badPath q.recd then (s, 1) else (s.writePath q.p q.recd, 0)
  | _ =>
    match s.ctx? q.p with
    | none => (s, 1)
    | some c => (s.setCtx q.p { c with quota := q.arg.toNat % 2 ^ 16 }, 0)
/-- The request served next: of the highest priority, then of the lowest path number, then the oldest (R197). -/
def State.nextReq (s : State) : Option WellReq :=
  let prio (q : WellReq) : Nat := match s.ctx? q.ctx with | some c => c.prio | none => 0
  match s.well.reqs with
  | [] => none
  | q :: qs => some (qs.foldl (fun b x => if prio b < prio x || (prio b == prio x && x.p < b.p) then x else b) q)
def execWellRequestServed (s : State) : Host.Outcome State Fault Refusal :=
  match s.nextReq with
  | none => .next s
  | some q =>
    let s := { s with well := { s.well with reqs := s.well.reqs.erase q } }
    let r := s.serve q
    .next (r.1.answer q.tid q.act r.2 0)

/-- A request leaves for the Well. -/
def askWell (kind p : Nat) (arg : B64) (recd : List Byte) : Exec Unit :=
  modify (fun s =>
    let t := s.thread s.cur
    { s with well := { s.well with reqs := s.well.reqs ++ [⟨s.cur, t.act, t.ctx, kind, p, arg, recd⟩] } })
def execGrant (d a b : SReg) (s : State) : Host.Outcome State Fault Refusal :=
  .next (runI 4 (asking .well
    (do
      let x ← readS a
      let y ← readS b
      if 256 ≤ x.toNat then trap cILLEGAL x
      else if 2 ^ 16 ≤ y.toNat then trap cILLEGAL y
      else pure (x, y))
    (fun r => askWell 0 r.1.toNat r.2 [])
    (fun v _ => writeS d v)) s)
def execGrq (d a b : SReg) (s : State) : Host.Outcome State Fault Refusal :=
  .next (runI 4 (asking .well
    (do
      let x ← readS a
      let y ← readS b
      if 256 ≤ x.toNat then trap cILLEGAL x else pure (x, y))
    (fun r => askWell 1 r.1.toNat r.2 [])
    (fun v _ => writeS d v)) s)
/-- Reads the 32-byte record of a path in the local scratchpad. -/
def readPathRec (va : B64) : Exec (List Byte) := do
  let s ← get
  if va.toNat % 32 != 0 then trap cMISALIGN va else
  match ownSpad s.curCore va with
  | none => trap cPROT va
  | some off => do
    let l := spadLoc s.curCore off
    filed l
    modify (fun s => s.prepRead s.cur l 32)
    let s ← get
    pure (s.readFor s.cur l 32)
def execPathset (d a b : SReg) (s : State) : Host.Outcome State Fault Refusal :=
  .next (runI 4 (asking .well
    (do
      needSys (.pathset d a b)
      let x ← readS a
      let y ← readS b
      let entry := !x.getLsbD 8
      if (if entry then 256 ≤ x.toNat else x &&& 0xFFFF0100#64 != x) then trap cILLEGAL x
      else if entry then do
        let r ← readPathRec y
        pure (2, x.toNat, 0, r)
      else pure (3, bits x.toNat 31 16, y, []))
    (fun (q : Nat × Nat × B64 × List Byte) => askWell q.1 q.2.1 q.2.2.1 q.2.2.2)
    (fun v _ => writeS d v)) s)

/-! ## The grant state machine's steps (R275 to R277) -/

/-- Every port of a path has passed its step point: the fan-out stands, a path with an order is lit; after state 1 the
power moves. -/
def State.stepped (s : State) (p : Nat) (x : Path) : State :=
  let ok := (portList x.ports).any (fun q => (s.oport q).order != 0)
  let x := { x with fan := x.fanTo, step := none, lit := x.lit || ok }
  if x.st = 1 then (s.setPath p { x with st := 0 }).movePower p
  else (if ok then s.telLanes (s.live x.ports) liveLane else s).setPath p { x with st := 0 }
/-- The step point of one port of a path (R275): its order changes. A narrowing holds from the first port's step on, a
widening from the last. -/
def State.stepPort (s : State) (p port : Nat) (x : Path) : State :=
  let s := s.setOport port { s.oport port with order := x.ords.get 0 port }
  let x := { x with toStep := x.toStep.erase port, fan := min x.fan x.fanTo }
  if x.toStep.isEmpty then s.stepped p x else s.setPath p x
/-- A port's step point passes, 24 ns or more after the Well decided on the step; a narrowing waits for the packet in
progress (R275, R279). -/
def execOrderStepPoint (a : StepAt) (s : State) : Host.Outcome State Fault Refusal :=
  match s.path? a.path with
  | none => .next s
  | some x =>
    match x.step with
    | none => .next s
    | some t =>
      if s.now < t + 48 || !x.toStep.contains a.port || (x.fanTo < x.fan && s.inProgress a.path) then .next s
      else .next (s.stepPort a.path a.port x).lightChanged
/-- Draining GU whose time has come return to the pool (R269). -/
def State.returnDrains (s : State) (p : Nat) (x : Path) : State :=
  let due (d : Nat × Nat) : Bool := d.2 != 0 && decide (d.2 ≤ s.now)
  let back := (x.drains.filter due).foldl (fun a d => a + d.1) 0
  { s with well := { s.well with free := s.well.free + back } }.setPath p { x with drains := x.drains.filter (fun d => !due d) }
/-- The 1,600 ns after a change of power end (R276): draining GU return; the order may rise, after state 2 before the
path is steady, after state 3 as a re-evaluation. So it does in state 0 whenever a floor's rise makes a higher order
available, though 1,600 ns have not passed since the last change. -/
def execHazeEnd (p : Nat) (s : State) : Host.Outcome State Fault Refusal :=
  match s.path? p with
  | none => .next s
  | some x =>
    let s := s.returnDrains p x
    match s.path? p with
    | none => .next s
    | some x =>
      if x.st = 1 || x.grant = 0 || (x.st != 0 && decide (s.now < x.till)) || x.step.isSome then .next s
      else .next (s.setPath p (
        if s.mayRise x then s.decideStep x (if x.st = 2 then 2 else 0) (s.fanOf x s.floorOf) s.floorOf else { x with st := 0 }))
/-- The last lane of a path set to 0 goes dark: its ports are free and its GU return (R269, R277). -/
def execPathDark (p : Nat) (s : State) : Host.Outcome State Fault Refusal :=
  match s.path? p with
  | none => .next s
  | some x =>
    if !x.dark then .next s else
    .next (s.goDark p).lightChanged

/-! ## Erasure and failure (R273, R283, R344) -/

/-- The share of a path whose live lanes have changed: the grant falls to the new CEIL, the excess drains; then a change
under R276. -/
def State.reshare (s : State) (p : Nat) : State :=
  match s.path? p with
  | none => s
  | some x =>
    if x.grant = 0 then s else
    let top := s.ceilOf x
    if top = 0 then s.darken p else
    let x := if top < x.grant then { x with grant := top, drains := x.drains ++ [(x.grant - top, 0)] } else x
    ((s.setPath p x).share x).acceptChange p
def State.resharePort (s : State) (q : Nat) : State := match s.portOwner q with | some p => s.reshare p | none => s
/-- Lanes erased on a port. -/
def State.erasedCount (s : State) (q : Nat) : Nat := ((List.range 8).filter (fun i => (s.lane (8 * q + i)).erased)).length
/-- A port fails: every lane goes dark, its readiness bit falls, PORTFAIL is set (R344). Retrained, it is narrowed until
7 lanes are live. -/
def State.failPort (s : State) (q : Nat) : State :=
  let s := (s.setReady 0x1400 (32 + q) false).fleetEv 5
  let ls := (List.range 8).map (fun i => 8 * q + i)
  let s := s.telLanes ls (fun n l => if l.erased then { l with set := 0, target := 0 } else { (darkLane n l) with erased := true, set := 0, target := 0, hist := [] })
  s.setOport q { s.oport q with narrow := true, order := 0 }
/-- The packets sent on a port that a test selects, those the destination has not received whole, are sent again or
unreachable (R287, R302). -/
def State.resendLost (s : State) (lost : OutPkt → Bool) : State :=
  (s.sq.out.filter (fun o => (match o.at_ with | .sent _ _ => true | _ => false) && lost o)).foldl State.resendPkt s
/-- Whether a packet went out on a port. -/
def OutPkt.sentOn (o : OutPkt) (q : Nat) : Bool := match o.at_ with | .sent r _ => r == q | _ => false
/-- What follows a port's failure for the packets sent on it: which of them the destination had not received whole is a
free choice. -/
def State.resendFree (s : State) (q : Nat) : State :=
  let n := s.sq.nextId
  let bit (i : Nat) : Bool := (Config.freeValue (s.freeCtr + i / 64)).getLsbD (i % 64)
  ({ s with freeCtr := s.freeCtr + n / 64 + 1 } : State).resendLost (fun o => o.sentOn q && bit o.pkt.id)
/-- A lane is erased. -/
def State.eraseLane (s : State) (n : Nat) (laser : Bool) : State :=
  let q := n / 8
  let s := s.telLanes [n] (fun _ l =>
    { l with erased := true, failed := laser, st := if laser then 2 else 1, stripe := 0xFF, set := 0, target := 0, hist := [], good := false, low := 0 })
  let s := (s.portStat q 4 1).fleetEv 3
  let k := s.erasedCount q
  let s := if k = 2 then ((s.setOport q { s.oport q with narrow := true }).portStat q 5 1).fleetEv 4
    else if 3 ≤ k then s.failPort q else s
  let s := (s.resharePort q).lightChanged
  if 3 ≤ k then s.resendFree q else s
/-- A lane of a path with a grant can no longer reach PAM2, at the fan-out that loses nothing (R274, R283). -/
def State.lostOrder (s : State) (n : Nat) : Bool :=
  match s.portOwner (n / 8) with
  | none => false
  | some p => match s.path? p with
    | none => false
    | some x => x.grant != 0 && s.ord n (s.lane n).set 0 == 0
/-- A path is evaluated again after a change of TRIM or MARGIN (R283): lanes whose Ord has become none are erased, and the
rest share the grant; then the orders follow. -/
def State.judge (s : State) (p : Nat) : State :=
  match s.path? p with
  | none => s
  | some x =>
    if x.grant = 0 then s else
    ((s.live x.ports).foldl (fun s n => if !(s.lane n).erased && s.lostOrder n then s.eraseLane n false else s) s).reevaluate p
/-- A lane is erased by a fault of its laser, for want of light, or because its Ord has become none. -/
def execLaneErase (lane : Nat) (cause : EraseCause) (s : State) : Host.Outcome State Fault Refusal :=
  let l := s.lane lane
  if 192 ≤ lane then .next s
  else if l.erased then
    .next (if cause == .laser && !l.failed then s.telLanes [lane] (fun _ l => { l with failed := true, st := 2 }) else s)
  else if cause == .order && !s.lostOrder lane then .next s
  else .next (s.eraseLane lane (cause == .laser))
/-- A port fails (R287, R302): packets not yet sent are chosen for again; those of `lost`, which the destination has not
received whole, are sent again or unreachable. -/
def execPortFail (port : Nat) (lost : List Nat) (s : State) : Host.Outcome State Fault Refusal :=
  if 24 ≤ port then .next s else
  .next ((((s.failPort port).resharePort port).lightChanged).resendLost (fun o => o.sentOn port && lost.contains o.pkt.id))

/-! ## Trim (R283) -/

/-- The path that owns a lane's port is evaluated again. -/
def State.judgePort (s : State) (q : Nat) : State := match s.portOwner q with | some p => s.judge p | none => s
/-- A 1 ms window of a lane: a live one is trimmed, a retraining one is judged. -/
def execTrimWindow (lane : Nat) (w : TrimWin) (s : State) : Host.Outcome State Fault Refusal :=
  let l := s.lane lane
  if 192 ≤ lane then .next s
  else if l.erased then
    .next (if (s.oport (lane / 8)).retrain && !l.failed then s.setLane lane { l with good := w == .below } else s)
  else if l.st != 0 then .next s
  else match w with
    | .above =>
      if l.trim < s.well.reserve then .next ((s.setLane lane { l with trim := l.trim + 1, low := 0 }).judgePort (lane / 8))
      else .next ((s.setLane lane { l with low := 0 }).fleetEv 2)
    | .between => .next (s.setLane lane { l with low := 0 })
    | .below =>
      if l.low < 15 then .next (s.setLane lane { l with low := l.low + 1 })
      else if l.trim = 0 then .next (s.setLane lane { l with low := 0 })
      else .next ((s.setLane lane { l with trim := l.trim - 1, low := 0 }).judgePort (lane / 8))

/-! ## Retraining, the return channel, reports (R280, R344 to R346) -/

/-- A retrained lane becomes live (R344): 7 live lanes end a narrowing; RETRAIN is done when no lane is left. -/
def execLaneRetrainLive (lane : Nat) (s : State) : Host.Outcome State Fault Refusal :=
  let l := s.lane lane
  let q := lane / 8
  if 192 ≤ lane || !l.erased || l.failed || !l.good || !(s.oport q).retrain then .next s else
  let lit := match s.portOwner q with | some p => (match s.path? p with | some x => x.lit | none => false) | none => false
  let s := s.telLanes [lane] (fun n l =>
    let l := { l with erased := false, good := false, low := 0 }
    if lit then liveLane n l else { l with st := 3, stripe := 0xFF })
  let o := s.oport q
  let left := (List.range 8).any (fun i => (s.lane (8 * q + i)).erased && !(s.lane (8 * q + i)).failed)
  let s := s.setOport q { o with narrow := o.narrow && 2 ≤ s.erasedCount q, retrain := left }
  .next (s.resharePort q).lightChanged
/-- The return channel toward a device loses training (R280): every port toward it has failed; `lost` are the packets it
has not received whole. -/
def State.returnLost (s : State) (dev : Nat) (lost : List Nat) : State :=
  if dev = s.fleet.devId || s.sq.retDown.contains dev then s else
  (({ s with sq := { s.sq with retDown := s.sq.retDown ++ [dev] } } : State).lightChanged).resendLost
    (fun o => lost.contains o.pkt.id && (if o.path.isSome then o.pkt.members.contains dev else o.pkt.dest == dev))
/-- The steward has retrained it. -/
def State.returnTrained (s : State) (dev : Nat) : State :=
  if s.sq.retDown.contains dev then ({ s with sq := { s.sq with retDown := s.sq.retDown.filter (· != dev) } } : State).lightChanged else s
/-- A stray notice (R346): counted for its port and wavelength set, that of the packet's spray state; the third makes the
port suspect; the packet has failed after its first codeword. -/
def execStrayNoticeArrival (pkt : Nat) (s : State) : Host.Outcome State Fault Refusal :=
  match s.outPkt? pkt with
  | none => .next s
  | some o =>
    match o.at_ with
    | .sent q _ =>
      let p := s.oport q
      let n := p.pairs.get 0 o.sprayKey + 1
      let s := s.setOport q { p with strays := min 255 (p.strays + 1), last := o.pkt.dest, pairs := p.pairs.put o.sprayKey n }
      let s := (s.portStat q 6 1).countSq 7 q 1
      let s := if 3 ≤ n && !p.suspect then
          ((s.setOport q { s.oport q with suspect := true }).setReady 0x1400 (32 + q) false).fleetEv 6
        else s
      .next (s.lightChanged.resendPkt o)
    | _ => .next s
/-- A codeword that arrives on a port and cannot be decoded is reported to its sender (R345). -/
def State.undecodable (s : State) (port dev pkt cw : Nat) : State :=
  ((s.portStat port 1 1).countSq 5 port 1).emit (.uncorrectable dev pkt (some cw))
/-- Every flit of a packet's codeword is still in its port's replay buffer: the first of them is. -/
def State.inBuffer (s : State) (q pkt cw : Nat) : Bool := (s.oport q).flits.any (fun f => f.pkt == pkt && f.cw == cw && f.first)
/-- An uncorrectable codeword of a packet is reported (R345): replayed in the generation it was first sent in, or its
packet sent again whole when a flit has left the replay buffer. A report without a codeword is of a packet in an unheld
generation, which is sent again (R348, R356). -/
def execUncorrectableReport (pkt : Nat) (cw : Option Nat) (s : State) : Host.Outcome State Fault Refusal :=
  match s.outPkt? pkt with
  | none => .next s
  | some o =>
    match o.at_ with
    | .sent q _ =>
      let s := (s.portStat q 1 1).countSq 5 q 1
      match cw with
      | none => .next ((s.portStat q 3 1).resendPkt o)
      | some c =>
        if s.inBuffer q pkt c then .next ((((s.portStat q 2 1).countSq 6 q 1).countSq 3 q 1).emit (.replay q o.gen o.nonce pkt c))
        else .next ((s.portStat q 3 1).resendPkt o)
    | _ => .next s

end Sys2Proof.Machine
end

