-- ==== Sys2Proof/Machine/Home.lean ====
section
/-!
DEFINITION. The steps of the memory system: values that return over Drift (R98), stores that reach their memory port
(R40), the directory (R35 to R39), the host's CXL.mem accesses (R310) and the modules of the host link (R308).
-/
namespace Sys2Proof.Machine

/-! ## Values and stores -/

/-- The value a slot waits for returns over Drift: its instruction, issued again, takes it (R98; log entry 9). -/
def State.valueBack (s : State) (tid : Nat) : State :=
  let t := s.thread tid
  if t.st = .stalled .value then
    match t.phase with
    | .lanes got _ => s.setThread tid { t with phase := .lanes got true }
    | _ => s.answer tid t.act 0 0
  else s
def execLoadValueReturn (tid : Nat) (s : State) : Host.Outcome State Fault Refusal := .next (s.valueBack tid)
/-- Pending store `n` arrives at its memory port, with its group, when no earlier store of its thread must precede it
(R40, R129, R212). -/
def State.storeArrives (s : State) (n : Nat) : State :=
  match s.stores[n]? with
  | none => s
  | some p => if s.canPerform p then s.performAll (groupOf s.stores p) else s
def execMemoryPortArrival (n : Nat) (s : State) : Host.Outcome State Fault Refusal := .next (s.storeArrives n)

/-! ## The directory (R37) -/

def execDirectoryRequest (pa core : Nat) (write : Bool) (s : State) : Host.Outcome State Fault Refusal := .next (s.dirRequest pa core write)

/-! ## The host link (R308, R310) -/

/-- A module of the host link is in use. -/
def State.linkUp (s : State) : Bool := (List.range 4).any (fun n => s.host.ucie.get false n)
/-- The L1 copies of the line of a location are invalidated, as for a write by an agent that caches nothing. -/
def State.dropCopies (s : State) (pa : Nat) : State :=
  let home := homeCore pa
  match (s.core home).dir.find? (fun e => e.line == pa / 256) with
  | none => s
  | some e => (s.invalidate e none).modCore home (fun c => { c with dir := c.dir.filter (fun x => x.line != e.line) })
/-- The bytes lie in usable device memory. -/
def State.memUsable (s : State) (pa n : Nat) : Bool :=
  decide (pa + n ≤ 2 ^ 40) && (List.range ((pa + n - 1) / 2 ^ 36 + 1 - pa / 2 ^ 36)).all (fun i => s.stackOk (pa + i * 2 ^ 36)) && s.stackOk pa
/-- A CXL.mem access at the line's home; an unusable stack answers with poison (R316). The source and the tag an Echo
unit logs of the host are free values. -/
def State.cxl (s : State) (a : CxlAcc) : State :=
  if !s.linkUp then s else
  match a with
  | .read pa n =>
    if !s.memUsable pa n then { s with host := { s.host with poison := true, rdData := [] } } else
    let s := s.recall pa n
    { s with host := { s.host with poison := false, rdData := readBytes s.mem pa n } }
  | .write pa data =>
    if !s.memUsable pa data.length then { s with host := { s.host with poison := true } } else
    let v := Config.freeValue s.freeCtr
    let s := (List.range ((pa % 256 + data.length + 255) / 256)).foldl (fun s i => s.dropCopies (pa + 256 * i)) s.freshCtr
    let s := { s with host := { s.host with poison := false } }
    s.portWrite (v.toNat % 2 ^ 17) 0 (v.extractLsb' 32 16) s.fleet.devId pa data
def execCxlMemAccess (a : CxlAcc) (s : State) : Host.Outcome State Fault Refusal := .next (s.cxl a)
/-- A module that fails: the link runs on the others (R308). -/
def execUcieModuleFail (n : Nat) (s : State) : Host.Outcome State Fault Refusal :=
  .next { s with host := { s.host with ucie := s.host.ucie.put n false } }

end Sys2Proof.Machine
end

