-- ==== Sys2Proof/Machine/Power.lean ====
section
/-!
DEFINITION. Power: the ration refill (R255, R256), the squall (R257, R258), the power-kill (R259), clock dividers,
voltages and core power (R350, R351); the ends that hardware errors bring (R330, R352).
-/
namespace Sys2Proof.Machine

/-! ## Rations (R255) -/

/-- What a core has over its CAP at the refill step; a core that is off has no part in it. -/
def Core.spare (c : Core) : Nat := if c.isoff then 0 else c.bal.toNat + c.fill.toNat - c.cap.toNat
/-- What a core receives from its four neighbours. -/
def State.received (s : State) (core : Nat) : Nat :=
  Dir.all.foldl (fun a d => a + (s.core (neighbour core d)).spare / 4) 0
/-- A core's store after the step; CAP as written is in force from now on. -/
def State.refilled (s : State) (core : Nat) (c : Core) : Core :=
  if c.isoff then c else
  { c with
    bal := BitVec.ofNat 16 (min c.cap.toNat (min c.cap.toNat (c.bal.toNat + c.fill.toNat) + s.received core)), capNow := c.cap }
/-- The refill step: every core from the values before it; sleeping cores wake (R256). A core never changed from reset
holds CAP before and after, so only the listed ones move. -/
def State.refill (s : State) : State :=
  let s' := { s with cores := s.cores.map s.refilled, refillAt := s.refillAt + 2000 }
  (s.cores.cells.filter (fun k => k.2.asleep)).foldl (fun a k => (a.settle k.1).modCore k.1 (fun c => { c with asleep := false })) s'
/-- The step passes at a whole microsecond. -/
def execRationRefill (s : State) : Host.Outcome State Fault Refusal := .next (if s.refillAt ≤ s.now then s.refill else s)

/-! ## The squall (R257) -/

/-- What a droop does to one core: no clock for 6 of its periods, then 64 cycles of half issue. -/
def State.squallCore (s : State) (core : Nat) : State :=
  let s := s.settle core
  let s := s.modCore core (fun c =>
    { c with
      cycAt := s.now + 6 * c.period, halfTill := c.cyc + 64, nextIss := max c.nextIss (s.now + 6 * c.period) })
  s.count core 0 4 1
/-- A droop below the threshold of terrace `t`, whose detector is on: a stretch begins, or begins anew. -/
def State.squallAt (s : State) (t : Nat) : State :=
  if 6400 ≤ t || (s.terrace t).droop == 0 then s else
  let s := (List.range 16).foldl (fun s i => s.squallCore (16 * t + i)) s
  s.setTerrace t { s.terrace t with squall := .stretch (s.now + 6) }
def execSquall (terrace : Nat) (s : State) : Host.Outcome State Fault Refusal := .next (s.squallAt terrace)
/-- The stretch is over: halving of 64 cycles. -/
def execStretchEnd (terrace : Nat) (s : State) : Host.Outcome State Fault Refusal :=
  match (s.terrace terrace).squall with
  | .stretch till => .next (if till ≤ s.now then s.setTerrace terrace { s.terrace terrace with squall := .halving (till + 64) } else s)
  | _ => .next s
def execHalvingEnd (terrace : Nat) (s : State) : Host.Outcome State Fault Refusal :=
  match (s.terrace terrace).squall with
  | .halving till => .next (if till ≤ s.now then s.setTerrace terrace { s.terrace terrace with squall := .normal } else s)
  | _ => .next s

/-! ## Power-kill (R259) and hardware errors -/

/-- An error record whose WHERE, PC and VAL the spec does not give: free values. -/
def State.errRecordFree (s : State) (kind ctx cause : Nat) : State :=
  let v (i : Nat) : B64 := Config.freeValue (s.freeCtr + i)
  { s.errRecord kind ctx cause false ((v 0).toNat % 2 ^ 19) (v 1) (v 2) with freeCtr := s.freeCtr + 3 }
/-- A context ends by an event outside its instructions. -/
def State.endOutside (s : State) (ctx cause : Nat) : State :=
  let v (i : Nat) : B64 := Config.freeValue (s.freeCtr + i)
  { s.endContext ctx cause false ((v 0).toNat % 2 ^ 19) (v 1) (v 2) with freeCtr := s.freeCtr + 3 }
/-- A context has a task or a tracked launch on the device. -/
def State.busyCtx (s : State) (ctx : Nat) : Bool :=
  !(s.slotsOf ctx).isEmpty || s.sq.launches.any (fun l => l.ctx == ctx && !l.done) ||
  s.host.cmds.any (fun c => (c.block.getD 0 0).toNat % 256 == 0x21 && (c.block.getD 0 0).toNat / 2 ^ 32 % 2 ^ 16 == ctx)
/-- The area of a save that a power-kill ends holds free values (R339). -/
def State.spoilArea (s : State) (v : Save) : State :=
  let n := areaSize (s.holders v.ctx).length
  let byte (i : Nat) : Byte := (Config.freeValue (s.freeCtr + i)).setWidth 8
  { s.homeWrite v.addr ((List.range n).map byte) with freeCtr := s.freeCtr + n }
/-- A power-kill ends a context; a save of it fails (R259, R339). -/
def State.killCtx (s : State) (ctx : Nat) : State :=
  ((s.saves.filter (fun v => v.ctx == ctx)).foldl State.spoilArea s).endOutside ctx 0x0C
/-- Ends the busy contexts of the lowest priority from `lo` on; another measurement follows after 10 µs. -/
def State.killFrom (s : State) (lo : Nat) : State :=
  let busy := s.ctxs.cells.filter (fun c => !c.2.ended && decide (lo ≤ c.2.prio) && s.busyCtx c.1)
  match busy with
  | [] => { s with fleet := { s.fleet with killNext := none } }
  | _ =>
    let p := busy.foldl (fun a c => min a c.2.prio) 7
    let s := s.errRecordFree 5 0 0
    let s := (busy.filter (fun c => c.2.prio == p)).foldl (fun s c => s.killCtx c.1) s
    { s with fleet := { s.fleet with killNext := if p = 7 then none else some (p + 1, s.now + 20000) } }
def execOverCurrentKill (s : State) : Host.Outcome State Fault Refusal := .next (s.killFrom 0)
/-- The measurement 10 µs after a kill: `still` when the current still exceeds the limit. -/
def execPowerRemeasure (still : Bool) (s : State) : Host.Outcome State Fault Refusal :=
  match s.fleet.killNext with
  | none => .next s
  | some (p, t) =>
    .next (if s.now < t then s else if still then s.killFrom p else { s with fleet := { s.fleet with killNext := none } })
/-- A save under way fails with MEASUREMENT when an error strikes what it saves (R339). -/
def State.spoilSave (s : State) (ctx : Nat) : State :=
  let s' := (s.saves.filter (fun v => v.ctx == ctx)).foldl (fun s v => s.setCmd v.q 4 7 0) s
  { s' with saves := s'.saves.filter (fun v => v.ctx != ctx) }
/-- An uncorrectable error is counted (R341, R352). -/
def State.uncorrected (s : State) : State := { s with fleet := { s.fleet with rasunc := s.fleet.rasunc + 1 } }.fleetEv 8
/-- An uncorrectable error consumed by an instruction of a slot ends its context (R17, R352). -/
def execContextEnd (ctx core slot : Nat) (pc val : B64) (s : State) : Host.Outcome State Fault Refusal :=
  let s := s.uncorrected.spoilSave ctx
  .next (s.endContext ctx 0x0D (tcauseIN (s.thread (tidOf core slot)).tcause) (whereOf (tidOf core slot)) pc val)
/-- A trap of the reeve in a core's system slot (R330). -/
def execSystemSlotTrap (core : Nat) (cause : Byte) (pc val : B64) (s : State) : Host.Outcome State Fault Refusal :=
  .next (s.systemTrap core cause.toNat pc val)

/-! ## Dividers, voltages, core power (R350, R351) -/

/-- MINDIV of a terrace (log entry 21). -/
def State.minDiv (s : State) (t vid : Nat) : Nat := (Config.minDiv t vid (s.fleet.sens.get {} (2 * t)).val).toNat
/-- A core's divider changes at a boundary of its delivered cycles: the cycle under way runs to its end, and the core issues
in no cycle that begins before it (R351). -/
def State.setDiv (s : State) (core d : Nat) : State :=
  let c := (s.core core).clocked s.now
  let t := c.boundary s.now
  if c.divSet = d then s
  else if c.isoff || t = s.now then (s.settle core).modCore core (fun c => { c with div := d })
  else s.setCore core { c with divNext := if c.div = d then none else some (t, d), nextIss := max c.nextIss t }
/-- Cores of a terrace below its MINDIV are raised to it. -/
def State.raiseDivs (s : State) (t : Nat) : State :=
  let m := s.minDiv t (s.terrace t).vid
  (List.range 16).foldl (fun s i => if (s.core (16 * t + i)).divSet < m then s.setDiv (16 * t + i) m else s) s
/-- A core may switch off: every slot Free, the system slot not Ready, nothing outstanding. -/
def State.mayOff (s : State) (core : Nat) : Bool :=
  let c := s.core core
  c.off && !c.isoff && (List.range 4).all (fun k => (s.thread (tidOf core k)).st == .free) &&
  !((s.thread (tidOf core 4)).st == .ready || (s.thread (tidOf core 4)).st == .running) &&
  c.orphans.isEmpty && c.ksq.isEmpty && c.dirQ.isEmpty && !(s.croft (croftOf core)).sfu.any (fun r => coreOf r.tid == core)
def execCorePowerOff (core : Nat) (s : State) : Host.Outcome State Fault Refusal :=
  .next (if s.mayOff core then (s.settle core).modCore core (fun c => { c with isoff := true, asleep := false }) else s)
/-- A switched-off core comes on: its store holds FILL, queued directory events and waiting messages are taken. -/
def State.powerOn (s : State) (core : Nat) : State :=
  if !(s.core core).isoff then s else
  let s := (s.settle core).modCore core (fun c => { c with isoff := false, wakeBy := none, bal := c.fill })
  (s.reeveAll core).startAll core
def execCorePowerOn (core : Nat) (s : State) : Host.Outcome State Fault Refusal := .next (s.powerOn core)
/-- The steward applies one write. -/
def State.stewardApply (s : State) (w : StewardWrite) : State :=
  let v := w.val.toNat
  match w.kind with
  | 0 => s.setTerrace w.unit { s.terrace w.unit with droop := v % 256 }
  | 1 =>
    let vid := v % 256
    let m := s.minDiv w.unit vid
    let worse := s.minDiv w.unit (s.terrace w.unit).vid < m && (List.range 16).any (fun i => decide ((s.core (16 * w.unit + i)).divSet < m))
    if 160 < vid || worse then s else s.setTerrace w.unit { s.terrace w.unit with vid := vid }
  | _ =>
    let d := v % 16
    let s := if d < s.minDiv (terraceOf w.unit) (s.terrace (terraceOf w.unit)).vid then s else s.setDiv w.unit d
    let s := s.modCore w.unit (fun c => { c with off := v.testBit 8 })
    if v.testBit 8 then s else s.wakeCore w.unit
/-- A notice of the steward for a core's reeve: the core comes on, its system slot issues again (R110, R351). -/
def State.stewardNotice (s : State) (core : Nat) : State := if core < nCores then (s.wakeReeve core).wakeCore core else s
/-- The writes whose whole microsecond has come, in order. -/
def State.steward (s : State) : State :=
  let due := s.fleet.steward.filter (fun w => decide (w.due ≤ s.now))
  let s := { s with fleet := { s.fleet with steward := s.fleet.steward.filter (fun w => !decide (w.due ≤ s.now)) } }
  due.foldl State.stewardApply s
def execStewardControlApply (s : State) : Host.Outcome State Fault Refusal := .next s.steward

end Sys2Proof.Machine
end

