-- ==== Sys2Proof/Machine/Fleet.lean ====
section
/-!
DEFINITION. Reset and training (R316 to R318), lasers (R342, R343), sensors (R349), keys (R347, R348), counters and
Echo units (R353 to R355), and the writes of the registers in the space of R309, R282 and R341.
-/
namespace Sys2Proof.Machine

/-! ## Reset and training -/

/-- An extension of an attestation record (R321): the first 64 bytes of SHAKE256 of the record and the measurement. -/
def extendRec (r m : List Byte) : List Byte := shake256 64 (r ++ m)
/-- Device reset with a boot configuration (R15, R317, R318, R342, R347, R348): what the nonvolatile store keeps of the
lasers stays; nothing has trained. -/
def State.resetWith (s : State) (b : Boot) : State :=
  let old (n : Nat) : Lane := s.lane n
  let lanes : SMap Lane := ⟨(List.range 192).map (fun n =>
    (n, { bias0 := (old n).bias0, biasRef := (old n).biasRef, hours := (old n).hours, biasMax := b.biasMax.getD n 0 }))⟩
  let ports : SMap OPort := ⟨(List.range 24).map (fun p => (p, { cipher := b.ciphers.contains p }))⟩
  let pub := (b.kemKey.drop 1536).take 1568
  let r := State.reset
  { r with
    terraces := ⟨b.vid.zipIdx.map (fun c => (c.2, { vid := c.1 }))⟩,
    well := { r.well with lanes := lanes, ports := ports },
    fleet :=
      { r.fleet with
        devId := (b.devId.getD 0) % 1024, idValid := b.devId.isSome, snap := lanes, kemPub := pub, kemKey := b.kemKey, devKey := b.devKey,
        devRec := extendRec b.devRec (shake256 64 pub) },
    freeCtr := s.freeCtr, agenda := s.agenda }
def execDeviceReset (b : Boot) (s : State) : Host.Outcome State Fault Refusal := .next (s.resetWith b)
/-- A port may be ready (R318, R344, R346, R347). -/
def State.portTrains (s : State) (p : Nat) : Bool :=
  let o := s.oport p
  decide (p < 24) && s.fleet.idValid && !o.suspect && decide (s.erasedCount p ≤ 2) && (!o.cipher || decide (1 ≤ s.fleet.newGen))
/-- A function has trained: its readiness bit rises (R316). A terrace bit that has fallen stays 0 until reset. -/
def State.trained (s : State) (f : Func) : State :=
  match f with
  | .terrace n => if n < 6400 && !(s.terrace n).fallen then s.setReady 0 n true else s
  | .mill n => if n < 12800 then s.setReady 0x400 n true else s
  | .cart n => if n < 12800 then s.setReady 0xC00 n true else s
  | .ucie n => if n < 4 then ({ s with host := { s.host with ucie := s.host.ucie.put n true } } : State).setReady 0x1400 (56 + n) true else s
  | .port n => if s.portTrains n then (s.setReady 0x1400 (32 + n) true).lightChanged else s
  | .slice n => if n < 16 then s.setReady 0x1400 (16 + n) true else s
  | .hbm n => if n < 16 then s.setReady 0x1400 n true else s
def execFunctionTrained (f : Func) (s : State) : Host.Outcome State Fault Refusal := .next (s.trained f)

/-! ## Lasers (R342, R343) -/

/-- EOL of the last hourly samples, oldest first: the hours until their least-squares line reaches BIASMAX. `up` rounds
a fraction up; the spec does not say which way it goes. -/
def eolOf (ys : List Nat) (biasMax : Nat) (up : Bool) : Nat :=
  let n : Int := ys.length
  let sx : Int := n * (n - 1) / 2
  let sxx : Int := (n - 1) * n * (2 * n - 1) / 6
  let sy : Int := ys.foldl (fun a y => a + (y : Int)) 0
  let sxy : Int := ys.zipIdx.foldl (fun a c => a + (c.1 : Int) * (c.2 : Int)) 0
  let den := n * sxx - sx * sx
  let num := n * sxy - sx * sy
  if ys.length < 48 || num ≤ 0 then 0xFFFFFFFF else
  let top := (biasMax : Int) * n * den - sy * den + num * sx - (n - 1) * n * num
  let bot := n * num
  let q := if up then (top + bot - 1) / bot else top / bot
  min 0xFFFFFFFE q.toNat
/-- The hourly sample of a lit lane (R342). -/
def State.sampleLane (s : State) (n : Nat) (bias : Nat) : State :=
  let l := s.lane n
  if 192 ≤ n || l.st != 0 then s else
  let ys := (l.samples ++ [bias]).drop (l.samples.length + 1 - 720)
  let eol := if l.biasMax ≤ bias then 0 else eolOf ys l.biasMax ((Config.freeValue s.freeCtr).getLsbD 0)
  let first := 2000 ≤ l.eol && eol < 2000
  let s := s.freshCtr.setLane n
    { l with biasRef := bias, bias0 := if l.hours = 0 then bias else l.bias0, hours := l.hours + 1, samples := ys, eol := eol }
  if first then s.fleetEv 1 else s
def execLaserHourlySample (lane : Nat) (bias : BitVec 32) (s : State) : Host.Outcome State Fault Refusal := .next (s.sampleLane lane bias.toNat)
/-- A laser's temperature, in 0.0625 °C (R342). -/
def State.laneTemp (s : State) (n : Nat) (t : BitVec 16) : State := if n < 192 then s.setLane n { s.lane n with temp := t } else s
/-- TELSNAP.SNAP: all 192 records are copied (R343). -/
def execTelsnapSnap (s : State) : Host.Outcome State Fault Refusal :=
  .next { s with fleet := { s.fleet with
    snap := ⟨(List.range 192).map (fun n => (n, s.lane n))⟩, snapGen := s.fleet.telgen, snapCnt := (s.fleet.snapCnt + 1) % 2 ^ 16 } }

/-! ## Ports (R344, R346) -/

/-- PORTCTL.RETRAIN: every erased lane that is not failed retrains; it reads 1 until none is left. -/
def execPortRetrain (p : Nat) (s : State) : Host.Outcome State Fault Refusal :=
  let any := (List.range 8).any (fun i => (s.lane (8 * p + i)).erased && !(s.lane (8 * p + i)).failed)
  .next (if p < 24 then s.setOport p { s.oport p with retrain := any } else s)
/-- PORTCTL.SUSPECT written 1: it and every count of the port are cleared. -/
def execSuspectClear (p : Nat) (s : State) : Host.Outcome State Fault Refusal :=
  .next (if p < 24 then s.setOport p { s.oport p with suspect := false, strays := 0, pairs := {} } else s)

/-! ## Keys (R348) -/

/-- No transmitter uses the older held generation and no replay buffer holds a flit of it. -/
def State.oldFree (s : State) : Bool :=
  let f := s.fleet
  f.lowGen == f.newGen || (f.txGen != f.lowGen &&
    !s.well.ports.cells.any (fun c => c.2.flits.any (fun x => x.gen == some f.lowGen)))
/-- KEYCTL written with INSTALL: an INSTALL of GEN begins; it takes at most 200 µs. -/
def State.keyBegin (s : State) (v : B64) : State :=
  let gen := v.toNat / 2 ^ 32
  let f := { s.fleet with keyGen := gen, keySw := v.getLsbD 1 }
  { s with fleet := if f.keyBusy.isSome then f else { f with keyBusy := some gen } }
def execKeyInstall (v : B64) (s : State) : Host.Outcome State Fault Refusal := .next (s.keyBegin v)
/-- An INSTALL finishes: the held pair changes, or ERR is set (R348). The blob's key is unmasked by the shared secret of
its ciphertext. -/
def State.keyDone (s : State) : State :=
  let f := s.fleet
  match f.keyBusy with
  | none => s
  | some gen =>
    let s := s.mergeAt f.keyAddr.toNat 1604
    let blob := readBytes s.mem f.keyAddr.toNat 1604
    let ok := gen == f.newGen + 1 && s.oldFree && leNat (blob.drop 1600) == gen
    let mask := shake256 32 (kemDecap f.kemKey (blob.take 1568) ++ leBytes 4 gen)
    let key := List.zipWith (fun (a b : Byte) => a ^^^ b) ((blob.drop 1568).take 32) mask
    let f' := if ok then
        { f with keyBusy := none, keyErr := false, lowGen := f.newGen, newGen := gen,
                 keys := (⟨f.keys.cells.filter (fun c => c.1 == f.newGen)⟩ : SMap (List Byte)).put gen key }
      else { f with keyBusy := none, keyErr := true }
    ({ s with fleet := f' } : State).fleetEv 9
def execKeyInstallDone (s : State) : Host.Outcome State Fault Refusal := .next s.keyDone
/-- KEYCTL written with SWITCH: transmitters use the newest held generation from their next packet on. -/
def State.keySwitch (s : State) (v : B64) : State :=
  let f := { s.fleet with keyGen := v.toNat / 2 ^ 32, keySw := v.getLsbD 1 }
  let f := if f.txGen = f.newGen then { f with keyErr := true } else { f with keyErr := false, txGen := f.newGen }
  ({ s with fleet := f } : State).fleetEv 9
def execKeySwitch (v : B64) (s : State) : Host.Outcome State Fault Refusal := .next (s.keySwitch v)

/-! ## Sensors (R349) -/

/-- The two neighbours of a sensor: the next terraces of its row in its field, the two nearest at an edge. -/
def sensorPair (n : Nat) : Nat × Nat :=
  match n / 2 % 5 with
  | 0 => (n + 2, n + 4)
  | 4 => (n - 4, n - 2)
  | _ => (n - 2, n + 2)
/-- Half of a sum; the spec does not say how an odd one is rounded, so one bit is free. -/
def halfFree (x : Int) (bit : Bool) : Int := if x % 2 = 0 then x / 2 else x / 2 + (if bit then 1 else 0)
/-- The middle of three numbers. -/
def median3 (a b c : Int) : Int := max (min a b) (min (max a b) c)
/-- One sensor's reading `raw`, judged against its neighbours' readings `now n` of the same round. -/
def State.readSensor (s : State) (newRaw : Nat → BitVec 16) (n : Nat) : State × Bool :=
  let old := s.fleet.sens.get {} n
  let raw := newRaw n
  let p := sensorPair n
  let sg (x : BitVec 16) : Int := x.toInt
  let temp := n % 2 == 0
  let doubted (m : Nat) : Bool := (s.fleet.sens.get {} m).doubt
  let moved (m : Nat) : Bool :=
    let d := sg (newRaw m) - sg (s.fleet.sens.get {} m).raw
    decide ((if temp then 16 else 40) ≤ d.natAbs)
  let bit := (Config.freeValue s.freeCtr).getLsbD 0
  let nb := (if doubted p.1 then [] else [sg (newRaw p.1)]) ++ (if doubted p.2 then [] else [sg (newRaw p.2)])
  let off := match nb with
    | [] => false
    | [a] => decide (160 < (sg raw - a).natAbs)
    | a :: b :: _ => decide (320 < (2 * sg raw - (a + b)).natAbs)
  let out := if temp then sg raw < -640 || 2400 < sg raw else sg raw < 1600 || 4800 < sg raw
  let bad := (raw == old.raw && moved p.1 && moved p.2) || out || off
  let run := if bad then min 8 (old.run + 1) else 0
  let doubt := old.doubt || run == 8
  let value : Int :=
    if doubt then (match nb with | [] => sg old.val | [a] => a | a :: b :: _ => halfFree (a + b) bit)
    else (match nb with | [] => sg raw | [a] => halfFree (sg raw + a) bit | a :: b :: _ => median3 (sg raw) a b)
  let x : Sensor := ⟨raw, BitVec.ofInt 16 value, doubt, run⟩
  (({ s with fleet := { s.fleet with sens := s.fleet.sens.put n x } } : State).freshCtr, doubt && !old.doubt)
/-- A sensor newly doubted: a record of kind 4 and FLEETEV.DOUBT. -/
def State.noteDoubt (s : State) (n : Nat) : State :=
  (s.errRecord 4 0 0 false n 0 ((s.fleet.sens.get ({} : Sensor) n).raw.setWidth 64)).fleetEv 7
/-- A round of readings, all judged on the state before it; a rise in temperature may raise dividers (R351). -/
def State.readSensors (s : State) (rs : List (Nat × BitVec 16)) : State :=
  let rs := rs.filter (fun c => c.1 < 12800)
  let newRaw (n : Nat) : BitVec 16 := match rs.find? (fun c => c.1 == n) with | some c => c.2 | none => (s.fleet.sens.get {} n).raw
  let ns := (rs.map (·.1)).dedup
  let r := ns.foldl (fun (a : State × List Nat) n =>
    let x := ({ s with freeCtr := a.1.freeCtr } : State).readSensor newRaw n
    (({ a.1 with fleet := { a.1.fleet with sens := a.1.fleet.sens.put n (x.1.fleet.sens.get {} n) } } : State).freshCtr,
      if x.2 then a.2 ++ [n] else a.2)) (s, [])
  let s := r.2.foldl State.noteDoubt r.1
  ((ns.filter (fun n => n % 2 == 0)).map (· / 2)).foldl State.raiseDivs s
def execSensorRead (rs : List (Nat × BitVec 16)) (s : State) : Host.Outcome State Fault Refusal := .next (s.readSensors rs)
def execSensDoubtClear (n : Nat) (s : State) : Host.Outcome State Fault Refusal :=
  .next (if n < 12800 then { s with fleet := { s.fleet with sens := s.fleet.sens.put n { s.fleet.sens.get {} n with doubt := false } } } else s)

/-! ## Counters, Echo units, events (R352 to R355) -/

/-- An Echo unit changes. -/
def State.setEcho (s : State) (e : Nat) (f : Echo → Echo) : State :=
  { s with fleet := { s.fleet with echo := s.fleet.echo.put e (f (s.fleet.echo.get {} e)) } }
def execEchoctlWrite (e : Nat) (v : B64) (s : State) : Host.Outcome State Fault Refusal :=
  .next (if e < 16 then s.setEcho e (fun x => { x with ctl := v &&& 0x1BFFFF#64, pos := 0 }) else s)
def execSqevcntWrite (c : Nat) (v : B64) (s : State) : Host.Outcome State Fault Refusal :=
  .next (if c < 64 then { s with fleet := { s.fleet with sqcnt := s.fleet.sqcnt.put c v, sqAt := s.fleet.sqAt.put c s.now } } else s)
/-- FLEETEV is read and cleared: no bit is left to report (R352). -/
def State.readFleetev (s : State) : State :=
  { s with host := { s.host with lastRd := s.fleet.ev.setWidth 64, fleetPend := false }, fleet := { s.fleet with ev := 0 } }
def execFleetevRead (s : State) : Host.Outcome State Fault Refusal := .next s.readFleetev
/-- POUNDSTAT is read: PEAK starts again from the entries held (R355). -/
def State.readPoundstat (s : State) : State :=
  let use := s.poundUse
  { s with host := { s.host with lastRd := BitVec.ofNat 64 (use + 2 ^ 16 * max use s.sq.peak) }, sq := { s.sq with peak := use } }
def execPoundstatRead (s : State) : Host.Outcome State Fault Refusal := .next s.readPoundstat

/-! ## The Well's and the Almanac's registers (R282, R314) -/

/-- WELLCFG: a MARGIN above 40 is ignored; a changed MARGIN re-evaluates every path with a grant (R283). Like every register
of R309 it is reached over the host link, once a module of it has trained (R317). -/
def State.wellcfg (s : State) (v : B64) : State :=
  if !s.linkUp then s else
  let m := v.toNat % 256
  let r := v.toNat / 2 ^ 32 % 256
  let s' := { s with well := { s.well with reserve := r, margin := if 40 < m then s.well.margin else m } }
  if s'.well.margin = s.well.margin then s' else s.well.paths.cells.foldl (fun a c => a.judge c.1) s'
def execWellcfgWrite (v : B64) (s : State) : Host.Outcome State Fault Refusal := .next (s.wellcfg v)
/-- ALMBASE: ignored while EN is 1, and when it sets EN with the area in a stack that is not ready (R314). -/
def State.almbaseSet (s : State) (v : B64) : State :=
  if !s.linkUp then s else
  let v := v &&& 0xFFFF800001#64
  if s.host.almbase.getLsbD 0 || (v.getLsbD 0 && !s.stackOk (v.toNat - v.toNat % 2 ^ 23)) then s
  else { s with host := { s.host with almbase := v } }
def execAlmbaseWrite (v : B64) (s : State) : Host.Outcome State Fault Refusal := .next (s.almbaseSet v)
/-- ALMTAIL: taken within [TAIL, HEAD] in modulo-2^32 order (R314). -/
def State.almtailSet (s : State) (v : B64) : State :=
  if !s.linkUp then s else
  let t := v.toNat % 2 ^ 32
  if (t + 2 ^ 32 - s.host.tail) % 2 ^ 32 ≤ s.almUsed then { s with host := { s.host with tail := t } } else s
def execAlmtailWrite (v : B64) (s : State) : Host.Outcome State Fault Refusal := .next (s.almtailSet v)

/-! ## Registers without a behaviour of their own (R8, R9) -/

/-- A write for the steward, applied at the next whole microsecond (R350, R351). -/
def State.toSteward (s : State) (kind unit : Nat) (v : B64) : State :=
  { s with fleet := { s.fleet with steward := s.fleet.steward ++ [⟨kind, unit, v, (s.now / 2000 + 1) * 2000⟩] } }
/-- An offset is reached: over the host link once a module has trained (R317); those of the fleet registers by the
steward's management port too (R341). -/
def State.reached (s : State) (off : Nat) : Bool := s.linkUp || decide (0x50000 ≤ off)
/-- A plain write of a register at a BAR0 offset: its writable fields take the value, other bits and offsets ignore it. Bits 2:0
and 63:40 of KEYADDR (an 8-aligned PA, R341) and bits 15:0 and 63:40 of ECHOBASE (a 64 KiB-aligned PA, R354) are dropped and
read 0: the spec does not say what a write of them does (the model's choices; log entry 45). -/
def State.regWrite (s : State) (off : Nat) (v : B64) : State :=
  if !s.reached off then s else
  let unit (base w : Nat) : Nat := (off - base) / w
  let at_ (base w n k : Nat) : Bool := decide (base ≤ off) && decide (off < base + w * n) && (off - base) % w == k
  if off = 0x218 then { s with host := { s.host with almirq := v &&& 0x13F#64 } }
  else if at_ 0x40100 8 192 0 then s.setLane (unit 0x40100 8) { s.lane (unit 0x40100 8) with loss := v.toNat % 2 ^ 16 }
  else if off = 0x57008 then { s with fleet := { s.fleet with keyAddr := v &&& 0xFFFFFFFFF8#64 } }
  else if off = 0x57000 then { s with fleet := { s.fleet with keyGen := v.toNat / 2 ^ 32, keySw := v.getLsbD 1 } }
  else if at_ 0x60000 1 6400 0 then s.toSteward 0 (off - 0x60000) v
  else if at_ 0x90000 8 6400 0 then s.toSteward 1 (unit 0x90000 8) v
  else if at_ 0x100000 8 102400 0 then s.toSteward 2 (unit 0x100000 8) v
  else if at_ 0x70000 16 64 0 then { s with fleet := { s.fleet with sqsel := s.fleet.sqsel.put (unit 0x70000 16) (v.setWidth 16) } }
  else if off = 0x78048 then ({ s with fleet := { s.fleet with evIrq := v &&& 0x13F#64 } } : State).fleetIrq
  else if at_ 0x80000 32 16 8 then
    let b := v &&& 0xFFFFFF0000#64
    if s.stackOk b.toNat then s.setEcho (unit 0x80000 32) (fun x => { x with base := b }) else s
  else s
def execRegisterWrite (off : Nat) (v : B64) (s : State) : Host.Outcome State Fault Refusal := .next (s.regWrite off v)

end Sys2Proof.Machine
end

