-- ==== Sys2Proof/Machine/Host.lean ====
section
/-!
DEFINITION. Host commands (R311 to R315): posting and acceptance, the order of starting, and the commands on contexts,
launches, translations, windows and attestation (R241 to R245, R312, R319 to R326).
-/
namespace Sys2Proof.Machine

/-! ## Blocks (R312, R241) -/

/-- STATUS codes (R313). -/
def stFORMAT : Nat := 1
def stCONTEXT : Nat := 2
def stRANGE : Nat := 3
def stNOTREADY : Nat := 4
def stTRANSLATE : Nat := 5
def stDUPLICATE : Nat := 9
/-- A rectangle's field breaks R241. -/
def badRect (r : Nat) : Bool :=
  319 < r % 512 || 319 < bits r 24 16 || 319 < bits r 40 32 || 319 < bits r 56 48 ||
  bits r 15 9 != 0 || bits r 31 25 != 0 || bits r 47 41 != 0 || bits r 63 57 != 0
/-- The numbers of a wrapping range of 320, ascending. -/
def wrapRange (a n : Nat) : List Nat :=
  if a + n ≤ 320 then (List.range n).map (a + ·) else List.range (a + n - 320) ++ (List.range (320 - a)).map (a + ·)
/-- The cores of a rectangle, ascending; it wraps around the torus. -/
def rectCores (r : Nat) : List Nat :=
  (wrapRange (bits r 24 16) (bits r 56 48 + 1)).flatMap (fun y => (wrapRange (r % 512) (bits r 40 32 + 1)).map (fun x => y * 320 + x))
/-- The field checks of R312 and, for LAUNCH, R241: reserved bits 0, every limit kept, a listed CMD. -/
def fieldsOk (b : List B64) : Bool :=
  let d (i : Nat) : Nat := dw b i
  let zeroFrom (k : Nat) : Bool := (List.range 8).all (fun i => i < k || d i == 0)
  let lo (hi l : Nat) : Bool := bits (d 0) hi l == 0
  let top := lo 63 48
  match cmdCode b with
  | 0x01 => lo 63 8 && zeroFrom 1
  | 0x02 => lo 63 8 && zeroFrom 1
  | 0x10 => lo 15 8 && lo 31 20 && top && d 1 % 4096 == 0 && d 3 / 2 ^ 16 == 0 && zeroFrom 4
  | 0x11 => lo 31 8 && top && d 1 == 0 && !badRect (d 2) && zeroFrom 3
  | 0x12 => lo 31 8 && top && zeroFrom 1
  | 0x20 => lo 31 8 && top && d 1 % 16 == 0 && d 3 % 0x10000 == 0 && zeroFrom 4
  | 0x21 =>
    let list := (d 0).testBit 8
    let d3 := d 3
    lo 31 28 && top && (!(d 0).testBit 9 || lo 15 10) && d 1 % 2 ^ 32 != 0 &&
    (if list then d 2 % 4 == 0 && decide (1 ≤ d3) && decide (d3 ≤ 102400) else !badRect (d 2) && d3 == 0) &&
    d 6 % 8 == 0 && decide (d 7 ≤ 8)
  | 0x22 => lo 31 14 && top && zeroFrom 2
  | 0x30 => lo 31 9 && top && zeroFrom 2
  | 0x31 => lo 31 20 && top && d 1 % 0x10000 == 0 && decide (1 ≤ d 2) && decide (d 2 ≤ 2 ^ 40) && decide (d 3 < 8) && zeroFrom 4
  | 0x32 => lo 63 20 && zeroFrom 1
  | 0x40 => lo 31 8 && top && d 1 % 64 == 0 && zeroFrom 6
  | 0x50 => lo 15 8 && lo 31 17 && top && d 1 % 0x10000 == 0 && d 3 / 2 ^ 32 == 0 && zeroFrom 4
  | 0x51 => lo 31 8 && top && d 1 % 0x10000 == 0 && zeroFrom 3
  | _ => false
/-- The row of the table a block belongs to; codes not listed are refused under NOP's. -/
def rowOf (b : List B64) : Nat :=
  let c := cmdCode b
  if [0x01, 0x02, 0x10, 0x11, 0x12, 0x20, 0x21, 0x22, 0x30, 0x31, 0x32, 0x40, 0x50, 0x51].contains c then c else 1

/-! ## What the Square reads through a context's translation -/

/-- The location of a virtual address: device memory or the global scratchpad window. -/
def State.hostLoc (s : State) (ctx va : Nat) : Option Nat :=
  if 0xFFF0000000000 ≤ va then
    if va < 0xFFF0640000000 then some (spadLoc ((va - 0xFFF0000000000) / 0x40000) ((va - 0xFFF0000000000) % 0x40000)) else none
  else match s.walk ctx va with
    | .leaf log2 e => if e.testBit 5 then none else some (bits e 39 12 * 2 ^ 12 + va % 2 ^ log2)
    | .none _ => none
/-- `k` values of `n` bytes from `va` on; none if one does not translate. -/
def State.hostWords (s : State) (ctx n : Nat) : Nat → Nat → Option (List Nat)
  | 0, _ => some []
  | k + 1, va =>
    match s.hostLoc ctx va with
    | none => none
    | some l => (s.hostWords ctx n k (va + n)).map (fun r => leNat (readBytes s.mem l n) :: r)

/-- The Square's walks for addresses of which one may not translate: a broken entry is counted (R323). -/
def State.hostMiss (s : State) (ctx : Nat) (vas : List Nat) : State :=
  match vas.find? (fun va => (s.hostLoc ctx va).isNone) with
  | some va => s.bumpWalk ctx (BitVec.ofNat 64 va)
  | none => s
/-- The addresses of `k` values of `n` bytes. -/
def hostAddrs (n k va : Nat) : List Nat := (List.range k).map (fun i => va + n * i)

/-! ## The acceptance of LAUNCH (R242) -/

/-- Insertion into an ascending list. -/
def insNat (x : Nat) : List Nat → List Nat
  | [] => [x]
  | y :: ys => if x ≤ y then x :: y :: ys else y :: insNat x ys
/-- Ascending order. -/
def sortNat (l : List Nat) : List Nat := l.foldr insNat []
/-- The context of a launch the Square tracks under an id, queued ones included. -/
def State.trackedCtx (s : State) (lid : Nat) : Option Nat :=
  match s.sq.launches.find? (fun l => l.lid == lid) with
  | some l => some l.ctx
  | none => (s.host.cmds.find? (fun c => isLaunch c && dw c.block 1 % 2 ^ 32 == lid)).map (fun c => cmdCtx c.block)
/-- A core whose terrace, mill and cart are ready. -/
def State.coreReady (s : State) (c : Nat) : Bool := s.terraceReady c && s.millReady c && s.cartReady c
/-- The class a launch enters by: CLASS, or the image's default. -/
def launchClass (b : List B64) (dflt : Option Nat) : Option Nat := if (dw b 0).testBit 9 then dflt else some (bits (dw b 0) 15 10)
/-- The predecessors a LAUNCH waits for: those accepted before it, tracked or queued, that are not yet triggered (R245). -/
def State.waitsOf (s : State) (b : List B64) : List Nat :=
  (predsOf b).filter (fun p => s.sq.launches.any (fun l => l.lid == p && !l.isTrig) ||
    s.host.cmds.any (fun c => isLaunch c && dw c.block 1 % 2 ^ 32 == p))
/-- The checks of R242 in order: a STATUS, or the cores, arguments and class. The Square reads list and arguments here. -/
def State.launchCheck (s : State) (b : List B64) : Except Nat (List Nat × List B64 × Nat) :=
  if !fieldsOk b then .error stFORMAT
  else if (s.trackedCtx (dw b 1 % 2 ^ 32)).isSome then .error stDUPLICATE
  else
    let x := cmdCtx b
    match s.ctx? x with
    | none => .error stCONTEXT
    | some c =>
      match c.images.find? (fun i => i.1 == dw b 1 / 2 ^ 32) with
      | none => .error stCONTEXT
      | some img =>
        if c.ended then .error stCONTEXT else
        match launchClass b img.2 with
        | none => .error stFORMAT
        | some cls =>
          if (c.classes.get ⟨0, 0⟩ cls).entry = 0 then .error stFORMAT else
          let list := if (dw b 0).testBit 8 then s.hostWords x 4 (dw b 3) (dw b 2) else some (rectCores (dw b 2))
          let args := s.hostWords x 8 (dw b 7) (dw b 6)
          match list, args with
          | some cores, some args =>
            let cs := sortNat cores
            if cs.any (fun n => nCores ≤ n) || cs.dedup.length != cs.length then .error stRANGE
            else if cs.any (fun n => (s.core n).ctx != some x) then .error stCONTEXT
            else if cs.any (fun n => !s.coreReady n) then .error stNOTREADY
            else if (predsOf b).any (fun p => match s.trackedCtx p with | some y => y != x | none => false) then .error stCONTEXT
            else .ok (cs, args.map (BitVec.ofNat 64), cls)
          | _, _ => .error stTRANSLATE

/-! ## The command port (R311, R313, R315) -/

/-- CMDCREDIT. -/
def State.credit (s : State) : Nat :=
  if s.host.almbase.getLsbD 0 then min (256 - (s.host.cmds.filter (fun c => c.st == 1)).length) (65536 - s.almUsed) else 0
/-- A discarded write: CMDDROP[31:0] rises by 1 and wraps. -/
def State.dropWrite (s : State) : State :=
  let d := s.host.drop
  { s with host := { s.host with drop := (d &&& 0xFFFFFFFF00000000#64) ||| ((d + 1) &&& 0xFFFFFFFF#64) } }
/-- Completes a command. -/
def State.finish (s : State) (c : Cmd) (status result : Nat) : State := s.setCmd c.q (if status = 0 then 3 else 4) status result
/-- ABORT: every command not yet started fails with ABORTED (R315). -/
def State.abort (s : State) (q : Nat) : State :=
  let cs := s.host.cmds.filter (fun c => c.st == 1)
  (cs.foldl (fun s c => s.setCmd c.q 4 0x0C 0) s).dropLaunches.setCmd q 3 0 cs.length
/-- What the tasks of launches that are tracked no longer did is visible before a launch that names them is accepted (R214). -/
def State.recallLeft (s : State) (ids : List Nat) : State :=
  let mine := s.sq.left.filter (fun x => ids.contains x.1)
  let s := { s with sq := { s.sq with left := s.sq.left.filter (fun x => !ids.contains x.1) } }
  mine.foldl (fun s x => s.showSers x.2) s
/-- Accepts a block: it is numbered, entered in the Almanac and checked; ABORT runs at once, the rest waits. -/
def State.accepted (s : State) (b : List B64) : State :=
  let q := s.host.head
  let s := s.homeWrite (s.almEntry q) (b.flatMap (fun (v : B64) => leBytes 8 v.toNat))
  let s := s.homeWrite (s.almState q) (leBytes 8 (stateWord q 1 0 0))
  let s := ({ s with host := { s.host with head := (q + 1) % 2 ^ 32 } } : State).countSq 1 0 1
  if cmdCode b = 0x21 then
    let s := s.mergeWhere (fun _ => true)
    match s.launchCheck b with
    | .error st =>
      (if st = stTRANSLATE then
        (s.hostMiss (cmdCtx b) (if (dw b 0).testBit 8 then hostAddrs 4 (dw b 3) (dw b 2) else [])).hostMiss (cmdCtx b) (hostAddrs 8 (dw b 7) (dw b 6))
      else s).setCmd q 5 st 0
    | .ok r =>
      let s := s.recallLeft (predsOf b)
      { s with host := { s.host with cmds := s.host.cmds ++ [⟨q, b, 1, r.1, r.2.1, r.2.2, s.waitsOf b⟩] } }
  else if !fieldsOk b then s.setCmd q 5 stFORMAT 0
  else if cmdCode b = 0x02 then s.abort q
  else { s with host := { s.host with cmds := s.host.cmds ++ [⟨q, b, 1, [], [], 0, []⟩] } }
/-- A write to CMDPORT (R311): whole and with credit, or discarded and counted. -/
def State.post (s : State) (whole : Bool) (b : List B64) : State :=
  if !s.linkUp then s else if !whole || b.length != 8 || s.credit == 0 then s.dropWrite else s.accepted b

/-! ## Starting (R313) -/

/-- A save holds the context's LAUNCH commands (R332, R338). -/
def State.launchHeld (s : State) (c : Cmd) : Bool :=
  match s.ctx? (cmdCtx c.block) with | some x => x.stop || x.noStart || x.saved | none => false
/-- A LAUNCH that may not start yet: 1,024 are tracked (R244), or it is held. -/
def State.launchWaits (s : State) (c : Cmd) : Bool := isLaunch c && (decide (1024 ≤ s.sq.launches.length) || s.launchHeld c)
/-- Command `c` may start while the earlier `d` has not. -/
def State.passes (s : State) (c d : Cmd) : Bool :=
  (cmdCode c.block == 0x30 && cmdCode d.block != 0x30) ||
  (s.launchWaits d && (!isLaunch c || s.launchHeld d))
/-- The queued command `q` of a row, if it may start now. -/
def State.startable (s : State) (q row : Nat) : Option Cmd :=
  match s.host.cmds.find? (fun c => c.q == q && c.st == 1) with
  | none => none
  | some c =>
    let before := (s.host.cmds.takeWhile (fun d => d.q != q)).filter (fun d => d.st == 1)
    if cmdCode c.block == row && !s.launchWaits c && before.all (s.passes c) then some c else none
/-- A step of a command row: a posted block of it, or the start of one, whose STATE 2 precedes its effects (R313). -/
def State.command (s : State) (row : Nat) (h : HostArg) (run : State → Cmd → State) : State :=
  match h with
  | .post w b => if !w || rowOf b == row then s.post w b else s
  | .start q =>
    match s.startable q row with
    | none => s
    | some c => run (s.setCmd q 2 0 0) c

/-- NOP. -/
def execHostNop (h : HostArg) (s : State) : Host.Outcome State Fault Refusal := .next (s.command 0x01 h (fun s c => s.finish c 0 0))
/-- ABORT: it starts as soon as it is accepted. -/
def execHostAbort (h : HostArg) (s : State) : Host.Outcome State Fault Refusal := .next (s.command 0x02 h (fun s c => s.abort c.q))

/-! ## Contexts (R319) -/

/-- Every value of a context's spray states is 0 (R286). -/
def State.clearSprays (s : State) (x : Nat) : State := { s with sq := { s.sq with sprays := s.sq.sprays.filter (fun y => y.ctx != x) } }
/-- CTX_CREATE. -/
def State.createCtx (s : State) (c : Cmd) : State :=
  let b := c.block
  let x := cmdCtx b
  if (s.ctx? x).isSome || 1024 ≤ s.ctxs.cells.length then s.finish c stCONTEXT 0
  else if !s.memUsable (dw b 1) 4096 then s.finish c stRANGE 0
  else
    let k : Ctx :=
      { prio := bits (dw b 0) 18 16, sys := (dw b 0).testBit 19, root := dw b 1, tvec := tvecAddr (b.getD 2 0), quota := dw b 3,
        attRec := List.replicate 64 0 }
    let s := s.setCtx x k
    (s.clearSprays x).finish c 0 0
def execCtxCreate (h : HostArg) (s : State) : Host.Outcome State Fault Refusal := .next (s.command 0x10 h State.createCtx)
/-- A context is loaded onto a core: the per-core registers take their reset values, TVEC the context's (R24, R150). -/
def State.loadCore (s : State) (x : Nat) (k : Ctx) (core : Nat) : State :=
  (s.keepCounts core 0).modCore core (fun c =>
    let c := c.clocked s.now
    { c with
      ctx := some x, tvec := k.tvec, cyc := 0, cycAt := max s.now c.cycAt, cycBase := c.cycBase + s.cycles core, halfTill := c.halfTill - s.cycles core, cap := 4096,
      capNow := 4096, fill := 2048, bal := 4096, binbase := 0, bincnt := 0, ackOwed := {}, ackRecv := {}, chSet := {} })
/-- CTX_PLACE. -/
def State.placeCtx (s : State) (c : Cmd) : State :=
  let x := cmdCtx c.block
  match s.ctx? x with
  | none => s.finish c stCONTEXT 0
  | some k =>
    let cores := rectCores (dw c.block 2)
    if k.ended || cores.any (fun n => match (s.core n).ctx with | some y => y != x | none => false) then s.finish c stCONTEXT 0
    else if cores.any (fun n => !s.coreReady n) then s.finish c stNOTREADY 0
    else
      let new := cores.filter (fun n => (s.core n).ctx != some x)
      (new.foldl (fun s n => s.loadCore x k n) (if new.isEmpty then s else s.clearSprays x)).finish c 0 new.length
def execCtxPlace (h : HostArg) (s : State) : Host.Outcome State Fault Refusal := .next (s.command 0x11 h State.placeCtx)
/-- A mill job of the context has not retired. -/
def State.jobsLeft (s : State) (x : Nat) : Bool :=
  s.cores.cells.any (fun k => match k.2.millCur with | some j => j.ctx == x | none => false)
/-- The record of an ended context whose jobs have retired is freed, and its cores hold no context. -/
def State.freeCtx (s : State) (x : Nat) : State :=
  { s with ctxs := s.ctxs.erase x,
           cores := s.cores.map (fun (_ : Nat) (c : Core) => if c.ctx = some x then { c with ctx := none } else c) }
/-- CTX_END commands whose jobs have retired complete. -/
def State.finishEnds (s : State) : State :=
  let ready := s.host.ends.filter (fun e => !s.jobsLeft e.2)
  if ready.isEmpty then s else
  let s := { s with host := { s.host with ends := s.host.ends.filter (fun e => s.jobsLeft e.2) } }
  ready.foldl (fun s e => (s.freeCtx e.2).setCmd e.1 3 0 0) s
/-- CTX_END. -/
def State.endCtx (s : State) (c : Cmd) : State :=
  let x := cmdCtx c.block
  match s.ctx? x with
  | none => s.finish c stCONTEXT 0
  | some k =>
    let s := if k.ended then s else s.endOutside x 0x0D
    ({ s with host := { s.host with ends := s.host.ends ++ [(c.q, x)] } } : State).finishEnds
def execCtxEnd (h : HostArg) (s : State) : Host.Outcome State Fault Refusal := .next (s.command 0x12 h State.endCtx)
/-- CLASS_DATA. -/
def State.classData (s : State) (c : Cmd) : State :=
  let x := cmdCtx c.block
  match s.ctx? x with
  | none => s.finish c stCONTEXT 0
  | some k =>
    let n := bits (dw c.block 0) 13 8
    let e := k.classes.get ⟨0, 0⟩ n
    (s.setCtx x { k with classes := k.classes.put n { e with data := c.block.getD 1 0 } }).finish c 0 0
def execClassData (h : HostArg) (s : State) : Host.Outcome State Fault Refusal := .next (s.command 0x22 h State.classData)

/-! ## LAUNCH (R243 to R245) -/

/-- The message for one core leaves the Square, with its own number (R248). -/
def State.launchMsg (s : State) (c : Cmd) (core : Nat) : State :=
  let b := c.block
  let m : Msg :=
    { src := 0x1FFFF, pair := squarePair, ctx := cmdCtx b, dest := core, chan := bits (dw b 0) 19 16, cls := c.cls, pay := c.args,
      no := s.sq.sqMsgNo, launch := some ⟨dw b 1 % 2 ^ 32, bits (dw b 0) 23 20, bits (dw b 0) 27 24⟩ }
  { s with drift := s.drift ++ [m], sq := { s.sq with sqMsgNo := (s.sq.sqMsgNo + 1) % 64 } }
/-- LAUNCH starts: tracked with the predecessors of its acceptance still to be triggered, releases of an earlier launch of
its id forgotten, one message per core in ascending order. It completes when its launch tasks have ended. -/
def State.startLaunch (s : State) (c : Cmd) : State :=
  let b := c.block
  let lid := dw b 1 % 2 ^ 32
  let l : Launch := { lid := lid, ctx := cmdCtx b, q := c.q, cores := c.cores, preds := predsOf b, waits := c.waits }
  let s :=
    { s with
      cores := s.cores.map (fun (_ : Nat) (k : Core) => { k with rel := k.rel.filter (fun r => r.1 != lid) }),
      sq :=
        { s.sq with
          launches := s.sq.launches ++ [l], relNot := s.sq.relNot.filter (fun r => r.2.1 != lid),
          trigQ := s.sq.trigQ.filter (fun q => q != lid), left := s.sq.left.filter (fun x => x.1 != lid) } }
  c.cores.foldl (fun s n => s.launchMsg c n) s
def execLaunch (h : HostArg) (s : State) : Host.Outcome State Fault Refusal := .next (s.command 0x21 h State.startLaunch)
/-- A launch is triggered once the stores its tasks made before are visible: release notices go to every core of its
tracked dependents, and queued ones wait for it no longer (R245, R214). -/
def State.trigger (s : State) (lid : Nat) : State :=
  match s.sq.launches.find? (fun l => l.lid == lid) with
  | none => s
  | some l =>
    if !s.sq.trigQ.contains lid || !l.sers.all (fun x => s.visibleUpTo x.1 x.2) then s else
    let deps := s.sq.launches.filter (fun m => !m.done && m.waits.contains lid)
    let nots := deps.flatMap (fun m => m.cores.map (fun n => (n, m.lid, lid)))
    ({ s with
      host := { s.host with cmds := s.host.cmds.map (fun (c : Cmd) => { c with waits := c.waits.filter (fun p => p != lid) }) },
      sq :=
      { s.sq with
        launches := s.sq.launches.map (fun (m : Launch) => if m.lid = lid then { m with isTrig := true } else m),
        trigQ := s.sq.trigQ.filter (fun q => q != lid), relNot := s.sq.relNot ++ nots } } : State).dropLaunches
def execLaunchTriggered (lid : Nat) (s : State) : Host.Outcome State Fault Refusal := .next (s.trigger lid)
/-- Release notice `n` reaches its core (R245). -/
def execReleaseNoticeArrival (n : Nat) (s : State) : Host.Outcome State Fault Refusal :=
  match s.sq.relNot[n]? with
  | none => .next s
  | some r => .next (({ s with sq := { s.sq with relNot := s.sq.relNot.eraseIdx n } } : State).modCore r.1 (fun c =>
      { c with rel := if c.rel.contains r.2 then c.rel else c.rel ++ [r.2] }))

/-! ## Translations and windows (R325, R326) -/

/-- The packets that cart jobs of a context have begun to fill leave for the Square (R325). -/
def State.flushBufs (s : State) (x : Nat) : State :=
  (s.cores.cells.flatMap (fun c => c.2.cartJobs.filter (fun j => j.ctx == x && j.buf.isSome))).foldl (fun s j =>
    let r := s.cartFlush j
    r.1.modCore j.core (fun c => c.putCart r.2)) s
/-- Every access of a context translated so far is performed but those that are out to a remote page (log entry 8): an `upd`
of order .rel after its thread's `ksend`s (R216), elements and packets that have begun to be written. Packets that its cart
jobs were filling leave. -/
def State.drainCtx (s : State) (x : Nat) : State :=
  let s := ((s.finishParts x).flushBufs x).endApplies (fun p => match s.sq.wins.get? p.wid with | some w => w.ctx == x | none => false)
  let s := (s.stores.filter (·.rel)).foldl (fun s p => s.fileUpTo p.tid p.ser) s
  (s.performAll (s.stores.filter (fun p => p.dead || (s.thread p.tid).ctx == x))).mergeWhere (fun _ => true)
/-- The translations that a test selects, in every TLB and second level. -/
def State.entriesOf (s : State) (p : TlbEntry → Bool) : List TlbEntry :=
  s.cores.cells.flatMap (fun c => c.2.tlb.filter p) ++ s.crofts.cells.flatMap (fun c => c.2.tlb2.filter p)
/-- The operations out to a remote page through one of a list of translations (R325); the address of an `rmcast` lies below
its path number (R187). -/
def State.opsUnder (s : State) (x : Nat) (gone : List TlbEntry) : List Nat :=
  (s.sq.ops.filter (fun o => o.ctx == x && gone.any (fun e => e.hits x (o.addr.toNat % 2 ^ 52)))).map (·.id)
/-- A command completes once the listed operations have been answered. -/
def State.finishAfter (s : State) (c : Cmd) (result : Nat) (ops : List Nat) : State :=
  if ops.isEmpty then s.finish c 0 result else { s with host := { s.host with shoots := s.host.shoots ++ [⟨c.q, result, ops⟩] } }
/-- The operations a command waits for have been answered. -/
def State.answeredAll (s : State) (h : Shoot) : Bool := !h.ops.any (fun n => s.sq.ops.any (fun o => o.id == n))
/-- Invalidations whose operations have been answered complete. -/
def State.finishShoots (s : State) : State :=
  let ready := s.host.shoots.filter s.answeredAll
  if ready.isEmpty then s else
  let s' := { s with host := { s.host with shoots := s.host.shoots.filter (fun h => !s.answeredAll h) } }
  ready.foldl (fun s h => s.setCmd h.q 3 0 h.result) s'
/-- Entries leave every TLB and second level of the device. -/
def State.shoot (s : State) (p : TlbEntry → Bool) : State :=
  { s with cores := s.cores.map (fun (_ : Nat) (c : Core) => { c with tlb := c.tlb.filter (fun e => !p e) }),
           crofts := s.crofts.map (fun (_ : Nat) (c : Croft) => { c with tlb2 := c.tlb2.filter (fun e => !p e) }) }
/-- SHOOTDOWN: it completes when what went through the removed translations has been performed (R325). -/
def State.shootdown (s : State) (c : Cmd) : State :=
  let x := cmdCtx c.block
  if (s.ctx? x).isNone then s.finish c stCONTEXT 0 else
  let all := (dw c.block 0).testBit 8
  let mine (e : TlbEntry) : Bool := e.ctx == x && (all || e.hits x (dw c.block 1))
  let s' := (s.shoot mine).drainCtx x
  s'.finishAfter c 0 (s'.opsUnder x (s.entriesOf mine))
def execShootdown (h : HostArg) (s : State) : Host.Outcome State Fault Refusal := .next (s.command 0x30 h State.shootdown)
/-- WIN_SET. -/
def State.winSet (s : State) (c : Cmd) : State :=
  let b := c.block
  let x := cmdCtx b
  let wid := bits (dw b 0) 19 8
  let live := match s.sq.wins.get? wid with | some w => !w.revoked | none => false
  if (s.ctx? x).isNone then s.finish c stCONTEXT 0
  else if live then s.finish c stRANGE 0
  else if !(hostAddrs 0x10000 ((dw b 2 + 0xFFFF) / 0x10000) (dw b 1)).all (fun va => (s.hostLoc x va).isSome) then
    (s.hostMiss x (hostAddrs 0x10000 ((dw b 2 + 0xFFFF) / 0x10000) (dw b 1))).finish c stTRANSLATE 0
  else
    let w : Window := ⟨false, dw b 3, x, dw b 1, dw b 2⟩
    ({ s with sq := { s.sq with wins := s.sq.wins.put wid w } } : State).finish c 0 0
def execWinSet (h : HostArg) (s : State) : Host.Outcome State Fault Refusal := .next (s.command 0x31 h State.winSet)
/-- WIN_REVOKE: the packets that have passed the check and are being written are written to their ends; every other operation is
checked and applied in one step. -/
def State.winRevoke (s : State) (c : Cmd) : State :=
  let wid := bits (dw c.block 0) 19 8
  let s := s.endApplies (fun p => p.wid == wid)
  ({ s with sq := { s.sq with wins := s.sq.wins.map (fun (n : Nat) (w : Window) => if n = wid then { w with revoked := true } else w) } } : State).finish c 0 0
def execWinRevoke (h : HostArg) (s : State) : Host.Outcome State Fault Refusal := .next (s.command 0x32 h State.winRevoke)

/-! ## ATTEST (R321) -/

/-- The port policy: one byte for each port. -/
def State.portPolicy (s : State) : List Byte := (List.range 24).map (fun p => if (s.oport p).cipher then 1 else 0)
/-- Bytes cut or padded to a length. -/
def sized (n : Nat) (l : List Byte) : List Byte := (l ++ List.replicate n 0).take n
/-- The report before its signature. -/
def State.report (s : State) (x : Nat) (k : Ctx) (b : List B64) : List Byte :=
  leBytes 4 0x53415A53 ++ leBytes 2 1 ++ leBytes 2 s.fleet.devId ++ leBytes 8 x ++
  [2, 3, 4, 5].flatMap (fun i => leBytes 8 (dw b i)) ++ sized 64 s.fleet.devRec ++ sized 64 k.attRec ++ s.portPolicy ++
  leBytes 8 0 ++ sized 64 s.fleet.devKey
/-- ATTEST. -/
def State.attest (s : State) (c : Cmd) : State :=
  let x := cmdCtx c.block
  match s.ctx? x with
  | none => s.finish c stCONTEXT 0
  | some k =>
    if !s.memUsable (dw c.block 1) 30064 then s.finish c stRANGE 0 else
    let r := s.report x k c.block
    let sig := sized 29792 (Config.sign (shake256 64 r))
    (s.homeWrite (dw c.block 1) (r ++ sig)).finish c 0 0
def execAttest (h : HostArg) (s : State) : Host.Outcome State Fault Refusal := .next (s.command 0x40 h State.attest)

end Sys2Proof.Machine
end

