-- ==== Sys2Proof/Machine/Signature.lean ====
section
/-!
DEFINITION. The verification of the signatures R237 names: SLH-DSA of FIPS 205 with the parameter set SHAKE-256s, pure,
with an empty context. Its numbers: values of 32 bytes, 8 layers of trees of height 8, 22 trees of height 14 below them,
chains of 16 values.
-/
namespace Sys2Proof.Machine

/-- Part `i` of bytes in parts of 32. -/
def part32 (l : List Byte) (i : Nat) : List Byte := (l.drop (32 * i)).take 32
/-- The first `n` digits of `b` bits in bytes. -/
def digitsOf (b n : Nat) (l : List Byte) : List Nat :=
  let x := beNat l
  (List.range n).map (fun i => x / 2 ^ (8 * l.length - b * (i + 1)) % 2 ^ b)

/-- Where a hash is made: the layer and the tree, what the hash is for, the key pair, and two numbers that say which: the
chain and its step, or the height and the index. -/
structure HashPlace where
  layer : Nat := 0
  tree  : Nat
  use   : Nat
  pair  : Nat := 0
  major : Nat := 0
  minor : Nat := 0
/-- The 32 bytes of a place. -/
def HashPlace.bytes (p : HashPlace) : List Byte :=
  beBytes 4 p.layer ++ beBytes 12 p.tree ++ beBytes 4 p.use ++ beBytes 4 p.pair ++ beBytes 4 p.major ++ beBytes 4 p.minor
/-- A hash of bytes at a place, under a key's seed. -/
def hashAt (seed : List Byte) (p : HashPlace) (m : List Byte) : List Byte := shake256 32 (seed ++ p.bytes ++ m)
/-- The root reached from a value at index `i` of height `h`, by the values beside its way up. -/
def climbTree (seed : List Byte) (p : HashPlace) : List (List Byte) → Nat → Nat → List Byte → List Byte
  | [], _, _, v => v
  | b :: bs, h, i, v =>
    let v := hashAt seed { p with major := h + 1, minor := i / 2 } (if i % 2 = 0 then v ++ b else b ++ v)
    climbTree seed p bs (h + 1) (i / 2) v
/-- The value `n` steps on in a chain, from step `i`. -/
def chainOn (seed : List Byte) (p : HashPlace) : Nat → Nat → List Byte → List Byte
  | 0, _, v => v
  | n + 1, i, v => chainOn seed p n (i + 1) (hashAt seed { p with minor := i } v)
/-- The public key of a one-time signature of 67 values on a value of 32 bytes: its 64 digits and a checksum of 3 say how
far each chain still goes. -/
def oneTimeKey (seed : List Byte) (layer tree pair : Nat) (sig v : List Byte) : List Byte :=
  let ds := digitsOf 4 64 v
  let sum := ds.foldl (fun a d => a + (15 - d)) 0
  let tops := (ds ++ digitsOf 4 3 (beBytes 2 (16 * sum))).zipIdx.flatMap (fun d =>
    chainOn seed { layer := layer, tree := tree, use := 0, pair := pair, major := d.2 } (15 - d.1) d.1 (part32 sig d.2))
  hashAt seed { layer := layer, tree := tree, use := 1, pair := pair } tops
/-- The root of the top layer, from a value signed at leaf `leaf` of tree `tree`, layer by layer. -/
def layerRoots (seed : List Byte) : Nat → Nat → Nat → Nat → List Byte → List Byte → List Byte
  | 0, _, _, _, _, v => v
  | n + 1, layer, tree, leaf, sig, v =>
    let key := oneTimeKey seed layer tree leaf sig v
    let beside := (List.range 8).map (fun i => part32 sig (67 + i))
    let root := climbTree seed { layer := layer, tree := tree, use := 2 } beside 0 leaf key
    layerRoots seed n (layer + 1) (tree / 2 ^ 8) (tree % 2 ^ 8) (sig.drop (32 * 75)) root
/-- The value the 22 lower trees sign with: the roots their opened leaves reach, hashed. -/
def fewTimeKey (seed : List Byte) (tree leaf : Nat) (sig md : List Byte) : List Byte :=
  let roots := (digitsOf 14 22 md).zipIdx.flatMap (fun d =>
    let p : HashPlace := { tree := tree, use := 3, pair := leaf }
    let i := d.2 * 2 ^ 14 + d.1
    let opened := hashAt seed { p with minor := i } (part32 sig (15 * d.2))
    climbTree seed p ((List.range 14).map (fun j => part32 sig (15 * d.2 + 1 + j))) 0 i opened)
  hashAt seed { tree := tree, use := 4, pair := leaf } roots
/-- A signature on a message verifies under a public key, seed and root. -/
def sigOk (key msg sig : List Byte) : Bool :=
  let seed := key.take 32
  let root := key.drop 32
  let d := shake256 47 (sig.take 32 ++ seed ++ root ++ [0, 0] ++ msg)
  let tree := beNat ((d.drop 39).take 7)
  let leaf := beNat (d.drop 46)
  let lower := (sig.drop 32).take (32 * 330)
  let node := fewTimeKey seed tree leaf lower (d.take 39)
  sig.length == 29792 && layerRoots seed 8 0 tree leaf (sig.drop (32 * 331)) node == root

end Sys2Proof.Machine
end

