-- ==== Sys2Proof/Machine/Image.lean ====
section
/-!
DEFINITION. Loadable images (R235 to R240) and IMG_LOAD (R320): the checks, the mapping, the placing with relocations,
and the finishing.
-/
namespace Sys2Proof.Machine

/-! ## The file (R235 to R239) -/

/-- `n` bytes of a file from an offset. -/
def slice (f : List Byte) (off n : Nat) : List Byte := (f.drop off).take n
/-- The number in `n` bytes of a file. -/
def fileNat (f : List Byte) (off n : Nat) : Nat := leNat (slice f off n)
/-- Bytes that are all zero. -/
def zeroBytes (l : List Byte) : Bool := l.all (· == 0)
/-- A segment descriptor (R236). -/
structure Seg where
  kind  : Nat
  off   : Nat
  size  : Nat
  msize : Nat
  vaddr : Nat
  meas  : Nat
  sig   : Nat
  deriving DecidableEq, Repr
/-- A relocation (R239). -/
structure Rel where
  site  : Nat
  type  : Nat
  sseg  : Nat
  tseg  : Nat
  adist : Nat
  res   : Nat
  value : Nat
  deriving DecidableEq, Repr

/-- Descriptor `i`. -/
def segAt (f : List Byte) (i : Nat) : Seg :=
  let o := fileNat f 0x10 8 + 64 * i
  ⟨fileNat f o 1, fileNat f (o + 8) 8, fileNat f (o + 0x10) 8, fileNat f (o + 0x18) 8, fileNat f (o + 0x20) 8,
   fileNat f (o + 0x28) 8, fileNat f (o + 0x30) 8⟩
/-- The descriptors. -/
def segsOf (f : List Byte) : List Seg := (List.range (fileNat f 8 2)).map (segAt f)
/-- Text, data and bss lie in device memory. -/
def Seg.inMem (g : Seg) : Bool := g.kind == 1 || g.kind == 2 || g.kind == 3
/-- Two half-open ranges share a byte. -/
def meets (a n b m : Nat) : Bool := decide (a < b + m) && decide (b < a + n) && n != 0 && m != 0
/-- A test holds of every pair of different positions. -/
def pairwiseOk {α : Type} (p : α → α → Bool) : List α → Bool
  | [] => true
  | x :: xs => xs.all (p x) && pairwiseOk p xs
/-- The header keeps R235. -/
def headerOk (f : List Byte) : Bool :=
  let n := fileNat f 8 2
  let seg := fileNat f 0x10 8
  decide (128 ≤ f.length) && fileNat f 0 4 == 0x1A494C49 && fileNat f 4 2 == 1 && fileNat f 6 2 == 128 &&
  decide (2 ≤ n) && decide (n ≤ 16) && (fileNat f 0xA 1 < 64 || fileNat f 0xA 1 == 0xFF) && zeroBytes (slice f 0xB 5) &&
  seg % 16 == 0 && fileNat f 0x18 8 == f.length && zeroBytes (slice f 0x60 32) && decide (seg + 64 * n ≤ f.length)
/-- Descriptor `i` keeps R236. -/
def segOk (f : List Byte) (i : Nat) : Bool :=
  let o := fileNat f 0x10 8 + 64 * i
  let g := segAt f i
  decide (1 ≤ g.kind) && decide (g.kind ≤ 7) && zeroBytes (slice f (o + 1) 7) && zeroBytes (slice f (o + 0x38) 8) &&
  g.off % 16 == 0 && decide (g.size ≤ g.msize) && decide (g.off + g.size ≤ f.length) &&
  (g.kind != 3 || (g.off == 0 && g.size == 0)) &&
  (if g.inMem then g.vaddr % 0x10000 == 0 && decide (g.vaddr < 0xFFF0000000000)
   else if g.kind == 4 then g.vaddr % 64 == 0 && decide (g.vaddr + g.msize ≤ 0x30000) else g.vaddr == 0) &&
  (if g.kind == 7 then g.meas == 0 && g.sig == 0 else decide (g.meas + 64 ≤ f.length) && decide (g.sig + 29792 ≤ f.length)) &&
  (g.kind != 5 || (g.size == 1024 && g.msize == 1024)) && (g.kind != 6 || g.size % 24 == 0)
/-- The descriptors together keep R236. -/
def segsOk (f : List Byte) : Bool :=
  let gs := segsOf f
  let count (k : Nat) : Nat := (gs.filter (fun g => g.kind == k)).length
  (List.range gs.length).all (segOk f) && decide (1 ≤ count 1) && count 5 == 1 && decide (count 6 ≤ 1) && decide (count 4 ≤ 1) &&
  pairwiseOk (fun a b => !meets a.vaddr a.msize b.vaddr b.msize) (gs.filter Seg.inMem)
/-- The measurement of descriptor `i` (R237). -/
def measure (f : List Byte) (i : Nat) : List Byte :=
  let g := segAt f i
  shake256 64 (slice f (fileNat f 0x10 8 + 64 * i) 0x28 ++ slice f g.off g.size)
/-- Measurements and signatures in descriptor order: the first that fails, as a STATUS (R320). -/
def sealsFrom (f : List Byte) : List Nat → Option Nat
  | [] => none
  | i :: is =>
    let g := segAt f i
    if g.kind == 7 then sealsFrom f is
    else if measure f i != slice f g.meas 64 then some 7
    else if !sigOk (slice f 0x20 64) (slice f g.meas 64) (slice f g.sig 29792) then some 6
    else sealsFrom f is

/-! ## Relocations (R239, R240) -/

/-- The relocations. -/
def relsOf (f : List Byte) : List Rel :=
  match (segsOf f).find? (fun g => g.kind == 6) with
  | none => []
  | some g => (List.range (g.size / 24)).map (fun i =>
      let o := g.off + 24 * i
      ⟨fileNat f o 8, fileNat f (o + 8) 1, fileNat f (o + 9) 1, fileNat f (o + 0xA) 1, fileNat f (o + 0xB) 4, fileNat f (o + 0xF) 1,
       fileNat f (o + 0x10) 8⟩)
/-- Bytes of a site. -/
def Rel.bytes (r : Rel) : Nat := if r.type = 1 then 8 else 4
/-- The placement delta of a segment: scratch and the rest stay (R239). -/
def Seg.delta (g : Seg) (d : B64) : B64 := if g.inMem then d else 0
/-- A value a `lui` or `auipc` pair rebuilds (R229). -/
def pairFits (x : B64) : Bool := decide (-2 ^ 31 ≤ x.toInt) && decide (x.toInt ≤ 2 ^ 31 - 2049)
/-- The value a relocation puts in a word: t itself, t − P, or t − A. P of a site in scratch, or in a segment that is not
placed, is VADDR + SITE, as of any other (R239; log entry 45). -/
def Rel.target (r : Rel) (gs : List Seg) (d : B64) : B64 :=
  let t := BitVec.ofNat 64 r.value + ((gs.map (fun g => g.delta d)).getD r.tseg 0)
  let place := match gs[r.sseg]? with
    | some g => BitVec.ofNat 64 (g.vaddr + r.site) + g.delta d
    | none => 0
  if r.type = 6 then t - place else if 7 ≤ r.type then t - (place - BitVec.ofNat 64 r.adist) else t
/-- A relocation keeps R239 and R240. -/
def Rel.ok (r : Rel) (gs : List Seg) (d : B64) : Bool :=
  match gs[r.sseg]? with
  | none => false
  | some g =>
    decide (1 ≤ r.type) && decide (r.type ≤ 8) && r.res == 0 && decide (r.tseg < gs.length) && g.kind != 3 &&
    decide (r.site + r.bytes ≤ g.size) && (if 7 ≤ r.type then r.adist != 0 && decide (r.adist ≤ r.site) else r.adist == 0) &&
    (match r.type with
     | 1 => true
     | 2 => decide ((r.target gs d).toNat < 2 ^ 32)
     | _ => pairFits (r.target gs d))
/-- hi20 of R229. -/
def hi20 (x : B64) : Nat := ((x + 0x800) >>> 12).toNat % 2 ^ 20
/-- A word with its U, I or S immediate replaced. -/
def putU (w imm : Nat) : Nat := w % 2 ^ 12 + imm * 2 ^ 12
def putI (w imm : Nat) : Nat := w % 2 ^ 20 + imm * 2 ^ 20
def putS (w imm : Nat) : Nat := w % 2 ^ 7 + imm % 32 * 2 ^ 7 + bits w 24 12 * 2 ^ 12 + imm / 32 * 2 ^ 25
/-- The bytes a relocation writes over the old ones. -/
def Rel.write (r : Rel) (gs : List Seg) (d : B64) (old : List Byte) : List Byte :=
  let x := r.target gs d
  let w := leNat old
  match r.type with
  | 1 => leBytes 8 x.toNat
  | 2 => leBytes 4 x.toNat
  | 3 => leBytes 4 (putU w (hi20 x))
  | 6 => leBytes 4 (putU w (hi20 x))
  | 4 => leBytes 4 (putI w (x.toNat % 4096))
  | 7 => leBytes 4 (putI w (x.toNat % 4096))
  | _ => leBytes 4 (putS w (x.toNat % 4096))
/-- The contents of descriptor `i` with its relocations applied and its zeros added. -/
def segBytes (f : List Byte) (d : B64) (i : Nat) : List Byte :=
  let gs := segsOf f
  let g := segAt f i
  let l := (relsOf f).foldl (fun l r =>
    if r.sseg = i then l.take r.site ++ r.write gs d (slice l r.site r.bytes) ++ l.drop (r.site + r.bytes) else l) (slice f g.off g.size)
  l ++ List.replicate (g.msize - g.size) 0
/-- Stage 1 of R320: a STATUS, or none when the image passes. -/
def imageCheck (f : List Byte) (d : B64) : Option Nat :=
  if !headerOk f || !segsOk f then some stFORMAT else
  match sealsFrom f (List.range (fileNat f 8 2)) with
  | some st => some st
  | none =>
    let gs := segsOf f
    let rs := relsOf f
    if rs.all (fun r => r.ok gs d) && pairwiseOk (fun a b => a.sseg != b.sseg || !meets a.site a.bytes b.site b.bytes) rs then none
    else some 8

/-! ## Mapping and placing (R320) -/

/-- The pages of a placed segment. -/
def pagesOf (g : Seg) (d : B64) : List Nat :=
  (List.range ((g.msize + 0xFFFF) / 0x10000)).map (fun i => (BitVec.ofNat 64 (g.vaddr + 0x10000 * i) + d).toNat)
/-- Stage 2: every page mapped to memory; a text page's leaf holds no byte of another segment. -/
def State.mapCheck (s : State) (x : Nat) (gs : List Seg) (d : B64) : Option Nat :=
  let ms := gs.zipIdx.filter (fun c => c.1.inMem)
  let mapped (va : Nat) : Bool := decide (va < 0xFFF0000000000) && (s.hostLoc x va).isSome
  let start (g : Seg) : Nat := (BitVec.ofNat 64 g.vaddr + d).toNat
  let alone (c : Seg × Nat) (va : Nat) : Bool :=
    match s.walk x va with
    | .leaf log2 _ => ms.all (fun o => o.2 == c.2 || !meets (va - va % 2 ^ log2) (2 ^ log2) (start o.1) o.1.msize)
    | .none _ => false
  if !ms.all (fun c => (pagesOf c.1 d).all mapped) then some stTRANSLATE
  else if !(ms.filter (fun c => c.1.kind == 1)).all (fun c => (pagesOf c.1 d).all (alone c)) then some stRANGE
  else none
/-- A write of the Square, at the home or at a core's memory port (R39, R33). -/
def State.squareWrite (s : State) (l : Nat) (data : List Byte) : State := (s.recall l data.length).poke l data
/-- Bytes written page by page through the context's translation, whatever the W bits. -/
def State.writeVirt (s : State) (x : Nat) : List Nat → List Byte → State
  | [], _ => s
  | va :: vas, data =>
    match s.hostLoc x va with
    | none => s
    | some l => (s.squareWrite l (data.take 0x10000)).writeVirt x vas (data.drop 0x10000)
/-- Stage 3 for one descriptor. -/
def State.placeSeg (s : State) (x : Nat) (f : List Byte) (d : B64) (i : Nat) : State :=
  let g := segAt f i
  if g.inMem then s.writeVirt x (pagesOf g d) (segBytes f d i)
  else if g.kind = 4 then
    (s.cores.cells.filter (fun c => c.2.ctx == some x)).foldl (fun s c => s.squareWrite (spadLoc c.1 g.vaddr) (segBytes f d i)) s
  else s
/-- Where the leaf that maps an address stands. -/
def leafAddr (s : State) (va : Nat) : Nat → Nat → Option Nat
  | 0, _ => none
  | fuel + 1, table =>
    let lv := 4 - fuel
    let a := table + 8 * bits va (51 - 9 * (lv - 1)) (43 - 9 * (lv - 1))
    let e := leNat (readBytes s.mem a 8)
    if !e.testBit 0 then none else
    match pteKind lv e with
    | none => none
    | some true => some a
    | some false => leafAddr s va fuel (bits e 39 12 * 2 ^ 12)
/-- The leaf of a text page becomes executable and read-only. -/
def State.sealPage (s : State) (x root : Nat) (va : Nat) : State :=
  match leafAddr s va 4 root with
  | none => s
  | some a =>
    let e := leNat (readBytes s.mem a 8)
    let e := if e.testBit 3 then e else e + 8
    let e := if e.testBit 2 then e - 4 else e
    (s.squareWrite a (leBytes 8 e)).shoot (fun t => t.hits x va)
/-- The class table after the image's nonzero entries are written: those whose ENTRY is nonzero after relocation (the
model's choice; log entry 45). -/
def mergeClasses (old : SMap ClassEntry) (t : List Byte) : SMap ClassEntry :=
  (List.range 64).foldl (fun m i =>
    let e := fileNat t (16 * i) 8
    if e = 0 then m else m.put i ⟨BitVec.ofNat 64 e, BitVec.ofNat 64 (fileNat t (16 * i + 8) 8)⟩) old
/-- Stages 3 and 4 of R320. -/
def State.placeImage (s : State) (x : Nat) (k : Ctx) (f : List Byte) (d : B64) : State :=
  let gs := segsOf f
  let is := List.range gs.length
  let measured := is.filter (fun i => (segAt f i).kind != 7)
  let s := is.foldl (fun s i => s.placeSeg x f d i) s
  let text := (gs.filter (fun g => g.kind == 1)).flatMap (fun g => pagesOf g d)
  let s := (text.foldl (fun s va => s.sealPage x k.root va) s).drainCtx x
  let table := match is.find? (fun i => (segAt f i).kind == 5) with | some i => segBytes f d i | none => []
  let dflt := if fileNat f 0xA 1 = 0xFF then none else some (fileNat f 0xA 1)
  let k :=
    { k with
      attRec := measured.foldl (fun r i => extendRec r (measure f i)) k.attRec, classes := mergeClasses k.classes table,
      images := k.images ++ [(s.host.nextImg, dflt)] }
  let s := s.setCtx x k
  { s with host := { s.host with nextImg := s.host.nextImg + 1 } }
/-- IMG_LOAD: its SHOOTDOWN of the text pages has completed when it does (R320, R325). -/
def State.imgLoad (s : State) (c : Cmd) : State :=
  let b := c.block
  let x := cmdCtx b
  let d := b.getD 3 0
  match s.ctx? x with
  | none => s.finish c stCONTEXT 0
  | some k =>
    if !s.memUsable (dw b 1) (dw b 2) then s.finish c stRANGE 0 else
    let s := s.mergeWhere (fun _ => true)
    let f := readBytes s.mem (dw b 1) (dw b 2)
    match imageCheck f d with
    | some st => s.finish c st 0
    | none =>
      match s.mapCheck x (segsOf f) d with
      | some st =>
        let pages := ((segsOf f).filter Seg.inMem).flatMap (fun g => pagesOf g d)
        (if st = stTRANSLATE then s.hostMiss x pages else s).finish c st 0
      | none =>
        let text := ((segsOf f).filter (fun g => g.kind == 1)).flatMap (fun g => pagesOf g d)
        let s' := s.placeImage x k f d
        s'.finishAfter c s.host.nextImg (s'.opsUnder x (s.entriesOf (fun e => text.any (e.hits x))))
def execImgLoad (h : HostArg) (s : State) : Host.Outcome State Fault Refusal := .next (s.command 0x20 h State.imgLoad)

end Sys2Proof.Machine
end

