-- ==== Sys2Proof/Machine/Save.lean ====
section
/-!
DEFINITION. Saving a context and restoring it (R331 to R338): CTX_SAVE, the drain, the save area's layout, CTX_RESTORE.
Where the layout leaves a format open (messages, remembered mill jobs, the order within the core block) log entry 30
gives the model's.
-/
namespace Sys2Proof.Machine

/-! ## Bytes at offsets -/

/-- Bytes with the offset of the first. -/
abbrev Chunk := Nat × List Byte
/-- A dword at an offset. -/
def chunk64 (off : Nat) (v : B64) : Chunk := (off, leBytes 8 v.toNat)
/-- A chunk moved up. -/
def shiftBy (a : Nat) (l : List Chunk) : List Chunk := l.map (fun c => (a + c.1, c.2))
/-- Writes chunks over an area of zeros. -/
def State.writeArea (s : State) (a n : Nat) (l : List Chunk) : State :=
  let put (m : List Host.Cell) (c : Chunk) : List Host.Cell :=
    c.2.zipIdx.foldl (fun m b => if b.1 = unlisted then m else writeByte m (a + c.1 + b.2) b.1) m
  { s with mem := l.foldl put (s.mem.filter (fun c => !(decide (a ≤ c.1) && decide (c.1 < a + n)))) }
/-! ## Slot blocks (R336, R337) -/

/-- The port registers in the order of their records. -/
def portKeys : List Nat := [24, 25, 26, 27, 28, 29, 30, 31, 60, 61, 62, 63]
/-- A port record and the payloads of a channel's entries. The field [11:9] has three bits for a count of up to 8: the count
is stored modulo 8, 8 as 0 (R337 does not say; the model's choice, log entry 45). -/
def State.portChunks (s : State) (core i : Nat) (p : Port) : List Chunk :=
  let msgs := match p.kind with | .chan c => (s.core core).entries.get [] c | _ => []
  let kind := match p.kind with | .readStream => 1 | .writeStream => 2 | .link _ _ => 3 | .chan _ => 4
  let which := match p.kind with | .link d _ => Dir.code d | .chan c => c | _ => 0
  let fwd := match p.kind with | .link _ true => 1 | _ => 0
  let lens := (msgs.zipIdx.map (fun m => 2 ^ (32 + 4 * m.2) * m.1.pay.length)).foldl (· + ·) 0
  let d0 := kind + 2 ^ 4 * which + 2 ^ 8 * fwd + 2 ^ 9 * (msgs.length % 8) + lens
  [(0x300 + 256 * i, leBytes 8 d0 ++ leBytes 8 p.next), (0x340 + 256 * i, p.recd), (0x380 + 256 * i, p.idx)] ++
  msgs.zipIdx.map (fun m => (0xF00 + 512 * i + 64 * m.2, m.1.pay.flatMap (fun (v : B64) => leBytes 8 v.toNat)))
/-- STATE of a slot. -/
def State.slotState (s : State) (t : Thread) (tid : Nat) : Nat :=
  let bit (n : Nat) (b : Bool) : Nat := if b then 2 ^ n else 0
  let st := match t.st with | .free => 0 | .ready => 1 | .running => 1 | .stalled _ => 2
  let pending := match t.kin with
    | some k => (s.kin.get ({} : KinSet) (kinKey t.ctx k)).pend.contains tid
    | none => false
  st + bit 2 t.sysMode + bit 3 t.kinArr + bit 4 pending + bit 5 (t.kin.isSome && !pending) + 2 ^ 6 * t.kin.getD 0 + 2 ^ 18 * t.prio +
  bit 21 t.launch.isSome + bit 22 t.trig
/-- The dwords from offset 0x200 on. -/
def State.slotWords (s : State) (t : Thread) (tid : Nat) : List B64 :=
  [t.pc, BitVec.ofNat 64 (s.slotState t tid), t.fflags.setWidth 64, t.vrnd.setWidth 64, t.srseed, t.gen, t.wshape.setWidth 64,
   t.mfmt.setWidth 64, t.mkReg, t.mpitcha, t.mpitchb, t.msca, t.mscb, t.mscn, t.hashk, t.tcause, t.tval, t.tpc,
   BitVec.ofNat 64 t.nextMill, BitVec.ofNat 64 t.nextCart]
/-- What the mill remembers of a job, in 8 bytes: `mm.query`'s word and the id. -/
def jobWord (j : JobMem) : Nat :=
  j.status % 256 + (if j.done then 256 else 0) + (if j.started then 512 else 0) + 2 ^ 16 * (j.id % 2 ^ 48)
/-- A slot's block; a Free slot's is zeros. -/
def State.slotChunks (s : State) (tid : Nat) : List Chunk :=
  let t := s.thread tid
  if t.st = .free then [] else
  (List.range 32).map (fun i => chunk64 (8 * i) (t.s.get 0 i)) ++
  (List.range 4).map (fun i => chunk64 (0x100 + 8 * i) (if i = 0 then BitVec.allOnes 64 else t.m.get 0 i)) ++
  [(0x120, (List.range 16).flatMap (fun i => leBytes 1 (t.kc.get 0 i) ++ leBytes 1 (if t.ke.get false i then 1 else 0))),
   (0x140, (List.range 4).flatMap (fun i => leBytes 4 (t.d.get 0 i).toNat)),
   (0x180, (List.range 8).flatMap (fun i =>
     let w := t.w.get ({} : WVal) i
     leBytes 8 w.code.toNat ++ leBytes 1 w.dims ++ leBytes 1 w.bits ++ leBytes 6 w.flags.toNat)),
   (0x200, (s.slotWords t tid).flatMap (fun v => leBytes 8 v.toNat))] ++
  (portKeys.zipIdx.flatMap (fun c => match t.ports.get? c.1 with | some p => s.portChunks (coreOf tid) c.2 p | none => [])) ++
  (List.range 32).map (fun i => (0x2700 + 64 * i, leBytes 64 (t.v.get 0 i).toNat)) ++
  t.seqs.cells.map (fun c => (0x2F00 + 2 * c.1, leBytes 2 c.2)) ++
  t.jobs.zipIdx.map (fun j => (0x3700 + 8 * j.2, leBytes 8 (jobWord j.1))) ++
  t.tiles.cells.map (fun c => (0x4000 + 4 * c.1, leBytes 4 c.2.toNat))
/-- A core region (R335). -/
def State.coreChunks (s : State) (core : Nat) : List Chunk :=
  let c := s.core core
  let spad := (s.mem.filter (fun x => decide (spadLoc core 0 ≤ x.1) && decide (x.1 < spadLoc core 0x3C000))).map
    (fun x => (x.1 - spadLoc core 0, [x.2]))
  let spad := spad.filter (fun x => !(decide (0x30000 ≤ x.1) && decide (x.1 < 0x38000)))
  let spill := c.spill.cells.flatMap (fun q => q.2.zipIdx.map (fun m => (0x30000 + 0x800 * q.1 + 128 * m.2, msgBytes m.1)))
  let link (d : Nat) : List B512 := c.links.get [] d
  let counts := (List.range 4).foldl (fun a d => a + 2 ^ (8 * d) * (link d).length) 0
  spad ++ spill ++
  shiftBy 0x3C000
    ((List.range 16).map (fun i => (8 * i, leBytes 8 (c.chSet.get 0 i))) ++
     [chunk64 0x80 c.binbase, chunk64 0x88 c.bincnt, (0x90, leBytes 8 c.mw ++ leBytes 8 c.cw)] ++
     c.resend.zipIdx.map (fun m => (0xA0 + 128 * m.2, msgBytes m.1)) ++
     (List.range 4).flatMap (fun d => (link d).zipIdx.map (fun v => (0x8A0 + 256 * d + 64 * v.2, leBytes 64 v.1.toNat))) ++
     [(0xCA0, leBytes 8 counts)]) ++
  (List.range 4).flatMap (fun k => shiftBy (0x40000 + 0xC000 * k) (s.slotChunks (tidOf core k)))

/-! ## CTX_SAVE (R331 to R334) -/

/-- CTX_SAVE: stops the context's issue, or with DRAIN its starting of tasks. -/
def State.startSave (s : State) (c : Cmd) : State :=
  let b := c.block
  let x := cmdCtx b
  match s.ctx? x with
  | none => s.finish c stCONTEXT 0
  | some k =>
    let need := areaSize (s.holders x).length
    if k.ended || k.saved || s.saves.any (fun v => v.ctx == x) then s.finish c stCONTEXT 0
    else if dw b 2 < need || !s.memUsable (dw b 1) need then s.finish c stRANGE 0
    else
      let drain := (dw b 0).testBit 16
      let s := s.setCtx x { k with stop := !drain, noStart := true }
      { s with saves := s.saves ++ [⟨x, c.q, dw b 1, drain, s.now + 2000 * dw b 3⟩] }
def execCtxSave (h : HostArg) (s : State) : Host.Outcome State Fault Refusal := .next (s.command 0x50 h State.startSave)
/-- A draining save's LIMIT has passed: its cores stop issue. -/
def execSaveDrainLimit (ctx : Nat) (s : State) : Host.Outcome State Fault Refusal :=
  match s.saves.find? (fun v => v.ctx == ctx), s.ctx? ctx with
  | some v, some k => .next (if v.drain && v.till ≤ s.now then s.setCtx ctx { k with stop := true } else s)
  | _, _ => .next s
/-- Nothing of a core's engines and queues is outstanding. -/
def State.coreDrained (s : State) (core : Nat) : Bool :=
  let c := s.core core
  c.millQ.isEmpty && c.millCur.isNone && c.cartQ.isEmpty && c.cartCur.isNone && c.cartWait.isEmpty && c.orphans.isEmpty &&
  c.ksq.isEmpty && !(s.croft (croftOf core)).sfu.any (fun r => coreOf r.tid == core) &&
  !s.sq.ops.any (fun o => coreOf o.tid == core) && !s.stores.any (fun p => coreOf p.tid == core) &&
  !s.upd.any (fun u => u.core == core) && !s.kinOps.any (fun o => coreOf o.tid == core) &&
  !s.kinRel.any (fun r => coreOf r.1 == core)
/-- A slot's own part: no access on its way or answered, no register pending, its write streams drained. -/
def State.slotDrained (s : State) (tid : Nat) : Bool :=
  let t := s.thread tid
  t.pend.isEmpty && t.ports.cells.all (fun p => p.2.kind != .writeStream || p.2.entries.isEmpty) &&
  (match t.phase, t.st with
    | .answered _ _, .stalled .value => false
    | .answered _ _, .stalled .kbar => false
    | .answered _ _, .stalled _ => true
    | .answered _ _, _ => !s.retiresSaved tid
    | .lanes _ _, .stalled .value => false
    | .lanes _ _, .stalled _ => true
    | .lanes _ _, _ => false
    | .sent, .stalled .value => false
    | .sent, .stalled (.dirWake _) => false
    | .sent, _ => true
    | .idle, _ => true)
/-- The drain of R332 has ended. -/
def State.drained (s : State) (v : Save) : Bool :=
  let cores := s.holders v.ctx
  let stopped := match s.ctx? v.ctx with | some k => k.stop | none => false
  cores.all (fun n => s.coreDrained n && (List.range 4).all (fun k => s.slotDrained (tidOf n k))) &&
  !s.drift.any (fun m => m.ctx == v.ctx) && (stopped || (s.slotsOf v.ctx).isEmpty)
/-- The header but its digest (R335). -/
def State.headerChunks (s : State) (v : Save) (cores : List Nat) : List Chunk :=
  [(0, leBytes 4 0x5641535A ++ leBytes 2 1), (8, leBytes 8 v.ctx ++ leBytes 8 cores.length ++ leBytes 8 (if v.drain then 1 else 0) ++ leBytes 8 (s.now / 2))] ++
  (s.kin.cells.filter (fun k => k.1 / 4096 == v.ctx)).map (fun k => chunk64 (0x1000 + 8 * (k.1 % 4096)) k.2.value) ++
  [(0x10000, cores.flatMap (fun n => leBytes 4 n))]
/-- The digest of an area: every byte but its own. -/
def State.areaDigest (s : State) (a n : Nat) : List Byte := shake256 64 (readBytes s.mem a 0x40 ++ readBytes s.mem (a + 0x80) (n - 0x80))
/-- A saved core is cleared and holds no context (R332). -/
def State.clearCore (s : State) (core : Nat) : State :=
  let s := (List.range 4).foldl (fun s k =>
    let t := s.thread (tidOf core k)
    s.setThread (tidOf core k) { act := t.act + 1, msgNo := t.msgNo, seqs := t.seqs, lastIss := t.lastIss }) s
  let s := { s with
    mem := s.mem.filter (fun c => !(decide (spadLoc core 0 ≤ c.1) && decide (c.1 < spadLoc core 0x3C000))),
    well := { s.well with reqs := s.well.reqs.filter (fun r => coreOf r.tid != core) } }
  s.modCore core (fun c => { c with ctx := none, entries := {}, spill := {}, resend := [], links := {}, linkOwn := {} })
/-- Bounce records of the listed messages are forgotten while their context is saved. Those listed are the resend entries of
the cores; launch messages that the Square holds stay held, with their records: R332 does not speak of them (the model's
choice; log entry 45). -/
def State.forgetBounces (s : State) (ms : List Msg) : State :=
  { s with cores := s.cores.map (fun (n : Nat) (c : Core) =>
      { c with bounces := c.bounces.filter (fun b => !ms.any (fun m => m.dest == n && m.pair == b.pair && m.chan == b.chan && m.no == b.no)) }) }
/-- The drain over, the area is written, the digest last, and the cores are cleared (R332). -/
def State.saveDone (s : State) (v : Save) (k : Ctx) : State :=
  let cores := s.holders v.ctx
  let n := areaSize cores.length
  let chunks := s.headerChunks v cores ++ cores.zipIdx.flatMap (fun c => shiftBy (0x80000 * (1 + c.2)) (s.coreChunks c.1))
  let slots := cores.flatMap (fun c => (List.range 4).map (tidOf c))
  let tasks := slots.filterMap (fun t => (s.thread t).launch.map (fun l => (t, l)))
  let kept := cores.flatMap (fun c => (s.core c).entries.cells.map (fun e => (c, e.1, e.2)))
  let toks := slots.flatMap (fun t => ((s.thread t).d.cells.map (·.2)).filter (· != 0))
  let skips := slots.filterMap (fun t =>
    let x := s.thread t
    if x.skipped = 0 ∧ x.skipArg.isNone then none else some (t, x.skipped, x.skipArg))
  let faults := slots.flatMap (fun t => (s.thread t).ports.cells.filterMap (fun p =>
    p.2.fault.map (fun f => (t, p.1, f :: p.2.later))))
  let s := ((s.recall v.addr n).writeArea v.addr n chunks)
  let digest := s.areaDigest v.addr n
  let s := s.homeWrite (v.addr + 0x40) digest
  let s := s.forgetBounces (cores.flatMap (fun c => (s.core c).resend))
  let s := cores.foldl State.clearCore s
  let s := s.setCtx v.ctx
    { k with
      stop := false, noStart := false, saved := true, toks := toks, tasks := tasks, kept := kept, skips := skips, faults := faults,
      digest := digest }
  { s with saves := s.saves.filter (fun w => w.ctx != v.ctx) }.setCmd v.q 3 0 cores.length
def execSaveDrainDone (ctx : Nat) (s : State) : Host.Outcome State Fault Refusal :=
  match s.saves.find? (fun v => v.ctx == ctx), s.ctx? ctx with
  | some v, some k => .next (if s.drained v then s.saveDone v k else s)
  | _, _ => .next s

/-! ## CTX_RESTORE (R338) -/

/-- The sparse map of `n` values that are not the default. -/
def mapOf {α : Type} [DecidableEq α] (d : α) (n : Nat) (f : Nat → α) : SMap α :=
  ⟨(List.range n).filterMap (fun i => if f i = d then none else some (i, f i))⟩
/-- The port a record holds. -/
def State.portAt (s : State) (a : Nat) (sys : Bool) : Option Port :=
  let d := s.memNat a 8
  let next := s.memNat (a + 8) 8
  let base : Port :=
    { kind := .readStream, recd := readBytes s.mem (a + 0x40) 64, idx := readBytes s.mem (a + 0x80) 64, sys := sys, next := next, fetched := next }
  let which := bits d 7 4
  match d % 16 with
  | 1 => some base
  | 2 => some { base with kind := .writeStream }
  | 3 => some { kind := .link (Dir.all.getD which .n) (d.testBit 8) }
  | 4 => some { kind := .chan which }
  | _ => none
/-- A slot read back from its block at `a` (R336): Ready or Stalled, as saved; a Stalled one issues its instruction again,
unless it has arrived in `kbar` (R338). -/
def State.slotFrom (s : State) (x : Nat) (k : Ctx) (tid a : Nat) : Thread :=
  let old := s.thread tid
  let w (i : Nat) : B64 := s.mem64 (a + 0x200 + 8 * i)
  let st := (w 1).toNat
  if st % 4 = 0 then { act := old.act, msgNo := old.msgNo, seqs := old.seqs, lastIss := old.lastIss } else
  let arrived := st.testBit 3
  let ports : List (Nat × Port) := portKeys.zipIdx.filterMap (fun c => (s.portAt (a + 0x300 + 256 * c.2) k.sys).map (fun p =>
    match k.faults.find? (fun f => f.1 == tid && f.2.1 == c.1) with
    | some f => (c.1, { p with fault := f.2.2.head?, later := f.2.2.tail })
    | none => (c.1, p)))
  let skip := k.skips.find? (fun x => x.1 == tid)
  let job (i : Nat) : Option JobMem :=
    let v := s.memNat (a + 0x3700 + 8 * i) 8
    if v = 0 then none else some ⟨v / 2 ^ 16, v % 256, v.testBit 8, v.testBit 9⟩
  { st := if arrived then .stalled .kbar else if st % 4 = 2 then .stalled .resumed else .ready, act := old.act, ctx := x, sysMode := st.testBit 2, pc := w 0,
    s := mapOf 0 32 (fun i => s.mem64 (a + 8 * i)),
    v := mapOf 0 32 (fun i => BitVec.ofNat 512 (s.memNat (a + 0x2700 + 64 * i) 64)),
    m := mapOf 0 4 (fun i => if i = 0 then 0 else s.mem64 (a + 0x100 + 8 * i)),
    kc := mapOf 0 16 (fun i => s.memNat (a + 0x120 + 2 * i) 1),
    ke := mapOf false 16 (fun i => s.memNat (a + 0x121 + 2 * i) 1 != 0),
    w := mapOf {} 8 (fun i => ⟨s.mem64 (a + 0x180 + 16 * i), s.memNat (a + 0x188 + 16 * i) 1, s.memNat (a + 0x189 + 16 * i) 1,
      BitVec.ofNat 8 (s.memNat (a + 0x18A + 16 * i) 1)⟩),
    d := mapOf 0 4 (fun i => BitVec.ofNat 32 (s.memNat (a + 0x140 + 4 * i) 4)),
    tiles := mapOf 0 8192 (fun i => BitVec.ofNat 32 (s.memNat (a + 0x4000 + 4 * i) 4)), ports := ⟨ports⟩,
    fflags := (w 2).setWidth 5, vrnd := (w 3).setWidth 3, srseed := w 4, gen := w 5, wshape := (w 6).setWidth 16, mfmt := (w 7).setWidth 10,
    mkReg := w 8, mpitcha := w 9, mpitchb := w 10, msca := w 11, mscb := w 12, mscn := w 13, hashk := w 14, tcause := w 15, tval := w 16,
    tpc := w 17, nextMill := (w 18).toNat, nextCart := (w 19).toNat, prio := bits st 20 18,
    launch := if st.testBit 21 then (k.tasks.find? (fun c => c.1 == tid)).map (·.2) else none, trig := st.testBit 22,
    jobs := (List.range 64).filterMap job, seqs := mapOf 0 1024 (fun i => s.memNat (a + 0x2F00 + 2 * i) 2), msgNo := old.msgNo,
    kin := if st.testBit 4 || st.testBit 5 then some (bits st 17 6) else none, kinArr := arrived,
    skipped := (match skip with | some x => x.2.1 | none => 0), skipArg := (match skip with | some x => x.2.2 | none => none),
    phase := if arrived then .sent else .idle, lastIss := old.lastIss, readyAt := s.issueCycle (coreOf tid) }
/-- The entries of a channel: the payloads the area holds for the port bound to it, under the kept headers. -/
def State.entriesFrom (s : State) (core a : Nat) (e : Nat × Nat × List Msg) : List Msg :=
  let ch := e.2.1
  let here := (List.range 4).findSome? (fun k => portKeys.zipIdx.findSome? (fun c =>
    let b := a + 0x40000 + 0xC000 * k
    let d := s.memNat (b + 0x300 + 256 * c.2) 8
    if d % 16 = 4 && bits d 7 4 = ch then some (b + 0xF00 + 512 * c.2, d / 2 ^ 32) else none))
  match here with
  | none => e.2.2
  | some (p, lens) => e.2.2.zipIdx.map (fun m =>
      { m.1 with dest := core, pay := (List.range (lens / 2 ^ (4 * m.2) % 16)).map (fun i => s.mem64 (p + 64 * m.2 + 8 * i)) })
/-- A core is loaded and written back from its region at `a`. -/
def State.coreFrom (s : State) (x : Nat) (k : Ctx) (core a : Nat) : State :=
  let b := a + 0x3C000
  let msgs (base n : Nat) : List Msg := (List.range n).filterMap (fun i => s.msgAt x (base + 128 * i))
  let spill : SMap (List Msg) := mapOf [] 16 (fun c => msgs (a + 0x30000 + 0x800 * c) 16)
  let counts := s.memNat (b + 0xCA0) 8
  let links : SMap (List B512) := mapOf [] 4 (fun d =>
    (List.range (counts / 2 ^ (8 * d) % 256)).map (fun i => BitVec.ofNat 512 (s.memNat (b + 0x8A0 + 256 * d + 64 * i) 64)))
  let entries : SMap (List Msg) := mapOf [] 16 (fun c =>
    match k.kept.find? (fun e => e.1 == core && e.2.1 == c) with | some e => s.entriesFrom core a e | none => [])
  let threads := (List.range 4).map (fun i => (tidOf core i, s.slotFrom x k (tidOf core i) (a + 0x40000 + 0xC000 * i)))
  let owns := threads.flatMap (fun t => t.2.ports.cells.filterMap (fun p => match p.2.kind with | .link d _ => some (Dir.code d, t.1) | _ => none))
  let data := ((List.range 0x30000).map (fun i => (i, readByte s.mem (a + i)))) ++ ((List.range 0x4000).map (fun i => (0x38000 + i, readByte s.mem (a + 0x38000 + i))))
  let s' := s.loadCore x k core
  let s' := s'.modCore core (fun c =>
    { c with
      chSet := mapOf 0 16 (fun i => s.memNat (b + 8 * i) 8), binbase := s.mem64 (b + 0x80), bincnt := s.mem64 (b + 0x88),
      mw := s.memNat (b + 0x90) 8, cw := s.memNat (b + 0x98) 8, resend := msgs (b + 0xA0) 16, links := links, spill := spill, entries := entries,
      linkOwn := owns.foldl (fun m o => m.put o.1 o.2) {} })
  let bare := s'.mem.filter (fun c => !(decide (spadLoc core 0 ≤ c.1) && decide (c.1 < spadLoc core 0x3C000)))
  let mem := data.foldl (fun m c => if c.2 = unlisted then m else writeByte m (spadLoc core c.1) c.2) bare
  let s' := { s' with mem := mem }
  threads.foldl (fun s t => s.setThread t.1 t.2) s'
/-- Bounce records of resend entries stand again at their destinations (R248). -/
def State.recallBounces (s : State) (core : Nat) : State :=
  (s.core core).resend.foldl (fun s m => s.modCore m.dest (fun c => c.recordBounce m)) s
/-- Kin sets recomputed at their keepers from the slots, with the phase numbers of the header (R338). -/
def State.kinFrom (s : State) (x a : Nat) (cores : List Nat) : State :=
  let tids := cores.flatMap (fun c => (List.range 4).map (tidOf c))
  let regionOf (t : Nat) : Nat := a + 0x80000 * (1 + (cores.takeWhile (fun c => c != coreOf t)).length) + 0x40000 + 0xC000 * slotOf t
  let word (t : Nat) : Nat := s.memNat (regionOf t + 0x208) 8
  let ids := (List.range 4096).filter (fun id => s.memNat (a + 0x1000 + 8 * id) 8 != 0 || tids.any (fun t => (s.thread t).kin == some id))
  let setOf (id : Nat) : KinSet :=
    let ts := tids.filter (fun t => (s.thread t).kin == some id)
    let arr (l : List Nat) : List (Nat × Nat) := (l.filter (fun t => (s.thread t).kinArr)).map (fun t => (t, (s.thread t).act))
    let mem := ts.filter (fun t => !(word t).testBit 4)
    let pend := ts.filter (fun t => (word t).testBit 4)
    ⟨mem, pend, arr mem, arr pend, bits (s.memNat (a + 0x1000 + 8 * id) 8) 59 40⟩
  let rest := s.kin.cells.filter (fun c => c.1 / 4096 != x)
  { s with kin := ids.foldl (fun m id => m.put (kinKey x id) (setOf id)) ⟨rest⟩ }
/-- The header of an area keeps R335. -/
def State.headerFits (s : State) (x a n : Nat) (cores : List Nat) : Bool :=
  s.memNat a 4 == 0x5641535A && s.memNat (a + 4) 2 == 1 && s.memNat (a + 8) 8 == x && decide (n ≤ 102400) && s.memNat (a + 0x18) 8 / 2 == 0 &&
  ascending cores && cores.all (fun m => decide (m < nCores))
where
  ascending : List Nat → Bool
    | [] => true
    | [_] => true
    | p :: q :: r => decide (p < q) && ascending (q :: r)
/-- The area passed its checks: every core is written back and every slot resumes. -/
def State.restoreFrom (s : State) (x : Nat) (k : Ctx) (a : Nat) (cores : List Nat) : State :=
  let s := cores.zipIdx.foldl (fun s m => s.coreFrom x k m.1 (a + 0x80000 * (1 + m.2))) s
  let s := (cores.foldl State.recallBounces s).kinFrom x a cores
  let s := (s.setCtx x { k with saved := false, toks := [], tasks := [], kept := [], skips := [], faults := [], digest := [] }).clearSprays x
  cores.foldl State.startAll s
/-- CTX_RESTORE: the checks in order, then the restore. A context is restored from the area it is saved in, which may be
restored once. -/
def State.restore (s : State) (c : Cmd) : State :=
  let x := cmdCtx c.block
  let a := dw c.block 1
  let s := s.mergeAt a (dw c.block 2)
  let n := s.memNat (a + 0x10) 8
  let cores := (List.range n).map (fun i => s.memNat (a + 0x10000 + 4 * i) 4)
  if dw c.block 2 < areaSize 0 || !s.memUsable a (areaSize 0) then s.finish c stRANGE 0
  else if 102400 < n || !s.headerFits x a n cores then s.finish c stFORMAT 0
  else if dw c.block 2 < areaSize n || !s.memUsable a (areaSize n) then s.finish c stRANGE 0
  else if s.areaDigest a (areaSize n) != readBytes s.mem (a + 0x40) 64 then s.finish c 7 0
  else match s.ctx? x with
    | none => s.finish c stCONTEXT 0
    | some k =>
      if k.ended || !k.saved || readBytes s.mem (a + 0x40) 64 != k.digest || cores.any (fun m => (s.core m).ctx.isSome) then s.finish c stCONTEXT 0
      else if cores.any (fun m => !s.coreReady m) then s.finish c stNOTREADY 0
      else (s.restoreFrom x k a cores).finish c 0 n
def execCtxRestore (h : HostArg) (s : State) : Host.Outcome State Fault Refusal := .next (s.command 0x51 h State.restore)

end Sys2Proof.Machine
end

