-- ==== Sys2Proof/Machine/Dispatch.lean ====
section
/-!
DEFINITION. From an instruction to its meaning: one arm for each constructor.
-/
namespace Sys2Proof.Machine

/-- The outcome of one instruction or step of the part. -/
def exec (i : Instr) (s : State) : Host.Outcome State Fault Refusal :=
  match i with
  | .add d a b => Sys2Proof.Machine.execAdd d a b s
  | .sub d a b => Sys2Proof.Machine.execSub d a b s
  | .and d a b => Sys2Proof.Machine.execAnd d a b s
  | .or d a b => Sys2Proof.Machine.execOr d a b s
  | .xor d a b => Sys2Proof.Machine.execXor d a b s
  | .andn d a b => Sys2Proof.Machine.execAndn d a b s
  | .sll d a b => Sys2Proof.Machine.execSll d a b s
  | .srl d a b => Sys2Proof.Machine.execSrl d a b s
  | .sra d a b => Sys2Proof.Machine.execSra d a b s
  | .rotl d a b => Sys2Proof.Machine.execRotl d a b s
  | .mul d a b => Sys2Proof.Machine.execMul d a b s
  | .mulh d a b => Sys2Proof.Machine.execMulh d a b s
  | .mulhn d a b => Sys2Proof.Machine.execMulhn d a b s
  | .div d a b => Sys2Proof.Machine.execDiv d a b s
  | .divn d a b => Sys2Proof.Machine.execDivn d a b s
  | .rem d a b => Sys2Proof.Machine.execRem d a b s
  | .remn d a b => Sys2Proof.Machine.execRemn d a b s
  | .min d a b => Sys2Proof.Machine.execMin d a b s
  | .max d a b => Sys2Proof.Machine.execMax d a b s
  | .minn d a b => Sys2Proof.Machine.execMinn d a b s
  | .maxn d a b => Sys2Proof.Machine.execMaxn d a b s
  | .slt d a b => Sys2Proof.Machine.execSlt d a b s
  | .sltn d a b => Sys2Proof.Machine.execSltn d a b s
  | .clz d a => Sys2Proof.Machine.execClz d a s
  | .ctz d a => Sys2Proof.Machine.execCtz d a s
  | .popc d a => Sys2Proof.Machine.execPopc d a s
  | .bswap d a => Sys2Proof.Machine.execBswap d a s
  | .csel d a b c => Sys2Proof.Machine.execCsel d a b c s
  | .addi d a imm => Sys2Proof.Machine.execAddi d a imm s
  | .andi d a imm => Sys2Proof.Machine.execAndi d a imm s
  | .ori d a imm => Sys2Proof.Machine.execOri d a imm s
  | .xori d a imm => Sys2Proof.Machine.execXori d a imm s
  | .slti d a imm => Sys2Proof.Machine.execSlti d a imm s
  | .sltni d a imm => Sys2Proof.Machine.execSltni d a imm s
  | .slli d a h => Sys2Proof.Machine.execSlli d a h s
  | .srli d a h => Sys2Proof.Machine.execSrli d a h s
  | .srai d a h => Sys2Proof.Machine.execSrai d a h s
  | .lui d imm => Sys2Proof.Machine.execLui d imm s
  | .auipc d imm => Sys2Proof.Machine.execAuipc d imm s
  | .jal d imm => Sys2Proof.Machine.execJal d imm s
  | .jalr d a imm => Sys2Proof.Machine.execJalr d a imm s
  | .beq a b imm => Sys2Proof.Machine.execBeq a b imm s
  | .bne a b imm => Sys2Proof.Machine.execBne a b imm s
  | .blt a b imm => Sys2Proof.Machine.execBlt a b imm s
  | .bge a b imm => Sys2Proof.Machine.execBge a b imm s
  | .bltn a b imm => Sys2Proof.Machine.execBltn a b imm s
  | .bgen a b imm => Sys2Proof.Machine.execBgen a b imm s
  | .ldS8 d a imm => Sys2Proof.Machine.execLdS8 d a imm s
  | .ldN8 d a imm => Sys2Proof.Machine.execLdN8 d a imm s
  | .ldS16 d a imm => Sys2Proof.Machine.execLdS16 d a imm s
  | .ldN16 d a imm => Sys2Proof.Machine.execLdN16 d a imm s
  | .ldS32 d a imm => Sys2Proof.Machine.execLdS32 d a imm s
  | .ldN32 d a imm => Sys2Proof.Machine.execLdN32 d a imm s
  | .ld64 d a imm => Sys2Proof.Machine.execLd64 d a imm s
  | .st8 a b imm => Sys2Proof.Machine.execSt8 a b imm s
  | .st16 a b imm => Sys2Proof.Machine.execSt16 a b imm s
  | .st32 a b imm => Sys2Proof.Machine.execSt32 a b imm s
  | .st64 a b imm => Sys2Proof.Machine.execSt64 a b imm s
  | .amoSwap d a b q => Sys2Proof.Machine.execAmoSwap d a b q s
  | .amoAdd d a b q => Sys2Proof.Machine.execAmoAdd d a b q s
  | .amoAnd d a b q => Sys2Proof.Machine.execAmoAnd d a b q s
  | .amoOr d a b q => Sys2Proof.Machine.execAmoOr d a b q s
  | .amoXor d a b q => Sys2Proof.Machine.execAmoXor d a b q s
  | .amoMin d a b q => Sys2Proof.Machine.execAmoMin d a b q s
  | .amoMax d a b q => Sys2Proof.Machine.execAmoMax d a b q s
  | .amoMinn d a b q => Sys2Proof.Machine.execAmoMinn d a b q s
  | .amoMaxn d a b q => Sys2Proof.Machine.execAmoMaxn d a b q s
  | .amoCas d a b q => Sys2Proof.Machine.execAmoCas d a b q s
  | .amoFadd d a b q => Sys2Proof.Machine.execAmoFadd d a b q s
  | .updAdd a b q => Sys2Proof.Machine.execUpdAdd a b q s
  | .updFadd a b q => Sys2Proof.Machine.execUpdFadd a b q s
  | .updMin a b q => Sys2Proof.Machine.execUpdMin a b q s
  | .updMax a b q => Sys2Proof.Machine.execUpdMax a b q s
  | .updOr a b q => Sys2Proof.Machine.execUpdOr a b q s
  | .fence o sc => Sys2Proof.Machine.execFence o sc s
  | .fenceAck => Sys2Proof.Machine.execFenceAck s
  | .fenceEng o sc => Sys2Proof.Machine.execFenceEng o sc s
  | .fadd p r d a b => Sys2Proof.Machine.execFadd p r d a b s
  | .fsub p r d a b => Sys2Proof.Machine.execFsub p r d a b s
  | .fmul p r d a b => Sys2Proof.Machine.execFmul p r d a b s
  | .fdiv p r d a b => Sys2Proof.Machine.execFdiv p r d a b s
  | .fsqrt p r d a => Sys2Proof.Machine.execFsqrt p r d a s
  | .fma p r d a b => Sys2Proof.Machine.execFma p r d a b s
  | .fmin p d a b => Sys2Proof.Machine.execFmin p d a b s
  | .fmax p d a b => Sys2Proof.Machine.execFmax p d a b s
  | .feq p d a b => Sys2Proof.Machine.execFeq p d a b s
  | .flt p d a b => Sys2Proof.Machine.execFlt p d a b s
  | .fle p d a b => Sys2Proof.Machine.execFle p d a b s
  | .fclass p d a => Sys2Proof.Machine.execFclass p d a s
  | .fcvtFromS64 p r d a => Sys2Proof.Machine.execFcvtFromS64 p r d a s
  | .fcvtFromN64 p r d a => Sys2Proof.Machine.execFcvtFromN64 p r d a s
  | .fcvtFromOther p r d a => Sys2Proof.Machine.execFcvtFromOther p r d a s
  | .fcvtToS64 p r d a => Sys2Proof.Machine.execFcvtToS64 p r d a s
  | .fcvtToN64 p r d a => Sys2Proof.Machine.execFcvtToN64 p r d a s
  | .crr d c => Sys2Proof.Machine.execCrr d c s
  | .crw c a => Sys2Proof.Machine.execCrw c a s
  | .crs d c a => Sys2Proof.Machine.execCrs d c a s
  | .crc d c a => Sys2Proof.Machine.execCrc d c a s
  | .bfx d a p w => Sys2Proof.Machine.execBfx d a p w s
  | .bfxn d a p w => Sys2Proof.Machine.execBfxn d a p w s
  | .bfi d a p w => Sys2Proof.Machine.execBfi d a p w s
  | .trap c => Sys2Proof.Machine.execTrap c s
  | .brk c => Sys2Proof.Machine.execBrk c s
  | .rett => Sys2Proof.Machine.execRett s
  | .idle => Sys2Proof.Machine.execIdle s
  | .tstamp d => Sys2Proof.Machine.execTstamp d s
  | .cflush a => Sys2Proof.Machine.execCflush a s
  | .cinv a => Sys2Proof.Machine.execCinv a s
  | .tlbinv a => Sys2Proof.Machine.execTlbinv a s
  | .send a b n => Sys2Proof.Machine.execSend a b n s
  | .sendv a b n => Sys2Proof.Machine.execSendv a b n s
  | .taskDone => Sys2Proof.Machine.execTaskDone s
  | .yield => Sys2Proof.Machine.execYield s
  | .waitk k n a => Sys2Proof.Machine.execWaitk k n a s
  | .waitdep => Sys2Proof.Machine.execWaitdep s
  | .trig => Sys2Proof.Machine.execTrig s
  | .waitev d a => Sys2Proof.Machine.execWaitev d a s
  | .chbind a b => Sys2Proof.Machine.execChbind a b s
  | .kjoin a => Sys2Proof.Machine.execKjoin a s
  | .kleave a => Sys2Proof.Machine.execKleave a s
  | .kbar a => Sys2Proof.Machine.execKbar a s
  | .kcount d a => Sys2Proof.Machine.execKcount d a s
  | .ksend t m d a b => Sys2Proof.Machine.execKsend t m d a b s
  | .bindStream p a => Sys2Proof.Machine.execBindStream p a s
  | .bindLink p r f => Sys2Proof.Machine.execBindLink p r f s
  | .bindChan p h => Sys2Proof.Machine.execBindChan p h s
  | .unbind p => Sys2Proof.Machine.execUnbind p s
  | .skipPort p a => Sys2Proof.Machine.execSkipPort p a s
  | .sdrain p => Sys2Proof.Machine.execSdrain p s
  | .rld q d a => Sys2Proof.Machine.execRld q d a s
  | .rst q o t d a b => Sys2Proof.Machine.execRst q o t d a b s
  | .ramo op w q o d a b => Sys2Proof.Machine.execRamo op w q o d a b s
  | .rstc q o t n d a b => Sys2Proof.Machine.execRstc q o t n d a b s
  | .rmcast q n d a b => Sys2Proof.Machine.execRmcast q n d a b s
  | .tkwait d a => Sys2Proof.Machine.execTkwait d a s
  | .tkdrop d => Sys2Proof.Machine.execTkdrop d s
  | .tkmerge d a b => Sys2Proof.Machine.execTkmerge d a b s
  | .grant d a b => Sys2Proof.Machine.execGrant d a b s
  | .grq d a b => Sys2Proof.Machine.execGrq d a b s
  | .pathset d a b => Sys2Proof.Machine.execPathset d a b s
  | .wvShape d a => Sys2Proof.Machine.execWvShape d a s
  | .wvPack d a b => Sys2Proof.Machine.execWvPack d a b s
  | .wvUnpk d a b => Sys2Proof.Machine.execWvUnpk d a b s
  | .wvSet d a b => Sys2Proof.Machine.execWvSet d a b s
  | .wvGet d a b => Sys2Proof.Machine.execWvGet d a b s
  | .wvAdd t d a b => Sys2Proof.Machine.execWvAdd t d a b s
  | .wvSub t d a b => Sys2Proof.Machine.execWvSub t d a b s
  | .wvCmp d a b => Sys2Proof.Machine.execWvCmp d a b s
  | .wvInbox d a b => Sys2Proof.Machine.execWvInbox d a b s
  | .wvNext d a b => Sys2Proof.Machine.execWvNext d a b s
  | .wvCut d a b => Sys2Proof.Machine.execWvCut d a b s
  | .wvRlist d a b => Sys2Proof.Machine.execWvRlist d a b s
  | .wvClrf d => Sys2Proof.Machine.execWvClrf d s
  | .mmMma t k d a b => Sys2Proof.Machine.execMmMma t k d a b s
  | .mmMmag t k d a b => Sys2Proof.Machine.execMmMmag t k d a b s
  | .mmZero t k d => Sys2Proof.Machine.execMmZero t k d s
  | .mmLdacc t k d a => Sys2Proof.Machine.execMmLdacc t k d a s
  | .mmStacc t k d a => Sys2Proof.Machine.execMmStacc t k d a s
  | .mmMova t d a => Sys2Proof.Machine.execMmMova t d a s
  | .mmMovv t a b => Sys2Proof.Machine.execMmMovv t a b s
  | .mmQuery d a => Sys2Proof.Machine.execMmQuery d a s
  | .mmCancel d a => Sys2Proof.Machine.execMmCancel d a s
  | .cpCopy x k d a => Sys2Proof.Machine.execCpCopy x k d a s
  | .cpGather x k d a => Sys2Proof.Machine.execCpGather x k d a s
  | .cpFill x k d a => Sys2Proof.Machine.execCpFill x k d a s
  | .cpRemote x k d a => Sys2Proof.Machine.execCpRemote x k d a s
  | .cpMcast x k d a => Sys2Proof.Machine.execCpMcast x k d a s
  | .cpRsend x k d a => Sys2Proof.Machine.execCpRsend x k d a s
  | .cpReduce x k d a => Sys2Proof.Machine.execCpReduce x k d a s
  | .view v => Sys2Proof.Machine.execView v s
  | .vld t m d a => Sys2Proof.Machine.execVld t m d a s
  | .vst t m a b => Sys2Proof.Machine.execVst t m a b s
  | .vlds t m d a b => Sys2Proof.Machine.execVlds t m d a b s
  | .vsts t m d a b => Sys2Proof.Machine.execVsts t m d a b s
  | .vgather t m d a b => Sys2Proof.Machine.execVgather t m d a b s
  | .vscatter t m d a b => Sys2Proof.Machine.execVscatter t m d a b s
  | .vadd t m d a b => Sys2Proof.Machine.execVadd t m d a b s
  | .vsub t m d a b => Sys2Proof.Machine.execVsub t m d a b s
  | .vmul t m d a b => Sys2Proof.Machine.execVmul t m d a b s
  | .vmulh t m d a b => Sys2Proof.Machine.execVmulh t m d a b s
  | .vma t m d a b => Sys2Proof.Machine.execVma t m d a b s
  | .vms t m d a b => Sys2Proof.Machine.execVms t m d a b s
  | .vmin t m d a b => Sys2Proof.Machine.execVmin t m d a b s
  | .vmax t m d a b => Sys2Proof.Machine.execVmax t m d a b s
  | .vabs t m d a => Sys2Proof.Machine.execVabs t m d a s
  | .vneg t m d a => Sys2Proof.Machine.execVneg t m d a s
  | .vand t m d a b => Sys2Proof.Machine.execVand t m d a b s
  | .vor t m d a b => Sys2Proof.Machine.execVor t m d a b s
  | .vxor t m d a b => Sys2Proof.Machine.execVxor t m d a b s
  | .vsll t m d a b => Sys2Proof.Machine.execVsll t m d a b s
  | .vsrl t m d a b => Sys2Proof.Machine.execVsrl t m d a b s
  | .vsra t m d a b => Sys2Proof.Machine.execVsra t m d a b s
  | .vdiv t m d a b => Sys2Proof.Machine.execVdiv t m d a b s
  | .vsqrt t m d a => Sys2Proof.Machine.execVsqrt t m d a s
  | .vrcp t m d a => Sys2Proof.Machine.execVrcp t m d a s
  | .vrsq t m d a => Sys2Proof.Machine.execVrsq t m d a s
  | .vexp2 t m d a => Sys2Proof.Machine.execVexp2 t m d a s
  | .vlog2 t m d a => Sys2Proof.Machine.execVlog2 t m d a s
  | .vsig t m d a => Sys2Proof.Machine.execVsig t m d a s
  | .vtanh t m d a => Sys2Proof.Machine.execVtanh t m d a s
  | .vshuf t m d a b => Sys2Proof.Machine.execVshuf t m d a b s
  | .vbcast t m d a => Sys2Proof.Machine.execVbcast t m d a s
  | .vextr t d a b => Sys2Proof.Machine.execVextr t d a b s
  | .vins t d a b => Sys2Proof.Machine.execVins t d a b s
  | .vslide t m d a b => Sys2Proof.Machine.execVslide t m d a b s
  | .vredsum t m d a => Sys2Proof.Machine.execVredsum t m d a s
  | .vredmax t m d a => Sys2Proof.Machine.execVredmax t m d a s
  | .vredmin t m d a => Sys2Proof.Machine.execVredmin t m d a s
  | .vscan t m d a => Sys2Proof.Machine.execVscan t m d a s
  | .vcmp c t m d a b => Sys2Proof.Machine.execVcmp c t m d a b s
  | .mand d a b => Sys2Proof.Machine.execMand d a b s
  | .mor d a b => Sys2Proof.Machine.execMor d a b s
  | .mxor d a b => Sys2Proof.Machine.execMxor d a b s
  | .mnot d a => Sys2Proof.Machine.execMnot d a s
  | .mpop m d a => Sys2Proof.Machine.execMpop m d a s
  | .mfirst m d a => Sys2Proof.Machine.execMfirst m d a s
  | .vcvt t q m d a => Sys2Proof.Machine.execVcvt t q m d a s
  | .vsel t m d a b => Sys2Proof.Machine.execVsel t m d a b s
  | .vdot t m d a b => Sys2Proof.Machine.execVdot t m d a b s
  | .vwadd t m d a b => Sys2Proof.Machine.execVwadd t m d a b s
  | .vwinbox t m d a b => Sys2Proof.Machine.execVwinbox t m d a b s
  | .vwaddT t m d a b => Sys2Proof.Machine.execVwaddT t m d a b s
  | .cLi d imm => Sys2Proof.Machine.execCLi d imm s
  | .cAddi d imm => Sys2Proof.Machine.execCAddi d imm s
  | .cMv d q => Sys2Proof.Machine.execCMv d q s
  | .cAdd d q => Sys2Proof.Machine.execCAdd d q s
  | .cSub d q => Sys2Proof.Machine.execCSub d q s
  | .cLd d b o => Sys2Proof.Machine.execCLd d b o s
  | .cSt q b o => Sys2Proof.Machine.execCSt q b o s
  | .cBeqz q o => Sys2Proof.Machine.execCBeqz q o s
  | .cBnez q o => Sys2Proof.Machine.execCBnez q o s
  | .cJ o => Sys2Proof.Machine.execCJ o s
  | .cNop => Sys2Proof.Machine.execCNop s
  | .cDone => Sys2Proof.Machine.execCDone s
  | .cYield => Sys2Proof.Machine.execCYield s
  | .cBreak => Sys2Proof.Machine.execCBreak s
  | .cWaitk k n => Sys2Proof.Machine.execCWaitk k n s
  | .cSlli d h => Sys2Proof.Machine.execCSlli d h s
  | .cAndi d imm => Sys2Proof.Machine.execCAndi d imm s
  | .illegalEncoding w compact => Sys2Proof.Machine.execIllegalEncoding w compact s
  | .instructionFetchFault prot addr => Sys2Proof.Machine.execInstructionFetchFault prot addr s
  | .messageArrival n => Sys2Proof.Machine.execMessageArrival n s
  | .spilledMessageStart core => Sys2Proof.Machine.execSpilledMessageStart core s
  | .bouncedMessageResend core => Sys2Proof.Machine.execBouncedMessageResend core s
  | .contextEnd ctx core slot pc val => Sys2Proof.Machine.execContextEnd ctx core slot pc val s
  | .systemSlotTrap core cause pc val => Sys2Proof.Machine.execSystemSlotTrap core cause pc val s
  | .millJobStart croft => Sys2Proof.Machine.execMillJobStart croft s
  | .millJobComplete core => Sys2Proof.Machine.execMillJobComplete core s
  | .cartJobStart croft => Sys2Proof.Machine.execCartJobStart croft s
  | .cartJobComplete core n => Sys2Proof.Machine.execCartJobComplete core n s
  | .streamRefill tid port => Sys2Proof.Machine.execStreamRefill tid port s
  | .streamWriteback tid port => Sys2Proof.Machine.execStreamWriteback tid port s
  | .sfuRequestService croft => Sys2Proof.Machine.execSfuRequestService croft s
  | .sfuResultWrite croft => Sys2Proof.Machine.execSfuResultWrite croft s
  | .ksendFilingDone core => Sys2Proof.Machine.execKsendFilingDone core s
  | .packetAtSquare n => Sys2Proof.Machine.execPacketAtSquare n s
  | .packetArrival a => Sys2Proof.Machine.execPacketArrival a s
  | .remoteApply n => Sys2Proof.Machine.execRemoteApply n s
  | .replyArrival r => Sys2Proof.Machine.execReplyArrival r s
  | .noticeSend slot dev => Sys2Proof.Machine.execNoticeSend slot dev s
  | .noticeArrival tok landed => Sys2Proof.Machine.execNoticeArrival tok landed s
  | .noticeAckArrival slot dev => Sys2Proof.Machine.execNoticeAckArrival slot dev s
  | .noticeResend slot dev => Sys2Proof.Machine.execNoticeResend slot dev s
  | .noticeCacheExpiry tok => Sys2Proof.Machine.execNoticeCacheExpiry tok s
  | .skipNoticeArrival dev core slot seq floor => Sys2Proof.Machine.execSkipNoticeArrival dev core slot seq floor s
  | .poundExpiry n => Sys2Proof.Machine.execPoundExpiry n s
  | .orderEntryFree dev core slot => Sys2Proof.Machine.execOrderEntryFree dev core slot s
  | .strayNoticeArrival pkt => Sys2Proof.Machine.execStrayNoticeArrival pkt s
  | .uncorrectableReport pkt cw => Sys2Proof.Machine.execUncorrectableReport pkt cw s
  | .portFail port lost => Sys2Proof.Machine.execPortFail port lost s
  | .laneErase lane cause => Sys2Proof.Machine.execLaneErase lane cause s
  | .laneRetrainLive lane => Sys2Proof.Machine.execLaneRetrainLive lane s
  | .wellRequestServed => Sys2Proof.Machine.execWellRequestServed s
  | .orderStepPoint a => Sys2Proof.Machine.execOrderStepPoint a s
  | .hazeEnd p => Sys2Proof.Machine.execHazeEnd p s
  | .pathDark p => Sys2Proof.Machine.execPathDark p s
  | .trimWindow lane w => Sys2Proof.Machine.execTrimWindow lane w s
  | .rationRefill => Sys2Proof.Machine.execRationRefill s
  | .squall terrace => Sys2Proof.Machine.execSquall terrace s
  | .stretchEnd terrace => Sys2Proof.Machine.execStretchEnd terrace s
  | .halvingEnd terrace => Sys2Proof.Machine.execHalvingEnd terrace s
  | .overCurrentKill => Sys2Proof.Machine.execOverCurrentKill s
  | .powerRemeasure still => Sys2Proof.Machine.execPowerRemeasure still s
  | .kinOpAtKeeper n => Sys2Proof.Machine.execKinOpAtKeeper n s
  | .kinReleaseArrival n => Sys2Proof.Machine.execKinReleaseArrival n s
  | .kcountAnswer n => Sys2Proof.Machine.execKcountAnswer n s
  | .launchTriggered lid => Sys2Proof.Machine.execLaunchTriggered lid s
  | .releaseNoticeArrival n => Sys2Proof.Machine.execReleaseNoticeArrival n s
  | .directoryRequest pa core write => Sys2Proof.Machine.execDirectoryRequest pa core write s
  | .memoryPortArrival n => Sys2Proof.Machine.execMemoryPortArrival n s
  | .cxlMemAccess a => Sys2Proof.Machine.execCxlMemAccess a s
  | .ucieModuleFail n => Sys2Proof.Machine.execUcieModuleFail n s
  | .deviceReset b => Sys2Proof.Machine.execDeviceReset b s
  | .functionTrained f => Sys2Proof.Machine.execFunctionTrained f s
  | .tokenReserveGrant core => Sys2Proof.Machine.execTokenReserveGrant core s
  | .sensorRead rs => Sys2Proof.Machine.execSensorRead rs s
  | .laserHourlySample lane bias => Sys2Proof.Machine.execLaserHourlySample lane bias s
  | .stewardControlApply => Sys2Proof.Machine.execStewardControlApply s
  | .corePowerOff core => Sys2Proof.Machine.execCorePowerOff core s
  | .corePowerOn core => Sys2Proof.Machine.execCorePowerOn core s
  | .saveDrainLimit ctx => Sys2Proof.Machine.execSaveDrainLimit ctx s
  | .saveDrainDone ctx => Sys2Proof.Machine.execSaveDrainDone ctx s
  | .hostNop h => Sys2Proof.Machine.execHostNop h s
  | .hostAbort h => Sys2Proof.Machine.execHostAbort h s
  | .ctxCreate h => Sys2Proof.Machine.execCtxCreate h s
  | .ctxPlace h => Sys2Proof.Machine.execCtxPlace h s
  | .ctxEnd h => Sys2Proof.Machine.execCtxEnd h s
  | .imgLoad h => Sys2Proof.Machine.execImgLoad h s
  | .launch h => Sys2Proof.Machine.execLaunch h s
  | .classData h => Sys2Proof.Machine.execClassData h s
  | .shootdown h => Sys2Proof.Machine.execShootdown h s
  | .winSet h => Sys2Proof.Machine.execWinSet h s
  | .winRevoke h => Sys2Proof.Machine.execWinRevoke h s
  | .attest h => Sys2Proof.Machine.execAttest h s
  | .ctxSave h => Sys2Proof.Machine.execCtxSave h s
  | .ctxRestore h => Sys2Proof.Machine.execCtxRestore h s
  | .almbaseWrite v => Sys2Proof.Machine.execAlmbaseWrite v s
  | .almtailWrite v => Sys2Proof.Machine.execAlmtailWrite v s
  | .telsnapSnap => Sys2Proof.Machine.execTelsnapSnap s
  | .portRetrain p => Sys2Proof.Machine.execPortRetrain p s
  | .suspectClear p => Sys2Proof.Machine.execSuspectClear p s
  | .keyInstall v => Sys2Proof.Machine.execKeyInstall v s
  | .keySwitch v => Sys2Proof.Machine.execKeySwitch v s
  | .sensDoubtClear q => Sys2Proof.Machine.execSensDoubtClear q s
  | .echoctlWrite e v => Sys2Proof.Machine.execEchoctlWrite e v s
  | .sqevcntWrite c v => Sys2Proof.Machine.execSqevcntWrite c v s
  | .wellcfgWrite v => Sys2Proof.Machine.execWellcfgWrite v s
  | .fleetevRead => Sys2Proof.Machine.execFleetevRead s
  | .poundstatRead => Sys2Proof.Machine.execPoundstatRead s
  | .registerWrite off v => Sys2Proof.Machine.execRegisterWrite off v s
  | .loadValueReturn tid => Sys2Proof.Machine.execLoadValueReturn tid s
  | .packetDeparture n => Sys2Proof.Machine.execPacketDeparture n s
  | .millBlockEnd croft => Sys2Proof.Machine.execMillBlockEnd croft s
  | .cartVisitEnd croft => Sys2Proof.Machine.execCartVisitEnd croft s
  | .keyInstallDone => Sys2Proof.Machine.execKeyInstallDone s

end Sys2Proof.Machine
end

