-- ==== Sys2Proof/Machine/Bar.lean ====
section
/-!
DEFINITION. What the host reads of the register space (R309, R282, R341): one value for each offset; offsets not listed
read as zero.
-/
namespace Sys2Proof.Machine

/-- A number of one bit. -/
def one (b : Bool) : Nat := if b then 1 else 0
/-- LANETEL's four dwords, from the last copy (R342, R343). -/
def State.lanetel (s : State) (n i : Nat) : Nat :=
  let l := s.fleet.snap.get ({} : Lane) n
  match i with
  | 0 => l.biasRef + 2 ^ 32 * l.bias0
  | 1 => l.hours + 2 ^ 32 * l.biasMax
  | 2 => l.eol
  | _ => l.stripe + 2 ^ 8 * l.st + 2 ^ 16 * l.temp.toNat + 2 ^ 32 * l.gen
/-- PORTCTL (R346). -/
def State.portctl (s : State) (p : Nat) : Nat :=
  let o := s.oport p
  o.strays + 2 ^ 8 * one o.suspect + 2 ^ 9 * one o.cipher + 2 ^ 11 * one o.retrain + 2 ^ 30 * o.last
/-- KEYCTL (R348). -/
def State.keyctl (s : State) : Nat :=
  one s.fleet.keyBusy.isSome + 2 * one s.fleet.keySw + 2 ^ 2 * one s.oldFree + 2 ^ 3 * one s.fleet.keyErr + 2 ^ 32 * s.fleet.keyGen
/-- TOKSTAT (R355). -/
def State.tokstat (s : State) : Nat :=
  let used := (s.sq.toks.cells.filter (fun c => c.2.st != .free)).length
  let pending := (s.sq.toks.cells.filter (fun c => c.2.st == .pending)).length
  pending + 2 ^ 16 * (16384 - used) + 2 ^ 32 * s.cacheUse
/-- SENS (R349). -/
def Sensor.word (x : Sensor) : Nat := x.run + 2 ^ 8 * one x.doubt + 2 ^ 16 * x.val.toNat + 2 ^ 32 * x.raw.toNat
/-- TERCTL and CORECTL (R351). -/
def State.terctl (s : State) (t : Nat) : Nat := (s.terrace t).vid + 2 ^ 16 * s.minDiv t (s.terrace t).vid
def Core.ctl (c : Core) : Nat := c.divSet + 2 ^ 8 * one c.off + 2 ^ 9 * one c.isoff
/-- Eight bytes of the readiness map (R316). -/
def State.mapWord (s : State) (k : Nat) : Nat :=
  if k = 0x1800 then s.host.mapGen
  else (List.range 8).foldl (fun a i => if k + i < 0x1800 then a + 2 ^ (8 * i) * s.host.ready.get 0 (k + i) else a) 0
/-- The value of the register at an offset: each register at its own offset, the byte-addressed areas (the readiness map,
KEMPUB, DROOPTH) at each of theirs. -/
def State.barValue (s : State) (off : Nat) : Nat :=
  let f := s.fleet
  let h := s.host
  let in_ (base n : Nat) : Bool := decide (base ≤ off) && decide (off < base + n)
  let regs (base n : Nat) : Bool := in_ base n && (off - base) % 8 == 0
  if off = 0x100 then s.credit
  else if off = 0x108 then h.drop.toNat
  else if off = 0x200 then h.almbase.toNat
  else if off = 0x208 then h.head
  else if off = 0x210 then h.tail
  else if off = 0x218 then h.almirq.toNat
  else if off = 0x300 then f.devId + 2 ^ 16 * one f.idValid
  else if in_ 0x10000 0x1808 then s.mapWord (off - 0x10000)
  else if off = 0x40000 then s.well.margin + 2 ^ 16 * 9600 + 2 ^ 32 * s.well.reserve
  else if regs 0x40100 1536 then (s.lane ((off - 0x40100) / 8)).loss + 2 ^ 24 * (s.lane ((off - 0x40100) / 8)).trim
  else if off = 0x50000 then 2 ^ 16 * f.snapCnt + 2 ^ 32 * f.snapGen
  else if off = 0x50008 then f.telgen
  else if regs 0x51000 6144 then s.lanetel ((off - 0x51000) / 32) ((off - 0x51000) / 8 % 4)
  else if regs 0x54000 1536 then ((s.oport ((off - 0x54000) / 64)).stats.get 0 ((off - 0x54000) / 8 % 8)).toNat
  else if regs 0x56000 192 then s.portctl ((off - 0x56000) / 8)
  else if off = 0x57000 then s.keyctl
  else if off = 0x57008 then f.keyAddr.toNat
  else if off = 0x57010 then f.lowGen + 2 ^ 32 * f.txGen
  else if in_ 0x58000 1568 then leNat ((f.kemPub.drop (off - 0x58000)).take 8)
  else if in_ 0x60000 6400 then (s.terrace (off - 0x60000)).droop
  else if regs 0x70000 1024 then
    if (off - 0x70000) % 16 = 0 then (f.sqsel.get 0 ((off - 0x70000) / 16)).toNat else (f.sqcnt.get 0 ((off - 0x70000) / 16)).toNat
  else if off = 0x78008 then s.tokstat
  else if off = 0x78010 then f.rascorr.toNat
  else if off = 0x78018 then f.rasunc.toNat
  else if off = 0x78020 then f.walkerr.toNat
  else if off = 0x78048 then f.evIrq.toNat
  else if regs 0x80000 512 then
    let e := f.echo.get ({} : Echo) ((off - 0x80000) / 32)
    if (off - 0x80000) % 32 = 0 then e.ctl.toNat else if (off - 0x80000) % 32 = 8 then e.base.toNat
    else if (off - 0x80000) % 32 = 16 then e.pos.toNat else 0
  else if regs 0x90000 51200 then s.terctl ((off - 0x90000) / 8)
  else if regs 0xA0000 102400 then (f.sens.get ({} : Sensor) ((off - 0xA0000) / 8)).word
  else if regs 0x100000 819200 then (s.core ((off - 0x100000) / 8)).ctl
  else 0
/-- A host read of a register: FLEETEV and POUNDSTAT change with it (R352, R355). -/
def State.barRead (s : State) (off : Nat) : State :=
  if !s.reached off then s
  else if off = 0x78040 then s.readFleetev
  else if off = 0x78000 then s.readPoundstat
  else { s with host := { s.host with lastRd := BitVec.ofNat 64 (s.barValue off) } }

end Sys2Proof.Machine
end

