-- ==== Sys2Proof/Machine/Caches.lean ====
section
/-!
DEFINITION. What the part's caches do of their own accord: translations, instruction lines and L1 lines that come and go
(R35, R39, R222, R324; log entry 10), errors that ECC corrects (R341, R345, R353), and those it
cannot correct in what an engine or a remote application reads (R183, R339).
-/
namespace Sys2Proof.Machine

/-- A core's TLB takes the leaf that maps `va` for the context it holds: from the second level, else by a walk, which
fills the second level too (R324). A full TLB takes none. -/
def State.tlbFill (s : State) (core : Nat) (va : B64) : State :=
  let v := va.toNat
  match (s.core core).ctx with
  | none => s
  | some x =>
    if 0xFFF0000000000 ≤ v || (s.core core).tlb.any (fun e => e.hits x v) || 64 ≤ (s.core core).tlb.length then s else
    let l1 (e : TlbEntry) (s : State) : State := s.modCore core (fun c => { c with tlb := c.tlb ++ [e] })
    match (s.croft (croftOf core)).tlb2.find? (fun e => e.hits x v) with
    | some e => l1 e s
    | none =>
      let s := s.walked core x va
      match s.walk x v with
      | .none _ => s.bumpWalk x va
      | .leaf log2 e =>
        let t : TlbEntry := ⟨x, v / 2 ^ log2 * 2 ^ log2, log2, e⟩
        l1 t (s.modCroft (croftOf core) (fun c => if c.tlb2.length < 2048 then { c with tlb2 := c.tlb2 ++ [t] } else c))
/-- Entry `n` leaves a core's TLB, or its croft's second level. -/
def State.tlbEvict (s : State) (core : Nat) (second : Bool) (n : Nat) : State :=
  if second then s.modCroft (croftOf core) (fun c => { c with tlb2 := c.tlb2.eraseIdx n })
  else s.modCore core (fun c => { c with tlb := c.tlb.eraseIdx n })
/-- An instruction cache of 64 KiB, 256 lines, without one free for a new line drops one, a free choice (R3). -/
def State.icacheRoom (s : State) (core line : Nat) : State :=
  let ls := (s.core core).icache.cells.map (·.1)
  if ls.contains line || ls.length < 256 then s else
  match ls[(Config.freeValue s.freeCtr).toNat % ls.length]? with
  | none => s
  | some x => s.freshCtr.modCore core (fun c => { c with icache := c.icache.erase x })
/-- A core's instruction cache takes a line of device memory as its home serves it. -/
def State.icacheFill (s : State) (core line : Nat) : State :=
  if 2 ^ 32 ≤ line || !s.stackOk (line * 256) then s else
  let s := (s.recall (line * 256) 256).icacheRoom core line
  s.modCore core (fun c => { c with icache := c.icache.put line (readBytes s.mem (line * 256) 256) })
/-- A line leaves a core's instruction cache, or its L1. -/
def State.icacheEvict (s : State) (core line : Nat) : State := s.modCore core (fun c => { c with icache := c.icache.erase line })
def State.l1Evict (s : State) (core line : Nat) : State := s.modCore core (fun c => { c with l1 := c.l1.erase line })
/-- An Update-only line is evicted: its home merges it (R39). -/
def State.updEvict (s : State) (core line : Nat) : State := s.mergeWhere (fun u => u.core == core && u.line == line)
/-- Errors that were corrected: on a port, counted in CORR; elsewhere in RASCORR, those of HBM by the Square too. -/
def State.corrected (s : State) (port : Option Nat) (hbm : Bool) (n : Nat) : State :=
  match port with
  | some p => if p < 24 then (s.portStat p 0 n).countSq 4 p n else s
  | none =>
    let s : State := { s with fleet := { s.fleet with rascorr := s.fleet.rascorr + BitVec.ofNat 64 n } }
    if hbm then s.countSq 17 0 n else s
/-- The record of an error an engine met (R329, kind 6): its PC and VAL are free values. -/
def State.engineRecord (s : State) (ctx tid : Nat) : State :=
  { s.errRecord 6 ctx 0 false (whereOf tid) (Config.freeValue s.freeCtr) (Config.freeValue (s.freeCtr + 1)) with freeCtr := s.freeCtr + 2 }
/-- An uncorrectable error in a tile or an operand byte of a core's started job: a mill job gives ADDRESS, a cart job NACK
with DEST_ERROR in DETAIL, and no trap is taken (R339). -/
def State.engineError (s : State) (core : Nat) (cart : Bool) : State :=
  let c := s.core core
  if cart then
    match c.cartCur with
    | some j =>
      if j.stopped || j.told != 0 then s else
      let k := { j.fail 3 with detail := if j.code = 0 then 9 else j.detail }
      (s.setCore core { c with cartCur := some k }).uncorrected.engineRecord j.ctx j.tid
    | none => s
  else
    match c.millCur with
    | some j =>
      if j.dead || j.status != 0 then s
      else (s.setCore core { c with millCur := some { j with status := 5 } }).uncorrected.engineRecord j.ctx j.tid
    | none => s
/-- An uncorrectable error at the target of received packet `n`, whose window check passes: it is refused with DEST_ERROR
and the target stays as it was (R183). -/
def State.applyError (s : State) (n : Nat) : State :=
  match s.sq.inp[n]? with
  | none => s
  | some i =>
    if s.mayApply n i && s.winCheck i.pkt == 0 then
      ({ s with sq := { s.sq with inp := s.sq.inp.eraseIdx n } } : State).uncorrected.refusePkt i.pkt 9
    else s
/-- A port with bytes read early for the elements that may be read now: those its entries have room for, or those pushed
(R157, R208). -/
def Port.readEarly (p : Port) (bs : List (Nat × Byte)) : Port :=
  let before := if p.kind == .readStream then p.next + 8 else p.next
  { p with ahead := bs.map (fun b => (before, b)) ++ p.ahead }
/-- An agent whose accesses are an event for each byte reads some bytes before the rest (R208; log entry 46): they stay read
until the job, the element, the packet or the lane that takes them is done. -/
def State.earlyRead (s : State) (r : Reader) (loc n : Nat) : State :=
  match r with
  | .mill core =>
    match (s.core core).millCur with
    | none => s
    | some j =>
      if j.dead || s.croftStopped (croftOf core) then s else
      let x := (s.observe j.tid j.party loc n).readAhead loc n
      x.1.modCore core (fun c => { c with millCur := some { j with ahead := x.2 ++ j.ahead } })
  | .cart core uid =>
    match (s.core core).cartJob? uid with
    | none => s
    | some j =>
      if s.croftStopped (croftOf core) then s else
      let x := (s.observe j.tid j.party loc n).readAhead loc n
      x.1.modCore core (fun c => c.putCart { j with ahead := x.2 ++ j.ahead })
  | .stream tid key =>
    if s.croftStopped (croftOf (coreOf tid)) || !(s.canWriteBack tid key || s.canRefill tid key) then s else
    let x := (s.observe tid .agent loc n).readAhead loc n
    match (s.core (coreOf tid)).orphans.find? (fun o => o.tid == tid && o.num == key), (s.thread tid).ports.get? key with
    | some o, _ => x.1.modCore (coreOf tid) (fun c => c.putOrphan o (o.port.readEarly x.2))
    | none, some p => x.1.modThread tid (fun t => { t with ports := t.ports.put key (p.readEarly x.2) })
    | none, none => s
  | .packet n' =>
    match s.sq.inp[n']? with
    | none => s
    | some i =>
      if pktAcc i.pkt.op != .read || !s.mayApply n' i || s.winCheck i.pkt != 0 then s else
      let x := (s.pktObserve i.pkt loc n).readAhead loc n
      { x.1 with sq := { x.1.sq with inp := x.1.sq.inp.set n' { i with ahead := x.2 ++ i.ahead } } }
  | .bin core =>
    match (s.core core).ksq with
    | [] => s
    | r :: rs =>
      if s.clockless core || !r.rest.isEmpty then s else
      let x := (s.binTouch r.tid loc n).readAhead loc n
      x.1.modCore core (fun c => { c with ksq := { r with ahead := x.2 ++ r.ahead } :: rs })
/-- Hits and misses of the last-level cache, which only the Square's counters show (R35, R353). -/
def State.llcCount (s : State) (hits misses : Nat) : State := (s.countSq 15 0 hits).countSq 16 0 misses

end Sys2Proof.Machine
end

