-- ==== Sys2Proof/Machine/Charge.lean ====
section
/-!
DEFINITION. What an instruction costs at issue (R254).
-/
namespace Sys2Proof.Machine

/-- A block of a product of format FA. -/
def millBlockCost (fa : Nat) : Nat := if fa = 6 then 16 else if fa = 4 ∨ fa = 5 then 6 else if 10 ≤ fa ∧ fa ≤ 12 then 3 else 4
/-- `mm.mma` and `mm.mmag`: blocks at MK, or 1 when R165 refuses MFMT or MK as they stand. -/
def mulCost (t : Thread) : Nat :=
  let fa := t.mfmt.toNat % 16
  if !pairOk fa (t.mfmt.toNat / 16 % 16) (t.mfmt.toNat / 256) || t.mkReg.toNat == 0 || maxK fa < t.mkReg.toNat then 1
  else (t.mkReg.toNat + 31) / 32 * millBlockCost fa
/-- A cart job by its block at issue; 1 when R172 rejects the block or it gives SHAPE or FORMAT. R254 does not say what an
instruction is charged whose operand is outstanding or whose port is empty as it first issues, so that its block cannot be
read: the model charges 1 (log entry 45). -/
def State.cartCost (s : State) (tid : Nat) (op : CartOp) (a : SReg) : Nat :=
  match (readS a).run { s with cur := tid } with
  | .error _ => 1
  | .ok (va, _) =>
    match blockOff (coreOf tid) va with
    | none => 1
    | some off =>
      let t := s.thread tid
      let blk := s.readFor tid (spadLoc (coreOf tid) off) 56
      let j : CartJob :=
        { uid := 0, id := 0, tid := tid, act := t.act, ctx := t.ctx, sys := t.sysMode, op := op, k := 0, xafter := false, blk := blk, loc := 0,
          vrnd := t.vrnd, after := 0 }
      let refused := j.badShape || (match s.cartSides j with | .error c => c == 7 | .ok _ => j.badFormat)
      if refused then 1 else 1 + (j.rows * j.count * cartSize j.dfmt + 255) / 256
/-- Integer or floating element type. -/
def vecCost (t : Ty) : Option Nat := some (if t.isFloat then 3 else 2)
/-- A system instruction in context mode raises PRIV and is not charged. -/
def sysCost (t : Thread) : Option Nat := if t.sysMode then some 1 else none
/-- A control-register access that raises PRIV is not charged. -/
def cregCost (t : Thread) (c : BitVec 12) : Option Nat := if cregListed c.toNat && cregPriv c.toNat && !t.sysMode then none else some 1
/-- The cost of an instruction other than a view; none when it is not charged. Those not named cost 1. -/
def State.costPlain (s : State) (tid : Nat) (i : Instr) : Option Nat :=
  let t := s.thread tid
  match i with
  | .illegalEncoding _ _ => none
  | .instructionFetchFault _ _ => none
  | .rett => sysCost t
  | .idle => sysCost t
  | .tlbinv _ => sysCost t
  | .pathset _ _ _ => sysCost t
  | .crr _ c => cregCost t c
  | .crw c _ => cregCost t c
  | .crs _ c _ => cregCost t c
  | .crc _ c _ => cregCost t c
  | .ldS8 _ _ _ | .ldN8 _ _ _ | .ldS16 _ _ _ | .ldN16 _ _ _ | .ldS32 _ _ _ | .ldN32 _ _ _ | .ld64 _ _ _ | .st8 _ _ _ | .st16 _ _ _
  | .st32 _ _ _ | .st64 _ _ _ | .cLd _ _ _ | .cSt _ _ _ => some 2
  | .amoSwap _ _ _ _ | .amoAdd _ _ _ _ | .amoAnd _ _ _ _ | .amoOr _ _ _ _ | .amoXor _ _ _ _ | .amoMin _ _ _ _ | .amoMax _ _ _ _
  | .amoMinn _ _ _ _ | .amoMaxn _ _ _ _ | .amoCas _ _ _ _ | .amoFadd _ _ _ _ | .updAdd _ _ _ | .updFadd _ _ _ | .updMin _ _ _
  | .updMax _ _ _ | .updOr _ _ _ => some 2
  | .fadd _ _ _ _ _ | .fsub _ _ _ _ _ | .fmul _ _ _ _ _ | .fdiv _ _ _ _ _ | .fsqrt _ _ _ _ | .fma _ _ _ _ _ | .fmin _ _ _ _
  | .fmax _ _ _ _ | .feq _ _ _ _ | .flt _ _ _ _ | .fle _ _ _ _ | .fclass _ _ _ | .fcvtFromS64 _ _ _ _ | .fcvtFromN64 _ _ _ _
  | .fcvtFromOther _ _ _ _ | .fcvtToS64 _ _ _ _ | .fcvtToN64 _ _ _ _ => some 2
  | .cflush _ | .cinv _ | .mmMova _ _ _ | .mmMovv _ _ _ => some 2
  | .send _ _ _ | .sendv _ _ _ | .rld _ _ _ | .rst _ _ _ _ _ _ | .ramo _ _ _ _ _ _ _ | .rstc _ _ _ _ _ _ _ | .rmcast _ _ _ _ _ => some 2
  | .ksend _ _ _ _ _ => some 4
  | .vld _ _ _ _ | .vst _ _ _ _ | .vlds _ _ _ _ _ | .vsts _ _ _ _ _ | .vgather _ _ _ _ _ | .vscatter _ _ _ _ _ => some 4
  | .vadd t _ _ _ _ | .vsub t _ _ _ _ | .vmul t _ _ _ _ | .vmulh t _ _ _ _ | .vma t _ _ _ _ | .vms t _ _ _ _ | .vmin t _ _ _ _
  | .vmax t _ _ _ _ | .vabs t _ _ _ | .vneg t _ _ _ | .vand t _ _ _ _ | .vor t _ _ _ _ | .vxor t _ _ _ _ | .vsll t _ _ _ _
  | .vsrl t _ _ _ _ | .vsra t _ _ _ _ | .vdiv t _ _ _ _ | .vsqrt t _ _ _ | .vcmp _ t _ _ _ _ => vecCost t
  | .vshuf _ _ _ _ _ | .vbcast _ _ _ _ | .vextr _ _ _ _ | .vins _ _ _ _ | .vslide _ _ _ _ _ | .vsel _ _ _ _ _ => some 2
  | .mand _ _ _ | .mor _ _ _ | .mxor _ _ _ | .mnot _ _ | .mpop _ _ _ | .mfirst _ _ _ => some 2
  | .vrcp _ _ _ _ | .vrsq _ _ _ _ | .vexp2 _ _ _ _ | .vlog2 _ _ _ _ | .vsig _ _ _ _ | .vtanh _ _ _ _ => some 3
  | .vredsum _ _ _ _ | .vredmax _ _ _ _ | .vredmin _ _ _ _ | .vscan _ _ _ _ | .vcvt _ _ _ _ _ => some 3
  | .vwadd _ _ _ _ _ | .vwinbox _ _ _ _ _ | .vwaddT _ _ _ _ _ => some 3
  | .vdot t _ _ _ _ => if (dotHalf t).isSome then some 3 else none
  | .mmMma _ _ _ _ _ => some (mulCost t)
  | .mmMmag _ _ _ _ _ => some (mulCost t)
  | .cpCopy _ _ _ a => some (s.cartCost tid .copy a)
  | .cpGather _ _ _ a => some (s.cartCost tid .gather a)
  | .cpFill _ _ _ a => some (s.cartCost tid .fill a)
  | .cpRemote _ _ _ a => some (s.cartCost tid .remote a)
  | .cpMcast _ _ _ a => some (s.cartCost tid .mcast a)
  | .cpRsend _ _ _ a => some (s.cartCost tid .rsend a)
  | .cpReduce _ _ _ a => some (s.cartCost tid .reduce a)
  | _ => some 1
/-- The cost of a view's follower; a pair that R61 or R62 refuses is not charged. -/
def State.costUnder (s : State) (tid : Nat) (v : View) : Option Nat :=
  let i := s.follower tid
  match followBody v i with
  | none => none
  | some _ => match i with
    | .vdot _ _ _ _ _ => some 3
    | i => s.costPlain tid i
/-- The cost of an instruction; none when it is not charged. -/
def State.cost (s : State) (tid : Nat) (i : Instr) : Option Nat :=
  match i with
  | .view v => s.costUnder tid v
  | i => s.costPlain tid i

end Sys2Proof.Machine
end

