-- ==== Sys2Proof/Machine/Issue.lean ====
section
/-!
DEFINITION. Choosing the slot that issues (R249), charging it (R254, R256), and what moves next when the agenda names
it (log entries 1, 2).
-/
namespace Sys2Proof.Machine

/-! ## Choosing the slot (R249) -/

/-- The slot may be chosen: Ready, or Running from the last cycle, and not stopped for a save (R332), unless it has an
answer to take. -/
def State.canIssue (s : State) (tid : Nat) : Bool :=
  let t := s.thread tid
  let ready := match t.st with | .ready => true | .running => true | _ => false
  let stopped := slotOf tid != 4 && (match s.ctx? t.ctx with | some c => c.stop || c.ended | none => false)
  ready && (!stopped || (t.phase.back && s.retiresSaved tid))
/-- The best of a list by a strict order, the first among equals. -/
def bestBy {α : Type} (better : α → α → Bool) : List α → Option α
  | [] => none
  | a :: as => some (as.foldl (fun b x => if better x b then x else b) a)
/-- The slot that issues next on a core that is awake (R249). -/
def State.pick (s : State) (core : Nat) : Option Nat :=
  let c := s.core core
  if c.asleep || c.isoff then none else
  if s.canIssue (tidOf core 4) then some (tidOf core 4) else
  let cands := ((List.range 4).map (tidOf core)).filter s.canIssue
  let late := cands.filter (fun t => decide ((s.thread t).readyAt + 256 ≤ s.issueCycle core))
  match bestBy (fun x y => decide ((s.thread x).readyAt < (s.thread y).readyAt)) late with
  | some t => some t
  | none =>
    let free := cands.filter (fun t => !cands.any (fun u => (s.thread t).behind.contains (slotOf u)))
    let better (x y : Nat) : Bool :=
      let a := s.thread x
      let b := s.thread y
      decide (b.prio < a.prio) || (a.prio == b.prio && decide (a.lastIss < b.lastIss))
    bestBy better (if free.isEmpty then cands else free)

/-! ## Issue -/

/-- The core is in the halving phase of a squall (R257). -/
def State.halved (s : State) (core : Nat) : Bool := decide (s.cycles core < (s.core core).halfTill)
/-- The slot is Running its instruction in the core's next cycle. In halving the core issues next two cycles later, whichever
cycle it issued in first: which of the alternate cycles are its own is not said (R257; the model's choice, log entry 45). -/
def State.running (s : State) (tid : Nat) : State :=
  let core := coreOf tid
  let c := s.core core
  let step := if s.halved core then 2 * (c.clocked s.now).period else (c.clocked s.now).period
  let s := (List.range 5).foldl (fun s k =>
    let t := s.thread (tidOf core k)
    if t.st = .running && tidOf core k != tid then s.setThread (tidOf core k) { t with st := .ready } else s) s
  let s := s.leftReady tid
  let s := s.modThread tid (fun t => { t with st := .running, lastIss := s.now, readyAt := s.delivered core + 1 })
  { s.modCore core (fun c => { c with nextIss := s.now + step }) with cur := tid }
/-- The charge of an instruction, capped at CAP (R254). -/
def State.charge (s : State) (tid : Nat) (i : Instr) : Nat :=
  if (s.thread tid).charged then 0 else min ((s.cost tid i).getD 0) (s.core (coreOf tid)).capNow.toNat
/-- The core sleeps on its ration store from its next cycle on, the first in which nothing issues (R256). -/
def State.fallAsleep (s : State) (tid : Nat) : State :=
  let s := ({ s with now := max s.now (s.core (coreOf tid)).nextIss } : State).settle (coreOf tid)
  let s := s.modCore (coreOf tid) (fun c => { c with asleep := true })
  (s.modThread tid (fun t => { t with st := .stalled .ration })).leftReady tid
/-- The state in which `exec` runs the instruction `i` of the chosen slot: time at the core's next cycle, the instruction
fetched, the slot Running, its rations paid, the event counted. -/
def State.issued (s : State) (tid : Nat) (i : Instr) : State :=
  let core := coreOf tid
  let s := ({ s with now := max s.now (s.core core).nextIss } : State).fetched tid
  let cost := s.charge tid i
  let s := s.running tid
  let s := s.modCore core (fun c => { c with bal := c.bal - BitVec.ofNat 16 cost })
  let s := s.modThread tid (fun t => { t with charged := true })
  s.count core (slotOf tid) 2 1

/-- What a step does: go to a state, or run an instruction or a step of the part in one. -/
inductive Plan where
  | go (s : State)
  | run (s : State) (i : Instr)

/-- A refill is due before a time (R255). -/
def State.refillDue (s : State) (t : Nat) : Bool := decide (s.refillAt ≤ t)
/-- The next issue of a core. -/
def State.planIssue (s : State) (core : Nat) : Plan :=
  match s.pick core with
  | none => .go s
  | some tid =>
    let i := s.instrAt tid (s.thread tid).pc
    if (s.core core).bal.toNat < s.charge tid i then .go (s.fallAsleep tid) else .run (s.issued tid i) i

end Sys2Proof.Machine
end

