-- ==== Sys2Proof/Machine/Plan.lean ====
section
/-!
DEFINITION. What moves next (log entries 1, 2), and how a program word is laid where a step fetches it (log entry 15).
-/
namespace Sys2Proof.Machine

/-- The steps that are issued by a slot, not by the agenda: encoded instructions and what a fetch gives instead. -/
def Instr.isIssued (i : Instr) : Bool :=
  match i with
  | .illegalEncoding _ _ => true
  | .instructionFetchFault _ _ => true
  | _ => i.encoded

/-- An issue of a core, after a refill that is due before it (R255). -/
def State.planCore (s rest : State) (core : Nat) : Plan :=
  if s.refillDue (s.issueTime core) then .run { s with now := max s.now s.refillAt } .rationRefill
  else rest.planIssue core

/-- What a step does with an empty agenda: the current slot's core issues, or time passes (log entry 2). -/
def State.planDefault (s : State) : Plan :=
  match s.pick s.curCore with
  | some _ => s.planCore s s.curCore
  | none => .run { s with now := max s.now s.refillAt } .rationRefill

/-- Conditions that hold have been noticed: visits of the cart without work are over, stalled slots are Ready again, retired
jobs free an ended context, invalidations complete. -/
def State.settled (s : State) : State := s.restVisits.refresh.finishEnds.finishShoots

/-! ## What is due -/

/-- A write of the steward's is due. -/
def State.stewardDue (s : State) : Bool := s.fleet.steward.any (fun w => decide (w.due ≤ s.now))
/-- A switched-off core whose wake has taken its 1 µs (R36, R351). -/
def State.wakeDue (s : State) : Option Nat :=
  (s.cores.cells.find? (fun c => c.2.isoff && (match c.2.wakeBy with | some t => decide (t ≤ s.now) | none => false))).map (·.1)
/-- A held packet whose expiry lies in an earlier cycle: no notice of a later one can release it (R305, R306). -/
def State.expiryDue (s : State) : Option Nat :=
  (s.sq.inp.zipIdx.find? (fun c => c.1.held && decide (c.1.due < s.now))).map (·.2)
/-- An interrupt of the Almanac, or of the fleet events, that had to wait for its microsecond (R313, R352). -/
def State.irqDue (s : State) : Bool := s.host.irqPend && s.host.almirq.getLsbD 8 && decide (s.host.irqAt ≤ s.now)
def State.fleetDue (s : State) : Bool := s.host.fleetPend && s.fleet.evIrq.getLsbD 8 && decide (s.host.fleetAt ≤ s.now)
/-- What the part does at this time before anything else moves. -/
def State.mandatory (s : State) : Option Plan :=
  if s.refillDue s.now then some (.run s .rationRefill) else
  if s.stewardDue then some (.run s .stewardControlApply) else
  match s.wakeDue, s.expiryDue with
  | some c, _ => some (.go (s.powerOn c))
  | none, some n => some (.go (s.expirePkt n))
  | none, none => if s.irqDue then some (.go s.almRaise) else if s.fleetDue then some (.go s.fleetIrq) else none

/-! ## What comes first in a cycle -/

/-- A packet's place among those that reach the Square's destination side in one cycle: by source device, then core
(R303); of one core those that wait for no number first, whose marks come before a release is checked (R291). -/
def State.arrivalKey (s : State) (a : Arrive) : Nat :=
  let key (p : Packet) : Nat := (p.srcDev * 2 ^ 17 + p.srcCore) * 2 + (if p.ordered then 1 else 0)
  match a with
  | .outside p _ _ => key p
  | .own n => match s.outPkt? n with | some o => key o.pkt | none => 0
/-- Its place among those that reach the Square from Drift: by source core, then slot (R286). -/
def State.leavingKey (s : State) (n : Nat) : Nat := match s.outPkt? n with | some o => o.pkt.srcCore * 8 + o.pkt.srcSlot | none => 0
/-- A read that clears a field or sets it anew comes before the events of its cycle that set it: the read returns the old
value and the event is kept (R8, R352, R355). -/
def Stimulus.reads : Stimulus → Bool
  | .barRead off => off == 0x78040 || off == 0x78000
  | .event .fleetevRead => true
  | .event .poundstatRead => true
  | _ => false
/-- Whether a stimulus may change a lane or end a context: what a capture of the same cycle must come after (R343). -/
def Stimulus.acts : Stimulus → Bool
  | .event .telsnapSnap => false
  | .event _ => true
  | .issue _ => true
  | .laneTemp _ _ => true
  | _ => false
/-- The place of message `n` among those that arrive at its core: the highest channel priority first, then the lowest
channel (R246). -/
def State.messageKey (s : State) (m : Msg) : Nat := (7 - (s.core m.dest).chSet.get 0 m.chan % 8) * 16 + m.chan
/-- The operation on its way to a keeper that a stimulus brings there. -/
def Stimulus.kinOp? : Stimulus → Option Nat
  | .keeper n => some n
  | .event (.kinOpAtKeeper n) => some n
  | _ => none
/-- The message on Drift that a stimulus brings to its core. -/
def Stimulus.message? : Stimulus → Option Nat
  | .message n => some n
  | .event (.messageArrival n) => some n
  | _ => none
/-- The core whose free slots a stimulus may fill with waiting messages: an issue (its `done`), or their start (R246). -/
def Stimulus.starter? : Stimulus → Option Nat
  | .issue c => some c
  | .event (.spilledMessageStart c) => some c
  | _ => none
/-- The core that a reply comes to, with the counts that reads of its cycle still show without it (R288). -/
def State.replyCore (s : State) : Stimulus → Option Nat
  | .event (.replyArrival (.outside pkt _ _ _)) => (s.outPkt? pkt).map (·.pkt.srcCore)
  | .event (.replyArrival (.own n)) => (s.sq.replies[n]?).bind (fun r => (s.outPkt? r.pkt).map (·.pkt.srcCore))
  | _ => none
/-- Whether a stimulus may settle a number of a pair at this device, in whose cycle no packet is judged before (R291). -/
def State.marks (s : State) : Stimulus → Bool
  | .event (.remoteApply n) => (s.sq.inp[n]?).isSome
  | .applyBytes n _ => (s.sq.inp[n]?).isSome
  | .event (.poundExpiry _) => true
  | .event (.skipNoticeArrival _ _ _ _ _) => true
  | _ => false
/-- A core issues in the cycle under way. -/
def State.issuesNow (s : State) (core : Nat) : Bool := (s.pick core).isSome && decide (s.issueTime core ≤ s.now)
/-- The place of `x` before the stimulus `head` of the same cycle but for the reads that clear, the lowest first: lane
changes before a capture (R343); before packets notices (R306), then what settles numbers (R291), and packets in the order
of R303 and R286; a notice before an expiry (R306); a clear of SUSPECT before a stray (R346); the issues of a core before a
reply to it (R288); the operations of a kin set by core and slot (R253); the messages for a core by channel, all of them
before its slots are filled (R246); issues of a croft's cores in order (R134). -/
def State.rankActs (s : State) (head x : Stimulus) : Option Nat :=
  let own (dev : Nat) : Option Nat := if dev = s.fleet.devId then some 0 else none
  match head, x with
  | .event .telsnapSnap, x => if x.acts then some 0 else none
  | .event (.packetArrival _), .event (.noticeArrival _ _) => some 0
  | .event (.packetArrival _), .event (.noticeSend _ dev) => own dev
  | .event (.packetArrival _), .event (.noticeResend _ dev) => own dev
  | .event (.packetArrival _), .event (.packetArrival a) => some (2 + s.arrivalKey a)
  | .event (.packetArrival _), x => if s.marks x then some 1 else none
  | .event (.poundExpiry _), .event (.noticeArrival _ _) => some 0
  | .event (.poundExpiry _), .event (.noticeSend _ dev) => own dev
  | .event (.poundExpiry _), .event (.noticeResend _ dev) => own dev
  | .event (.packetAtSquare _), .event (.packetAtSquare n) => some (s.leavingKey n)
  | .event (.strayNoticeArrival _), .event (.suspectClear _) => some 0
  | .issue c, .issue d => if croftOf c = croftOf d ∧ s.issueTime d ≤ s.issueTime c then some (128 + d) else none
  | h, .issue d => if s.replyCore h = some d && s.issuesNow d then some 0 else none
  | h, x =>
    match h.kinOp?.bind (s.kinOps[·]?), x.kinOp?.bind (s.kinOps[·]?), h.message?.bind (s.drift[·]?), x.message?.bind (s.drift[·]?) with
    | some a, some b, _, _ => if a.set = b.set then some b.tid else none
    | _, _, some a, some b => if a.dest = b.dest then some (s.messageKey b) else none
    | _, _, none, some b => if h.starter? = some b.dest then some (s.messageKey b) else none
    | _, _, _, _ => none
/-- The place of `x` before `head`: reads that clear come first (R8). -/
def State.rank (s : State) (head x : Stimulus) : Option Nat := if x.reads then some 0 else (s.rankActs head x).map (· + 1)
/-- The stimuli that belong to the cycle of time `t`: up to the next passing of time, an issue in a later cycle, or the second
of one core. -/
def State.sameCycle (s : State) (t : Nat) : List Nat → List Stimulus → List Stimulus
  | _, [] => []
  | seen, .advance d :: xs => if d = 0 then .advance d :: s.sameCycle t seen xs else []
  | seen, .issue c :: xs =>
    if t < s.issueTime c || (seen.contains c && (s.pick c).isSome) then [] else .issue c :: s.sameCycle t (c :: seen) xs
  | seen, x :: xs => x :: s.sameCycle t seen xs
/-- Two removals from one list in the other order: the place of the second, when it goes first, and the place of the first
after it. -/
def swapPlaces (i j : Nat) : Nat × Nat := if j < i then (j, i - 1) else (j + 1, i)
/-- `x` goes before `y`: both still mean the same operation or message on its way. -/
def passOver (y x : Stimulus) : Stimulus × Stimulus :=
  match y.kinOp?, x.kinOp?, y.message?, x.message? with
  | some i, some j, _, _ => let r := swapPlaces i j; (.keeper r.1, .keeper r.2)
  | _, _, some i, some j => let r := swapPlaces i j; (.message r.1, .message r.2)
  | _, _, _, _ => (x, y)
/-- `x` goes before a list of stimuli. -/
def pullOver : List Stimulus → Stimulus → Stimulus × List Stimulus
  | [], x => (x, [])
  | y :: ys, x =>
    let r := pullOver ys x
    let p := passOver y r.1
    (p.1, p.2 :: r.2)
/-- The ways to begin with one stimulus of a list, each with its rank before the head. -/
def State.starts (s : State) (h : Stimulus) (w : List Stimulus) : List (Nat × List Stimulus) :=
  w.zipIdx.filterMap (fun c =>
    let r := pullOver (w.take c.2) c.1
    (s.rank h r.1).map (fun k => (k, r.1 :: r.2 ++ w.drop (c.2 + 1))))
/-- The agenda with what comes first in the cycle of its head at its head. -/
def State.ordered (s : State) : List Stimulus :=
  match s.agenda with
  | [] => []
  | h :: r =>
    let t := match h with | .issue c => s.issueTime c | _ => s.now
    let w := s.sameCycle t [] (h :: r)
    match bestBy (fun (x y : Nat × List Stimulus) => decide (x.1 < y.1)) (s.starts h w) with
    | none => h :: r
    | some b => b.2 ++ (h :: r).drop w.length

/-! ## The plan -/

/-- The plan for the first of a list of stimuli. -/
def State.planHead (s : State) (l : List Stimulus) : Plan :=
  let at_ (r : List Stimulus) : State := { s with agenda := r }
  match l with
  | [] => s.planDefault
  | .event i :: r => if Instr.isIssued i then .go (at_ r) else .run (at_ r) i
  | .issue core :: r => s.planCore (at_ r) core
  | .advance d :: r =>
    if s.refillDue (s.now + d) then .run { s with now := s.refillAt, agenda := .advance (s.now + d - s.refillAt) :: r } .rationRefill
    else .go { s with now := s.now + d, agenda := r }
  | .tlbFill core va :: r => .go ((at_ r).tlbFill core va)
  | .tlbEvict core second n :: r => .go ((at_ r).tlbEvict core second n)
  | .icacheFill core line :: r => .go ((at_ r).icacheFill core line)
  | .icacheEvict core line :: r => .go ((at_ r).icacheEvict core line)
  | .l1Evict core line :: r => .go ((at_ r).l1Evict core line)
  | .updEvict core line :: r => .go ((at_ r).updEvict core line)
  | .barRead off :: r => .go ((at_ r).barRead off)
  | .corrected p hbm n :: r => .go ((at_ r).corrected p hbm n)
  | .llc hits misses :: r => .go ((at_ r).llcCount hits misses)
  | .engineError core cart :: r => .go ((at_ r).engineError core cart)
  | .applyError n :: r => .go ((at_ r).applyError n)
  | .cartBytes croft n :: r => .go ((at_ r).cartBytes croft n)
  | .cartData core uid n :: r => .go ((at_ r).cartData core uid n)
  | .streamBytes tid port n :: r => .go ((at_ r).streamBytes tid port n)
  | .applyBytes n k :: r => .go ((at_ r).applyBytes n k)
  | .fileBytes core piece n :: r => .go ((at_ r).fileBytes core piece n)
  | .statusBytes core n k :: r => .go ((at_ r).statusBytes core n k)
  | .earlyRead x loc n :: r => .go ((at_ r).earlyRead x loc n)
  | .laneReads tid parts :: r => .go ((at_ r).modThread tid (fun t => { t with split := parts }))
  | .laneTemp n t :: r => .go ((at_ r).laneTemp n t)
  | .returnLost dev lost :: r => .go ((at_ r).returnLost dev lost)
  | .returnTrained dev :: r => .go ((at_ r).returnTrained dev)
  | .undecodable port dev pkt cw :: r => .go ((at_ r).undecodable port dev pkt cw)
  | .stewardNotice core :: r => .go ((at_ r).stewardNotice core)
  | .keeper op :: r => .go ((at_ r).kinArrive op)
  | .message n :: r => .go ((at_ r).arrive n)
  | .noticeRefused slot dev :: r => .go ((at_ r).noticeRefused slot dev)
/-- What comes before an issue in its cycle comes in that cycle: time passes up to it first, and a refill that is due. -/
def State.planCycle (s : State) (l : List Stimulus) (core : Nat) : Plan :=
  let t := s.issueTime core
  if l.head? == s.agenda.head? || decide (t ≤ s.now) then s.planHead l
  else if s.refillDue t then .run { s with now := max s.now s.refillAt } .rationRefill
  else .go { s with now := t }
/-- The plan of one step, from a settled state. -/
def State.planFrom (s : State) : Plan :=
  match s.mandatory with
  | some p => p
  | none =>
    match s.agenda with
    | .issue core :: _ => s.planCycle s.ordered core
    | _ => s.planHead s.ordered
/-- The plan of one step. -/
def State.plan (s : State) : Plan := s.settled.planFrom

/-! ## Where a program word goes (log entry 15) -/

/-- The location a fetch of the current slot reads at an address. -/
def State.fetchLoc (s : State) (va : B64) : Option Nat :=
  let t := s.thread s.cur
  match s.route s.curCore t.ctx t.sysMode .fetch va with
  | .loc l => some l
  | _ => none
/-- Writes halfwords where the current slot fetches them, and drops the cached lines. -/
def State.putHalves (s : State) (va : B64) : List Byte → State
  | b :: b' :: bs =>
    match s.fetchLoc va with
    | none => s
    | some l =>
      let s := { s with mem := writeBytes s.mem l [b, b'] }
      let s := s.modCore s.curCore (fun c => { c with icache := c.icache.erase (l / 256) })
      s.putHalves (va + 2) bs
  | _ => s
/-- The next step issues from the current slot and its fetch reaches memory. -/
def State.fetchReady (s : State) : Bool :=
  let va := (s.thread s.cur).pc
  !s.refillDue (s.issueTime s.curCore) && s.mandatory.isNone && (s.core s.curCore).capNow ≤ (s.core s.curCore).bal && s.pick s.curCore == some s.cur &&
  (List.range 4).all (fun i => (s.fetchLoc (va + BitVec.ofNat 64 (2 * i))).isSome)
/-- A context with one executable page, placed on the current core, and a task in its slot 0 at that page. -/
def State.installed (s : State) : State :=
  let core := s.curCore
  let ready := (s.host.ready.put 0x1400 (s.host.ready.get 0 0x1400 ||| 1)).put 0x1402 (s.host.ready.get 0 0x1402 ||| 1)
  let mem := writeBytes s.mem 0x1000 (leBytes 8 0x2001)
  let mem := writeBytes mem 0x2000 (leBytes 8 0x3001)
  let mem := writeBytes mem 0x3000 (leBytes 8 0x4001)
  let mem := writeBytes mem 0x4008 (leBytes 8 0x1001F)
  let c := s.core core
  let s :=
    { s with
      mem := mem, host := { s.host with ready := ready, irqPend := false, fleetPend := false }, refillAt := max s.now c.nextIss + 2000,
      cores := s.cores.map (fun _ (c : Core) => { c with wakeBy := none }),
      sq := { s.sq with inp := s.sq.inp.map (fun (i : InPkt) => { i with due := max i.due s.now }) } }
  let s := s.setCtx 1 { prio := 0, sys := true, root := 0x1000, tvec := 0, quota := 0 }
  let s := s.setCore core { ctx := some 1, cycAt := s.now, nextIss := s.now }
  let s := s.setCroft (croftOf core) { s.croft (croftOf core) with tlb2 := [] }
  let s := s.setTerrace (terraceOf core) { s.terrace (terraceOf core) with squall := .normal }
  let s := (List.range 5).foldl (fun s k => s.setThread (tidOf core k) {}) s
  let s := s.setThread (tidOf core 0) { st := .ready, ctx := 1, sysMode := true, pc := 0x10000, readyAt := s.issueCycle core }
  { s with cur := tidOf core 0 }
/-- The state with the bytes of an instruction where the next step fetches. -/
def State.withProgram (s : State) (nbits w : Nat) : State :=
  let s := (({ s with agenda := [] } : State).steward).settled
  let s := if s.fetchReady then s else s.installed
  s.putHalves (s.thread s.cur).pc (leBytes 8 (w % 2 ^ nbits))

end Sys2Proof.Machine
end

