-- ==== Sys2Proof/Machine/Step.lean ====
section
/-!
DEFINITION. One step of the device.
-/
namespace Sys2Proof.Machine

/-- One step: what the plan says moves next. -/
def step (s : State) : Host.Outcome State Fault Refusal :=
  match s.plan with
  | .go s' => .next s'
  | .run s' i => exec i s'

/-- The state with an instruction stored where `step` fetches its next one (log entry 15). -/
def State.withFetchWord (s : State) (nbits w : Nat) : State := s.withProgram nbits w

end Sys2Proof.Machine
end

