-- ==== Sys2Proof/Safety.lean ====
section
/-!
DEFINITION. The terms the claims are stated in: what counts as a safe run, operands read and written, where an access
of a thread lies, and what a step keeps.
-/
namespace Sys2Proof

/-- A step that goes on. -/
def stepsOn (s : Machine.State) : Prop := ∃ t, Machine.step s = .next t

end Sys2Proof

namespace Sys2Proof.Machine

/-! ## Operands -/

/-- The current thread of a state. -/
def State.me (s : State) : Thread := s.thread s.cur
/-- Reading a register in `s` gives `v` and leaves `t`: s0, a plain register, or a bound port that has an entry. -/
def Reads (s : State) (r : SReg) (v : B64) (t : State) : Prop := (readS r).run s = .ok (v, t)
def ReadsV (s : State) (r : VReg) (v : B512) (t : State) : Prop := (readV r).run s = .ok (v, t)
def ReadsM (s : State) (r : MReg) (v : B64) (t : State) : Prop := (readM r).run s = .ok (v, t)
/-- Writing `v` to a register in `s` leaves `t`: nothing written for s0 and m0, a push for a bound port. -/
def Writes (s : State) (r : SReg) (v : B64) (t : State) : Prop := (writeS r v).run s = .ok ((), t)
def WritesV (s : State) (r : VReg) (v : B512) (t : State) : Prop := (writeV r v).run s = .ok ((), t)
/-- Reading `n` registers from number `b` on, each once in ascending order, gives `vs` (R147). -/
def ReadsRun (s : State) (b n : Nat) (vs : List B64) (t : State) : Prop := (readRun b n).run s = .ok (vs, t)
def WritesM (s : State) (r : MReg) (v : B64) (t : State) : Prop := (writeM r v).run s = .ok ((), t)
/-- The register may be read and written as itself: no port binds it, no retired instruction will still write it. -/
def plainS (s : State) (r : SReg) : Prop :=
  s.me.ports.get? (32 + r.val) = none ∧ s.me.pend.any (fun p => p.cls == .s && p.num == r.val) = false
def plainV (s : State) (r : VReg) : Prop :=
  s.me.ports.get? r.val = none ∧ s.me.pend.any (fun p => p.cls == .v && p.num == r.val) = false
def plainM (s : State) (r : MReg) : Prop := s.me.pend.any (fun p => p.cls == .m && p.num == r.val) = false
/-- The value of a plain register. -/
def valS (s : State) (r : SReg) : B64 := if r = 0 then 0 else s.me.s.get 0 r.val
def valM (s : State) (r : MReg) : B64 := if r = 0 then BitVec.allOnes 64 else s.me.m.get 0 r.val
/-- The state with a value in a plain register. -/
def withS (s : State) (r : SReg) (v : B64) : State :=
  if r = 0 then s else s.modThread s.cur (fun t => { t with s := t.s.put r.val v })
def withV (s : State) (r : VReg) (v : B512) : State := s.modThread s.cur (fun t => { t with v := t.v.put r.val v })
def withM (s : State) (r : MReg) (v : B64) : State :=
  if r = 0 then s else s.modThread s.cur (fun t => { t with m := t.m.put r.val v })

/-- The pc moves to `pc` as an instruction retires. -/
def State.jumped (s : State) (pc : B64) : State :=
  s.modThread s.cur (fun t => { t with pc := pc, charged := false, phase := .idle, skipped := 0, skipArg := none, holds := [] })
/-- The address of an access has been translated: a miss is counted, the entries a walk reads are recalled (R324, R353). -/
def State.translated (s : State) (va : B64) : State := s.walked s.curCore s.me.ctx va
/-- The addresses of several accesses have been translated, one after another. -/
def State.translatedAll (s : State) (as : List B64) : State := as.foldl State.translated s
/-- The current thread has the answer it waited for (log entry 9). -/
def State.hasAnswer (s : State) : Prop := ∃ v w, s.me.phase = .answered v w
/-- An access at `va` by the current thread of `s` lies at location `l`, and its value is at hand: it is aligned to `n`,
no far scratchpad is asked that has not answered, no directory event waits for a switched-off home (`s0` is the state
before the instruction), no `ksend` holds it up. -/
def AccessAt (s0 s : State) (acc : Acc) (n : Nat) (va : B64) (l : Nat) : Prop :=
  va.toNat % n = 0 ∧ s.route s.curCore s.me.ctx s.me.sysMode acc va = .loc l ∧
  (s0.isFar l = false ∨ s0.hasAnswer) ∧ (acc = .read → s0.dirAsleep s0.curCore l = false) ∧
  ((spadCore l).isSome = true → (s.core s.curCore).ksq = [])
/-- The bytes a load of the current thread reads, and the state it leaves. -/
def State.loaded (s : State) (l n : Nat) : State × Nat :=
  let t := s.prepRead s.cur l n
  (t, leNat (t.readFor t.cur l n))
/-- A store of the current thread becomes pending. -/
def State.stored (s : State) (l : Nat) (data : List Byte) : State :=
  s.pushStore { ser := 0, tid := s.cur, loc := l, data := data, tag := s.tag }

/-! ## Floating point -/

/-- The mode a rounding code means to the current thread (R74). -/
def State.modeFor (s : State) (r : RMode) : RMode := if r = .dyn then vrndMode s.me.vrnd else r
/-- The generator and the flags after rounded results of the current thread. -/
def State.flagged (s : State) (gen : B64) (f : Flags) : State :=
  s.modThread s.cur (fun t => { t with gen := gen, fflags := t.fflags ||| f })
/-- An exact result and its flags, rounded and written to sD: `t` is what is left. -/
def FpWrites (s : State) (p : Prec) (rm : RMode) (d : SReg) (r : FV × Flags) (t : State) : Prop :=
  let q := roundTo (precFmt p) rm false s.me.gen r.1
  Writes (s.flagged q.gen (q.flags ||| r.2)) d (BitVec.ofNat 64 q.bits) t

/-- The formats R66 lists. -/
def floatFormats : List FFmt := [fmtE4, fmtE5, fmtF6a, fmtF6b, fmtF4, fmtBF16, fmtH16, fmtF32, fmtF64]
/-- The value is finite and stands for the real `v` (R67). -/
def FV.Is (x : FV) (v : ℝ) : Prop := ∃ s m e, x = .fin s m e ∧ v = (if s = true then -1 else 1) * (m : ℝ) * (2 : ℝ) ^ (e : Int)
/-- R74: a mode takes the neighbour of larger magnitude. `x` is the part of the spacing by which the magnitude exceeds the
lower neighbour, `k` the lower one in spacings, `r` the draw. -/
def TakesUpper (rm : RMode) (neg : Prop) (k : Nat) (x : ℝ) (r : B64) : Prop :=
  match rm with
  | .rne => 1 / 2 < x ∨ (x = 1 / 2 ∧ k % 2 = 1)
  | .rtz => False
  | .rdn => neg
  | .rup => ¬ neg
  | .rna => 1 / 2 ≤ x
  | .sto => ∃ t : Nat, (t : ℝ) ≤ x * 2 ^ 24 ∧ r.toNat / 2 ^ 40 < t
  | .dyn => False
/-- R75: `n` spacings of `q` are the magnitude a mode chooses for `v`: `|v|` itself, or one of its two neighbours. -/
def RoundsAt (rm : RMode) (v q : ℝ) (r : B64) (n : Nat) : Prop :=
  ∃ k : Nat, (k : ℝ) * q ≤ |v| ∧ |v| < ((k : ℝ) + 1) * q ∧ ((k : ℝ) * q = |v| → n = k) ∧
    ((k : ℝ) * q ≠ |v| → (TakesUpper rm (v < 0) k ((|v| - k * q) / q) r → n = k + 1) ∧
      (¬ TakesUpper rm (v < 0) k ((|v| - k * q) / q) r → n = k))
/-- R75 to R77: `o` is the rounding of a nonzero `v` to a format, with its flags and the generator after it. -/
def Rounds (f : FFmt) (rm : RMode) (sat : Bool) (g : B64) (v : ℝ) (o : Rounded) : Prop :=
  let sign : Nat := if v < 0 then f.signBit else 0
  o.gen = (if rm = .sto then draw g else g) ∧
  ∃ (e : Int) (n : Nat) (top : ℝ),
    let q : ℝ := (2 : ℝ) ^ (e - (f.mbits : Int))
    f.emin ≤ e ∧ |v| < (2 : ℝ) ^ (e + 1) ∧ (e = f.emin ∨ (2 : ℝ) ^ e ≤ |v|) ∧ RoundsAt rm v q o.gen n ∧
    (f.value f.maxPat).Is top ∧
    (top < n * q → o.flags = flagOF ||| flagNX ∧
      let away : Prop := rm = .rne ∨ rm = .rna ∨ rm = .sto ∨ (rm = .rup ∧ 0 < v) ∨ (rm = .rdn ∧ v < 0)
      (sat = true ∨ ¬ away ∨ f.nan = .none → o.bits = sign + f.maxPat) ∧
      (sat = false → away → f.nan = .ieee → o.bits = sign + f.infPat) ∧
      (sat = false → away → f.nan = .e4 → o.bits = f.nanPat)) ∧
    (n * q ≤ top → (∃ p, p < f.signBit ∧ (f.value p).Is (n * q) ∧ o.bits = sign + p) ∧
      (n * q = |v| → o.flags = 0) ∧
      (n * q ≠ |v| → o.flags = if |v| < (2 : ℝ) ^ f.emin then flagNX ||| flagUF else flagNX))
/-- The order of two values that are not NaN in which −0 lies below +0 (R106). -/
def FV.Below (x y : FV) : Prop := cmpFV x y = some (-1) ∨ (cmpFV x y = some 0 ∧ (x.sgn = true ∨ y.sgn = false))

/-! ## Control registers -/

/-- The current thread may read control register `n` (R108): listed, kept from context mode only for TVEC to TPC, FFLAGS
with no special-function flags outstanding (log entry 17). -/
def State.cregOpen (s : State) (n : Nat) : Prop :=
  cregListed n = true ∧ (cregPriv n = true → s.me.sysMode = true) ∧
  (n = 8 → s.me.pend.any (fun p => p.cls == .fflags && p.num == 0) = false)

/-- The reset value R24's table gives for a listed control register from FFLAGS on. -/
def resetValue (n : Nat) : B64 :=
  if n = 0x00B then 0x2002 else if n = 0x010 then 0x66 else if n = 0x011 then 32 else if n = 0x012 ∨ n = 0x013 then 128
  else if n = 0x030 then 200 else 0
/-- Every control register the table gives a value, and RATION's fields (R27), hold their reset values in every thread. -/
def State.ResetRegs (s : State) : Prop :=
  ∀ tid n, (cregListed n = true → 8 ≤ n → s.cregRead tid n = resetValue n) ∧
    s.cregRead tid 4 = BitVec.ofNat 64 (4096 + 2 ^ 16 * 2048 + 2 ^ 32 * 4096)
/-- No function of the readiness map is ready (R316). -/
def State.NothingReady (s : State) : Prop := (∀ off n, s.readyBit off n = false) ∧ s.host.mapGen = 0

/-! ## Traps -/

/-- A trap of the current thread enters its handler: it is in no system slot, a handler is set, no trap is handled. -/
def State.hasHandler (s : State) : Prop :=
  slotOf s.cur ≠ 4 ∧ tvecAddr (s.core s.curCore).tvec ≠ 0 ∧ tcauseIN s.me.tcause = false
/-- The state after a trap's entry to the handler (R113): what it saves, the mode, the pc. -/
def State.entered (s : State) (cause : Nat) (val ret : B64) (compact : Bool) : State :=
  s.modThread s.cur (fun t =>
    { t with
      tpc := ret &&& 0x000FFFFFFFFFFFFF#64, tval := val,
      tcause := 0x8000#64 ||| (if t.sysMode then 0x4000#64 else 0) ||| (if compact then 0x2000#64 else 0) ||| BitVec.ofNat 64 cause,
      sysMode := true, pc := tvecAddr (s.core s.curCore).tvec, charged := false, phase := .idle, skipped := 0,
      skipArg := none, holds := [] })

/-! ## Remote operations -/

/-- R181, R184: an operation on `va` may leave: aligned, in a remote window, room for it, its device reachable. -/
def RemoteReady (s : State) (va : B64) (n : Nat) (w : Nat × Nat × Nat) : Prop :=
  va.toNat % n = 0 ∧ s.route s.curCore s.me.ctx s.me.sysMode .remote va = .win w.1 w.2.1 w.2.2 ∧ s.remoteOut s.curCore < 64 ∧
  (w.1 = s.fleet.devId ∨ s.reachable s.me.ctx w.1 = true)
/-- The same for an operation that takes a number, whose FLOOR lies at most 63 below it (R289). -/
def NumberedReady (s : State) (va : B64) (n : Nat) (w : Nat × Nat × Nat) : Prop := RemoteReady s va n w ∧ s.floorRoom s.cur w.1 = true
/-- The registers written after the operation retires are s0 or plain (R162, R184). -/
def LateFree (s : State) (rs : List SReg) : Prop := ∀ r ∈ rs, r = 0 ∨ plainS s r
/-- The token values a form carries. -/
def toksOf (s : State) : Toks → List (BitVec 32)
  | .none => []
  | .one a => [s.me.d.get 0 a.val]
  | .two a b => [s.me.d.get 0 a.val, s.me.d.get 0 b.val]
/-- An operation of the current thread of `s` and its packet have left (R181, R183): what the two hold. -/
def RemoteLeft (s t : State) (w : Nat × Nat × Nat) (q : Bool) (d : SReg) (va : B64) (op : PktOp) (ordered : Bool) (seq : Option Nat) : Prop :=
  ∃ r x, t.sq.ops = s.sq.ops ++ [r] ∧ t.sq.out = s.sq.out ++ [x] ∧ r.tid = s.cur ∧ r.act = s.me.act ∧ r.ctx = s.me.ctx ∧
    r.addr = va ∧ r.pc = s.me.pc ∧ r.d = d.val ∧ r.q = q ∧ r.dead = false ∧ r.id = x.pkt.id ∧ x.op = r.id ∧
    x.pkt.srcDev = s.fleet.devId ∧ x.pkt.srcCore = s.curCore ∧ x.pkt.srcSlot = slotOf s.cur ∧ x.pkt.dest = w.1 ∧
    x.pkt.wid = w.2.1 ∧ x.pkt.off = w.2.2 ∧ x.pkt.op = op ∧ x.pkt.ordered = ordered ∧ x.pkt.seq = seq
/-- A packet reaches its destination for the first time: from another device through a port that is not ciphered, or from
this device's own Square (R183, R346, R347); its pair may have an entry of the order table (R290). -/
def Arrives (s : State) (p : Packet) (a : Arrive) : Prop :=
  s.sq.seen.contains (p.srcDev, p.id) = false ∧ (p.seq = none ∨ s.sq.order.cells.length < 4096) ∧
  ((∃ port mark, a = .outside p port mark ∧ (s.oport port).cipher = false ∧
      ((p.members = [] ∧ p.dest = s.fleet.devId) ∨ s.fleet.devId ∈ p.members)) ∨
    (∃ n o, a = .own n ∧ s.outPkt? n = some o ∧ o.pkt = p ∧ o.at_ = .own))
/-- A reply leaves for a packet's source: over a port, or to this device's own issuing side (R183, R184). -/
def Replied (s t : State) (p : Packet) (status : BitVec 8) (data : List Byte) : Prop :=
  if p.srcDev = s.fleet.devId then t.sq.replies = s.sq.replies ++ [⟨p.id, status, data, 0⟩] ∧ t.sq.outbox = s.sq.outbox
  else t.sq.outbox = s.sq.outbox ++ [.reply p.srcDev p.id status data] ∧ t.sq.replies = s.sq.replies
/-- The next number of the current thread for a device (R186). -/
def State.nextSeq (s : State) (dev : Nat) : Nat := (s.me.seqs.get 0 dev + 1) % 2 ^ 16

/-- A packet of path `p` is in progress: a copy of it has been sent and another is still to be (R279). -/
def State.begunOn (s : State) (p : Nat) : Prop :=
  ∃ o ∈ s.sq.out, o.begun = true ∧ o.path = some p ∧ (o.at_ = .waiting ∨ ∃ a b, o.at_ = .queued a b)
/-- R286's weight of a port: 8 F, narrowed 6 F. -/
def State.portWeight (s : State) (q : Nat) : Int :=
  (if (s.oport q).narrow then 6 else 8) *
    (match (s.oport q).order with | 1 => 2 | 2 => 4 | 3 => 5 | 4 => 6 | _ => 0)
/-- The ports of a spray state. -/
def State.sprayPorts (s : State) (ctx key : Nat) : List Nat := (zeroVals (s.eligibleOf ctx key)).cells.map (·.1)
/-- R286's value c of a port before a choice: 0 when the set of ports has changed. -/
def State.sprayBefore (s : State) (ctx key q : Nat) : Int :=
  match s.sq.sprays.find? (fun x => x.ctx == ctx && x.dev == key) with
  | some x => if x.vals.cells.map (·.1) = s.sprayPorts ctx key then x.vals.get 0 q else 0
  | none => 0
/-- R286's choice: port `q` has the greatest c + w, and the lowest number of those; every port gains its weight, the chosen
one gives up the weights of all. -/
def Sprayed (s t : State) (ctx key q : Nat) : Prop :=
  let es := s.sprayPorts ctx key
  let c (e : Nat) : Int := s.sprayBefore ctx key e + s.portWeight e
  q ∈ es ∧ (∀ e ∈ es, c e < c q ∨ (c e = c q ∧ q ≤ e)) ∧
  ∃ x ∈ t.sq.sprays, x.ctx = ctx ∧ x.dev = key ∧
    ∀ e ∈ es, x.vals.get 0 e = c e - (if e = q then (es.map s.portWeight).sum else 0)

/-! ## Vectors -/

/-- A vector destination an instruction under mask `m` may write: nothing will still write it, and a bound port takes
the whole register (R118). -/
def DestFree (s : State) (m : MReg) (d : VReg) : Prop :=
  s.me.pend.any (fun p => p.cls == .v && p.num == d.val) = false ∧ (s.me.ports.get? d.val = none ∨ m = 0)
/-- The register's value before; a register bound as a port has none, its lanes count as 0 (R141). -/
def oldOf (s : State) (d : VReg) : B512 := if (s.me.ports.get? d.val).isSome then 0 else s.me.v.get 0 d.val
/-- Lanes of exact integers, wrapped to their width; a lane that is not active keeps its bits (R117 to R121). -/
def IntLanes (t : Ty) (n : Nat) (mk : B64) (f : Nat → Int) (old new : B512) : Prop :=
  ∀ j < t.lanes, elemBits t.width j new =
    if j < n ∧ mk.getLsbD j = true then wrapInt t.width (f j) else elemBits t.width j old
/-- Lanes of rounded values: each active one, in ascending order, is rounded with the generator as the lane before left
it, and its flags merge (R76, R82, R120). `g'` and `fl` are what the last leaves. -/
def RndLanes (t : Ty) (n : Nat) (mk : B64) (f : Nat → B64 → Rounded) (e : Nat → Flags) (old new : B512) (g g' : B64) (fl : Flags) : Prop :=
  ∃ (gs : Nat → B64) (fs : Nat → Flags), gs 0 = g ∧ fs 0 = 0 ∧ gs t.lanes = g' ∧ fs t.lanes = fl ∧
    ∀ j < t.lanes,
      if j < n ∧ mk.getLsbD j = true then
        elemBits t.width j new = (f j (gs j)).bits ∧ gs (j + 1) = (f j (gs j)).gen ∧ fs (j + 1) = fs j ||| e j ||| (f j (gs j)).flags
      else elemBits t.width j new = elemBits t.width j old ∧ gs (j + 1) = gs j ∧ fs (j + 1) = fs j
/-- Lanes of exact floating values, rounded once to TY (R120). -/
def FltLanes (t : Ty) (mk : B64) (rm : RMode) (f : Nat → FV × Flags) (old new : B512) (g g' : B64) (fl : Flags) : Prop :=
  RndLanes t t.lanes mk (fun j g => roundTo (tyFmt t) rm false g (f j).1) (fun j => (f j).2) old new g g' fl
/-- Lanes of copied patterns. -/
def CopyLanes (t : Ty) (mk : B64) (f : Nat → Nat) (old new : B512) : Prop :=
  ∀ j < t.lanes, elemBits t.width j new = if mk.getLsbD j = true then f j else elemBits t.width j old
/-- Records written as pairs of 8-byte stores, 16 bytes apart. -/
def State.recorded (s : State) (l : Nat) : List (Nat × Nat) → State
  | [] => s
  | r :: rs => ((s.stored l (leBytes 8 r.1)).stored (l + 8) (leBytes 8 r.2)).recorded (l + 16) rs

/-! ## Weave -/

/-- A shape R199 allows, and a code of it. -/
def WVal.ok (w : WVal) : Prop :=
  1 ≤ w.dims ∧ w.dims ≤ 8 ∧ 1 ≤ w.bits ∧ w.bits ≤ 32 ∧ w.dims * w.bits ≤ 64 ∧ w.code.toNat < 2 ^ (w.dims * w.bits)
/-- Two registers of one shape. -/
def WVal.sameShape (x y : WVal) : Prop := x.dims = y.dims ∧ x.bits = y.bits
/-- A weave register of the current thread. -/
def wOf (s : State) (r : WReg) : WVal := s.me.w.get {} r.val
/-- The point of code `c` lies in the box of two corners (R204). -/
def InsideBox (lo hi : WVal) (c : Nat) : Prop :=
  ∀ a < lo.dims, wAxis lo.dims lo.bits lo.code.toNat a ≤ wAxis lo.dims lo.bits c a ∧
    wAxis lo.dims lo.bits c a ≤ wAxis lo.dims lo.bits hi.code.toNat a

/-! ## Engines -/

/-- A mill job may be issued (R19, R144, R145): no job of an earlier task runs, the counter and the queue have room. -/
def MillRoom (s : State) (k : KReg) : Prop :=
  s.me.tilesOld = false ∧ s.me.kc.get 0 k.val < 255 ∧ (s.core s.curCore).millQ.length < 16
/-- The job an issue queues: its operands, and the control registers as `s`, its operands read, holds them (R164); `u` is
the state once its id is written. -/
def State.millJob (s u : State) (op : MillOp) (id : Nat) (a : AReg) (k : KReg) (x y : B64) : MillJob :=
  { id := id, tid := u.cur, act := s.me.act, ctx := s.me.ctx, op := op, tile := a.val, k := k.val, a := x, b := y,
    mfmt := s.me.mfmt, mkReg := s.me.mkReg, pitchA := s.me.mpitcha, pitchB := s.me.mpitchb, sca := s.me.msca,
    scb := s.me.mscb, scn := s.me.mscn, after := u.nextSer, tag := u.tag }
/-- The number after `n` (R145). -/
def nextSeqNo (n : Nat) : Nat := if n = 65535 then 1 else n + 1
/-- A job has been queued and its id written, which left `u`: the counter and the sequence number rise, nothing else of
the thread changes but its pc and the mill's memory of its jobs. -/
def MillIssued (u r : State) (k : KReg) (j : MillJob) : Prop :=
  r.cur = u.cur ∧ (r.core u.curCore).millQ = (u.core u.curCore).millQ ++ [j] ∧
  r.me.kc.get 0 k.val = u.me.kc.get 0 k.val + 1 ∧ r.me.nextMill = nextSeqNo u.me.nextMill ∧
  (u.me.jobs.length ≤ 63 → (⟨j.id, 0, false, false⟩ : JobMem) ∈ r.me.jobs) ∧
  r.me.pc = u.me.pc + 4 ∧ r.me.s = u.me.s ∧ r.me.v = u.me.v ∧ r.me.tiles = u.me.tiles ∧ r.mem = u.mem ∧ r.stores = u.stores
/-- Element (r, c) of a tile (R16). -/
def tileElem (t : Thread) (a r c : Nat) : BitVec 32 := t.tiles.get 0 (a * 1024 + r * 32 + c)
/-- What the power-kill does from priority `lo` on (R259): of the contexts with work, those of the lowest priority `p` end, and
another measurement follows 10 µs later, unless none has work or `p` is the highest. -/
def KillsFrom (s : State) (lo : Nat) (r : Host.Outcome State Fault Refusal) : Prop :=
  let work (c : Nat × Ctx) : Prop := c.2.ended = false ∧ lo ≤ c.2.prio ∧ s.busyCtx c.1 = true
  (s.ctxs.cells.map (·.1)).Nodup →
  ((∀ c ∈ s.ctxs.cells, ¬ work c) → r = .next { s with fleet := { s.fleet with killNext := none } }) ∧
  (∀ p ≤ 7, (∃ c ∈ s.ctxs.cells, work c ∧ c.2.prio = p) → (∀ c ∈ s.ctxs.cells, work c → p ≤ c.2.prio) →
    ∃ t, r = .next t ∧ t.fleet.killNext = (if p = 7 then none else some (p + 1, s.now + 20000)) ∧
      (∀ x c, s.ctx? x = some c → work (x, c) → c.prio = p → ∃ c', t.ctx? x = some c' ∧ c'.ended = true) ∧
      (∀ x c, s.ctx? x = some c → ¬ (work (x, c) ∧ c.prio = p) → ∃ c', t.ctx? x = some c' ∧ c'.ended = c.ended))

/-- The state word of a command. -/
def State.word (s : State) (q : Nat) : List Byte := readBytes s.mem (s.almState q) 8
/-- The step of a command's start goes on and leaves the command completed with a status and a result (R313): state 3 for
status 0, else 4. -/
def Completes (s : State) (i : Instr) (q status result : Nat) (P : State → Prop) : Prop :=
  ∃ t, exec i s = .next t ∧ t.word q = leBytes 8 (stateWord q (if status = 0 then 3 else 4) status result) ∧ P t
/-- The commands with their codes (R312). -/
def CommandRow (f : HostArg → Instr) (code : Nat) : Prop :=
  (f = Instr.hostNop ∧ code = 0x01) ∨ (f = Instr.hostAbort ∧ code = 0x02) ∨ (f = Instr.ctxCreate ∧ code = 0x10) ∨
  (f = Instr.ctxPlace ∧ code = 0x11) ∨ (f = Instr.ctxEnd ∧ code = 0x12) ∨ (f = Instr.imgLoad ∧ code = 0x20) ∨
  (f = Instr.launch ∧ code = 0x21) ∨ (f = Instr.classData ∧ code = 0x22) ∨ (f = Instr.shootdown ∧ code = 0x30) ∨
  (f = Instr.winSet ∧ code = 0x31) ∨ (f = Instr.winRevoke ∧ code = 0x32) ∨ (f = Instr.attest ∧ code = 0x40) ∨
  (f = Instr.ctxSave ∧ code = 0x50) ∨ (f = Instr.ctxRestore ∧ code = 0x51)

/-- A posted block has been numbered and entered in the Almanac, in state 1 (R311, R313). -/
def State.numbered (s : State) (b : List B64) : State :=
  let u := (s.homeWrite (s.almEntry s.host.head) (b.flatMap (fun v => leBytes 8 v.toNat))).homeWrite (s.almState s.host.head)
    (leBytes 8 (stateWord s.host.head 1 0 0))
  ({ u with host := { u.host with head := (s.host.head + 1) % 2 ^ 32 } } : State).countSq 1 0 1
/-- An operation of context `x` is out through a translation of the device that `p` selects (R325); the address of an
`rmcast` lies below its path number (R187). -/
def OutUnder (s : State) (x : Nat) (p : TlbEntry → Prop) : Prop :=
  ∃ o ∈ s.sq.ops, o.ctx = x ∧ ∃ e, ((∃ c ∈ s.cores.cells, e ∈ c.2.tlb) ∨ (∃ c ∈ s.crofts.cells, e ∈ c.2.tlb2)) ∧ p e ∧
    e.hits x (o.addr.toNat % 2 ^ 52) = true
/-- No cart job of context `x` has a packet that it has begun to fill. -/
def NoneFilling (s : State) (x : Nat) : Prop := ∀ c ∈ s.cores.cells, ∀ j ∈ c.2.cartJobs, j.ctx = x → j.buf = none
/-- The step of a command's start goes on, and the command waits for operations to be answered. -/
def AwaitsOps (s : State) (i : Instr) (q result : Nat) (P : State → Prop) : Prop :=
  ∃ t h, exec i s = .next t ∧ h ∈ t.host.shoots ∧ h.q = q ∧ h.result = result ∧ h.ops ≠ [] ∧ (∀ n ∈ h.ops, ∃ o ∈ s.sq.ops, o.id = n) ∧ P t

/-! ## Images -/

/-- Two half-open ranges share a byte. -/
def RangesMeet (a n b m : Nat) : Prop := 0 < n ∧ 0 < m ∧ a < b + m ∧ b < a + n
/-- Field of descriptor `i` of a file: `n` bytes at offset `k` (R236). -/
def descNat (f : List Byte) (i k n : Nat) : Nat := fileNat f (fileNat f 0x10 8 + 64 * i + k) n
/-- The kind of a descriptor is text, data or bss. -/
def inMemory (kind : Nat) : Prop := kind = 1 ∨ kind = 2 ∨ kind = 3
/-- The table of R235. -/
def HeaderKeeps (f : List Byte) : Prop :=
  128 ≤ f.length ∧ fileNat f 0 4 = 0x1A494C49 ∧ fileNat f 4 2 = 1 ∧ fileNat f 6 2 = 128 ∧ 2 ≤ fileNat f 8 2 ∧ fileNat f 8 2 ≤ 16 ∧
  (fileNat f 0xA 1 < 64 ∨ fileNat f 0xA 1 = 0xFF) ∧ fileNat f 0xB 5 = 0 ∧ fileNat f 0x10 8 % 16 = 0 ∧ fileNat f 0x18 8 = f.length ∧
  fileNat f 0x60 32 = 0 ∧ fileNat f 0x10 8 + 64 * fileNat f 8 2 ≤ f.length
/-- The table of R236 for one descriptor, its ranges inside the file. -/
def DescKeeps (f : List Byte) (i : Nat) : Prop :=
  let kind := descNat f i 0 1
  let off := descNat f i 8 8
  let size := descNat f i 0x10 8
  let msize := descNat f i 0x18 8
  let vaddr := descNat f i 0x20 8
  let meas := descNat f i 0x28 8
  let sig := descNat f i 0x30 8
  1 ≤ kind ∧ kind ≤ 7 ∧ descNat f i 1 7 = 0 ∧ descNat f i 0x38 8 = 0 ∧ off % 16 = 0 ∧ size ≤ msize ∧ off + size ≤ f.length ∧
  (kind = 3 → off = 0 ∧ size = 0) ∧ (inMemory kind → vaddr % 0x10000 = 0 ∧ vaddr < 0xFFF0000000000) ∧
  (kind = 4 → vaddr % 64 = 0 ∧ vaddr + msize ≤ 0x30000) ∧ (5 ≤ kind → vaddr = 0) ∧
  (if kind = 7 then meas = 0 ∧ sig = 0 else meas + 64 ≤ f.length ∧ sig + 29792 ≤ f.length) ∧
  (kind = 5 → size = 1024 ∧ msize = 1024) ∧ (kind = 6 → size % 24 = 0)
/-- R236 for all descriptors together. -/
def DescsKeep (f : List Byte) : Prop :=
  let n := fileNat f 8 2
  let kind (i : Nat) : Nat := descNat f i 0 1
  (∀ i < n, DescKeeps f i) ∧ (∃ i < n, kind i = 1) ∧ (∃ i < n, kind i = 5) ∧
  (∀ i < n, ∀ j < n, kind i = kind j → kind i = 4 ∨ kind i = 5 ∨ kind i = 6 → i = j) ∧
  (∀ i < n, ∀ j < n, i ≠ j → inMemory (kind i) → inMemory (kind j) →
    ¬ RangesMeet (descNat f i 0x20 8) (descNat f i 0x18 8) (descNat f j 0x20 8) (descNat f j 0x18 8))
/-- One relocation keeps R239 and R240 under the placement delta `d`. -/
def RelKeeps (f : List Byte) (d : B64) (r : Rel) : Prop :=
  let delta (i : Nat) : B64 := if 1 ≤ descNat f i 0 1 ∧ descNat f i 0 1 ≤ 3 then d else 0
  let t := BitVec.ofNat 64 r.value + delta r.tseg
  let place := BitVec.ofNat 64 (descNat f r.sseg 0x20 8 + r.site) + delta r.sseg
  let fits (x : B64) : Prop := -2 ^ 31 ≤ x.toInt ∧ x.toInt ≤ 2 ^ 31 - 2049
  1 ≤ r.type ∧ r.type ≤ 8 ∧ r.res = 0 ∧ r.sseg < fileNat f 8 2 ∧ r.tseg < fileNat f 8 2 ∧ descNat f r.sseg 0 1 ≠ 3 ∧
  r.site + (if r.type = 1 then 8 else 4) ≤ descNat f r.sseg 0x10 8 ∧
  (if 7 ≤ r.type then r.adist ≠ 0 ∧ r.adist ≤ r.site else r.adist = 0) ∧
  (r.type = 2 → t.toNat < 2 ^ 32) ∧ (3 ≤ r.type → r.type ≤ 5 → fits t) ∧ (r.type = 6 → fits (t - place)) ∧
  (7 ≤ r.type → fits (t - (place - BitVec.ofNat 64 r.adist)))
/-- All relocations do, and no two sites overlap. -/
def RelsKeep (f : List Byte) (d : B64) : Prop :=
  (∀ r ∈ relsOf f, RelKeeps f d r) ∧
  (relsOf f).Pairwise (fun a b => a.sseg = b.sseg → ¬ RangesMeet a.site (if a.type = 1 then 8 else 4) b.site (if b.type = 1 then 8 else 4))

/-! ## What a step keeps -/

/-- Bytes of memory read as before. -/
def SameMem (s t : State) : Prop := ∀ a, readByte t.mem a = readByte s.mem a
/-- The registers of thread `k` that no scalar instruction without a flag or control effect writes. -/
def SameOthers (x y : Thread) : Prop :=
  y.v = x.v ∧ y.m = x.m ∧ y.kc = x.kc ∧ y.ke = x.ke ∧ y.w = x.w ∧ y.d = x.d ∧ y.tiles = x.tiles ∧ y.fflags = x.fflags ∧
  y.vrnd = x.vrnd ∧ y.srseed = x.srseed ∧ y.gen = x.gen ∧ y.wshape = x.wshape ∧ y.mfmt = x.mfmt ∧ y.mkReg = x.mkReg ∧
  y.mpitcha = x.mpitcha ∧ y.mpitchb = x.mpitchb ∧ y.msca = x.msca ∧ y.mscb = x.mscb ∧ y.mscn = x.mscn ∧ y.hashk = x.hashk ∧
  y.ackcnt = x.ackcnt ∧ y.prio = x.prio ∧ y.ctx = x.ctx
/-- The registers a trap's entry writes. -/
def SameTrap (x y : Thread) : Prop := y.tcause = x.tcause ∧ y.tval = x.tval ∧ y.tpc = x.tpc ∧ y.sysMode = x.sysMode
/-- The destination register of the integer, immediate and bit-field forms (R90 to R93, R96). -/
def intDest : Instr → Option SReg
  | .add d _ _ => some d | .sub d _ _ => some d | .and d _ _ => some d | .or d _ _ => some d | .xor d _ _ => some d
  | .andn d _ _ => some d | .sll d _ _ => some d | .srl d _ _ => some d | .sra d _ _ => some d | .rotl d _ _ => some d
  | .mul d _ _ => some d | .mulh d _ _ => some d | .mulhn d _ _ => some d | .div d _ _ => some d | .divn d _ _ => some d
  | .rem d _ _ => some d | .remn d _ _ => some d | .min d _ _ => some d | .max d _ _ => some d | .minn d _ _ => some d
  | .maxn d _ _ => some d | .slt d _ _ => some d | .sltn d _ _ => some d | .clz d _ => some d | .ctz d _ => some d
  | .popc d _ => some d | .bswap d _ => some d | .csel d _ _ _ => some d
  | .addi d _ _ => some d | .andi d _ _ => some d | .ori d _ _ => some d | .xori d _ _ => some d | .slti d _ _ => some d
  | .sltni d _ _ => some d | .slli d _ _ => some d | .srli d _ _ => some d | .srai d _ _ => some d
  | .lui d _ => some d | .auipc d _ => some d
  | .bfx d _ _ _ => some d | .bfxn d _ _ _ => some d | .bfi d _ _ _ => some d
  | _ => none
/-- The destination register of the vector forms that write a vector register when they retire (R126, R130, R136, R138,
R141 to R143, R170, R207). -/
def vecDest : Instr → Option VReg
  | .vld _ _ d _ => some d | .vlds _ _ d _ _ => some d | .vgather _ _ d _ _ => some d
  | .vadd _ _ d _ _ => some d | .vsub _ _ d _ _ => some d | .vmul _ _ d _ _ => some d | .vmulh _ _ d _ _ => some d
  | .vma _ _ d _ _ => some d | .vms _ _ d _ _ => some d | .vmin _ _ d _ _ => some d | .vmax _ _ d _ _ => some d
  | .vabs _ _ d _ => some d | .vneg _ _ d _ => some d | .vand _ _ d _ _ => some d | .vor _ _ d _ _ => some d
  | .vxor _ _ d _ _ => some d | .vsll _ _ d _ _ => some d | .vsrl _ _ d _ _ => some d | .vsra _ _ d _ _ => some d
  | .vdiv _ _ d _ _ => some d | .vsqrt _ _ d _ => some d
  | .vshuf _ _ d _ _ => some d | .vbcast _ _ d _ => some d | .vins _ d _ _ => some d | .vslide _ _ d _ _ => some d
  | .vscan _ _ d _ => some d | .vcvt _ _ _ d _ => some d | .vsel _ _ d _ _ => some d | .vdot _ _ d _ _ => some d
  | .vwadd _ _ d _ _ => some d | .vwaddT _ _ d _ _ => some d | .mmMova _ d _ => some d
  | _ => none
/-- The registers of a thread that no vector form writes: all but vector registers, generator and flags, trap registers
and pc. -/
def SameButVector (x y : Thread) : Prop :=
  y.s = x.s ∧ y.m = x.m ∧ y.kc = x.kc ∧ y.ke = x.ke ∧ y.w = x.w ∧ y.d = x.d ∧ y.tiles = x.tiles ∧ y.vrnd = x.vrnd ∧
  y.srseed = x.srseed ∧ y.wshape = x.wshape ∧ y.mfmt = x.mfmt ∧ y.mkReg = x.mkReg ∧ y.mpitcha = x.mpitcha ∧
  y.mpitchb = x.mpitchb ∧ y.msca = x.msca ∧ y.mscb = x.mscb ∧ y.mscn = x.mscn ∧ y.hashk = x.hashk ∧ y.ackcnt = x.ackcnt ∧
  y.prio = x.prio ∧ y.ctx = x.ctx

end Sys2Proof.Machine
end

