-- ==== Sys2Proof/Certificates/Slice0/Obligations.lean ====
section
/-!
DEFINITION. The statements for the provers. Each docstring names the rules it formalises; where a clause rests on a
choice of the model, the docstring names the log entry.
-/
open Sys2Proof Sys2Proof.Machine

/-! ## Encoding, memory, step -/

/-- R42 to R63: decoding the word of a well-formed encoded instruction gives the instruction back. -/
def Obligations.DecodeEncode : Prop :=
  ∀ i w, i.wellFormed = true → encode i = some w →
    (if i.isCompact then decode16 w else decode32 w) = some i ∧ w < 2 ^ (if i.isCompact then 16 else 32)

/-- Every step keeps the canonical form of memory (log entry 4). -/
def Obligations.MemoryStaysCanonical : Prop :=
  ∀ (s : State) t, Memory.wf s.mem = true → step s = .next t → Memory.wf t.mem = true

/-- A few words written out from the tables of R44 to R60 decode to the instructions they stand for. -/
def Obligations.WordsDecode : Prop :=
  decode32 0x0016A983 = some (.add 19 10 11) ∧ decode32 0x0103201B = some (.crw 0x010 18) ∧
  decode32 0x8866A915 = some (.amoAdd 18 10 19 ⟨false, .acq, .d⟩) ∧ decode32 0x0080001D = some .rett ∧
  decode16 0x0034 = some .cDone ∧ decode32 0x70000003 = none ∧ decode16 0 = none

/-- R16, R43: with nothing on the agenda, nothing due, and a slot of the current core chosen that has its rations in store,
a step is `exec` of the instruction at the slot's pc, in the state in which the slot is Running and its rations are paid
(log entries 1, 2).
R16, R42, R59: the same for a compact instruction. -/
def Obligations.StepRunsDecoded : Prop :=
  (∀ (s : State) tid h w i,
     s.settled.agenda = [] → s.settled.mandatory = none → s.settled.pick s.settled.curCore = some tid →
     s.settled.refillDue (max s.settled.now (s.settled.core s.settled.curCore).nextIss) = false →
     s.settled.fetchHalf tid (s.settled.thread tid).pc = .ok h → h % 2 = 1 →
     s.settled.fetchHalf tid ((s.settled.thread tid).pc + 2) = .ok w → decode32 (h + 65536 * w) = some i →
     s.settled.charge tid i ≤ (s.settled.core s.settled.curCore).bal.toNat →
     step s = exec i (s.settled.issued tid i)) ∧
  (∀ (s : State) tid h i,
     s.settled.agenda = [] → s.settled.mandatory = none → s.settled.pick s.settled.curCore = some tid →
     s.settled.refillDue (max s.settled.now (s.settled.core s.settled.curCore).nextIss) = false →
     s.settled.fetchHalf tid (s.settled.thread tid).pc = .ok h → h % 2 = 0 → decode16 h = some i →
     s.settled.charge tid i ≤ (s.settled.core s.settled.curCore).bal.toNat →
     step s = exec i (s.settled.issued tid i))

/-! ## Operands, integer instructions, control flow -/

/-- R18, R20, R157, R184: what reading and writing a scalar register does. s0 reads zero and discards; a plain register
holds its value; a register still to be written makes the thread wait; a bound read stream gives its next element; a
write stream with room takes the value.
R18, R117, R155, R160: vector and mask registers: a plain register holds its value, m0 reads all ones and discards,
a vector register bound to a channel pops the oldest waiting message, behind what another slot's request in flight holds of the
channel (the model's choice, log entry 45). -/
def Obligations.Operands : Prop :=
  ((∀ (s : State) v, Reads s 0 0 s ∧ Writes s 0 v s) ∧
   (∀ (s : State) r v, plainS s r → Reads s r (valS s r) s ∧ Writes s r v (withS s r v)) ∧
   (∀ (s : State) r v, r ≠ 0 → s.me.pend.any (fun p => p.cls == .s && p.num == r.val) = true →
     (readS r).run s = .error (.stall (.pending .s r.val)) ∧ (writeS r v).run s = .error (.stall (.pending .s r.val))) ∧
   (∀ s (r : SReg) p e es, r ≠ 0 → s.me.pend.any (fun p => p.cls == .s && p.num == r.val) = false →
     s.me.ports.get? (32 + r.val) = some p → p.kind = .readStream → p.entries = e :: es → e.past = false → e.fault = none →
     Reads s r (e.val.setWidth 64)
       (s.modThread s.cur (fun t => { t with ports := t.ports.put (32 + r.val) { p with entries := es, next := p.next + 1 } }))) ∧
   (∀ s (r : SReg) p v, r ≠ 0 → s.me.pend.any (fun p => p.cls == .s && p.num == r.val) = false →
     s.me.ports.get? (32 + r.val) = some p → p.kind = .writeStream → p.fault = none → p.next < streamTotal p.recd →
     p.entries.length < 8 →
     Writes s r v (s.modThread s.cur (fun t =>
       { t with
         ports := t.ports.put (32 + r.val) { p with entries := p.entries ++ [{ n := p.next, val := v.setWidth 512 }], next := p.next + 1 } })))) ∧
  ((∀ (s : State) r v, plainV s r → ReadsV s r (s.me.v.get 0 r.val) s ∧ WritesV s r v (withV s r v)) ∧
   (∀ (s : State) v, ReadsM s 0 (BitVec.allOnes 64) s ∧ WritesM s 0 v s) ∧
   (∀ (s : State) r v, plainM s r → ReadsM s r (valM s r) s ∧ WritesM s r v (withM s r v)) ∧
   (∀ s (r : VReg) p ch m ms, s.me.pend.any (fun p => p.cls == .v && p.num == r.val) = false →
     s.me.ports.get? r.val = some p → p.kind = .chan ch → (s.core s.curCore).waiting ch = m :: ms →
     s.wordsHeld s.cur ch = false →
     ReadsV s r (packLanes m.pay) (s.setCore s.curCore ((s.core s.curCore).setWaiting ch ms))))

/-- R90, R91: the results of the two-operand integer forms.
R90: the one-operand forms and `csel`. -/
def Obligations.IntegerResults : Prop :=
  (∀ (s s1 s2 t : State) (d a b : SReg) (x y : B64), Reads s a x s1 → Reads s1 b y s2 →
     (Writes s2 d (x + y) t → exec (.add d a b) s = .next (t.retire 4)) ∧
     (Writes s2 d (x - y) t → exec (.sub d a b) s = .next (t.retire 4)) ∧
     (Writes s2 d (x &&& y) t → exec (.and d a b) s = .next (t.retire 4)) ∧
     (Writes s2 d (x ||| y) t → exec (.or d a b) s = .next (t.retire 4)) ∧
     (Writes s2 d (x ^^^ y) t → exec (.xor d a b) s = .next (t.retire 4)) ∧
     (Writes s2 d (x &&& ~~~y) t → exec (.andn d a b) s = .next (t.retire 4)) ∧
     (Writes s2 d (x <<< (y.toNat % 64)) t → exec (.sll d a b) s = .next (t.retire 4)) ∧
     (Writes s2 d (x >>> (y.toNat % 64)) t → exec (.srl d a b) s = .next (t.retire 4)) ∧
     (Writes s2 d (x.sshiftRight (y.toNat % 64)) t → exec (.sra d a b) s = .next (t.retire 4)) ∧
     (Writes s2 d (x.rotateLeft (y.toNat % 64)) t → exec (.rotl d a b) s = .next (t.retire 4)) ∧
     (Writes s2 d (x * y) t → exec (.mul d a b) s = .next (t.retire 4)) ∧
     (Writes s2 d (BitVec.ofInt 64 (x.toInt * y.toInt / 2 ^ 64)) t → exec (.mulh d a b) s = .next (t.retire 4)) ∧
     (Writes s2 d (BitVec.ofNat 64 (x.toNat * y.toNat / 2 ^ 64)) t → exec (.mulhn d a b) s = .next (t.retire 4)) ∧
     (Writes s2 d (if y = 0 then BitVec.allOnes 64 else BitVec.ofInt 64 (x.toInt.tdiv y.toInt)) t →
       exec (.div d a b) s = .next (t.retire 4)) ∧
     (Writes s2 d (if y = 0 then BitVec.allOnes 64 else BitVec.ofNat 64 (x.toNat / y.toNat)) t →
       exec (.divn d a b) s = .next (t.retire 4)) ∧
     (Writes s2 d (if y = 0 then x else BitVec.ofInt 64 (x.toInt.tmod y.toInt)) t →
       exec (.rem d a b) s = .next (t.retire 4)) ∧
     (Writes s2 d (if y = 0 then x else BitVec.ofNat 64 (x.toNat % y.toNat)) t →
       exec (.remn d a b) s = .next (t.retire 4)) ∧
     (Writes s2 d (if x.toInt ≤ y.toInt then x else y) t → exec (.min d a b) s = .next (t.retire 4)) ∧
     (Writes s2 d (if x.toInt ≤ y.toInt then y else x) t → exec (.max d a b) s = .next (t.retire 4)) ∧
     (Writes s2 d (if x.toNat ≤ y.toNat then x else y) t → exec (.minn d a b) s = .next (t.retire 4)) ∧
     (Writes s2 d (if x.toNat ≤ y.toNat then y else x) t → exec (.maxn d a b) s = .next (t.retire 4)) ∧
     (Writes s2 d (if x.toInt < y.toInt then 1 else 0) t → exec (.slt d a b) s = .next (t.retire 4)) ∧
     (Writes s2 d (if x.toNat < y.toNat then 1 else 0) t → exec (.sltn d a b) s = .next (t.retire 4))) ∧
  (∀ (s s1 s2 s3 t : State) (d a b c : SReg) (x y z : B64), Reads s a x s1 →
     (∀ n : Nat, (if x = 0 then n = 64 else n < 64 ∧ x.toNat < 2 ^ (64 - n) ∧ 2 ^ (63 - n) ≤ x.toNat) →
       Writes s1 d (BitVec.ofNat 64 n) t → exec (.clz d a) s = .next (t.retire 4)) ∧
     (∀ n : Nat, (if x = 0 then n = 64 else n < 64 ∧ x.toNat % 2 ^ n = 0 ∧ x.toNat.testBit n = true) →
       Writes s1 d (BitVec.ofNat 64 n) t → exec (.ctz d a) s = .next (t.retire 4)) ∧
     (Writes s1 d (BitVec.ofNat 64 ((List.range 64).countP (fun i => x.getLsbD i))) t →
       exec (.popc d a) s = .next (t.retire 4)) ∧
     (∀ v : B64, (∀ i < 8, (v >>> (8 * i)).setWidth 8 = (x >>> (8 * (7 - i))).setWidth 8) →
       Writes s1 d v t → exec (.bswap d a) s = .next (t.retire 4)) ∧
     (Reads s1 b y s2 → Reads s2 c z s3 → Writes s3 d (if z = 0 then y else x) t →
       exec (.csel d a b c) s = .next (t.retire 4)))

/-- R92, R93, R96: the immediate forms, `lui`, `auipc` and the bit-field forms; `auipc` adds the instruction's address. -/
def Obligations.ImmediateResults : Prop :=
  ∀ (s s1 s2 t : State) (d a : SReg) (i : BitVec 12) (h : BitVec 6) (u : BitVec 20) (p w : BitVec 6) (x old : B64),
    (Reads s a x s1 →
      (Writes s1 d (x + i.signExtend 64) t → exec (.addi d a i) s = .next (t.retire 4)) ∧
      (Writes s1 d (x &&& i.signExtend 64) t → exec (.andi d a i) s = .next (t.retire 4)) ∧
      (Writes s1 d (x ||| i.signExtend 64) t → exec (.ori d a i) s = .next (t.retire 4)) ∧
      (Writes s1 d (x ^^^ i.signExtend 64) t → exec (.xori d a i) s = .next (t.retire 4)) ∧
      (Writes s1 d (if x.toInt < i.toInt then 1 else 0) t → exec (.slti d a i) s = .next (t.retire 4)) ∧
      (Writes s1 d (if x.toNat < (i.signExtend 64).toNat then 1 else 0) t → exec (.sltni d a i) s = .next (t.retire 4)) ∧
      (Writes s1 d (x <<< h.toNat) t → exec (.slli d a h) s = .next (t.retire 4)) ∧
      (Writes s1 d (x >>> h.toNat) t → exec (.srli d a h) s = .next (t.retire 4)) ∧
      (Writes s1 d (x.sshiftRight h.toNat) t → exec (.srai d a h) s = .next (t.retire 4)) ∧
      (Writes s1 d (((x >>> p.toNat).setWidth (w.toNat + 1)).signExtend 64) t →
        exec (.bfx d a p w) s = .next (t.retire 4)) ∧
      (Writes s1 d (((x >>> p.toNat).setWidth (w.toNat + 1)).setWidth 64) t →
        exec (.bfxn d a p w) s = .next (t.retire 4))) ∧
    (Writes s d ((u ++ 0#12).signExtend 64) t → exec (.lui d u) s = .next (t.retire 4)) ∧
    (Writes s d (s.me.pc + (u ++ 0#12).signExtend 64) t → exec (.auipc d u) s = .next (t.retire 4)) ∧
    (∀ v : B64, Reads s d old s1 → Reads s1 a x s2 →
      (∀ k < 64, v.getLsbD k = if p.toNat ≤ k ∧ k ≤ p.toNat + w.toNat then x.getLsbD (k - p.toNat) else old.getLsbD k) →
      Writes s2 d v t → exec (.bfi d a p w) s = .next (t.retire 4))

/-- R94, R95: jumps link the address after the instruction, the target comes from the operand read before the link is
written; a branch adds its offset when it is taken and passes on otherwise.
R94: `jalr` to an odd address traps with MISALIGN, the target in TVAL, and sD is not written. -/
def Obligations.JumpsAndBranches : Prop :=
  (∀ (s s1 s2 t : State) (d a b : SReg) (x y : B64) (j : BitVec 20) (i : BitVec 12),
     (Writes s d (s.me.pc + 4) t → exec (.jal d j) s = .next (t.jumped (s.me.pc + (j.signExtend 64 <<< 1)))) ∧
     (Reads s a x s1 → (x + i.signExtend 64).getLsbD 0 = false → Writes s1 d (s1.me.pc + 4) t →
       exec (.jalr d a i) s = .next (t.jumped (x + i.signExtend 64))) ∧
     (Reads s a x s1 → Reads s1 b y s2 →
       let dest (c : Bool) : State := s2.jumped (if c then s2.me.pc + (i.signExtend 64 <<< 1) else s2.me.pc + 4)
       exec (.beq a b i) s = .next (dest (decide (x = y))) ∧ exec (.bne a b i) s = .next (dest (decide (x ≠ y))) ∧
       exec (.blt a b i) s = .next (dest (decide (x.toInt < y.toInt))) ∧
       exec (.bge a b i) s = .next (dest (decide (y.toInt ≤ x.toInt))) ∧
       exec (.bltn a b i) s = .next (dest (decide (x.toNat < y.toNat))) ∧
       exec (.bgen a b i) s = .next (dest (decide (y.toNat ≤ x.toNat))))) ∧
  (∀ (s s1 : State) (d a : SReg) (i : BitVec 12) (x : B64), Reads s a x s1 → (x + i.signExtend 64).getLsbD 0 = true →
     s.hasHandler → exec (.jalr d a i) s = .next (s.entered 2 (x + i.signExtend 64) s.me.pc false))

/-- The frame of the integer, immediate and bit-field forms, whatever their operands are bound to, with a trap handler
set: nothing changes in memory, among the stores on their way to it or in the Update-only lines; no register but the
destination; a trap (of a port, R162) writes the trap registers. -/
def Obligations.IntegerFrame : Prop :=
  ∀ i d s t, intDest i = some d → s.hasHandler → exec i s = .next t →
    t.mem = s.mem ∧ t.stores = s.stores ∧ t.upd = s.upd ∧ t.now = s.now ∧ t.cur = s.cur ∧
    (∀ k, SameOthers (s.thread k) (t.thread k) ∧
      (∀ r, k ≠ s.cur ∨ r ≠ d.val → (t.thread k).s.get 0 r = (s.thread k).s.get 0 r) ∧
      (SameTrap (s.thread k) (t.thread k) ∨
        (k = s.cur ∧ (t.thread k).pc = tvecAddr (s.core s.curCore).tvec ∧ (t.thread k).tcause.getLsbD 15 = true))) ∧
    (∀ c, (t.core c).tvec = (s.core c).tvec ∧ (t.core c).bal = (s.core c).bal ∧ (t.core c).binbase = (s.core c).binbase)

/-! ## Loads, stores, atomics, fences -/

/-- R97, R324: the result of every scalar load whose address is aligned and lies in memory the thread may read.
R33, R97, R98, R209: what a load reads: the bytes of memory, least significant first, when nothing is pending (in the area
of a core's spill queues as those stand); a store of the thread's own that is not visible yet, if it covers the bytes.
R98, R127: a load from another core's scratchpad first waits for its value, and the value's return lets it go on.
R36, R351: a load that is a directory event at a switched-off home waits for that core's wake, which it brings about. -/
def Obligations.LoadResults : Prop :=
  (∀ (s s1 t : State) (d a : SReg) (i : BitVec 12) (x : B64) (l : Nat), Reads s a x s1 →
     let va := x + i.signExtend 64
     let got (n : Nat) : Nat := ((s1.translated va).loaded l n).2
     let gives (n : Nat) (ins : Instr) (v : B64) : Prop :=
       AccessAt s s1 .read n va l → Writes ((s1.translated va).loaded l n).1 d v t → exec ins s = .next (t.retire 4)
     gives 1 (.ldS8 d a i) ((BitVec.ofNat 8 (got 1)).signExtend 64) ∧ gives 1 (.ldN8 d a i) ((BitVec.ofNat 8 (got 1)).setWidth 64) ∧
     gives 2 (.ldS16 d a i) ((BitVec.ofNat 16 (got 2)).signExtend 64) ∧ gives 2 (.ldN16 d a i) ((BitVec.ofNat 16 (got 2)).setWidth 64) ∧
     gives 4 (.ldS32 d a i) ((BitVec.ofNat 32 (got 4)).signExtend 64) ∧ gives 4 (.ldN32 d a i) ((BitVec.ofNat 32 (got 4)).setWidth 64) ∧
     gives 8 (.ld64 d a i) (BitVec.ofNat 64 (got 8))) ∧
  ((∀ (s : State) l n, s.stores = [] → s.upd = [] →
     (spillCore l n = none → s.loaded l n = (s, leNat (readBytes s.mem l n))) ∧
     (∀ c, spillCore l n = some c → (s.core s.curCore).l1.get? (l / 256) = none →
       s.loaded l n = (s.spillOut c, leNat (readBytes (s.spillOut c).mem l n)))) ∧
   (∀ (s : State) l p, s.upd = [] → s.stores = [p] → p.tid = s.cur → p.dead = false → p.comb = none → p.loc = l →
     (s.loaded l p.data.length).2 = leNat p.data) ∧
   (∀ (m : List Host.Cell) a n, leNat (readBytes m a (n + 1)) = (readByte m a).toNat + 256 * leNat (readBytes m (a + 1) n))) ∧
  ((∀ (s s1 : State) (d a : SReg) (i : BitVec 12) (x : B64) (l : Nat), Reads s a x s1 → (x + i.signExtend 64).toNat % 8 = 0 →
     s1.route s1.curCore s1.me.ctx s1.me.sysMode .read (x + i.signExtend 64) = .loc l → (s1.core s1.curCore).ksq = [] →
     (s.isFar l = true → s.me.phase = .idle →
       exec (.ld64 d a i) s = .next ((s.modThread s.cur (fun t => { t with phase := .sent })).stallCur .value)) ∧
     (s.dirAsleep s.curCore l = true → exec (.ld64 d a i) s = .next
       (((s.dirRequest l s.curCore false).modThread s.cur (fun t => { t with phase := .sent })).stallCur (.dirWake l)))) ∧
   (∀ (s : State) tid, (s.thread tid).st = .stalled .value → (s.thread tid).phase = .sent →
     exec (.loadValueReturn tid) s = .next (s.setThread tid { s.thread tid with phase := .answered 0 0 })))

/-- R97, R324: a store becomes pending at its location with the low bytes of sB, least significant first.
R97, R101: a misaligned access traps with MISALIGN and its address, before anything else is done: loads, stores, atomic
operations and `upd` forms. -/
def Obligations.StoreResults : Prop :=
  (∀ (s s1 s2 : State) (a b : SReg) (i : BitVec 12) (x y : B64) (l : Nat), Reads s a x s1 → Reads s1 b y s2 →
     let va := x + i.signExtend 64
     s2.route s2.curCore s2.me.ctx s2.me.sysMode .write va = .loc l → ((spadCore l).isSome = true → (s2.core s2.curCore).ksq = []) →
     let holds (n : Nat) : State := ((s2.translated va).stored l (leBytes n y.toNat)).retire 4
     exec (.st8 a b i) s = .next (holds 1) ∧ (va.toNat % 2 = 0 → exec (.st16 a b i) s = .next (holds 2)) ∧
     (va.toNat % 4 = 0 → exec (.st32 a b i) s = .next (holds 4)) ∧ (va.toNat % 8 = 0 → exec (.st64 a b i) s = .next (holds 8))) ∧
  (∀ (s s1 s2 : State) (d a b : SReg) (i : BitVec 12) (x y : B64), s.hasHandler → Reads s a x s1 →
     let va := x + i.signExtend 64
     let traps (n : Nat) (ins : Instr) : Prop := va.toNat % n ≠ 0 → exec ins s = .next (s.entered 2 va s.me.pc false)
     traps 2 (.ldS16 d a i) ∧ traps 2 (.ldN16 d a i) ∧ traps 4 (.ldS32 d a i) ∧ traps 4 (.ldN32 d a i) ∧ traps 8 (.ld64 d a i) ∧
     (Reads s1 b y s2 → traps 2 (.st16 a b i) ∧ traps 4 (.st32 a b i) ∧ traps 8 (.st64 a b i))) ∧
  (∀ (s s0 s1 s2 : State) (d a b : SReg) (x y c : B64) (q : AmoMods), s.hasHandler → x.toNat % (if q.w64 then 8 else 4) ≠ 0 →
     let traps (i : Instr) : Prop := exec i s = .next (s.entered 2 x s.me.pc false)
     (Reads s a x s1 → Reads s1 b y s2 →
       traps (.amoSwap d a b q) ∧ traps (.amoAdd d a b q) ∧ traps (.amoAnd d a b q) ∧ traps (.amoOr d a b q) ∧ traps (.amoXor d a b q) ∧
       traps (.amoMin d a b q) ∧ traps (.amoMax d a b q) ∧ traps (.amoMinn d a b q) ∧ traps (.amoMaxn d a b q) ∧ traps (.amoFadd d a b q) ∧
       traps (.updAdd a b q) ∧ traps (.updFadd a b q) ∧ traps (.updMin a b q) ∧ traps (.updMax a b q) ∧ traps (.updOr a b q)) ∧
     (Reads s d c s0 → Reads s0 a x s1 → Reads s1 b y s2 → traps (.amoCas d a b q)))

/-- The frame of the scalar stores, the compact one among them, with nothing pending: no byte of memory changes until the
store reaches its port, no register changes, and one store is pending, over the bytes from the location on.
R40, R129, R209, R212: a pending store that reaches its memory port puts its bytes in memory, there and nowhere else, and
is pending no more, with all of its group (no Echo unit set up, no Update-only copy in the way, no spill queue there). -/
def Obligations.StoreFrame : Prop :=
  (∀ (s s1 s2 : State) (a b : SReg) (r e : Fin 8) (i : BitVec 12) (o : BitVec 5) (x y : B64) (l : Nat), s2.stores = [] →
     let frame (ins : Instr) (n : Nat) (va : B64) : Prop :=
       s2.route s2.curCore s2.me.ctx s2.me.sysMode .write va = .loc l → ((spadCore l).isSome = true → (s2.core s2.curCore).ksq = []) →
       va.toNat % n = 0 →
       ∃ t p, exec ins s = .next t ∧ t.stores = [p] ∧ p.loc = l ∧ p.data = leBytes n y.toNat ∧ p.tid = s2.cur ∧
         SameMem (s2.translated va) t ∧ t.cores = (s2.translated va).cores ∧ t.upd = (s2.translated va).upd ∧
         (∀ k, SameOthers (s2.thread k) (t.thread k) ∧ (t.thread k).s = (s2.thread k).s ∧ SameTrap (s2.thread k) (t.thread k))
     (Reads s a x s1 → Reads s1 b y s2 →
       let va := x + i.signExtend 64
       frame (.st8 a b i) 1 va ∧ frame (.st16 a b i) 2 va ∧ frame (.st32 a b i) 4 va ∧ frame (.st64 a b i) 8 va) ∧
     (Reads s (cset e) x s1 → Reads s1 (cset r) y s2 → frame (.cSt r e o) 8 (x + (o.setWidth 64 <<< 3)))) ∧
  (∀ (s : State) n p, s.stores[n]? = some p → s.canPerform p = true → s.upd = [] → s.fleet.echo = {} →
     ∃ t, exec (.memoryPortArrival n) s = .next t ∧ t.threads = s.threads ∧ (∀ q ∈ t.stores, q ∈ s.stores ∧ q.ser ≠ p.ser) ∧
       (p.grp ≠ 0 → ∀ q ∈ t.stores, q.tid = p.tid → q.grp ≠ p.grp) ∧
       (p.grp = 0 → p.comb = none → spillCore p.loc p.data.length = none → t.cores = s.cores ∧
         (∀ i (h : i < p.data.length), readByte t.mem (p.loc + i) = p.data[i]) ∧
         (∀ x, x < p.loc ∨ p.loc + p.data.length ≤ x → readByte t.mem x = readByte s.mem x)))

/-- R100, R101: an atomic operation reads and writes its location as one event and gives sD the old value, sign-extended
for a 32-bit form but zero-extended for `fadd`; a release order first makes earlier accesses visible at its scope (log
entry 8).
R101: with nothing else on its way, an atomic operation replaces the bytes at its location by the table's value of
the old contents and sB (`cas` only when the old contents equal the compare value), and answers the old contents.
R102, R39, R216: an update-only form combines into the core's Update-only line for device memory; into a scratchpad,
or with order .rel, it is pending like a store; no register changes. -/
def Obligations.AtomicResults : Prop :=
  (∀ (s s0 s1 s2 t : State) (d a b : SReg) (x y c : B64) (q : AmoMods) (l : Nat),
     let n := if q.w64 then 8 else 4
     let before (s : State) : State := if q.order = .rel ∨ q.order = .ar then s.release s.cur q.scope false else s
     let done (s2 : State) (op : AmoOp) (c : B64) : State × B64 := (before (s2.translated x)).amoAt s2.cur l op q.w64 y c
     let sx (v : B64) : B64 := if q.w64 then v else (v.setWidth 32).signExtend 64
     let zx (v : B64) : B64 := if q.w64 then v else (v.setWidth 32).setWidth 64
     let gives (i : Instr) (op : AmoOp) (c : B64) (v : B64 → B64) : Prop :=
       Writes (done s2 op c).1 d (v (done s2 op c).2) t → exec i s = .next (t.retire 4)
     (Reads s a x s1 → Reads s1 b y s2 → AccessAt s s2 .write n x l →
       gives (.amoSwap d a b q) .swap 0 sx ∧ gives (.amoAdd d a b q) .add 0 sx ∧ gives (.amoAnd d a b q) .and 0 sx ∧
       gives (.amoOr d a b q) .or 0 sx ∧ gives (.amoXor d a b q) .xor 0 sx ∧ gives (.amoMin d a b q) .min 0 sx ∧
       gives (.amoMax d a b q) .max 0 sx ∧ gives (.amoMinn d a b q) .minn 0 sx ∧ gives (.amoMaxn d a b q) .maxn 0 sx ∧
       gives (.amoFadd d a b q) .fadd 0 zx) ∧
     (Reads s d c s0 → Reads s0 a x s1 → Reads s1 b y s2 → AccessAt s s2 .write n x l → gives (.amoCas d a b q) .cas c sx)) ∧
  ((∀ (s : State) (tid l : Nat) (op : AmoOp) (w64 : Bool) (v cmp : B64), s.stores = [] → s.upd = [] → s.fleet.echo = {} →
     let n := if w64 then 8 else 4
     let old := BitVec.ofNat 64 (leNat (readBytes s.mem l n))
     spillCore l n = none →
     s.amoAt tid l op w64 v cmp =
       (if op = .cas ∧ old.toNat ≠ cmp.toNat % 2 ^ (8 * n) then (s, old)
        else ({ s with mem := writeBytes s.mem l (leBytes n (amoNew op w64 old v).toNat) }, old))) ∧
   (∀ x y : B64, amoNew .swap true x y = y ∧ amoNew .cas true x y = y ∧ amoNew .add true x y = x + y ∧
     amoNew .and true x y = x &&& y ∧ amoNew .or true x y = x ||| y ∧ amoNew .xor true x y = x ^^^ y ∧
     amoNew .min true x y = (if x.toInt ≤ y.toInt then x else y) ∧ amoNew .max true x y = (if y.toInt ≤ x.toInt then x else y) ∧
     amoNew .minn true x y = (if x.toNat ≤ y.toNat then x else y) ∧ amoNew .maxn true x y = (if y.toNat ≤ x.toNat then x else y) ∧
     amoNew .fadd true x y =
       BitVec.ofNat 64 (roundTo fmtF64 .rne false 0 (addFV .rne (fmtF64.value x.toNat) (fmtF64.value y.toNat)).1).bits) ∧
   (∀ x y : BitVec 32,
     let new (op : AmoOp) (v : BitVec 32) : Prop := amoNew op false (x.setWidth 64) (y.setWidth 64) = v.setWidth 64
     new .swap y ∧ new .cas y ∧ new .add (x + y) ∧ new .and (x &&& y) ∧ new .or (x ||| y) ∧ new .xor (x ^^^ y) ∧
     new .min (if x.toInt ≤ y.toInt then x else y) ∧ new .max (if y.toInt ≤ x.toInt then x else y) ∧
     new .minn (if x.toNat ≤ y.toNat then x else y) ∧ new .maxn (if y.toNat ≤ x.toNat then x else y) ∧
     amoNew .fadd false (x.setWidth 64) (y.setWidth 64) =
       BitVec.ofNat 64 (roundTo fmtF32 .rne false 0 (addFV .rne (fmtF32.value x.toNat) (fmtF32.value y.toNat)).1).bits)) ∧
  (∀ (s s1 s2 : State) (a b : SReg) (x y : B64) (q : AmoMods) (l : Nat), Reads s a x s1 → Reads s1 b y s2 →
     x.toNat % (if q.w64 then 8 else 4) = 0 → s2.route s2.curCore s2.me.ctx s2.me.sysMode .write x = .loc l →
     ((spadCore l).isSome = true → (s2.core s2.curCore).ksq = []) →
     let u := s2.translated x
     let late (op : UpdOp) : State :=
       if (spadCore l).isSome = true ∨ q.order = .rel ∨ q.order = .ar then
         u.pushStore { ser := 0, tid := u.cur, loc := l, data := leBytes (if q.w64 then 8 else 4) y.toNat, comb := some (op, q.w64),
                       rel := decide (q.order = .rel ∨ q.order = .ar), tag := u.tag }
       else u.updLine u.cur l op q.w64 y
     exec (.updAdd a b q) s = .next ((late .add).retire 4) ∧ exec (.updFadd a b q) s = .next ((late .fadd).retire 4) ∧
     exec (.updMin a b q) s = .next ((late .min).retire 4) ∧ exec (.updMax a b q) s = .next ((late .max).retire 4) ∧
     exec (.updOr a b q) s = .next ((late .or).retire 4))

/-- R103, R210, R216: fences. The release half makes the thread's earlier accesses visible at the scope (at device and
system scope at once: log entry 8), the acquire half adds nothing here; `fence.ack` passes when ACKCNT is 0 and else waits.
R103, R208, R212, R216: after a fence with a release half at device or system scope nothing of the thread is pending:
neither a store nor a contribution in an Update-only line nor a `ksend` that has not filed. -/
def Obligations.FenceResults : Prop :=
  ((∀ (s : State) sc, exec (.fence .acq sc) s = .next (s.retire 4) ∧ exec (.fence .rel sc) s = .next ((s.release s.cur sc false).retire 4) ∧
     exec (.fence .ar sc) s = .next ((s.release s.cur sc false).retire 4) ∧ exec (.fenceEng .acq sc) s = .next (s.retire 4) ∧
     exec (.fenceEng .rel sc) s = .next ((s.release s.cur sc true).retire 4) ∧
     exec (.fenceEng .ar sc) s = .next ((s.release s.cur sc true).retire 4)) ∧
   (∀ s : State, s.me.ackcnt = 0 → exec .fenceAck s = .next (s.retire 4)) ∧
   (∀ s : State, s.me.ackcnt ≠ 0 → exec .fenceAck s = .next (s.stallCur .fenceAck))) ∧
  (∀ (s : State) sc o t, (sc = .d ∨ sc = .s) → (o = .rel ∨ o = .ar) → exec (.fence o sc) s = .next t →
     (∀ p ∈ t.stores, p.tid = s.cur → p.dead = true) ∧ (∀ u ∈ t.upd, ∀ w ∈ u.who, w.1 ≠ s.cur) ∧
     (∀ r ∈ (t.core s.curCore).ksq, r.ser < s.nextSer → r.tid ≠ s.cur))

/-! ## Floating point, control registers, traps, system instructions -/

/-- R104, R105, R82: the rounded forms: the exact result of the operands' values, rounded once in the form's mode.
R106: minimum, maximum, comparisons and class: NV is raised for a NaN operand of a comparison or `fclass`, a
comparison with a NaN gives 0, the class is one bit, 0 to 8 for the nine classes.
R80, R107: conversions of a scalar: from a signed or unsigned integer, from the other precision, and to integers. -/
def Obligations.FloatResults : Prop :=
  (∀ (s s0 s1 s2 t : State) (p : Prec) (r : RMode) (d a b : SReg) (x y z : B64),
     (Reads s a x s1 → Reads s1 b y s2 →
       let rm := s2.modeFor r
       (FpWrites s2 p rm d (addFV rm (fpVal p x) (fpVal p y)) t → exec (.fadd p r d a b) s = .next (t.retire 4)) ∧
       (FpWrites s2 p rm d (addFV rm (fpVal p x) (fpVal p y).neg) t → exec (.fsub p r d a b) s = .next (t.retire 4)) ∧
       (FpWrites s2 p rm d (mulFV (fpVal p x) (fpVal p y)) t → exec (.fmul p r d a b) s = .next (t.retire 4)) ∧
       (FpWrites s2 p rm d (divFV (fpVal p x) (fpVal p y)) t → exec (.fdiv p r d a b) s = .next (t.retire 4))) ∧
     (Reads s a x s1 → FpWrites s1 p (s1.modeFor r) d (sqrtFV (fpVal p x)) t → exec (.fsqrt p r d a) s = .next (t.retire 4)) ∧
     (Reads s d z s0 → Reads s0 a x s1 → Reads s1 b y s2 →
       FpWrites s2 p (s2.modeFor r) d (fmaFV (s2.modeFor r) (fpVal p z) (fpVal p x) (fpVal p y)) t →
       exec (.fma p r d a b) s = .next (t.retire 4))) ∧
  (∀ (s s1 s2 t : State) (p : Prec) (d a b : SReg) (x y : B64), Reads s a x s1 →
     (Reads s1 b y s2 →
       let u := fpVal p x
       let v := fpVal p y
       let nv : Flags := if u.isNan = true ∨ v.isNan = true then flagNV else 0
       let held (c : Int → Prop) [DecidablePred c] : B64 := match cmpFV u v with | some o => if c o then 1 else 0 | none => 0
       (Writes (s2.flagged s2.me.gen nv) d (held (· = 0)) t → exec (.feq p d a b) s = .next (t.retire 4)) ∧
       (Writes (s2.flagged s2.me.gen nv) d (held (· < 0)) t → exec (.flt p d a b) s = .next (t.retire 4)) ∧
       (Writes (s2.flagged s2.me.gen nv) d (held (· ≤ 0)) t → exec (.fle p d a b) s = .next (t.retire 4)) ∧
       (Writes (s2.flagged s2.me.gen (minMaxFV false u v).2) d (BitVec.ofNat 64 (roundTo (precFmt p) .rne false 0 (minMaxFV false u v).1).bits) t →
         exec (.fmin p d a b) s = .next (t.retire 4)) ∧
       (Writes (s2.flagged s2.me.gen (minMaxFV true u v).2) d (BitVec.ofNat 64 (roundTo (precFmt p) .rne false 0 (minMaxFV true u v).1).bits) t →
         exec (.fmax p d a b) s = .next (t.retire 4))) ∧
     (Writes (s1.flagged s1.me.gen (if (fpVal p x).isNan then flagNV else 0)) d (1#64 <<< fpClass (precFmt p) (fpVal p x)) t →
       exec (.fclass p d a) s = .next (t.retire 4))) ∧
  (∀ (p : Prec) (x : Nat),
     let w := match p with | .f32 => 32 | .f64 => 64
     let mb := match p with | .f32 => 23 | .f64 => 52
     let top := match p with | .f32 => 255 | .f64 => 2047
     let neg := 2 ^ (w - 1) ≤ x
     let mag := x % 2 ^ (w - 1)
     x < 2 ^ w → fpClass (precFmt p) ((precFmt p).value x) =
       if mag / 2 ^ mb = top then (if mag % 2 ^ mb = 0 then (if neg then 0 else 7) else 8)
       else if mag = 0 then (if neg then 3 else 4) else if mag < 2 ^ mb then (if neg then 2 else 5) else (if neg then 1 else 6)) ∧
  (∀ (s s1 t : State) (p : Prec) (r : RMode) (d a : SReg) (x : B64), Reads s a x s1 →
     let rm := s1.modeFor r
     let other : Prec := match p with | .f32 => .f64 | .f64 => .f32
     let toInt (signed : Bool) : Rounded := roundToInt rm 64 signed s1.me.gen (fpVal p x)
     (FpWrites s1 p rm d (FV.ofInt x.toInt, 0) t → exec (.fcvtFromS64 p r d a) s = .next (t.retire 4)) ∧
     (FpWrites s1 p rm d (FV.ofInt x.toNat, 0) t → exec (.fcvtFromN64 p r d a) s = .next (t.retire 4)) ∧
     (FpWrites s1 p rm d (fpVal other x, 0) t → exec (.fcvtFromOther p r d a) s = .next (t.retire 4)) ∧
     (Writes (s1.flagged (toInt true).gen (toInt true).flags) d (BitVec.ofNat 64 (toInt true).bits) t →
       exec (.fcvtToS64 p r d a) s = .next (t.retire 4)) ∧
     (Writes (s1.flagged (toInt false).gen (toInt false).flags) d (BitVec.ofNat 64 (toInt false).bits) t →
       exec (.fcvtToN64 p r d a) s = .next (t.retire 4)))

/-- R74, R75: a value that a format holds is not changed by rounding to that format, in any mode, and raises no flag. -/
def Obligations.RoundingKeepsValues : Prop :=
  ∀ (p : Prec) (rm : RMode) (sat : Bool) (g : B64) (x : Nat), x < 2 ^ (precFmt p).width → ((precFmt p).value x).isNan = false →
    (roundTo (precFmt p) rm sat g ((precFmt p).value x)).bits = x ∧
    (roundTo (precFmt p) rm sat g ((precFmt p).value x)).flags = 0

/-- R108: `crr` gives the register's value; a write is taken where the mode may write the register and the value is one
it accepts, and is ignored where the register is read-only there; `crs` and `crc` set and clear bits and give the old
value.
R24, R26: a control register of the thread, its core, its croft or the device that took a value reads it back in its
width; CYCLE counts the reading cycle too, RATION keeps its BAL.
R22, R24, R25, R108: an unlisted number is ILLEGAL, TVEC to TPC are PRIV in context mode, each with the number in TVAL; a
VRND over 5, a WSHAPE that R199 does not allow and a POUNDTO of 0 are ILLEGAL and the register stays, in `crw`, `crs` and
`crc`. -/
def Obligations.ControlRegisters : Prop :=
  (∀ (s s1 t : State) (d a : SReg) (c : BitVec 12) (v : B64), s.cregOpen c.toNat →
     let n := c.toNat
     let old := s.cregRead s.cur n
     let taken (s : State) (w : B64) (s' : State) : Prop :=
       if cregWritable s.me.sysMode n = true then cregRefuses n w = false ∧ s.cregBusy s.cur n = none ∧ s' = s.cregWrite s.cur n w
       else s' = s
     (Writes s d old t → exec (.crr d c) s = .next (t.retire 4)) ∧
     (Reads s a v s1 → taken s1 v t → exec (.crw c a) s = .next (t.retire 4)) ∧
     (∀ s2, Reads s a v s1 → taken s1 (old ||| v) s2 → Writes s2 d old t → exec (.crs d c a) s = .next (t.retire 4)) ∧
     (∀ s2, Reads s a v s1 → taken s1 (old &&& ~~~v) s2 → Writes s2 d old t → exec (.crc d c a) s = .next (t.retire 4))) ∧
  (∀ (s : State) (v : B64),
     let back (n : Nat) : B64 := (s.cregWrite s.cur n v).cregRead s.cur n
     back 0x008 = (v.setWidth 5).setWidth 64 ∧ back 0x009 = (v.setWidth 3).setWidth 64 ∧ back 0x00A = v ∧
     back 0x00B = (v.setWidth 16).setWidth 64 ∧ back 0x010 = (v.setWidth 10).setWidth 64 ∧ back 0x011 = v ∧ back 0x012 = v ∧
     back 0x013 = v ∧ back 0x014 = v ∧ back 0x015 = v ∧ back 0x016 = v ∧ back 0x020 = v ∧
     back 0x021 = (v.setWidth 18).setWidth 64 ∧ back 0x022 = (v.setWidth 23).setWidth 64 ∧ back 0x030 = (v.setWidth 16).setWidth 64 ∧
     back 0x080 = v &&& 0x000FFFFFFFFFFFFE#64 ∧ back 0x081 = v &&& 0xE0FF#64 ∧ back 0x082 = v ∧
     back 0x083 = (v.setWidth 52).setWidth 64 ∧ back 0x003 = v + 1 ∧
     back 0x004 = (v &&& 0x0000FFFFFFFF0000#64) ||| (s.core s.curCore).bal.setWidth 64 ∧
     (∀ i < 8, back (0x40 + i) = (v.setWidth 14).setWidth 64 ∧ back (0x48 + i) = v)) ∧
  (∀ (s s1 : State) (d a : SReg) (c : BitVec 12) (v : B64), s.hasHandler →
     let stops (cause : Nat) (i : Instr) : Prop := exec i s = .next (s.entered cause (c.setWidth 64) s.me.pc false)
     (cregListed c.toNat = false → stops 1 (.crr d c) ∧ stops 1 (.crw c a) ∧ stops 1 (.crs d c a) ∧ stops 1 (.crc d c a)) ∧
     (0x80 ≤ c.toNat → c.toNat ≤ 0x83 → s.me.sysMode = false →
       stops 0x0A (.crr d c) ∧ stops 0x0A (.crw c a) ∧ stops 0x0A (.crs d c a) ∧ stops 0x0A (.crc d c a)) ∧
     (s.cregOpen c.toNat → Reads s a v s1 → cregWritable s1.me.sysMode c.toNat = true →
       let old := s.cregRead s.cur c.toNat
       let refused (w : B64) : Prop :=
         let dims := w.toNat % 256
         let width := w.toNat / 256 % 256
         (c.toNat = 0x009 ∧ 6 ≤ w.toNat % 8) ∨
         (c.toNat = 0x00B ∧ (dims = 0 ∨ 8 < dims ∨ width = 0 ∨ 32 < width ∨ 64 < dims * width)) ∨
         (c.toNat = 0x030 ∧ w.toNat % 2 ^ 16 = 0)
       (refused v → stops 1 (.crw c a)) ∧ (refused (old ||| v) → stops 1 (.crs d c a)) ∧
       (refused (old &&& ~~~v) → stops 1 (.crc d c a)) ∧
       (∀ w, cregRefuses c.toNat w = true ↔ refused w)))

/-- R43, R63, R109, R112, R113: a trap with a handler set enters it: `trap` and `break` with cause 9 and 8, the code in
TVAL and the next instruction's address in TPC; an illegal encoding with cause 1 and the word, a failed fetch with cause 3
or 4 and the halfword's address, both with their own address in TPC; a walk is counted for either, and for an XLATE where a
broken entry ends it (R323, R353).
R113: without a handler, or while a trap is being handled, a trap outside a system slot ends the context: it is marked
ended and every thread slot of its tasks is Free. -/
def Obligations.TrapEntry : Prop :=
  (∀ (s : State), s.hasHandler →
     (∀ c : BitVec 6, exec (.trap c) s = .next (s.entered 9 (c.setWidth 64) (s.me.pc + 4) false)) ∧
     (∀ c : BitVec 6, exec (.brk c) s = .next (s.entered 8 (c.setWidth 64) (s.me.pc + 4) false)) ∧
     exec .cBreak s = .next (s.entered 8 0 (s.me.pc + 2) true) ∧
     (∀ w compact, exec (.illegalEncoding w compact) s = .next (s.entered 1 (w.setWidth 64) s.me.pc compact)) ∧
     (∀ a, exec (.instructionFetchFault true a) s = .next ((s.translated a).entered 4 a s.me.pc false)) ∧
     (∀ a, exec (.instructionFetchFault false a) s = .next (((s.translated a).bumpWalk s.me.ctx a).entered 3 a s.me.pc false))) ∧
  (∀ (s : State) (c : BitVec 6) (x : Ctx), slotOf s.cur ≠ 4 →
     (tvecAddr (s.core s.curCore).tvec = 0 ∨ tcauseIN s.me.tcause = true) → s.ctx? s.me.ctx = some x → x.ended = false →
     ∃ t x', exec (.trap c) s = .next t ∧ t.ctx? s.me.ctx = some x' ∧ x'.ended = true ∧
       (∀ k, k % 8 ≠ 4 → (s.thread k).ctx = s.me.ctx → (s.thread k).st ≠ .free → (t.thread k).st = .free))

/-- R114, R22, R109, R110, R111, R198: `rett` in system mode returns to TPC with the mode TCAUSE saved, and traps with
MISALIGN when TPC is odd; after a trap's entry it brings back the mode and the address that the entry saved. `rett`,
`idle`, `tlbinv` and `pathset` trap in context mode with PRIV and their word. -/
def Obligations.TrapReturn : Prop :=
  (∀ (s : State), s.me.sysMode = true → s.me.tpc.getLsbD 0 = false →
    exec .rett s = .next (s.modThread s.cur (fun t =>
      { t with pc := t.tpc, sysMode := t.tcause.getLsbD 14, tcause := t.tcause &&& ~~~0x8000#64, charged := false }))) ∧
  (∀ (s : State), s.me.sysMode = true → s.me.tpc.getLsbD 0 = true → s.hasHandler →
    exec .rett s = .next (s.entered 2 s.me.tpc s.me.pc false)) ∧
  (∀ (s : State) cause val ret compact, cause < 16 → ret.getLsbD 0 = false → ret.toNat < 2 ^ 52 →
    ∃ t, exec .rett (s.entered cause val ret compact) = .next t ∧ t.me.pc = ret ∧ t.me.sysMode = s.me.sysMode ∧
      tcauseIN t.me.tcause = false ∧ t.me.s = s.me.s ∧ t.me.v = s.me.v ∧ t.me.m = s.me.m) ∧
  (∀ (s : State) (d a b : SReg), s.me.sysMode = false → s.hasHandler →
    exec .rett s = .next (s.entered 0x0A (BitVec.ofNat 64 ((encode .rett).getD 0)) s.me.pc false) ∧
    exec .idle s = .next (s.entered 0x0A (BitVec.ofNat 64 ((encode .idle).getD 0)) s.me.pc false) ∧
    exec (.tlbinv a) s = .next (s.entered 0x0A (BitVec.ofNat 64 ((encode (.tlbinv a)).getD 0)) s.me.pc false) ∧
    exec (.pathset d a b) s = .next (s.entered 0x0A (BitVec.ofNat 64 ((encode (.pathset d a b)).getD 0)) s.me.pc false))

/-- R110, R111, R149, R324: `idle` stops the system slot until an event and makes a thread slot yield; `tstamp` gives the reference time
in nanoseconds; after `cflush` the core's copies of the line are gone, after `cinv` its instruction line, after `tlbinv`
the page's (or with s0 all) translations of the context. -/
def Obligations.SystemResults : Prop :=
  (∀ (s : State), s.me.sysMode = true → slotOf s.cur = 4 →
    exec .idle s = .next ((s.modThread s.cur (fun t => { t with st := .stalled .idle })).retire 4)) ∧
  (∀ (s : State), s.me.sysMode = true → slotOf s.cur ≠ 4 → exec .idle s = .next (s.yieldCur.retire 4)) ∧
  (∀ (s t : State) (d : SReg), Writes s d (BitVec.ofNat 64 (s.now / 2)) t → exec (.tstamp d) s = .next (t.retire 4)) ∧
  (∀ (s s1 : State) (a : SReg) (x : B64), Reads s a x s1 → inSpadWindow x = true →
    exec (.cflush a) s = .next (s1.retire 4) ∧ exec (.cinv a) s = .next (s1.retire 4)) ∧
  (∀ (s s1 : State) (a : SReg) (x : B64) (l : Nat), Reads s a x s1 → inSpadWindow x = false →
    s1.route s1.curCore s1.me.ctx s1.me.sysMode .read x = .loc l →
    ∃ t, exec (.cflush a) s = .next t ∧ (t.core s1.curCore).l1.get? (l / 256) = none ∧
      (∀ u ∈ t.upd, u.core = s1.curCore → u.line ≠ l / 256) ∧ t.me.pc = s1.me.pc + 4) ∧
  (∀ (s s1 : State) (a : SReg) (x : B64) (l : Nat), Reads s a x s1 → inSpadWindow x = false →
    s1.route s1.curCore s1.me.ctx s1.me.sysMode .read x = .loc l →
    ∃ t, exec (.cinv a) s = .next t ∧ (t.core s1.curCore).icache.get? (l / 256) = none ∧ t.me.pc = s1.me.pc + 4) ∧
  (∀ (s s1 : State) (a : SReg) (x : B64), s.me.sysMode = true → Reads s a x s1 →
    ∃ t, exec (.tlbinv a) s = .next t ∧ t.me.pc = s1.me.pc + 4 ∧
      (∀ e, (e ∈ (t.core s1.curCore).tlb ↔
        e ∈ (s1.core s1.curCore).tlb ∧ ¬(e.ctx = s1.me.ctx ∧ (a = 0 ∨ e.hits s1.me.ctx x.toNat = true))) ∧
        (e ∈ (t.croft (croftOf s1.curCore)).tlb2 ↔
        e ∈ (s1.croft (croftOf s1.curCore)).tlb2 ∧ ¬(e.ctx = s1.me.ctx ∧ (a = 0 ∨ e.hits s1.me.ctx x.toNat = true)))))

/-- R59: each compact form does what its 32-bit equivalent does, and the pc moves by 2. -/
def Obligations.CompactResults : Prop :=
  ∀ (s s1 s2 t : State) (d q : SReg) (e b : Fin 8) (i h : BitVec 6) (o : BitVec 5) (o8 : BitVec 8) (j : BitVec 11) (x y : B64) (l : Nat),
    (Writes s d (i.signExtend 64) t → exec (.cLi d i) s = .next (t.retire 2)) ∧
    exec .cNop s = .next (s.retire 2) ∧
    (Reads s d x s1 →
      (Writes s1 d (x + i.signExtend 64) t → exec (.cAddi d i) s = .next (t.retire 2)) ∧
      (Writes s1 d (x <<< h.toNat) t → exec (.cSlli d h) s = .next (t.retire 2)) ∧
      (Writes s1 d (x &&& i.signExtend 64) t → exec (.cAndi d i) s = .next (t.retire 2)) ∧
      (Reads s1 q y s2 → Writes s2 d (x + y) t → exec (.cAdd d q) s = .next (t.retire 2)) ∧
      (Reads s1 q y s2 → Writes s2 d (x - y) t → exec (.cSub d q) s = .next (t.retire 2))) ∧
    (Reads s q x s1 → Writes s1 d x t → exec (.cMv d q) s = .next (t.retire 2)) ∧
    (Reads s (cset b) x s1 → AccessAt s s1 .read 8 (x + (o.setWidth 64 <<< 3)) l →
      let u := (s1.translated (x + (o.setWidth 64 <<< 3))).loaded l 8
      Writes u.1 (cset e) (BitVec.ofNat 64 u.2) t → exec (.cLd e b o) s = .next (t.retire 2)) ∧
    (Reads s (cset b) x s1 → Reads s1 (cset e) y s2 → (x + (o.setWidth 64 <<< 3)).toNat % 8 = 0 →
      s2.route s2.curCore s2.me.ctx s2.me.sysMode .write (x + (o.setWidth 64 <<< 3)) = .loc l →
      ((spadCore l).isSome = true → (s2.core s2.curCore).ksq = []) →
      exec (.cSt e b o) s = .next (((s2.translated (x + (o.setWidth 64 <<< 3))).stored l (leBytes 8 y.toNat)).retire 2)) ∧
    (Reads s (cset b) x s1 →
      exec (.cBeqz b o8) s = .next (s1.jumped (if x = 0 then s1.me.pc + (o8.signExtend 64 <<< 1) else s1.me.pc + 2)) ∧
      exec (.cBnez b o8) s = .next (s1.jumped (if x ≠ 0 then s1.me.pc + (o8.signExtend 64 <<< 1) else s1.me.pc + 2))) ∧
    exec (.cJ j) s = .next (s.jumped (s.me.pc + (j.signExtend 64 <<< 1)))

/-! ## Tasks, kin sets, bins, ports -/

/-- R147: a message of the current thread to the place `dw` names leaves: it joins Drift behind those on their way, and the
thread's message number rises.
R147, R248: a destination that is no core, or a reserved bit set, is PROT with the word and nothing is sent; a `send` or `sendv` that
its pair's bounce holds back makes the thread wait. -/
def Obligations.SendResults : Prop :=
  (∀ (s s1 s2 : State) (a b : SReg) (v : VReg) (n : BitVec 4) (dw : B64) (w : B512) (pay : List B64),
     let leaves (i : Instr) (pay : List B64) : Prop :=
       dw.toNat % 2 ^ 17 < nCores → dw.toNat < 2 ^ 27 → s2.sendBlocked s2.cur (dw.toNat % 2 ^ 17) (dw.toNat / 2 ^ 17 % 16) = false →
       ∃ t m, exec i s = .next t ∧ t.drift = s2.drift ++ [m] ∧ m.src = s2.curCore ∧ m.pair = s2.cur ∧ m.ctx = s2.me.ctx ∧
         m.dest = dw.toNat % 2 ^ 17 ∧ m.chan = dw.toNat / 2 ^ 17 % 16 ∧ m.cls = dw.toNat / 2 ^ 21 % 64 ∧ m.pay = pay ∧
         m.no = s2.me.msgNo ∧ m.launch = none ∧ t.me.msgNo = (s2.me.msgNo + 1) % 64 ∧ t.me.pc = s2.me.pc + 4 ∧
         t.me.s = s2.me.s ∧ t.mem = s2.mem
     (Reads s a dw s1 → ReadsRun s1 b.val n.toNat pay s2 → leaves (.send a b n) pay) ∧
     (Reads s a dw s1 → ReadsV s1 v w s2 →
       leaves (.sendv a v n) ((List.range n.toNat).map (fun i => (w >>> (64 * i)).setWidth 64)))) ∧
  (∀ (s s1 s2 : State) (a b : SReg) (v : VReg) (n : BitVec 4) (dw : B64) (w : B512) (pay : List B64), Reads s a dw s1 →
     let stops (i : Instr) : Prop :=
       (nCores ≤ dw.toNat % 2 ^ 17 ∨ 2 ^ 27 ≤ dw.toNat → s.hasHandler → exec i s = .next (s.entered 4 dw s.me.pc false)) ∧
       (dw.toNat % 2 ^ 17 < nCores → dw.toNat < 2 ^ 27 → s2.sendBlocked s2.cur (dw.toNat % 2 ^ 17) (dw.toNat / 2 ^ 17 % 16) = true →
         exec i s = .next (s.stallCur (.backPressure (dw.toNat % 2 ^ 17) (dw.toNat / 2 ^ 17 % 16))))
     (ReadsRun s1 b.val n.toNat pay s2 → stops (.send a b n)) ∧ (ReadsV s1 v w s2 → stops (.sendv a v n)))

/-- R148, R149, R150, R243, R245: `done` leaves the slot, which then takes a message that waits; `yield` ranks the slot behind its core's
other Ready slots; the waits pass when their condition holds and else stall, and `waitev` gives what held as it woke; `trig` counts once for
the task's launch; `chbind` sets a channel's priority and HOLD, and R247's entries fill while the channel is held or bound. -/
def Obligations.TaskResults : Prop :=
  (∀ s : State, (let u := s.endTask s.cur false
    exec .taskDone s = .next (u.startAll s.curCore) ∧ exec .cDone s = .next (u.startAll s.curCore) ∧
    (u.thread s.cur).st = .free ∧ (u.thread s.cur).act = s.me.act + 1 ∧ (u.thread s.cur).s = {} ∧ (u.thread s.cur).ports = {})) ∧
  (∀ s : State, ∃ t t', exec .yield s = .next t ∧ exec .cYield s = .next t' ∧ t.me.pc = s.me.pc + 4 ∧ t'.me.pc = s.me.pc + 2 ∧
    t'.me.behind = t.me.behind ∧
    (∀ k, k ∈ t.me.behind ↔ k < 4 ∧ tidOf s.curCore k ≠ s.cur ∧
      ((s.thread (tidOf s.curCore k)).st = .ready ∨ (s.thread (tidOf s.curCore k)).st = .running))) ∧
  (∀ (s t : State) (k : KReg) (n : BitVec 8) (n7 : BitVec 7) (a : SReg),
    let cnt := s.me.kc.get 0 k.val
    (cnt ≤ n.toNat → exec (.waitk k n 0) s = .next (s.retire 4)) ∧
    (cnt ≤ n7.toNat → exec (.cWaitk k n7) s = .next (s.retire 2)) ∧
    (cnt ≤ n.toNat → a ≠ 0 → Writes (s.modThread s.cur (fun t => { t with ke := t.ke.put k.val false })) a
        (BitVec.ofNat 64 (cnt + (if s.me.ke.get false k.val then 256 else 0))) t → exec (.waitk k n a) s = .next (t.retire 4)) ∧
    (n.toNat < cnt → exec (.waitk k n a) s = .next (s.stallCur (.counter k.val n.toNat)))) ∧
  (∀ s : State, (s.depsMet s.cur = true → exec .waitdep s = .next (s.retire 4)) ∧
    (s.depsMet s.cur = false → exec .waitdep s = .next (s.stallCur .waitdep))) ∧
  (∀ s : State, (s.me.launch = none ∨ s.me.trig = true → exec .trig s = .next (s.retire 4)) ∧
    (∀ lid, s.me.launch = some lid → s.me.trig = false →
      exec .trig s = .next (((s.launchTrig lid s.cur).modThread s.cur (fun t => { t with trig := true })).retire 4))) ∧
  (∀ (s s1 t : State) (d a : SReg) (m v w : B64), Reads s a m s1 → m.toNat < 2 ^ 32 →
    (s1.me.phase = .answered v w → Writes s1 d v t → exec (.waitev d a) s = .next (t.retire 4)) ∧
    (∀ r : Nat, s1.me.phase = .idle → r < 2 ^ 32 → (∀ i < 32, r.testBit i = (m.toNat.testBit i &&
        (if i < 16 then !((s1.core s1.curCore).waiting i).isEmpty else s1.me.kc.get 0 (i - 16) == 0))) →
      (m = 0 ∨ r ≠ 0 → Writes s1 d (BitVec.ofNat 64 r) t → exec (.waitev d a) s = .next (t.retire 4)) ∧
      (m ≠ 0 → r = 0 → exec (.waitev d a) s = .next (s.stallCur (.waitev m.toNat))))) ∧
  (∀ (s s1 s2 : State) (a b : SReg) (ch v : B64), Reads s a ch s1 → Reads s1 b v s2 →
    (ch.toNat < 16 → v &&& 0x107#64 = v →
      let u := s2.modCore s2.curCore (fun c => { c with chSet := c.chSet.put ch.toNat v.toNat })
      (u.chanHeld u.curCore ch.toNat = true → exec (.chbind a b) s = .next ((u.modCore u.curCore (fun c =>
        { c with entries := c.entries.put ch.toNat ((c.waiting ch.toNat).take 8),
                 spill := c.spill.put ch.toNat ((c.waiting ch.toNat).drop 8) })).retire 4)) ∧
      (u.chanHeld u.curCore ch.toNat = false → exec (.chbind a b) s = .next (u.retire 4))) ∧
    (16 ≤ ch.toNat → s.hasHandler → exec (.chbind a b) s = .next (s.entered 1 ch s.me.pc false)))

/-- R16, R18, R19, R246, R248: a message that meets a Free slot of its context's core starts its class's task there: pc, data
pointer, stack, header and payload in their registers, everything else R18 names at its start value; tiles that jobs of an
earlier task still use are left.
R147, R160, R247, R248: where no slot starts it: on a held channel it waits in an entry while one is free, on another it joins the spill queue; a full
queue bounces it to its source's resend buffer and its pair is recorded, and while that buffer is full too it stays on its way; one
of a class without an entry is refused, with an error record (R329). The model's choices: that it stays on its way (log entry 45); that a message
of a class without an entry is refused as it arrives, on every channel, whatever HOLD and however many slots are Free, but behind a full queue,
which bounces a message before its class is looked at (log entry 18). -/
def Obligations.MessageStartsTask : Prop :=
  (∀ (s : State) (tid : Nat) (m : Msg) (c : Ctx) (e : ClassEntry),
    s.freeSlot m.dest = some tid → s.holds m.dest m.ctx = true → s.ctx? m.ctx = some c → c.classes.get ⟨0, 0⟩ m.cls = e →
    e.entry ≠ 0 → e.entry.getLsbD 0 = false → m.launch = none → m.chan < 16 → s.chanHeld m.dest m.chan = false →
    (∀ ch, ((s.core m.dest).waiting ch) = []) → (s.core m.dest).bounces = [] →
    let started (t : State) : Prop :=
      let x := t.thread tid
      x.st = .ready ∧ x.ctx = m.ctx ∧ x.sysMode = c.sys ∧ x.pc = e.entry ∧ x.act = (s.thread tid).act ∧
      x.prio = (s.core m.dest).chSet.get 0 m.chan % 8 ∧ x.s.get 0 2 = BitVec.ofNat 64 (0xFFFFFFFFF9000 + slotOf tid * 0x1000) ∧
      x.s.get 0 3 = e.data ∧
      x.s.get 0 9 = BitVec.ofNat 64 (m.src + 2 ^ 17 * s.fleet.devId + 2 ^ 27 * m.cls + 2 ^ 33 * m.pay.length) ∧
      (∀ i (h : i < m.pay.length), x.s.get 0 (10 + i) = m.pay[i]) ∧
      (∀ r, r ≠ 2 → r ≠ 3 → r ≠ 9 → (r < 10 ∨ 10 + m.pay.length ≤ r) → x.s.get 0 r = 0) ∧
      x.v = {} ∧ x.m = {} ∧ x.kc = {} ∧ x.ke = {} ∧ x.w = {} ∧ x.d = {} ∧ x.ports = {} ∧
      x.tilesOld = (s.thread tid).tilesOld ∧ x.tiles = (if (s.thread tid).tilesOld then (s.thread tid).tiles else {}) ∧ x.fflags = 0 ∧ x.vrnd = 0 ∧ x.srseed = 0 ∧
      x.gen = 0x9E3779B97F4A7C15#64 ∧ x.wshape = 0x2002#16 ∧ x.mfmt = 0x66#10 ∧ x.mkReg = 32 ∧ x.mpitcha = 128 ∧ x.mpitchb = 128 ∧
      x.msca = 0 ∧ x.mscb = 0 ∧ x.mscn = 0 ∧ x.hashk = 0 ∧ x.ackcnt = 0 ∧ x.tcause = 0 ∧ x.tval = 0 ∧ x.tpc = 0 ∧ x.kin = none
    (∀ n, s.drift[n]? = some m → s.mayArrive n = true →
      ∃ t, exec (.messageArrival n) s = .next t ∧ started t ∧ t.drift = s.drift.eraseIdx n) ∧
    (∃ t, exec (.spilledMessageStart m.dest)
        (s.modCore m.dest (fun k => { k with spill := k.spill.put m.chan [m] })) = .next t ∧ started t) ∧
    (∀ src, c.saved = false → (s.core src).resend = [m] →
      ∃ t, exec (.bouncedMessageResend (some src)) s = .next t ∧ started t ∧ (t.core src).resend = [])) ∧
  (∀ (s : State) (n : Nat) (m : Msg) (c : Ctx), s.drift[n]? = some m → s.mayArrive n = true → s.holds m.dest m.ctx = true →
    s.ctx? m.ctx = some c → m.launch = none → (s.core m.dest).bounces = [] →
    let k := s.core m.dest
    let went (t : State) : Prop := exec (.messageArrival n) s = .next t ∧ t.drift = s.drift.eraseIdx n ∧ t.threads = s.threads
    ((c.classes.get ⟨0, 0⟩ m.cls).entry ≠ 0 → (k.spill.get [] m.chan).length < 16 →
      (s.chanHeld m.dest m.chan = true → k.spill.get [] m.chan = [] → (k.entries.get [] m.chan).length < 8 →
        ∃ t, went t ∧ (t.core m.dest).entries.get [] m.chan = k.entries.get [] m.chan ++ [m] ∧ (t.core m.dest).spill = k.spill) ∧
      (s.chanHeld m.dest m.chan = false ∨ k.spill.get [] m.chan ≠ [] ∨ 8 ≤ (k.entries.get [] m.chan).length → s.freeSlot m.dest = none →
        ∃ t, went t ∧ (t.core m.dest).entries = k.entries ∧ (t.core m.dest).spill.get [] m.chan = k.spill.get [] m.chan ++ [m])) ∧
    (16 ≤ (k.spill.get [] m.chan).length →
      ((s.core m.src).resend.length < 16 → ∃ t, went t ∧ (t.core m.src).resend = (s.core m.src).resend ++ [m] ∧
        (⟨m.pair, m.chan, m.no⟩ : Bounce) ∈ (t.core m.dest).bounces ∧ (t.core m.dest).spill = k.spill) ∧
      (16 ≤ (s.core m.src).resend.length → exec (.messageArrival n) s = .next s)) ∧
    ((c.classes.get ⟨0, 0⟩ m.cls).entry = 0 → (k.spill.get [] m.chan).length < 16 →
      ∃ t, went t ∧ (t.core m.dest).entries = k.entries ∧ (t.core m.dest).spill = k.spill ∧
        (s.host.almbase.getLsbD 0 = true → s.almUsed ≠ 65536 → s.upd = [] → t.host.head = (s.host.head + 1) % 2 ^ 32 ∧
          readBytes t.mem (s.almEntry s.host.head) 32 = leBytes 8 (0x5F + 2 ^ 8 * 2 + 2 ^ 32 * (m.ctx % 2 ^ 16)) ++ leBytes 8 m.dest ++ leBytes 8 0 ++
            leBytes 8 (m.cls + 2 ^ 6 + 2 ^ 8 * m.src + 2 ^ 25 * s.fleet.devId))))

/-- R151, R152: `kjoin` and `kleave` send their operations to the set's keeper; `kbar` of a member sends its arrival and
waits, and passes once the release is there, its operand taken as it arrives; `kcount` asks the keeper and then writes its answer, its
operand taken as it retires (the model's choice, log entry 45); an id over 4095 and a
`kbar` outside the set are ILLEGAL.
R152, R253: at the keeper, in the order of each thread: a thread joins a set with no arrivals at once; the arrival that
completes a phase releases every member and starts the next phase; `kcount` reads phase, arrivals and members. The release and
the answer reach the thread that waits. -/
def Obligations.KinResults : Prop :=
  (∀ (s s1 t' : State) (d a : SReg) (x v w : B64), Reads s a x s1 →
     (4096 ≤ x.toNat → s.hasHandler → exec (.kjoin a) s = .next (s.entered 1 x s.me.pc false) ∧
       exec (.kleave a) s = .next (s.entered 1 x s.me.pc false) ∧
       (s.me.phase = .idle → exec (.kbar a) s = .next (s.entered 1 x s.me.pc false)) ∧
       exec (.kcount d a) s = .next (s.entered 1 x s.me.pc false)) ∧
     (x.toNat < 4096 →
       let op (set : Nat) (k : KinOpK) : KinOp := ⟨s1.cur, s1.me.act, kinKey s1.me.ctx set, k⟩
       (s1.me.kin = some x.toNat → exec (.kjoin a) s = .next (s1.retire 4)) ∧
       (s1.me.kin = none → ∃ t, exec (.kjoin a) s = .next t ∧ t.kinOps = s1.kinOps ++ [op x.toNat .join] ∧
         t.me.kin = some x.toNat ∧ t.me.pc = s1.me.pc + 4) ∧
       (∀ old, s1.me.kin = some old → old ≠ x.toNat → ∃ t, exec (.kjoin a) s = .next t ∧
         t.kinOps = s1.kinOps ++ [op old .leave, op x.toNat .join] ∧ t.me.kin = some x.toNat ∧ t.me.pc = s1.me.pc + 4) ∧
       (s1.me.kin ≠ some x.toNat → exec (.kleave a) s = .next (s1.retire 4)) ∧
       (s1.me.kin = some x.toNat → ∃ t, exec (.kleave a) s = .next t ∧ t.kinOps = s1.kinOps ++ [op x.toNat .leave] ∧
         t.me.kin = none ∧ t.me.pc = s1.me.pc + 4) ∧
       (s1.me.kin ≠ some x.toNat → s.me.phase = .idle → s.hasHandler → exec (.kbar a) s = .next (s.entered 1 x s.me.pc false)) ∧
       (s1.me.kin = some x.toNat → s.me.phase = .idle → ∃ t, exec (.kbar a) s = .next t ∧
         t.kinOps = s1.kinOps ++ [op x.toNat .bar] ∧ t.me.st = .stalled .kbar ∧ t.me.phase = .sent ∧ t.me.pc = s1.me.pc) ∧
       (s.me.phase = .idle → ∃ t, exec (.kcount d a) s = .next t ∧
         t.kinOps = s.kinOps ++ [⟨s.cur, s.me.act, kinKey s.me.ctx x.toNat, .count⟩] ∧ t.me.st = .stalled .kcount ∧
         t.me.phase = .sent ∧ t.me.pc = s.me.pc) ∧
       (s.me.phase = .answered v w → Writes s1 d v t' → exec (.kcount d a) s = .next (t'.retire 4)))) ∧
  (∀ (s : State) (a : SReg), s.hasAnswer → exec (.kbar a) s = .next ((s.modThread s.cur (fun t => { t with kinArr := false })).retire 4)) ∧
  ((∀ (s : State) (n : Nat) (o : KinOp), s.kinOps[n]? = some o → (∀ p ∈ s.kinOps.take n, p.tid ≠ o.tid) →
     let k := s.kin.get (KinSet.mk [] [] [] [] 0) o.set
     ∃ t, exec (.kinOpAtKeeper n) s = .next t ∧ t.kinOps = s.kinOps.eraseIdx n ∧
       (o.kind = .join → k.arr = [] → o.tid ∉ k.mem → o.tid ∉ k.pend →
         t.kin.get (KinSet.mk [] [] [] [] 0) o.set = { k with mem := k.mem ++ [o.tid] } ∧ t.kinRel = s.kinRel) ∧
       (o.kind = .bar → o.tid ∈ k.mem → k.arr.length + 1 = k.mem.length → k.pend = [] → k.pendArr = [] →
         t.kin.get (KinSet.mk [] [] [] [] 0) o.set = { k with arr := [], phase := k.phase + 1 } ∧
         t.kinRel = s.kinRel ++ k.arr ++ [(o.tid, o.act)]) ∧
       (o.kind = .bar → o.tid ∈ k.mem → k.arr.length + 1 < k.mem.length →
         t.kin.get (KinSet.mk [] [] [] [] 0) o.set = { k with arr := k.arr ++ [(o.tid, o.act)] } ∧ t.kinRel = s.kinRel) ∧
       (o.kind = .count → t.kinAns = s.kinAns ++ [⟨o.tid, o.act,
         BitVec.ofNat 64 (k.phase % 2 ^ 20 * 2 ^ 40 + k.arr.length % 2 ^ 20 * 2 ^ 20 + k.mem.length % 2 ^ 20)⟩])) ∧
   (∀ (s : State) (n tid act : Nat), s.kinRel[n]? = some (tid, act) → (s.thread tid).act = act → (s.thread tid).phase = .sent →
     ∃ t, exec (.kinReleaseArrival n) s = .next t ∧ (t.thread tid).phase = .answered 0 0 ∧ t.kinRel = s.kinRel.eraseIdx n) ∧
   (∀ (s : State) (n : Nat) (q : KinAns), s.kinAns[n]? = some q → (s.thread q.tid).act = q.act → (s.thread q.tid).phase = .sent →
     ∃ t, exec (.kcountAnswer n) s = .next t ∧ (t.thread q.tid).phase = .answered q.val 0 ∧ t.kinAns = s.kinAns.eraseIdx n))

/-- R153, R154: `ksend` hands its active lanes' keys and values, with the table's place, to the bin unit, and the mask register is pending; a
table outside the data area is PROT. Filing, which a stretch holds up (R257), ends the wait: the refused lanes come to the mask of a task that
still runs. Lanes are filed one after another; with nothing pending, one finds its bin's header in memory: while HELD is below CAP and the
record fits below 0x3_0000 the pair is written behind the records held and HELD rises, else LOST rises and the lane is refused; COUNT 0
refuses every lane and touches nothing. A BINBASE or a DATA that is no multiple of 16, as R153 has them, is used as it stands: the model's
choice, log entry 45. -/
def Obligations.BinResults : Prop :=
  (∀ (s s1 s2 s3 : State) (ty : Ty) (m d : MReg) (a b : VReg) (va vb : B512) (mk : B64), ReadsV s a va s1 → ReadsV s1 b vb s2 →
    ReadsM s2 m mk s3 → (d = 0 ∨ plainM s3 d) →
    let c := s3.core s3.curCore
    (c.binbase.toNat + 16 * (c.bincnt.toNat % 2 ^ 16) ≤ 0x30000 → ∃ t q, exec (.ksend ty m d a b) s = .next t ∧
      (t.core s3.curCore).ksq = c.ksq ++ [q] ∧ q.tid = s3.cur ∧ q.d = d.val ∧ q.base = c.binbase.toNat ∧ q.cnt = c.bincnt.toNat ∧
      q.hashk = s3.me.hashk ∧
      q.lanes = ((List.range ty.lanes).filter (fun i => mk.getLsbD i)).map (fun i => (i, laneSx ty va i, laneSx ty vb i)) ∧
      (d ≠ 0 → t.me.pend = s3.me.pend ++ [⟨.m, d.val, q.op⟩]) ∧ t.me.pc = s3.me.pc + 4 ∧ t.mem = s3.mem) ∧
    (0x30000 < c.binbase.toNat + 16 * (c.bincnt.toNat % 2 ^ 16) → s.hasHandler →
      exec (.ksend ty m d a b) s = .next (s.entered 4 0xFFFFFFFFF0000#64 s.me.pc false))) ∧
  (∀ (s : State) (core : Nat) (r : KsReq) (rs : List KsReq), (s.core core).ksq = r :: rs → (s.thread r.tid).act = r.act →
    (s.clockless core = true → exec (.ksendFilingDone core) s = .next s) ∧ (s.clockless core = false → ∃ t, exec (.ksendFilingDone core) s = .next t ∧ (t.core core).ksq = rs ∧
      (r.d ≠ 0 → (t.thread r.tid).m.get 0 r.d = (s.fileAll r).2) ∧ (∀ p ∈ (t.thread r.tid).pend, p.op ≠ r.op) ∧ t.mem = (s.fileAll r).1.mem)) ∧
  (∀ (hk key : B64) (cnt : Nat), binOf hk cnt key =
    (if cnt.testBit 22 then min ((key >>> (cnt / 2 ^ 16 % 64)).toNat) (cnt % 2 ^ 16 - 1)
     else ((key ^^^ hk) * 0x9E3779B97F4A7C15#64).toNat / 2 ^ 32 % (cnt % 2 ^ 16))) ∧
  ((∀ (s : State) (r : KsReq), r.rest = [] → r.mask = 0 → r.ahead = [] → (r.lanes = [] → s.fileAll r = (s, 0)) ∧
     (∀ ls x, r.lanes = ls ++ [x] →
       let a := s.fileAll { r with lanes := ls }
       let b := a.1.fileAll { r with lanes := [x] }
       s.fileAll r = (b.1, a.2 ||| b.2))) ∧
   (∀ (s : State) (r : KsReq) (i : Nat) (key val : B64), r.lanes = [(i, key, val)] → r.rest = [] → r.mask = 0 → r.ahead = [] →
     (r.cnt % 2 ^ 16 = 0 → s.fileAll r = (s, 1#64 <<< i)) ∧
     (r.cnt % 2 ^ 16 ≠ 0 → r.base + 16 * (r.cnt % 2 ^ 16) ≤ 0x30000 → s.stores = [] → s.upd = [] → s.fleet.echo = {} →
       let head := spadLoc (coreOf r.tid) (r.base + 16 * binOf r.hashk r.cnt key)
       let field (k : Nat) : Nat := leNat (readBytes s.mem (head + 4 * k) 4)
       let held := field 0
       let data := field 2
       (held < field 1 ∧ data + 16 * (held + 1) ≤ 0x30000 → s.fileAll r =
         ({ s with mem := writeBytes (writeBytes s.mem (spadLoc (coreOf r.tid) (data + 16 * held)) (leBytes 8 key.toNat ++ leBytes 8 val.toNat))
                     head (leBytes 4 (held + 1)) }, 0)) ∧
       (¬ (held < field 1 ∧ data + 16 * (held + 1) ≤ 0x30000) → s.fileAll r =
         ({ s with mem := writeBytes s.mem (head + 12) (leBytes 4 ((field 3 + 1) % 2 ^ 32)) }, 1#64 <<< i)))))

/-- R155 to R158, R161, R162: binding and unbinding. A stream record of the data area is read and the register bound to it; a link of a free
or own direction and a channel are bound; a register that is bound already, or a link that another slot has, is a PORT trap of reason 5.
`unbind`, once the pushed elements of a write stream are written, leaves the register plain.
R157, R160, R161, R252: `skip` moves a read stream on, past its end traps with reason 2, and takes entries of a link or a channel, waiting for
those it lacks (that one that waits drops the entries it has and keeps its count and its argument, and that what is discarded of a link is not
forwarded whatever its forward flag: the model's choices, log entries 33 and 45); a visit of the cart reads the next element of a direct read
stream ahead, or writes the oldest pushed element of a direct write stream to its address. -/
def Obligations.PortResults : Prop :=
  ((∀ (s s1 : State) (p : PortReg) (a : SReg) (va : B64) (off : Nat), Reads s a va s1 →
     s1.me.ports.get? (PortReg.key p) = none → ownSpad s1.curCore va = some off → off % 64 = 0 → off + 64 ≤ 0x30000 →
     (s1.core s1.curCore).ksq = [] →
     let u := s1.prepRead s1.cur (spadLoc s1.curCore off) 64
     let r := u.readFor u.cur (spadLoc u.curCore off) 64
     mainOk r = true →
     (streamIndirect r = false → ∃ t q, exec (.bindStream p a) s = .next t ∧ t.me.ports.get? (PortReg.key p) = some q ∧
       q.kind = (if streamDir r then .writeStream else .readStream) ∧ q.recd = r ∧ q.idx = [] ∧ q.next = 0 ∧ q.fetched = 0 ∧ q.entries = [] ∧
       q.fault = none ∧ t.me.pc = s1.me.pc + 4 ∧ t.me.s = s1.me.s) ∧
     (∀ off2, streamIndirect r = true → ownSpad u.curCore (BitVec.ofNat 64 (dwordAt r 6)) = some off2 → off2 % 64 = 0 →
       off2 + 64 ≤ 0x30000 → (u.core u.curCore).ksq = [] →
       let u2 := u.prepRead u.cur (spadLoc u.curCore off2) 64
       let x := u2.readFor u2.cur (spadLoc u.curCore off2) 64
       indexOk x = true → ∃ t q, exec (.bindStream p a) s = .next t ∧ t.me.ports.get? (PortReg.key p) = some q ∧ q.recd = r ∧ q.idx = x ∧
         q.next = 0 ∧ q.entries = [])) ∧
   (∀ (s : State) (p : PortReg) (r : Dir) (f : Bool), s.me.ports.get? (PortReg.key p) = none →
     ((s.core s.curCore).linkOwn.get? (Dir.code r) = none ∨ (s.core s.curCore).linkOwn.get? (Dir.code r) = some s.cur) →
     ∃ t q, exec (.bindLink p r f) s = .next t ∧ t.me.ports.get? (PortReg.key p) = some q ∧ q.kind = .link r f ∧
       (t.core s.curCore).linkOwn.get? (Dir.code r) = some s.cur ∧ t.me.pc = s.me.pc + 4) ∧
   (∀ (s : State) (p : PortReg) (r : Dir) (f : Bool) (o : Nat), s.me.ports.get? (PortReg.key p) = none →
     (s.core s.curCore).linkOwn.get? (Dir.code r) = some o → o ≠ s.cur → s.hasHandler →
     exec (.bindLink p r f) s = .next (s.entered 0x0B (portVal 5 (PortReg.key p) 0) s.me.pc false)) ∧
   (∀ (s : State) (p : PortReg) (h : Fin 16), s.me.ports.get? (PortReg.key p) = none →
     ∃ t q, exec (.bindChan p h) s = .next t ∧ t.me.ports.get? (PortReg.key p) = some q ∧ q.kind = .chan h.val ∧
       (t.core s.curCore).waiting h.val = (s.core s.curCore).waiting h.val ∧ t.me.pc = s.me.pc + 4) ∧
   (∀ (s : State) (p : PortReg) (q : Port) (r : Dir) (f : Bool) (h : Fin 16), s.me.ports.get? (PortReg.key p) = some q → s.hasHandler →
     exec (.bindLink p r f) s = .next (s.entered 0x0B (portVal 5 (PortReg.key p) 0) s.me.pc false) ∧
     exec (.bindChan p h) s = .next (s.entered 0x0B (portVal 5 (PortReg.key p) 0) s.me.pc false)) ∧
   (∀ (s : State) (p : PortReg), s.me.ports.get? (PortReg.key p) = none → s.hasHandler →
     exec (.unbind p) s = .next (s.entered 0x0B (portVal 5 (PortReg.key p) 0) s.me.pc false) ∧
     exec (.sdrain p) s = .next (s.entered 0x0B (portVal 5 (PortReg.key p) 0) s.me.pc false)) ∧
   (∀ (s : State) (p : PortReg) (q : Port), s.me.ports.get? (PortReg.key p) = some q →
     (q.kind = .writeStream → q.fault = none ∧ q.entries = []) →
     (∃ t, exec (.unbind p) s = .next t ∧ t.me.ports.get? (PortReg.key p) = none ∧ t.me.pc = s.me.pc + 4 ∧ t.me.s = s.me.s ∧ t.me.v = s.me.v) ∧
     exec (.sdrain p) s = .next (s.retire 4)) ∧
   (∀ (s : State) (p : PortReg) (q : Port), s.me.ports.get? (PortReg.key p) = some q → q.kind = .writeStream → q.fault = none →
     q.entries ≠ [] → exec (.unbind p) s = .next (s.stallCur (.sdrain (PortReg.key p))) ∧
       exec (.sdrain p) s = .next (s.stallCur (.sdrain (PortReg.key p))))) ∧
  ((∀ (s s1 : State) (p : PortReg) (q0 q : Port) (a : SReg) (x : B64), s.me.ports.get? (PortReg.key p) = some q0 → q0.kind ≠ .writeStream →
     (s.me.skipArg = none ∧ Reads s a x s1) ∨ (s.me.skipArg = some x ∧ s1 = s) → s1.me.ports.get? (PortReg.key p) = some q →
     (q.kind = .readStream → q.next + x.toNat ≤ streamTotal q.recd →
       let moved : Port :=
         { q with next := q.next + x.toNat, fetched := max q.fetched (q.next + x.toNat),
                  entries := q.entries.filter (fun e => decide (q.next + x.toNat ≤ e.n)) }
       exec (.skipPort p a) s = .next ((s1.modThread s1.cur (fun t => { t with ports := t.ports.put (PortReg.key p) moved })).retire 4)) ∧
     (q.kind = .readStream → streamTotal q.recd < q.next + x.toNat → s.hasHandler →
       exec (.skipPort p a) s = .next (s.entered 0x0B (portVal 2 (PortReg.key p) 0) s.me.pc false)) ∧
     (∀ r f, q.kind = .link r f →
       let line := (s1.core s1.curCore).links.get [] (Dir.code r)
       let want := x.toNat - s.me.skipped
       (want ≤ line.length → ∃ t, exec (.skipPort p a) s = .next t ∧
         (t.core s1.curCore).links.get [] (Dir.code r) = line.drop want ∧ t.me.pc = s1.me.pc + 4) ∧
       (line.length < want → ∃ t, exec (.skipPort p a) s = .next t ∧ (t.core s1.curCore).links.get [] (Dir.code r) = [] ∧
         t.me.st = .stalled (.pop (PortReg.key p)) ∧ t.me.skipped = s.me.skipped + line.length ∧ t.me.skipArg = some x ∧ t.me.pc = s1.me.pc)) ∧
     (∀ h : Fin 16, q.kind = .chan h.val → s1.wordsHeld s1.cur h.val = false →
       let line := (s1.core s1.curCore).waiting h.val
       let words (ms : List Msg) : List B64 := ms.flatMap (·.pay)
       let want := x.toNat - s.me.skipped
       let has := if PortReg.key p < 32 then line.length else (words line).length
       (want ≤ has → ∃ t, exec (.skipPort p a) s = .next t ∧ t.me.pc = s1.me.pc + 4 ∧
         (PortReg.key p < 32 → (t.core s1.curCore).waiting h.val = line.drop want) ∧
         (32 ≤ PortReg.key p → words ((t.core s1.curCore).waiting h.val) = (words line).drop want)) ∧
       (has < want → ∃ t, exec (.skipPort p a) s = .next t ∧ words ((t.core s1.curCore).waiting h.val) = [] ∧
         t.me.st = .stalled (.pop (PortReg.key p)) ∧ t.me.skipped = s.me.skipped + has ∧ t.me.skipArg = some x ∧ t.me.pc = s1.me.pc))) ∧
   (∀ (s : State) (tid key l : Nat) (q : Port), (s.thread tid).ports.get? key = some q → q.kind = .readStream → q.ahead = [] → q.entries.length < 8 →
     q.fetched < streamTotal q.recd → s.visibleUpTo tid q.after = true → streamIndirect q.recd = false →
     s.croftStopped (croftOf (coreOf tid)) = false → s.cartPick (croftOf (coreOf tid)) = some (coreOf tid) →
     portBytes key ≤ s.cartBudget (coreOf tid) →
     s.streamLoc (coreOf tid) (s.thread tid).ctx q.sys .read (portBytes key) (streamAddr q.recd q.fetched) = some l →
     s.stores = [] → s.upd = [] → spillCore l (portBytes key) = none →
     ∃ t, exec (.streamRefill tid key) s = .next t ∧ (t.thread tid).ports.get? key = some
       { q with fetched := q.fetched + 1,
                entries := q.entries ++ [{ n := q.fetched, val := BitVec.ofNat 512 (leNat (readBytes s.mem l (portBytes key))) }] } ∧
       (t.croft (croftOf (coreOf tid))).cartAt = coreOf tid % 8 ∧ t.mem = s.mem) ∧
   (∀ (s : State) (tid key l : Nat) (q : Port) (e : PEntry) (es : List PEntry), (s.thread tid).ports.get? key = some q →
     q.kind = .writeStream → q.fault = none → q.part = none → q.entries = e :: es → (s.core (coreOf tid)).orphans = [] → streamIndirect q.recd = false →
     s.croftStopped (croftOf (coreOf tid)) = false → s.cartPick (croftOf (coreOf tid)) = some (coreOf tid) →
     portBytes key ≤ s.cartBudget (coreOf tid) →
     s.streamLoc (coreOf tid) (s.thread tid).ctx q.sys .write (portBytes key) (streamAddr q.recd e.n) = some l →
     s.stores = [] → s.upd = [] → s.fleet.echo = {} → spillCore l (portBytes key) = none →
     ∃ t, exec (.streamWriteback tid key) s = .next t ∧ (t.thread tid).ports.get? key = some { q with entries := es } ∧
       readBytes t.mem l (portBytes key) = leBytes (portBytes key) e.val.toNat ∧
       (∀ x, x < l ∨ l + portBytes key ≤ x → readByte t.mem x = readByte s.mem x)))

/-! ## The fabric -/

/-- R180, R181, R183, R184, R186, R190: a remote store, a store with a new token and a remote atomic leave with their numbered
packet and raise ACKCNT; the thread goes on; a store whose FLOOR would lie more than 63 below its number waits (R289; that it waits in the
thread is the model's choice, log entry 28).
The slot of a new token is some slot of the core's reserve (R299).
R180, R184, R187, R188: `rld` sends its read and waits, and writes value and status once they are there; `rmcast` sends its one to
eight dwords to the members of a lit path of its context.
R181: an operation to a device that no path of the context reaches: the `.q` form writes UNREACHABLE at once, the plain form
traps with REMOTE; an address outside the remote windows is PROT. -/
def Obligations.RemoteResults : Prop :=
  (∀ (s s0 s1 s2 : State) (q o : Bool) (d a b : SReg) (va v c : B64) (w : Nat × Nat × Nat),
     (∀ tk, LateFree s (if q then [d] else []) → Reads s a va s1 → Reads s1 b v s2 → NumberedReady s2 va 8 w →
       (∀ x ∈ toksOf s2 tk, x ≠ 0 → (s2.tok (tokSlotOf x)).st ≠ .void) →
       ∃ t, exec (.rst q o tk d a b) s = .next t ∧
         RemoteLeft s2 t w q d va (.write (leBytes 8 v.toNat)) o (some (s2.nextSeq w.1)) ∧
         t.me.seqs.get 0 w.1 = s2.nextSeq w.1 ∧ t.me.ackcnt = s2.me.ackcnt + 1 ∧ t.me.pc = s2.me.pc + 4 ∧
         t.mem = (s2.translated va).mem) ∧
     (∀ tk n, LateFree s (if q then [d] else []) → Reads s a va s1 → Reads s1 b v s2 → NumberedReady s2 va 8 w →
       (∀ x ∈ toksOf s2 (match tk with | some y => Toks.one y | none => Toks.none), x ≠ 0 → (s2.tok (tokSlotOf x)).st ≠ .void) →
       (s2.core s2.curCore).reserve ≠ [] →
       ∃ t slot, exec (.rstc q o tk n d a b) s = .next t ∧ slot ∈ (s2.core s2.curCore).reserve ∧
         RemoteLeft s2 t w q d va (.write (leBytes 8 v.toNat)) o (some (s2.nextSeq w.1)) ∧
         t.me.d.get 0 n.val = mkToken s2.fleet.devId slot (if (s2.tok slot).gen = 255 then 1 else (s2.tok slot).gen + 1) ∧
         (t.tok slot).st = .pending ∧ (t.core s2.curCore).reserve = (s2.core s2.curCore).reserve.erase slot ∧ t.me.ackcnt = s2.me.ackcnt + 1 ∧ t.me.pc = s2.me.pc + 4) ∧
     (∀ op w64, LateFree s (if q then [d, d + 1] else [d]) → (if op = .cas then Reads s d c s0 else c = 0 ∧ s0 = s) →
       Reads s0 a va s1 → Reads s1 b v s2 → NumberedReady s2 va (if w64 then 8 else 4) w →
       ∃ t, exec (.ramo op w64 q o d a b) s = .next t ∧
         RemoteLeft s2 t w q d va (.amo op w64 v c) o (some (s2.nextSeq w.1)) ∧
         t.me.ackcnt = s2.me.ackcnt + 1 ∧ t.me.pc = s2.me.pc + 4 ∧ (d ≠ 0 → ∃ p ∈ t.me.pend, p.cls = .s ∧ p.num = d.val)) ∧
     (∀ tk, LateFree s (if q then [d] else []) → Reads s a va s1 → Reads s1 b v s2 → RemoteReady s2 va 8 w → s2.floorRoom s2.cur w.1 = false →
       exec (.rst q o tk d a b) s = .next (s.stallCur (.remoteFloor w.1)))) ∧
  ((∀ (s s1 u u' : State) (q : Bool) (d a : SReg) (va v st : B64) (w : Nat × Nat × Nat),
     (s.me.phase = .idle → LateFree s (if q then [d, d + 1] else [d]) → Reads s a va s1 → RemoteReady s1 va 8 w → ∃ t, exec (.rld q d a) s = .next t ∧
       RemoteLeft s1 t w q d va (.read 8) false none ∧ t.me.st = .stalled .value ∧ t.me.phase = .sent ∧ t.me.pc = s1.me.pc ∧
       t.me.ackcnt = s1.me.ackcnt) ∧
     (s.me.phase = .answered v st → Writes s d v u →
       (q = false → exec (.rld q d a) s = .next (u.retire 4)) ∧
       (q = true → Writes u (d + 1) st u' → exec (.rld q d a) s = .next (u'.retire 4)))) ∧
   (∀ (s s1 s2 : State) (q : Bool) (n : Fin 8) (d a b : SReg) (x : B64) (ws : List B64) (w : Nat × Nat × Nat) (y : Path),
     LateFree s (if q then [d] else []) → Reads s a x s1 → ReadsRun s1 b.val (n.val + 1) ws s2 → x.toNat < 2 ^ 60 →
     let va := x &&& 0x000FFFFFFFFFFFFF#64
     let p := x.toNat / 2 ^ 52 % 256
     va.toNat % 8 = 0 → s2.route s2.curCore s2.me.ctx s2.me.sysMode .remote va = .win w.1 w.2.1 w.2.2 → s2.remoteOut s2.curCore < 64 →
     s2.path? p = some y → y.mcast = true → y.ctx = s2.me.ctx → y.grant ≠ 0 →
     ∃ t m, exec (.rmcast q n d a b) s = .next t ∧ t.sq.out = s2.sq.out ++ [m] ∧ m.path = some p ∧ m.pkt.members = y.mem ∧
       m.pkt.wid = w.2.1 ∧ m.pkt.off = w.2.2 ∧ m.pkt.op = .write (ws.flatMap (fun v => leBytes 8 v.toNat)) ∧ m.pkt.seq = none ∧
       t.me.ackcnt = s2.me.ackcnt + 1 ∧ t.me.pc = s2.me.pc + 4 ∧ t.mem = (s2.translated va).mem)) ∧
  (∀ (s s1 s2 t : State) (q o : Bool) (d a b : SReg) (va v : B64) (w : Nat × Nat × Nat) (l : Nat),
     LateFree s (if q then [d] else []) → Reads s a va s1 → Reads s1 b v s2 → va.toNat % 8 = 0 →
     (s2.route s2.curCore s2.me.ctx s2.me.sysMode .remote va = .win w.1 w.2.1 w.2.2 → s2.remoteOut s2.curCore < 64 →
       w.1 ≠ s2.fleet.devId → s2.reachable s2.me.ctx w.1 = false →
       (q = true → Writes (s2.translated va).sweepTokens d 8 t → exec (.rst q o .none d a b) s = .next (t.retire 4)) ∧
       (q = false → s.hasHandler → exec (.rst q o .none d a b) s = .next (s.entered 6 va s.me.pc false))) ∧
     (s2.route s2.curCore s2.me.ctx s2.me.sysMode .remote va = .loc l ∨ s2.route s2.curCore s2.me.ctx s2.me.sysMode .remote va = .prot →
       s.hasHandler → exec (.rst q o .none d a b) s = .next ((s.translated va).entered 4 va s.me.pc false)))

/-- R184, R185, R288: the reply to a numbered operation of a task that still runs lowers ACKCNT and writes its register: the status of
a `.q` form, the old value of a remote atomic that succeeded; a refusal of a plain form ends its context, with
TOKEN_EXPIRED for a store with tokens that expired and else with CONTEXT_END; the reply to `rld` is what its
thread waits for. -/
def Obligations.ReplyResults : Prop :=
  ∀ (s : State) (x : OutPkt) (r : ROp) (status : BitVec 8) (data : List Byte) (i : ReplyIn),
    s.outPkt? x.pkt.id = some x → s.opOf x = some r → x.owed = [0] → r.left = 1 → r.dead = false → r.tok = 0 →
    (s.thread r.tid).act = r.act →
    ((i = .outside x.pkt.id 0 status data ∧ ∃ a b, x.at_ = .sent a b) ∨
      (∃ n, i = .own n ∧ s.sq.replies[n]? = some ⟨x.pkt.id, status, data, 0⟩ ∧ x.at_ = .answered)) →
    (r.kind = .rst ∨ r.kind = .rstc → status = 0 ∨ r.q = true → ∃ t, exec (.replyArrival i) s = .next t ∧
      (t.thread r.tid).ackcnt = (s.thread r.tid).ackcnt - 1 ∧
      (r.q = true → r.d ≠ 0 → (t.thread r.tid).s.get 0 r.d = status.setWidth 64) ∧
      (r.q = false → (t.thread r.tid).s = (s.thread r.tid).s) ∧ (∀ o ∈ t.sq.ops, o.id ≠ r.id) ∧ t.mem = s.mem) ∧
    (∀ op w64, r.kind = .ramo op w64 → status = 0 → r.q = false → r.d ≠ 0 → ∃ t, exec (.replyArrival i) s = .next t ∧
      (t.thread r.tid).ackcnt = (s.thread r.tid).ackcnt - 1 ∧ (t.thread r.tid).s.get 0 r.d =
        (if w64 = true ∨ op = .fadd then BitVec.ofNat 64 (leNat data)
         else ((BitVec.ofNat 64 (leNat data)).setWidth 32).signExtend 64)) ∧
    (r.kind = .rst → status ≠ 0 → r.q = false → ∀ c, s.ctx? r.ctx = some c → c.ended = false →
      ∃ t c', exec (.replyArrival i) s = .next t ∧ t.ctx? r.ctx = some c' ∧ c'.ended = true ∧
        c'.cause = (if status = 6 ∧ x.pkt.toks ≠ [] then 0x07 else 0x0D)) ∧
    (r.kind = .rld → status = 0 ∨ r.q = true → (s.thread r.tid).phase = .sent → ∃ t, exec (.replyArrival i) s = .next t ∧
      (t.thread r.tid).phase = .answered (if status = 0 then BitVec.ofNat 64 (leNat data) else 0) (status.setWidth 64))

/-- R277, R285 to R288, R300, R302, R357: a packet at the Square goes to this device's own destination side, to the eligible port that
the spray chooses, waits while a path is lighting, or, when no path to its device is lit or lighting, is answered UNREACHABLE.
R188, R274, R286: the packet of an `rmcast` is cut into one copy for each group of members its path's fan-out reaches, each on an
eligible port of that path. The spray state of a multicast path p is one of its own, with key 1024 + p: the model's choice, log entry 45,
since R286 gives one for each context and destination device only.
R345, R347, R357: the first packet of a port's queue is sent: its codewords; on a ciphered port its payload encrypted, its nonce and its tag
(the bytes of its header are free: log entry 47); at most 64 flits kept. -/
def Obligations.PacketLeaves : Prop :=
  (∀ (s : State) (n : Nat) (o : OutPkt) (r : ROp), s.outPkt? n = some o → s.opOf o = some r → o.at_ = .drift → o.path = none →
    ∃ t, exec (.packetAtSquare n) s = .next t ∧
      (o.pkt.dest = s.fleet.devId → t.outPkt? n = some { o with at_ := .own, sends := 1 }) ∧
      (o.pkt.dest ≠ s.fleet.devId → o.pkt.dest < 1024 → s.eligible r.ctx o.pkt.dest ≠ [] →
        ∃ q p, t.outPkt? n = some { o with at_ := .queued q p } ∧ (q, p) ∈ s.eligible r.ctx o.pkt.dest ∧ Sprayed s t r.ctx o.pkt.dest q) ∧
      (o.pkt.dest ≠ s.fleet.devId → o.pkt.dest < 1024 → s.eligible r.ctx o.pkt.dest = [] → s.lighting r.ctx o.pkt.dest = true →
        t.outPkt? n = some { o with at_ := .waiting }) ∧
      (o.pkt.dest ≠ s.fleet.devId → o.pkt.dest < 1024 → s.eligible r.ctx o.pkt.dest = [] → s.lighting r.ctx o.pkt.dest = false →
        t.outPkt? n = some { o with at_ := .answered } ∧
        t.sq.replies = s.sq.replies ++ o.owed.map (fun m => Reply.mk n 8 [] m))) ∧
  (∀ (s : State) (n p : Nat) (o : OutPkt) (r : ROp) (y : Path), s.outPkt? n = some o → s.opOf o = some r → o.at_ = .drift →
    o.path = some p → s.path? p = some y → o.mems.length = o.pkt.members.length → o.mems ≠ [] →
    (∀ d ∈ o.pkt.members, d ∉ s.sq.retDown) → s.eligiblePath r.ctx p ≠ [] →
    let f := max 1 y.fan
    ∃ t, exec (.packetAtSquare n) s = .next t ∧
      (∀ k, k * f < o.mems.length → ∃ x ∈ t.sq.out, x.op = o.op ∧ x.path = some p ∧ x.fan = f ∧
        x.mems = (o.mems.drop (k * f)).take f ∧ x.owed = x.mems ∧ x.pkt.members = (o.pkt.members.drop (k * f)).take f ∧
        x.pkt.op = o.pkt.op ∧ x.pkt.wid = o.pkt.wid ∧ x.pkt.off = o.pkt.off ∧
        ∃ q, x.at_ = .queued q p ∧ (q, p) ∈ s.eligiblePath r.ctx p ∧ (o.mems.length ≤ f → Sprayed s t r.ctx (1024 + p) q))) ∧
  (∀ (s : State) (n q p : Nat) (o : OutPkt), s.outPkt? n = some o → o.at_ = .queued q p →
    (o.path = none ∨ o.begun = true ∨ o.fan = s.pathFan p) →
    s.sq.out.find? (fun x => match x.at_ with | .queued r _ => r == q | _ => false) = some o →
    let c := (s.oport q).cipher
    let nonce : Option (BitVec 96) := if c then some (BitVec.ofNat 32 s.fleet.txGen ++ (s.oport q).packets) else none
    let wire : Outgoing := match nonce with
      | none => .packet q s.fleet.txGen none o.pkt
      | some m =>
        let key := s.fleet.keys.get [] s.fleet.txGen
        let ct := gcmCrypt key m (pktData o.pkt.op)
        .packet q s.fleet.txGen (some ⟨m, gcmTag key m (pktAad o.pkt) ct⟩) (pktWith o.pkt ct)
    ∃ t o', exec (.packetDeparture n) s = .next t ∧ t.outPkt? n = some o' ∧ o'.at_ = .sent q p ∧ o'.sends = o.sends + 1 ∧
      o'.pkt = o.pkt ∧ o'.gen = s.fleet.txGen ∧ t.sq.outbox = s.sq.outbox ++ [wire] ∧
      (t.oport q).packets = (if c then (s.oport q).packets + 1 else (s.oport q).packets) ∧ (t.oport q).flits.length ≤ 64 ∧
      (∀ data, o.pkt.op = .write data →
        let d := if (s.oport q).narrow then 90 else 130
        d * (o'.cws - 1) < 32 + data.length + (if c then 16 else 0) ∧ 32 + data.length + (if c then 16 else 0) ≤ d * o'.cws))

/-- R183, R186, R193, R303, R305, R346 to R348: a packet that reaches its destination is received; one that carries tokens whose notices are not
there, or `.of` numbers still to be settled before its own, takes a pound entry and is not applied while it is held; with 512 entries in use,
or 128 of its device, it is refused with status 7, and one held too long with status 6; a void token's notice refuses it with 5. On a ciphered
port a packet in an unheld generation, or whose tag is not that of its header and ciphertext, is discarded and reported.
R183, R326, R101, R208: a released packet is checked against its window and applied: a write puts its bytes at the place the window names, there and
nowhere else, a remote atomic replaces the bytes there and answers the old ones; a failed check changes no memory and is answered with the
check's status; what is left of a cart packet that was begun is written.
R289, R290: a skip notice of another device that meets its pair's entry at its turn settles the number; an entry untouched for
1 ms, with no packet of its pair received and nothing waiting for a place, is freed. -/
def Obligations.PacketApplied : Prop :=
  ((∀ (s : State) (p : Packet) (a : Arrive), Arrives s p a →
     let notice (x : BitVec 32) : Option Notice := s.sq.cache.find? (fun n => n.tok == x && decide (s.now < n.till))
     let inUse : Nat := s.sq.inp.countP InPkt.held
     let ofDev : Nat := s.sq.inp.countP (fun x => x.held && x.pkt.srcDev == p.srcDev)
     let received (t : State) (i : InPkt) : Prop := exec (.packetArrival a) s = .next t ∧ t.mem = s.mem ∧ i.pkt = p ∧ i.rest = none ∧
       ∃ rest, t.sq.inp = rest ++ [i] ∧ rest.length = s.sq.inp.length
     let pounded (more : InPkt → Prop) : Prop := inUse < 512 → ofDev < 128 →
       ∃ t i, received t i ∧ i.held = true ∧ i.pounded = true ∧ i.due = (s.now + s.poundto.toNat * 2000 + 1999) / 2000 * 2000 ∧
         t.sq.replies = s.sq.replies ∧ t.sq.outbox = s.sq.outbox ∧ more i
     let early : Prop := p.ordered = true ∧ ∃ n e, p.seq = some n ∧ s.sq.order.get? (pktPair p) = some e ∧ p.floor = e.done ∧ n ≠ e.done ∧
       seqBelow n e.done = false
     (p.toks = [] → p.ordered = false → ∃ t i, received t i ∧ i.held = false) ∧
     (p.toks ≠ [] → (∀ x ∈ p.toks, notice x = none) → pounded (fun i => i.toks = p.toks)) ∧
     ((∀ x ∈ p.toks, notice x = none) → early → pounded (fun i => i.order = true)) ∧
     (p.toks ≠ [] → (∀ x ∈ p.toks, notice x = none) → p.seq = none ∨ s.sq.order.get? (pktPair p) = none → 512 ≤ inUse ∨ 128 ≤ ofDev →
       ∃ t, exec (.packetArrival a) s = .next t ∧ t.mem = s.mem ∧ Replied s t p 7 []) ∧
     ((∃ x ∈ p.toks, ∃ n, notice x = some n ∧ n.landed = false) → ∃ t, exec (.packetArrival a) s = .next t ∧ t.mem = s.mem ∧ Replied s t p 5 [])) ∧
   (∀ (s : State) (p : Packet) (port : Nat) (m : Seal), (p.members = [] ∧ p.dest = s.fleet.devId) ∨ s.fleet.devId ∈ p.members →
     (s.oport port).cipher = true →
     let gen := m.nonce.toNat / 2 ^ 64
     let discarded (o : Outgoing) : Prop := ∃ t, exec (.packetArrival (.outside p port (some m))) s = .next t ∧ t.sq.inp = s.sq.inp ∧ t.mem = s.mem ∧
       t.sq.outbox = s.sq.outbox ++ [o] ∧ (t.oport port).stats.get 0 7 = (s.oport port).stats.get 0 7 + 1
     (s.fleet.keys.get? gen = none → discarded (.uncorrectable p.srcDev p.id none)) ∧
     (∀ key, s.fleet.keys.get? gen = some key → gcmTag key m.nonce (pktAad p) (pktData p.op) ≠ m.tag → discarded (.stray p.srcDev p.id)) ∧
     (∀ key, s.fleet.keys.get? gen = some key → gcmTag key m.nonce (pktAad p) (pktData p.op) = m.tag →
       exec (.packetArrival (.outside p port (some m))) s = .next (s.receive (pktWith p (gcmCrypt key m.nonce (pktData p.op))) (some port)))) ∧
   (∀ (s : State) (n : Nat) (i : InPkt), s.sq.inp[n]? = some i →
     (i.held = true → exec (.remoteApply n) s = .next s) ∧
     (i.held = true → i.due ≤ s.now → ∃ t, exec (.poundExpiry n) s = .next t ∧ t.mem = s.mem ∧ Replied s t i.pkt 6 []))) ∧
  ((∀ (s : State) (n : Nat) (i : InPkt) (w : Window), s.sq.inp[n]? = some i → s.mayApply n i = true → i.rest = none →
     s.sq.wins.get? i.pkt.wid = some w → w.revoked = false → (∀ c, s.ctx? w.ctx = some c → c.saved = false) → i.pkt.cart = false →
     s.stores = [] → s.upd = [] → s.fleet.echo = {} →
     (∀ l data, i.pkt.op = .write data → i.pkt.off + data.length ≤ w.len → w.rights.testBit 1 = true →
       s.winLocs w.ctx .write (data.length / 0x10000 + 2) (w.base + i.pkt.off) data.length = some [(l, data.length)] →
       spillCore l data.length = none → ∃ t, exec (.remoteApply n) s = .next t ∧ readBytes t.mem l data.length = data ∧
         (∀ x, x < l ∨ l + data.length ≤ x → readByte t.mem x = readByte s.mem x) ∧ Replied s t i.pkt 0 []) ∧
     (∀ l, i.pkt.op = .read 8 → i.ahead = [] → i.pkt.off + 8 ≤ w.len → w.rights.testBit 0 = true →
       s.winLocs w.ctx .read 2 (w.base + i.pkt.off) 8 = some [(l, 8)] →
       spillCore l 8 = none → ∃ t, exec (.remoteApply n) s = .next t ∧ t.mem = s.mem ∧ Replied s t i.pkt 0 (readBytes s.mem l 8)) ∧
     (∀ l op w64 v cmp, i.pkt.op = .amo op w64 v cmp →
       let k := if w64 then 8 else 4
       let old := leNat (readBytes s.mem l k)
       i.pkt.off + k ≤ w.len → w.rights.testBit 2 = true → s.winLocs w.ctx .write 2 (w.base + i.pkt.off) k = some [(l, k)] →
       spillCore l k = none → ∃ t, exec (.remoteApply n) s = .next t ∧ Replied s t i.pkt 0 (readBytes s.mem l k) ∧
         t.mem = if op = .cas ∧ old ≠ cmp.toNat % 2 ^ (8 * k) then s.mem
           else writeBytes s.mem l (leBytes k (amoNew op w64 (BitVec.ofNat 64 old) v).toNat))) ∧
   (∀ (s : State) (n : Nat) (i : InPkt), s.sq.inp[n]? = some i → s.mayApply n i = true → i.rest = none →
     let size := match i.pkt.op with | .read k => k | .write d => d.length | .amo _ w64 _ _ => if w64 then 8 else 4
     let right := match i.pkt.op with | .read _ => 0 | .write _ => 1 | .amo _ _ _ _ => 2
     let refused (status : BitVec 8) : Prop := ∃ t, exec (.remoteApply n) s = .next t ∧ t.mem = s.mem ∧ Replied s t i.pkt status []
     (s.sq.wins.get? i.pkt.wid = none → refused 1) ∧
     (∀ w, s.sq.wins.get? i.pkt.wid = some w → (w.revoked = true → refused 2) ∧
       (w.revoked = false → (∀ c, s.ctx? w.ctx = some c → c.saved = false) →
         (w.len < i.pkt.off + size → refused 3) ∧ (i.pkt.off + size ≤ w.len → w.rights.testBit right = false → refused 4)))) ∧
   (∀ (s : State) (n l : Nat) (i : InPkt) (data : List Byte), s.sq.inp[n]? = some i → s.mayApply n i = true → i.rest = some [(l, data)] →
     i.pkt.srcDev ≠ s.fleet.devId → s.upd = [] → s.fleet.echo = {} → spillCore l data.length = none →
     ∃ t, exec (.remoteApply n) s = .next t ∧ t.mem = writeBytes s.mem l data ∧ Replied s t i.pkt 0 [])) ∧
  ((∀ (s : State) (dev core slot seq floor touched : Nat), dev ≠ s.fleet.devId → seq < 2 ^ 16 → seqBelow seq floor = false →
     s.sq.order.get? (pairKey dev core slot) = some ⟨seq, 0, touched⟩ →
     ∃ t, exec (.skipNoticeArrival dev core slot seq floor) s = .next t ∧
       t.sq.order.get? (pairKey dev core slot) = some ⟨(seq + 1) % 2 ^ 16, 0, s.now⟩ ∧ t.mem = s.mem) ∧
   (∀ (s : State) (dev core slot : Nat) (e : OrdEntry), s.sq.order.get? (pairKey dev core slot) = some e → e.touched + 2000000 ≤ s.now →
     (∀ i ∈ s.sq.inp, pktPair i.pkt ≠ pairKey dev core slot ∧ i.table = false) → s.sq.skips = [] →
     ∃ t, exec (.orderEntryFree dev core slot) s = .next t ∧ t.sq.order.get? (pairKey dev core slot) = none))

/-- R190 to R195, R298, R299: `tkwait` gives 0 for no token or one that has landed and the status of a void one, and waits for one that is
pending; `tkdrop` empties its register; `tkmerge` makes a new token of two pending ones, in some slot of the core's reserve, and copies where
one is enough; the Square's lowest free slots come to a core that has asked, and while none is free it keeps waiting.
R300, R301: the notice of a settled token leaves for a dependent once no packet carries it there; one that was refused leaves again after 2
µs, though a packet may since be waiting to be sent again; a notice that arrives is cached for 1 ms, is acknowledged, and ends the holds for
its token; the acceptance is noted. -/
def Obligations.TokenResults : Prop :=
  ((∀ (s t : State) (d : SReg) (a : DReg),
     let x := s.me.d.get 0 a.val
     let k := s.tok (tokSlotOf x)
     (x = 0 ∨ k.st = .landed → Writes s d 0 t → exec (.tkwait d a) s = .next (t.retire 4)) ∧
     (x ≠ 0 → k.st = .void → Writes s d (k.status.setWidth 64) t → exec (.tkwait d a) s = .next (t.retire 4)) ∧
     (x ≠ 0 → k.st = .pending → exec (.tkwait d a) s = .next (s.stallCur (.token (tokSlotOf x) (tokGenOf x))))) ∧
   (∀ (s : State) (d : DReg), ∃ t, exec (.tkdrop d) s = .next t ∧ t.me.d.get 0 d.val = 0 ∧ t.me.pc = s.me.pc + 4 ∧
     (∀ r : DReg, r ≠ d → t.me.d.get 0 r.val = s.me.d.get 0 r.val)) ∧
   (∀ (s : State) (d a b : DReg),
     let x := s.me.d.get 0 a.val
     let y := s.me.d.get 0 b.val
     (x = 0 → ∃ t, exec (.tkmerge d a b) s = .next t ∧ t.me.d.get 0 d.val = y ∧ t.me.pc = s.me.pc + 4) ∧
     (x ≠ 0 → y = 0 ∨ x = y → ∃ t, exec (.tkmerge d a b) s = .next t ∧ t.me.d.get 0 d.val = x ∧ t.me.pc = s.me.pc + 4) ∧
     (x ≠ 0 → y ≠ 0 → x ≠ y → (s.core s.curCore).reserve ≠ [] → (s.tok (tokSlotOf x)).st = .pending →
       (s.tok (tokSlotOf y)).st = .pending → ∃ t n, exec (.tkmerge d a b) s = .next t ∧ n ∈ (s.core s.curCore).reserve ∧
       t.me.d.get 0 d.val = mkToken s.fleet.devId n (if (s.tok n).gen = 255 then 1 else (s.tok n).gen + 1) ∧
       (t.tok n).st = .pending ∧ (t.tok n).inA = x ∧ (t.tok n).inB = y ∧
       (t.core s.curCore).reserve = (s.core s.curCore).reserve.erase n) ∧
     (x ≠ 0 → y ≠ 0 → x ≠ y → (s.core s.curCore).reserve = [] →
       ∃ t, exec (.tkmerge d a b) s = .next t ∧ t.me.st = .stalled .reserve ∧ t.me.pc = s.me.pc ∧ (t.core s.curCore).asked = true)) ∧
   (∀ (s : State) (core : Nat), core ∈ s.sq.tokReq → (s.core core).reserve.length < 8 →
     let usable (m : Nat) : Prop := (s.tok m).st = .free ∧ (s.tok m).inRes = false
     (∀ n < 16384, usable n → (∀ m < n, ¬ usable m) →
       ∃ t ns, exec (.tokenReserveGrant core) s = .next t ∧ (t.core core).reserve = (s.core core).reserve ++ n :: ns ∧
         (∀ m ∈ ns, n < m ∧ m < 16384 ∧ usable m) ∧ (t.core core).reserve.length ≤ 8 ∧ core ∉ t.sq.tokReq) ∧
     ((∀ m < 16384, ¬ usable m) → exec (.tokenReserveGrant core) s = .next s))) ∧
  ((∀ (s : State) (slot dev : Nat) (e : TokDep), dev ≠ s.fleet.devId → ((s.tok slot).st = .landed ∨ (s.tok slot).st = .void) →
     (s.tok slot).deps = [e] → e.dev = dev → e.accepted = false →
     let out := s.sq.outbox ++ [.notice dev (mkToken s.fleet.devId slot (s.tok slot).gen) ((s.tok slot).st == .landed)]
     (e.pkts = 0 → e.sent = false → ∃ t, exec (.noticeSend slot dev) s = .next t ∧ t.sq.outbox = out ∧
       (t.tok slot).deps = [{ e with sent := true, retryAt := s.now + 4000 }]) ∧
     (e.sent = true → e.refused = true → e.retryAt ≤ s.now → ∃ t, exec (.noticeResend slot dev) s = .next t ∧ t.sq.outbox = out) ∧
     (e.sent = true → ∃ t, exec (.noticeAckArrival slot dev) s = .next t ∧ (∀ k ∈ (t.tok slot).deps, k.accepted = true))) ∧
   (∀ (s : State) (tok : BitVec 32), s.cacheUse < 4096 →
     ∃ t n, exec (.noticeArrival tok true) s = .next t ∧ n ∈ t.sq.cache ∧ n.tok = tok ∧ n.landed = true ∧ n.till = s.now + 2000000 ∧
       (∀ i ∈ t.sq.inp, tok ∉ i.toks) ∧ t.sq.inp.length = s.sq.inp.length ∧
       t.sq.outbox = s.sq.outbox ++ [.noticeAck (tok.toNat / 2 ^ 22) tok true]) ∧
   (∀ (s : State) (tok : BitVec 32), s.cacheUse < 4096 → ∃ t, exec (.noticeArrival tok false) s = .next t ∧
       (∀ i ∈ t.sq.inp, tok ∉ i.toks)) ∧
   (∀ (s : State) (tok : BitVec 32) (landed : Bool), 4096 ≤ (s.sq.cache.filter (fun n => decide (s.now < n.till))).length →
     (∀ n ∈ s.sq.cache, n.tok = tok → n.till ≤ s.now) → ∃ t, exec (.noticeArrival tok landed) s = .next t ∧ t.sq.cache = s.sq.cache ∧
       t.sq.inp = s.sq.inp ∧ t.sq.outbox = s.sq.outbox ++ [.noticeAck (tok.toNat / 2 ^ 22) tok false]) ∧
   (∀ (s : State) (tok : BitVec 32), ∃ t, exec (.noticeCacheExpiry tok) s = .next t ∧
     (∀ n, n ∈ t.sq.cache ↔ n ∈ s.sq.cache ∧ ¬(n.tok = tok ∧ n.till ≤ s.now))))

/-- R196 to R198: `grant`, `grq` and `pathset` send their request to the Well and wait, and write its answer when it is there; a path
number over 255 and a grant over 65535 are ILLEGAL.
R197, R269, R273: what the Well decides about a grant: a path of another context is refused with 5, a grant below MIN with 3, one
within quota, pool and CEIL is given whole and becomes the path's grant; grant 0 darkens the path. Its answer reaches the thread. -/
def Obligations.LightRequests : Prop :=
  (∀ (s s1 s2 t' : State) (d a b : SReg) (x y v w : B64), Reads s a x s1 → Reads s1 b y s2 →
     let asked (i : Instr) (kind p : Nat) (arg : B64) : Prop :=
       ∃ t q, exec i s = .next t ∧ t.well.reqs = s.well.reqs ++ [q] ∧ q.tid = s.cur ∧ q.act = s.me.act ∧ q.ctx = s.me.ctx ∧ q.kind = kind ∧
         q.p = p ∧ q.arg = arg ∧ t.me.st = .stalled .well ∧ t.me.phase = .sent ∧ t.me.pc = s.me.pc
     (256 ≤ x.toNat → s.hasHandler → exec (.grant d a b) s = .next (s.entered 1 x s.me.pc false) ∧
       exec (.grq d a b) s = .next (s.entered 1 x s.me.pc false)) ∧
     (x.toNat < 256 → 2 ^ 16 ≤ y.toNat → s.hasHandler → exec (.grant d a b) s = .next (s.entered 1 y s.me.pc false)) ∧
     (x.toNat < 256 → s.me.phase = .idle →
       (y.toNat < 2 ^ 16 → asked (.grant d a b) 0 x.toNat y) ∧ asked (.grq d a b) 1 x.toNat y) ∧
     (s.me.sysMode = true → s.me.phase = .idle → x.getLsbD 8 = true → x &&& 0xFFFF0100#64 = x →
       asked (.pathset d a b) 3 (x.toNat / 2 ^ 16 % 2 ^ 16) y) ∧
     (∀ off, s.me.sysMode = true → s.me.phase = .idle → x.toNat < 256 → y.toNat % 32 = 0 → ownSpad s2.curCore y = some off →
       (s2.core s2.curCore).ksq = [] → asked (.pathset d a b) 2 x.toNat 0) ∧
     (s.me.phase = .answered v w → x.toNat < 256 →
       (y.toNat < 2 ^ 16 → Writes s2 d v t' → exec (.grant d a b) s = .next (t'.retire 4)) ∧
       (Writes s2 d v t' → exec (.grq d a b) s = .next (t'.retire 4))) ∧
     (s.me.phase = .answered v w → s.me.sysMode = true → x.getLsbD 8 = true → x &&& 0xFFFF0100#64 = x → Writes s2 d v t' →
       exec (.pathset d a b) s = .next (t'.retire 4))) ∧
  (∀ (s : State) (q : WellReq) (x : Path) (c : Ctx), s.well.reqs = [q] → q.kind = 0 → s.path? q.p = some x → (s.thread q.tid).act = q.act →
     (s.thread q.tid).phase = .sent →
     let g := q.arg.toNat
     let answered (v : Nat) : State → Prop := fun t => (t.thread q.tid).phase = .answered (BitVec.ofNat 64 v) 0 ∧ t.well.reqs = []
     (x.ctx ≠ q.ctx → ∃ t, exec .wellRequestServed s = .next t ∧ answered (5 * 2 ^ 16) t ∧ t.path? q.p = some x) ∧
     (x.ctx = q.ctx → g ≠ 0 → g < s.minOf q.p x →
       ∃ t, exec .wellRequestServed s = .next t ∧ answered (3 * 2 ^ 16 + x.grant) t ∧ t.path? q.p = some x) ∧
     (x.ctx = q.ctx → g ≠ 0 → s.minOf q.p x ≤ g → s.ctx? q.ctx = some c → g ≤ x.grant + min (c.quota - s.held q.ctx) (s.well.free + x.drain) →
       g ≤ s.ceilOf x → ∃ t x', exec .wellRequestServed s = .next t ∧ answered g t ∧ t.path? q.p = some x' ∧ x'.grant = g) ∧
     (x.ctx = q.ctx → g = 0 → ∃ t x', exec .wellRequestServed s = .next t ∧ answered 0 t ∧ t.path? q.p = some x' ∧ x'.grant = 0))

/-- R269, R275 to R277, R279, R283: the steps of a path: each of its ports passes its step point 24 ns or more after the decision, a
narrowing not before the packet in progress has ended; a haze that ends returns the draining units whose time has come to the pool; a
path gone dark gives back its units; a window above the target trims a lane up, sixteen below it trim it down.
R344 to R346: a lane without its laser or its light is erased, a retrained lane with good windows lives again, a failed port has no
readiness and no live lane; strays are counted for their port and wavelength set, the third makes the port suspect; an uncorrectable
codeword is counted and replayed while its flits are in the replay buffer. That the fan-out in force falls with the first port's step and rises
with the last one's (log entry 32), that a multicast copy's strays are counted by 1024 + its path and LASTDEST is the packet's own destination
field (log entry 45), and that UNCORR is counted at the sender as the report comes (log entry 47), are the model's choices. -/
def Obligations.LightSteps : Prop :=
  ((∀ (s : State) (p q t0 : Nat) (x : Path), s.path? p = some x → x.step = some t0 →
     (s.now < t0 + 48 ∨ q ∉ x.toStep ∨ (x.fanTo < x.fan ∧ s.begunOn p) → exec (.orderStepPoint ⟨p, q⟩) s = .next s) ∧
     (t0 + 48 ≤ s.now → q ∈ x.toStep → (x.fan ≤ x.fanTo ∨ ¬ s.begunOn p) →
       ∃ t x', exec (.orderStepPoint ⟨p, q⟩) s = .next t ∧ t.path? p = some x' ∧ (t.oport q).order = x.ords.get 0 q ∧
         x'.grant = x.grant ∧ (x.toStep.erase q ≠ [] → x'.toStep = x.toStep.erase q ∧ x'.step = some t0 ∧ x'.fan = min x.fan x.fanTo) ∧
         (x.toStep = [q] → x'.step = none ∧ x'.fan = x.fanTo))) ∧
   (∀ (s : State) (p : Nat) (x : Path), s.path? p = some x → ∃ t x', exec (.hazeEnd p) s = .next t ∧ t.path? p = some x' ∧
     (∀ e, e ∈ x'.drains ↔ e ∈ x.drains ∧ ¬(e.2 ≠ 0 ∧ e.2 ≤ s.now)) ∧
     t.well.free = s.well.free + ((x.drains.filter (fun e => decide (e.2 ≠ 0 ∧ e.2 ≤ s.now))).map (·.1)).sum ∧
     (x.st = 3 → x.grant ≠ 0 → x.till ≤ s.now → x.step = none → x'.st = 0)) ∧
   (∀ (s : State) (p : Nat) (x : Path), s.path? p = some x → x.dark = true → ∃ t x', exec (.pathDark p) s = .next t ∧ t.path? p = some x' ∧
     x'.dark = false ∧ x'.oldPorts = 0 ∧ t.well.free = s.well.free + x.darkGu) ∧
   (∀ (s : State) (n : Nat), n < 192 → (s.lane n).erased = false → (s.lane n).st ≠ 0 → ∀ w, exec (.trimWindow n w) s = .next s) ∧
   (∀ (s : State) (n : Nat), n < 192 → (s.lane n).erased = false → (s.lane n).st = 0 → ∀ w, ∃ t, exec (.trimWindow n w) s = .next t ∧
     (w = .above → s.well.reserve ≤ (s.lane n).trim → (t.lane n).trim = (s.lane n).trim ∧ t.fleet.ev.getLsbD 2 = true) ∧
     (w = .above → (s.lane n).trim < s.well.reserve → (t.lane n).trim = (s.lane n).trim + 1) ∧
     (w = .between → (t.lane n).low = 0 ∧ (t.lane n).trim = (s.lane n).trim) ∧
     (w = .below → (s.lane n).low < 15 → (t.lane n).low = (s.lane n).low + 1) ∧
     (w = .below → 15 ≤ (s.lane n).low → 0 < (s.lane n).trim → (t.lane n).trim = (s.lane n).trim - 1))) ∧
  ((∀ (s : State) (n : Nat), n < 192 → (s.lane n).erased = false →
     ∃ t t', exec (.laneErase n .laser) s = .next t ∧ exec (.laneErase n .light) s = .next t' ∧ (t.lane n).erased = true ∧
       (t'.lane n).erased = true ∧ (t.lane n).st = 2) ∧
   (∀ (s : State) (n : Nat), n < 192 → s.lostOrder n = true → (s.lane n).erased = false →
     ∃ t, exec (.laneErase n .order) s = .next t ∧ (t.lane n).erased = true) ∧
   (∀ (s : State) (n : Nat), n < 192 → (s.lane n).erased = true → (s.lane n).failed = false → (s.lane n).good = true →
     (s.oport (n / 8)).retrain = true → ∃ t, exec (.laneRetrainLive n) s = .next t ∧ (t.lane n).erased = false) ∧
   (∀ (s : State) (p : Nat), p < 24 → ∃ t, exec (.portFail p []) s = .next t ∧ t.portReady p = false ∧ t.fleet.ev.getLsbD 5 = true ∧
     (t.oport p).order = 0 ∧ (∀ i < 8, (t.lane (8 * p + i)).erased = true)) ∧
   (∀ (s : State) (n q p : Nat) (o : OutPkt), s.outPkt? n = some o → o.at_ = .sent q p →
     let k := match o.path with | some m => 1024 + m | none => o.pkt.dest
     ∃ t, exec (.strayNoticeArrival n) s = .next t ∧ (t.oport q).strays = min 255 ((s.oport q).strays + 1) ∧ (t.oport q).last = o.pkt.dest ∧
       (t.oport q).pairs.get 0 k = (s.oport q).pairs.get 0 k + 1 ∧
       (2 ≤ (s.oport q).pairs.get 0 k → (s.oport q).suspect = false →
         (t.oport q).suspect = true ∧ t.portReady q = false ∧ t.fleet.ev.getLsbD 6 = true)) ∧
   (∀ (s : State) (n q p : Nat) (o : OutPkt), s.outPkt? n = some o → o.at_ = .sent q p →
     let count (t : State) (k : Nat) : Prop := (t.oport q).stats.get 0 1 = (s.oport q).stats.get 0 1 + 1 ∧
       (t.oport q).stats.get 0 k = (s.oport q).stats.get 0 k + 1
     (∃ t, exec (.uncorrectableReport n none) s = .next t ∧ count t 3) ∧
     (∀ c, (∃ f ∈ (s.oport q).flits, f.pkt = n ∧ f.cw = c ∧ f.first = true) →
       ∃ t, exec (.uncorrectableReport n (some c)) s = .next t ∧ count t 2 ∧ t.sq.out = s.sq.out ∧
         t.sq.outbox = s.sq.outbox ++ [.replay q o.gen o.nonce n c]) ∧
     (∀ c, (∀ f ∈ (s.oport q).flits, ¬(f.pkt = n ∧ f.cw = c ∧ f.first = true)) →
       ∃ t, exec (.uncorrectableReport n (some c)) s = .next t ∧ count t 3)))

/-! ## Weave and vectors -/

/-- R199, R201 to R203: the scalar weave forms: making, packing, reading and changing a code, the axis-by-axis sum and difference with
their wrap flags, the comparison of codes; a source without a shape is WEAVE_OVF with reason 2.
R207: the vector weave forms: lane codes of WSHAPE's shape are added axis by axis, or tested against the box whose corners are lanes 0
and 1 of vB; a shape wider than the lanes is WEAVE_OVF with reason 3. -/
def Obligations.WeaveResults : Prop :=
  ((∀ (s s1 : State) (d : WReg) (a : SReg) (D B : Nat), 1 ≤ D → D ≤ 8 → 1 ≤ B → B ≤ 32 → D * B ≤ 64 →
     Reads s a (BitVec.ofNat 64 (D + 256 * B)) s1 →
     exec (.wvShape d a) s = .next ((s1.modThread s1.cur (fun t => { t with w := t.w.put d.val ⟨0, D, B, 0⟩ })).retire 4)) ∧
   (∀ (s s1 s2 : State) (d : WReg) (a b : SReg) (x : B64) (D B F : Nat), 1 ≤ D → D ≤ 8 → 1 ≤ B → B ≤ 32 → D * B ≤ 64 → F < 256 →
     Reads s a x s1 → Reads s1 b (BitVec.ofNat 64 (D + 2 ^ 8 * B + 2 ^ 16 * F)) s2 →
     let made : WVal := ⟨BitVec.ofNat 64 (x.toNat % 2 ^ (D * B)), D, B, BitVec.ofNat 8 (F % 2 ^ D)⟩
     exec (.wvPack d a b) s = .next ((s2.modThread s2.cur (fun t => { t with w := t.w.put d.val made })).retire 4)) ∧
   (∀ (s s1 t : State) (d : SReg) (a : WReg) (b : SReg) (y : B64), Reads s b y s1 → (wOf s1 a).dims ≠ 0 →
     Writes s1 d (if y.getLsbD 0 then BitVec.ofNat 64 ((wOf s1 a).flags.toNat * 2 ^ 16 + (wOf s1 a).bits * 2 ^ 8 + (wOf s1 a).dims)
       else (wOf s1 a).code) t → exec (.wvUnpk d a b) s = .next (t.retire 4)) ∧
   (∀ (s s1 t : State) (d : SReg) (a : WReg) (b : SReg) (n : B64), Reads s b n s1 → n.toNat < (wOf s1 a).dims →
     Writes s1 d (BitVec.ofNat 64 (wAxis (wOf s1 a).dims (wOf s1 a).bits (wOf s1 a).code.toNat n.toNat)) t →
     exec (.wvGet d a b) s = .next (t.retire 4)) ∧
   (∀ (s s1 s2 : State) (d : WReg) (a b : SReg) (x n : B64) (c : Nat), Reads s a x s1 → Reads s1 b n s2 → (wOf s2 d).ok →
     n.toNat < (wOf s2 d).dims → c < 2 ^ ((wOf s2 d).dims * (wOf s2 d).bits) →
     (∀ k < (wOf s2 d).dims, wAxis (wOf s2 d).dims (wOf s2 d).bits c k =
       if k = n.toNat then x.toNat % 2 ^ (wOf s2 d).bits else wAxis (wOf s2 d).dims (wOf s2 d).bits (wOf s2 d).code.toNat k) →
     ∃ t, exec (.wvSet d a b) s = .next t ∧ (wOf t d).code = BitVec.ofNat 64 c ∧ (wOf t d).dims = (wOf s2 d).dims ∧
       (wOf t d).bits = (wOf s2 d).bits ∧ t.me.pc = s2.me.pc + 4 ∧
       (wOf t d).flags = (if 2 ^ (wOf s2 d).bits ≤ x.toNat then (wOf s2 d).flags ||| (1#8 <<< n.toNat) else (wOf s2 d).flags)) ∧
   (∀ (s : State) (sub tt : Bool) (d a b : WReg) (c : Nat), (wOf s a).ok → (wOf s b).ok → (wOf s a).sameShape (wOf s b) →
     let D := (wOf s a).dims
     let B := (wOf s a).bits
     let sum (k : Nat) : Int :=
       if sub then (wAxis D B (wOf s a).code.toNat k : Int) - wAxis D B (wOf s b).code.toNat k
       else (wAxis D B (wOf s a).code.toNat k : Int) + wAxis D B (wOf s b).code.toNat k
     c < 2 ^ (D * B) → (∀ k < D, (wAxis D B c k : Int) = sum k % 2 ^ B) →
     let i : Instr := if sub then .wvSub tt d a b else .wvAdd tt d a b
     (tt = false ∨ (∀ k < D, 0 ≤ sum k ∧ sum k < 2 ^ B) → ∃ t, exec i s = .next t ∧ (wOf t d).code = BitVec.ofNat 64 c ∧
       (wOf t d).dims = D ∧ (wOf t d).bits = B ∧ t.me.pc = s.me.pc + 4 ∧
       (∀ k < 8, (wOf t d).flags.getLsbD k = (decide (k < D) && ((wOf s d).flags.getLsbD k || !(decide (0 ≤ sum k) && decide (sum k < 2 ^ B)))))) ∧
     (tt = true → (∃ k < D, ¬(0 ≤ sum k ∧ sum k < 2 ^ B)) → s.hasHandler → ∃ v, exec i s = .next (s.entered 5 v s.me.pc false) ∧
       v.toNat / 2 ^ 60 = 1)) ∧
   (∀ (s t : State) (d : SReg) (a b : WReg), (wOf s a).dims ≠ 0 → (wOf s b).dims ≠ 0 → (wOf s a).sameShape (wOf s b) →
     Writes s d (if (wOf s a).code = (wOf s b).code then 0 else if (wOf s b).code.toNat < (wOf s a).code.toNat then 1
       else BitVec.allOnes 64) t → exec (.wvCmp d a b) s = .next (t.retire 4)) ∧
   (∀ (s : State) (d : WReg), exec (.wvClrf d) s =
     .next ((s.modThread s.cur (fun t => { t with w := t.w.put d.val { wOf s d with flags := 0 } })).retire 4)) ∧
   (∀ (s : State) (d : SReg) (e a b : WReg), (wOf s a).dims = 0 → s.hasHandler →
     exec (.wvCmp d a b) s = .next (s.entered 5 (BitVec.ofNat 64 (2 * 2 ^ 60)) s.me.pc false) ∧
     exec (.wvAdd false e a b) s = .next (s.entered 5 (BitVec.ofNat 64 (2 * 2 ^ 60)) s.me.pc false))) ∧
  (∀ (s s1 s2 s3 t : State) (ty : Ty) (m : MReg) (d a b : VReg) (dm : MReg) (x y w : B512) (mk r : B64),
     ReadsV s a x s1 → ReadsV s1 b y s2 → ReadsM s2 m mk s3 →
     let D := s3.me.wshape.toNat % 256
     let B := s3.me.wshape.toNat / 256
     let sum (j : Nat) : Nat × BitVec 8 := wSum false D B (elemBits ty.width j x % 2 ^ (D * B)) (elemBits ty.width j y % 2 ^ (D * B))
     (D * B ≤ ty.width → DestFree s m d → CopyLanes ty mk (fun j => (sum j).1) (oldOf s d) w → WritesV s3 d w t →
       exec (.vwadd ty m d a b) s = .next (t.retire 4) ∧
       ((∀ j < ty.lanes, mk.getLsbD j = true → (sum j).2 = 0) → exec (.vwaddT ty m d a b) s = .next (t.retire 4))) ∧
     (D * B ≤ ty.width → (∀ j < 64, r.getLsbD j = (decide (j < ty.lanes) && mk.getLsbD j &&
         inBox D B (elemBits ty.width 0 y % 2 ^ (D * B)) (elemBits ty.width 1 y % 2 ^ (D * B)) (elemBits ty.width j x % 2 ^ (D * B)))) →
       WritesM s3 dm r t → exec (.vwinbox ty m dm a b) s = .next (t.retire 4)) ∧
     (ty.width < D * B → DestFree s m d → s.hasHandler →
       exec (.vwadd ty m d a b) s = .next (s.entered 5 (BitVec.ofNat 64 (3 * 2 ^ 60)) s.me.pc false) ∧
       exec (.vwinbox ty m dm a b) s = .next (s.entered 5 (BitVec.ofNat 64 (3 * 2 ^ 60)) s.me.pc false)))

/-- R204, R205, R206: boxes. `wv.inbox` tells whether the point lies in the box; `wv.next` gives the least code of the box at or above the
cursor and 1, or 0 and 0; `wv.cut` the first code and the end of the unbroken run of box codes there, or 1 and 0; `wv.rlist` writes the
records of its cover and counts it: all maximal ranges of the box in code order when the budget k takes them, else the k ranges that the k − 1
largest gaps leave, of equal gaps the ones at higher codes; it traps with MISALIGN and with PROT. That a record is written as two stores of 8 bytes
is the model's choice (log entry 24). -/
def Obligations.WeaveBoxes : Prop :=
  ∀ (s s1 s2 t u : State) (d a : SReg) (e b : WReg) (va bud : B64),
    let lo := wOf s b
    let hi := wOf s (boxHi b)
    let cur := wOf s e
    lo.ok → hi.ok → lo.sameShape hi →
    (cur.ok → cur.sameShape lo →
      (∀ inside : Bool, (inside = true ↔ InsideBox lo hi cur.code.toNat) → Writes s d (ofBool inside) t →
        exec (.wvInbox d e b) s = .next (t.retire 4)) ∧
      (∀ r : Nat, r < 2 ^ (lo.dims * lo.bits) → cur.code.toNat ≤ r → InsideBox lo hi r → (∀ r' < r, cur.code.toNat ≤ r' → ¬ InsideBox lo hi r') →
        (Writes s d (BitVec.ofNat 64 r) t → Writes t (nextS d) 1 u → exec (.wvNext d e b) s = .next (u.retire 4)) ∧
        (∀ z : Nat, r ≤ z → z < 2 ^ (lo.dims * lo.bits) → (∀ k, r ≤ k → k ≤ z → InsideBox lo hi k) →
          (z + 1 = 2 ^ (lo.dims * lo.bits) ∨ ¬ InsideBox lo hi (z + 1)) →
          Writes s d (BitVec.ofNat 64 r) t → Writes t (nextS d) (BitVec.ofNat 64 z) u → exec (.wvCut d e b) s = .next (u.retire 4))) ∧
      ((∀ r < 2 ^ (lo.dims * lo.bits), cur.code.toNat ≤ r → ¬ InsideBox lo hi r) →
        (Writes s d 0 t → Writes t (nextS d) 0 u → exec (.wvNext d e b) s = .next (u.retire 4)) ∧
        (Writes s d 1 t → Writes t (nextS d) 0 u → exec (.wvCut d e b) s = .next (u.retire 4)))) ∧
    (let top := 2 ^ (lo.dims * lo.bits)
     let rs := boxRanges lo.dims lo.bits lo.code.toNat hi.code.toNat (top + 1) 0
     let at_ (i : Nat) : Nat × Nat := rs.getD i (0, 0)
     let gap (i : Nat) : Nat := (at_ (i + 1)).1 - (at_ i).2 - 1
     (∀ x ∈ rs, x.1 ≤ x.2 ∧ x.2 < top ∧ (∀ c, x.1 ≤ c → c ≤ x.2 → InsideBox lo hi c) ∧ (x.1 = 0 ∨ ¬ InsideBox lo hi (x.1 - 1)) ∧
       (x.2 + 1 = top ∨ ¬ InsideBox lo hi (x.2 + 1))) ∧
     (∀ c < top, InsideBox lo hi c → ∃ x ∈ rs, x.1 ≤ c ∧ c ≤ x.2) ∧ rs.Pairwise (fun x y => x.2 < y.1) ∧
     (∀ k, rs.length ≤ k → boxCover rs k = rs) ∧
     (∀ k, 0 < k → k < rs.length → ∃ kept : List Nat, kept.length = k - 1 ∧ kept.Pairwise (· < ·) ∧ (∀ i ∈ kept, i + 1 < rs.length) ∧
       (∀ i ∈ kept, ∀ j, j + 1 < rs.length → j ∉ kept → gap j < gap i ∨ (gap j = gap i ∧ j < i)) ∧
       (boxCover rs k).map (·.1) = (at_ 0).1 :: kept.map (fun i => (at_ (i + 1)).1) ∧
       (boxCover rs k).map (·.2) = kept.map (fun i => (at_ i).2) ++ [(at_ (rs.length - 1)).2])) ∧
    (Reads s d bud s1 → Reads s1 a va s2 → wOf s2 b = lo → wOf s2 (boxHi b) = hi → s.hasHandler →
      let k := min bud.toNat 4096
      let prot (v : B64) : Prop := exec (.wvRlist d a b) s = .next (s.entered 4 v s.me.pc false)
      (va.toNat % 16 ≠ 0 → exec (.wvRlist d a b) s = .next (s.entered 2 va s.me.pc false)) ∧
      (va.toNat % 16 = 0 → k ≠ 0 → (ownSpad s2.curCore va = none → prot va) ∧
        (∀ off, ownSpad s2.curCore va = some off → (0x30000 ≤ off → prot va) ∧
          (off < 0x30000 → 0x30000 < off + 16 * k → prot (va + BitVec.ofNat 64 (0x30000 - off)))))) ∧
    (Reads s d bud s1 → Reads s1 a va s2 → va.toNat % 16 = 0 → wOf s2 b = lo → wOf s2 (boxHi b) = hi →
      let k := min bud.toNat 4096
      let rs := boxRanges lo.dims lo.bits lo.code.toNat hi.code.toNat (2 ^ (lo.dims * lo.bits) + 1) 0
      let answer : B64 := BitVec.ofNat 64 ((boxCover rs k).length + 2 ^ 32 * min rs.length (2 ^ 31 - 1) + (if k < rs.length then 2 ^ 63 else 0))
      (k = 0 → Writes s2 d answer t → exec (.wvRlist d a b) s = .next (t.retire 4)) ∧
      (∀ off, k ≠ 0 → ownSpad s2.curCore va = some off → off + 16 * k ≤ 0x30000 → (s2.core s2.curCore).ksq = [] →
        Writes (s2.recorded (spadLoc s2.curCore off) (boxCover rs k)) d answer t → exec (.wvRlist d a b) s = .next (t.retire 4)))

/-- R126 to R128: the vector loads with nothing pending: each active lane gets the bytes at its address, block, strided or gathered; the
other lanes keep their bits.
R126, R128, R129: the vector stores with nothing pending: the thread reads every active lane back from its address (the highest lane of
those that overlap), memory itself changes only when the stores reach their ports, no pending store covers anything but active lanes, and
the active lanes of one aligned 8-byte part of a block are one store or one group. -/
def Obligations.VectorMemory : Prop :=
  (∀ (s s1 s2 s3 t : State) (ty : Ty) (m : MReg) (d : VReg) (a c : SReg) (b : VReg) (va st : B64) (y w : B512) (mk : B64) (l : Nat) (ls : Nat → Nat),
     let n := ty.width / 8
     let act := (List.range ty.lanes).filter (fun j => mk.getLsbD j)
     let near (u : State) (l : Nat) : Prop := (s.isFar l = false ∨ s.hasAnswer) ∧ s.dirAsleep s.curCore l = false ∧
       spillCore l n = none ∧ ((spadCore l).isSome = true → (u.core u.curCore).ksq = [])
     let each (u : State) (addr : Nat → B64) : Prop := ∀ j ∈ act, (addr j).toNat % n = 0 ∧
       u.route u.curCore u.me.ctx u.me.sysMode .read (addr j) = .loc (ls j) ∧ near u (ls j)
     let loaded (u : State) (as : List B64) (at_ : Nat → Nat) (i : Instr) : Prop := u.stores = [] → u.upd = [] →
       s.me.split = 0 → s.me.phase.got = [] →
       CopyLanes ty mk (fun j => leNat (readBytes u.mem (at_ j) n)) (oldOf s d) w → WritesV (u.translatedAll as) d w t →
       exec i s = .next (t.retire 4)
     let stride (j : Nat) : B64 := va + BitVec.ofNat 64 j * st
     let offset (j : Nat) : B64 := va + BitVec.ofNat 64 (elemBits ty.width j y)
     DestFree s m d → Reads s a va s1 →
     (ReadsM s1 m mk s2 →
       (act ≠ [] → va.toNat % 64 = 0 ∧ s2.route s2.curCore s2.me.ctx s2.me.sysMode .read va = .loc l ∧ ∀ j ∈ act, near s2 (l + j * n)) →
       loaded s2 (if act = [] then [] else [va]) (fun j => l + j * n) (.vld ty m d a)) ∧
     (Reads s1 c st s2 → ReadsM s2 m mk s3 → each s3 stride → loaded s3 (act.map stride) ls (.vlds ty m d a c)) ∧
     (ReadsV s1 b y s2 → ReadsM s2 m mk s3 → each s3 offset → loaded s3 (act.map offset) ls (.vgather ty m d a b))) ∧
  (∀ (s s1 s2 s3 s4 : State) (ty : Ty) (m : MReg) (d b : VReg) (a c : SReg) (va st : B64) (x y : B512) (mk : B64) (l : Nat) (ls : Nat → Nat),
     let n := ty.width / 8
     let act := (List.range ty.lanes).filter (fun j => mk.getLsbD j)
     let near (u : State) (l : Nat) : Prop := (spadCore l).isSome = true → (u.core u.curCore).ksq = []
     let each (u : State) (addr : Nat → B64) : Prop := ∀ j ∈ act, (addr j).toNat % n = 0 ∧
       u.route u.curCore u.me.ctx u.me.sysMode .write (addr j) = .loc (ls j) ∧ near u (ls j)
     let stores (u : State) (as : List B64) (at_ : Nat → Nat) (i : Instr) (P : State → Prop) : Prop := u.stores = [] → u.upd = [] →
       ∃ t, exec i s = .next t ∧ SameMem (u.translatedAll as) t ∧ t.me.pc = u.me.pc + 4 ∧ t.me.v = u.me.v ∧ t.me.s = u.me.s ∧
         (∀ j ∈ act, (∀ k ∈ act, j < k → at_ k + n ≤ at_ j ∨ at_ j + n ≤ at_ k) →
           leNat (t.readFor t.cur (at_ j) n) = elemBits ty.width j x) ∧
         (∀ p ∈ t.stores, p.tid = s.cur ∧ ∀ i < p.data.length, ∃ j ∈ act, at_ j ≤ p.loc + i ∧ p.loc + i < at_ j + n) ∧ P t
     let stride (j : Nat) : B64 := va + BitVec.ofNat 64 j * st
     let offset (j : Nat) : B64 := va + BitVec.ofNat 64 (elemBits ty.width j y)
     (Reads s a va s1 → ReadsV s1 b x s2 → ReadsM s2 m mk s3 →
       (act ≠ [] → va.toNat % 64 = 0 ∧ s3.route s3.curCore s3.me.ctx s3.me.sysMode .write va = .loc l ∧ ∀ j ∈ act, near s3 (l + j * n)) →
       stores s3 (if act = [] then [] else [va]) (fun j => l + j * n) (.vst ty m a b)
         (fun t => ∀ p ∈ t.stores, ∀ q ∈ t.stores, (p.loc - l) / 8 = (q.loc - l) / 8 → p = q ∨ (p.grp ≠ 0 ∧ p.grp = q.grp))) ∧
     (ReadsV s d x s1 → Reads s1 a va s2 → Reads s2 c st s3 → ReadsM s3 m mk s4 → each s4 stride →
       stores s4 (act.map stride) ls (.vsts ty m d a c) (fun _ => True)) ∧
     (ReadsV s d x s1 → Reads s1 a va s2 → ReadsV s2 b y s3 → ReadsM s3 m mk s4 → each s4 offset →
       stores s4 (act.map offset) ls (.vscatter ty m d a b) (fun _ => True)))

/-- R117 to R121, R130, R131: the lane-wise forms of an integer TY: every active lane gets the exact result of its operands' values wrapped to
the lane, every other lane keeps its bits. -/
def Obligations.VectorIntegers : Prop :=
  ∀ (s s0 s1 s2 s3 u : State) (ty : Ty) (m : MReg) (d a b : VReg) (z x y w : B512) (mk : B64), ty.isFloat = false → DestFree s m d →
    let A (j : Nat) : Int := srcInt ty none x j
    let B (j : Nat) : Int := srcInt ty none y j
    let Z (j : Nat) : Int := srcInt ty none z j
    let sh (j : Nat) : Nat := elemBits ty.width j y % ty.width
    let done (s3 : State) (old : B512) (i : Instr) (f : Nat → Int) : Prop :=
      IntLanes ty ty.lanes mk f old w → WritesV (s3.flagged s3.me.gen 0) d w u → exec i s = .next (u.retire 4)
    (ReadsV s a x s1 → ReadsV s1 b y s2 → ReadsM s2 m mk s3 →
      done s3 (oldOf s d) (.vadd ty m d a b) (fun j => A j + B j) ∧ done s3 (oldOf s d) (.vsub ty m d a b) (fun j => A j - B j) ∧
      done s3 (oldOf s d) (.vmul ty m d a b) (fun j => A j * B j) ∧ done s3 (oldOf s d) (.vmulh ty m d a b) (fun j => A j * B j / 2 ^ ty.width) ∧
      done s3 (oldOf s d) (.vmin ty m d a b) (fun j => min (A j) (B j)) ∧ done s3 (oldOf s d) (.vmax ty m d a b) (fun j => max (A j) (B j)) ∧
      done s3 (oldOf s d) (.vand ty m d a b) (fun j => (elemBits ty.width j x &&& elemBits ty.width j y : Nat)) ∧
      done s3 (oldOf s d) (.vor ty m d a b) (fun j => (elemBits ty.width j x ||| elemBits ty.width j y : Nat)) ∧
      done s3 (oldOf s d) (.vxor ty m d a b) (fun j => (elemBits ty.width j x ^^^ elemBits ty.width j y : Nat)) ∧
      done s3 (oldOf s d) (.vsll ty m d a b) (fun j => A j * 2 ^ sh j) ∧
      done s3 (oldOf s d) (.vsrl ty m d a b) (fun j => (elemBits ty.width j x / 2 ^ sh j : Nat)) ∧
      done s3 (oldOf s d) (.vsra ty m d a b) (fun j => A j / 2 ^ sh j) ∧
      done s3 (oldOf s d) (.vdiv ty m d a b) (fun j => if B j = 0 then -1 else (A j).tdiv (B j))) ∧
    (ReadsV s d z s0 → ReadsV s0 a x s1 → ReadsV s1 b y s2 → ReadsM s2 m mk s3 →
      done s3 z (.vma ty m d a b) (fun j => Z j + A j * B j) ∧ done s3 z (.vms ty m d a b) (fun j => Z j - A j * B j)) ∧
    (ReadsV s a x s1 → ReadsM s1 m mk s2 →
      done s2 (oldOf s d) (.vabs ty m d a) (fun j => (A j).natAbs) ∧ done s2 (oldOf s d) (.vneg ty m d a) (fun j => - A j))

/-- R76, R82, R118, R120, R130, R131: the lane-wise forms of a floating TY: every active lane gets the exact result rounded once with VRND, in
ascending order; their flags and draws add up. -/
def Obligations.VectorFloats : Prop :=
  ∀ (s s0 s1 s2 s3 u : State) (ty : Ty) (m : MReg) (d a b : VReg) (z x y w : B512) (mk g : B64) (fl : Flags), ty.isFloat = true → DestFree s m d →
    let A (j : Nat) : FV := srcFlt ty none x j
    let B (j : Nat) : FV := srcFlt ty none y j
    let Z (j : Nat) : FV := srcFlt ty none z j
    let done (s3 : State) (old : B512) (i : Instr) (f : RMode → Nat → FV × Flags) : Prop :=
      FltLanes ty mk (vrndMode s3.me.vrnd) (f (vrndMode s3.me.vrnd)) old w s3.me.gen g fl → WritesV (s3.flagged g fl) d w u →
        exec i s = .next (u.retire 4)
    (ReadsV s a x s1 → ReadsV s1 b y s2 → ReadsM s2 m mk s3 →
      done s3 (oldOf s d) (.vadd ty m d a b) (fun rm j => addFV rm (A j) (B j)) ∧
      done s3 (oldOf s d) (.vsub ty m d a b) (fun rm j => addFV rm (A j) (B j).neg) ∧
      done s3 (oldOf s d) (.vmul ty m d a b) (fun _ j => mulFV (A j) (B j)) ∧
      done s3 (oldOf s d) (.vmin ty m d a b) (fun _ j => minMaxFV false (A j) (B j)) ∧
      done s3 (oldOf s d) (.vmax ty m d a b) (fun _ j => minMaxFV true (A j) (B j)) ∧
      done s3 (oldOf s d) (.vdiv ty m d a b) (fun _ j => divFV (A j) (B j))) ∧
    (ReadsV s d z s0 → ReadsV s0 a x s1 → ReadsV s1 b y s2 → ReadsM s2 m mk s3 →
      done s3 z (.vma ty m d a b) (fun rm j => fmaFV rm (Z j) (A j) (B j)) ∧
      done s3 z (.vms ty m d a b) (fun rm j => fmaFV rm (Z j) (A j).neg (B j))) ∧
    (ReadsV s a x s1 → ReadsM s1 m mk s2 →
      done s2 (oldOf s d) (.vabs ty m d a) (fun _ j => ((A j).abs, 0)) ∧ done s2 (oldOf s d) (.vneg ty m d a) (fun _ j => ((A j).neg, 0)) ∧
      done s2 (oldOf s d) (.vsqrt ty m d a) (fun _ j => sqrtFV (A j)))

/-- R133 to R135: a special-function form joins its croft's queue with its rounded lanes and the bits they take, vD and FFLAGS being
pending, and waits while the queue is full; the unit serves its oldest request; a served one writes those bits and its flags unless its task has
ended. That a request leaves the queue free once it is served, before its result is written, is the model's choice (log entry 45). -/
def Obligations.SpecialFunctions : Prop :=
  (∀ (s s1 s2 : State) (ty : Ty) (m : MReg) (d a : VReg) (x w : B512) (mk g : B64) (fl : Flags), plainV s d → s.sfuRoom s.curCore = true →
    ReadsV s a x s1 → ReadsM s1 m mk s2 →
    let rm := vrndMode s2.me.vrnd
    let issues (i : Instr) (f : FV → FV × Flags) : Prop :=
      FltLanes ty mk rm (fun j => f (srcFlt ty none x j)) (oldOf s d) w s2.me.gen g fl → ∃ t q, exec i s = .next t ∧
        (t.croft (croftOf s2.curCore)).sfu = (s2.croft (croftOf s2.curCore)).sfu ++ [q] ∧ q.tid = s2.cur ∧ q.d = d.val ∧ q.val = w ∧
        q.act = s2.me.act ∧ q.flags = fl ∧ q.served = false ∧
        (∀ j < ty.lanes, elemBits ty.width j q.wmask = if mk.getLsbD j = true then 2 ^ ty.width - 1 else 0) ∧ t.me.gen = g ∧ t.me.v = s2.me.v ∧ t.me.pc = s2.me.pc + 4 ∧
        (∃ p ∈ t.me.pend, p.cls = .v ∧ p.num = d.val ∧ p.op = q.op) ∧ (∃ p ∈ t.me.pend, p.cls = .fflags ∧ p.op = q.op)
    issues (.vrcp ty m d a) (fun v => divFV (.fin false 1 0) v) ∧ issues (.vrsq ty m d a) rsqFV ∧ issues (.vexp2 ty m d a) exp2FV ∧
    issues (.vlog2 ty m d a) log2FV ∧ issues (.vsig ty m d a) sigFV ∧ issues (.vtanh ty m d a) tanhFV) ∧
  (∀ (s : State) (ty : Ty) (m : MReg) (d a : VReg), s.me.ports.get? d.val = none → s.sfuRoom s.curCore = false →
    let waits (i : Instr) : Prop := exec i s = .next (s.stallCur .sfuQueue)
    waits (.vrcp ty m d a) ∧ waits (.vrsq ty m d a) ∧ waits (.vexp2 ty m d a) ∧ waits (.vlog2 ty m d a) ∧ waits (.vsig ty m d a) ∧
    waits (.vtanh ty m d a)) ∧
  (∀ (s : State) (c : Nat) (q : SfuReq) (qs : List SfuReq), s.stretched (c * 8) = false → (s.croft c).sfu = q :: qs →
    (q.served = false → ∃ t, exec (.sfuRequestService c) s = .next t ∧ (t.croft c).sfu = { q with served := true } :: qs) ∧
    (q.served = true → (s.thread q.tid).act ≠ q.act → ∃ t, exec (.sfuResultWrite c) s = .next t ∧ (t.croft c).sfu = qs ∧ t.threads = s.threads) ∧
    (q.served = true → (s.thread q.tid).act = q.act → ∃ t, exec (.sfuResultWrite c) s = .next t ∧ (t.croft c).sfu = qs ∧
      (t.thread q.tid).v.get 0 q.d = (((s.thread q.tid).v.get 0 q.d &&& ~~~q.wmask) ||| (q.val &&& q.wmask)) ∧
      (t.thread q.tid).fflags = (s.thread q.tid).fflags ||| q.flags ∧ (∀ p ∈ (t.thread q.tid).pend, p.op ≠ q.op)))

/-- R136: permutes: lanes picked by index, a scalar broadcast, one lane read or written, lanes slid by a signed distance.
R117, R139, R140: compares give one bit for each active lane whose exact values stand in the relation (a NaN only in `ne` and `un`, with
NV), 0 elsewhere; the mask forms work on whole masks, the counts on the mask under the other mask. -/
def Obligations.VectorPermutes : Prop :=
  (∀ (s s1 s2 s3 u : State) (ty : Ty) (m : MReg) (d a b : VReg) (p q e : SReg) (x y w old : B512) (v n mk : B64),
     let L := ty.lanes
     (DestFree s m d →
       (ReadsV s a x s1 → ReadsV s1 b y s2 → ReadsM s2 m mk s3 →
         CopyLanes ty mk (fun j => elemBits ty.width (elemBits ty.width j y % L) x) (oldOf s d) w → WritesV s3 d w u →
         exec (.vshuf ty m d a b) s = .next (u.retire 4)) ∧
       (Reads s p v s1 → ReadsM s1 m mk s2 → CopyLanes ty mk (fun _ => v.toNat % 2 ^ ty.width) (oldOf s d) w → WritesV s2 d w u →
         exec (.vbcast ty m d p) s = .next (u.retire 4)) ∧
       (ReadsV s a x s1 → Reads s1 q n s2 → ReadsM s2 m mk s3 →
         CopyLanes ty mk (fun j => if 0 ≤ (j : Int) + n.toInt ∧ (j : Int) + n.toInt < L then elemBits ty.width ((j : Int) + n.toInt).toNat x else 0)
           (oldOf s d) w → WritesV s3 d w u → exec (.vslide ty m d a q) s = .next (u.retire 4))) ∧
     (ReadsV s a x s1 → Reads s1 q n s2 →
       Writes s2 e (if ty.isFloat then BitVec.ofNat 64 (elemBits ty.width (n.toNat % L) x) else BitVec.ofInt 64 (srcInt ty none x (n.toNat % L))) u →
       exec (.vextr ty e a q) s = .next (u.retire 4)) ∧
     (ReadsV s d old s1 → Reads s1 p v s2 → Reads s2 q n s3 →
       (∀ j < L, elemBits ty.width j w = if j = n.toNat % L then v.toNat % 2 ^ ty.width else elemBits ty.width j old) → WritesV s3 d w u →
       exec (.vins ty d p q) s = .next (u.retire 4))) ∧
  ((∀ (s s1 s2 s3 u : State) (c : Cmp) (ty : Ty) (m d : MReg) (a b : VReg) (x y : B512) (mk r : B64), ReadsV s a x s1 → ReadsV s1 b y s2 →
     ReadsM s2 m mk s3 →
     let order (j : Nat) : Option Int :=
       if ty.isFloat then cmpFV (srcFlt ty none x j) (srcFlt ty none y j) else some (srcInt ty none x j - srcInt ty none y j)
     let holds (o : Option Int) : Bool := match o with
       | none => c == .ne || c == .un
       | some v => match c with
         | .eq => v == 0 | .ne => v != 0 | .lt => decide (v < 0) | .le => decide (v ≤ 0) | .gt => decide (0 < v) | .ge => decide (0 ≤ v) | .un => false
     (∀ j < 64, r.getLsbD j = (decide (j < ty.lanes) && mk.getLsbD j && holds (order j))) →
     WritesM (if ∃ j < ty.lanes, mk.getLsbD j = true ∧ order j = none then s3.flagged s3.me.gen flagNV else s3) d r u →
     exec (.vcmp c ty m d a b) s = .next (u.retire 4)) ∧
   (∀ (s s1 s2 u : State) (d a b m : MReg) (e : SReg) (x y mk : B64), ReadsM s a x s1 →
     (ReadsM s1 b y s2 →
       (WritesM s2 d (x &&& y) u → exec (.mand d a b) s = .next (u.retire 4)) ∧
       (WritesM s2 d (x ||| y) u → exec (.mor d a b) s = .next (u.retire 4)) ∧
       (WritesM s2 d (x ^^^ y) u → exec (.mxor d a b) s = .next (u.retire 4))) ∧
     (WritesM s1 d (~~~x) u → exec (.mnot d a) s = .next (u.retire 4)) ∧
     (ReadsM s1 m mk s2 →
       (Writes s2 e (BitVec.ofNat 64 ((List.range 64).countP (fun i => (x &&& mk).getLsbD i))) u → exec (.mpop m e a) s = .next (u.retire 4)) ∧
       (∀ k : Nat, (if x &&& mk = 0 then k = 64 else k < 64 ∧ (x &&& mk).getLsbD k = true ∧ ∀ i < k, (x &&& mk).getLsbD i = false) →
         Writes s2 e (BitVec.ofNat 64 k) u → exec (.mfirst m e a) s = .next (u.retire 4)))))

/-- R83, R84, R137, R138: reductions and the scan. Over an integer TY a sum is the exact sum of the active lanes, a maximum or minimum that of
the active lanes (the identity with none), a prefix sum the exact sum so far; over a floating TY nodes are rounded pairwise in R83's tree, a
maximum or minimum of lanes with a NaN is NaN with NV, +0 lies above −0, and each prefix sum is rounded once, in lane order. -/
def Obligations.VectorReductions : Prop :=
  ∀ (s s1 s2 u : State) (ty : Ty) (m : MReg) (d : SReg) (vd a : VReg) (x w : B512) (mk : B64), ReadsV s a x s1 → ReadsM s1 m mk s2 →
    let A (j : Nat) : Int := srcInt ty none x j
    let act := (List.range ty.lanes).filter (fun j => mk.getLsbD j)
    (ty.isFloat = false →
      (Writes s2 d (BitVec.ofInt 64 (act.map A).sum) u → exec (.vredsum ty m d a) s = .next (u.retire 4)) ∧
      (∀ v : Int, (if act = [] then v = (if tySigned ty then -(2 ^ (ty.width - 1)) else 0) else (∃ j ∈ act, v = A j) ∧ ∀ j ∈ act, A j ≤ v) →
        Writes s2 d (BitVec.ofInt 64 v) u → exec (.vredmax ty m d a) s = .next (u.retire 4)) ∧
      (∀ v : Int, (if act = [] then v = (if tySigned ty then 2 ^ (ty.width - 1) - 1 else 2 ^ ty.width - 1)
          else (∃ j ∈ act, v = A j) ∧ ∀ j ∈ act, v ≤ A j) →
        Writes s2 d (BitVec.ofInt 64 v) u → exec (.vredmin ty m d a) s = .next (u.retire 4)) ∧
      (DestFree s m vd → IntLanes ty ty.lanes mk (fun j => ((act.filter (fun i => i ≤ j)).map A).sum) (oldOf s vd) w →
        WritesV (s2.flagged s2.me.gen 0) vd w u → exec (.vscan ty m vd a) s = .next (u.retire 4))) ∧
    (ty.isFloat = true → (∃ j ∈ act, (srcFlt ty none x j).isNan = true) →
      Writes (s2.flagged s2.me.gen flagNV) d (BitVec.ofNat 64 (roundTo fmtF32 .rne false 0 .nan).bits) u →
      exec (.vredmax ty m d a) s = .next (u.retire 4) ∧ exec (.vredmin ty m d a) s = .next (u.retire 4)) ∧
    (∀ (ys : Nat → FV) (gs : Nat → B64) (fs : Nat → Flags), ty.isFloat = true → DestFree s m vd → gs 0 = s2.me.gen → fs 0 = 0 →
      let rm := vrndMode s2.me.vrnd
      (∀ j < ty.lanes,
        let sum := if j = 0 then (srcFlt ty none x 0, 0) else addFV rm (ys (j - 1)) (srcFlt ty none x j)
        let q := roundTo (tyFmt ty) rm false (gs j) sum.1
        if mk.getLsbD j = true then ys j = (tyFmt ty).value q.bits ∧ elemBits ty.width j w = q.bits ∧ gs (j + 1) = q.gen ∧
          fs (j + 1) = fs j ||| sum.2 ||| q.flags
        else ys j = (if j = 0 then .fin true 0 0 else ys (j - 1)) ∧ elemBits ty.width j w = elemBits ty.width j (oldOf s vd) ∧
          gs (j + 1) = gs j ∧ fs (j + 1) = fs j) →
      WritesV (s2.flagged (gs ty.lanes) (fs ty.lanes)) vd w u → exec (.vscan ty m vd a) s = .next (u.retire 4)) ∧
    (ty.isFloat = true →
      let leaf (i : FV) (j : Nat) : FV := if mk.getLsbD j then srcFlt ty none x j else i
      let rm := vrndMode s2.me.vrnd
      let sum := treeFold (redFlt .sum rm) (Nat.log2 ty.lanes) (0, s2.me.gen) ((List.range ty.lanes).map (leaf (.fin true 0 0)))
      (∀ v : FV, sum.2 = [v] → Writes (s2.flagged sum.1.2 sum.1.1) d (BitVec.ofNat 64 (roundTo fmtF32 .rne false 0 v).bits) u →
        exec (.vredsum ty m d a) s = .next (u.retire 4)) ∧
      (∀ v : FV, (∀ j ∈ act, (srcFlt ty none x j).isNan = false) →
        (act = [] → v = .inf true) → (act ≠ [] → ∃ j ∈ act, v = srcFlt ty none x j) →
        (∀ j ∈ act, srcFlt ty none x j = v ∨ cmpFV (srcFlt ty none x j) v = some (-1) ∨
          ((srcFlt ty none x j).isZero = true ∧ v.isZero = true ∧ ∃ e, v = .fin false 0 e)) →
        Writes (s2.flagged s2.me.gen 0) d (BitVec.ofNat 64 (roundTo fmtF32 .rne false 0 v).bits) u →
        exec (.vredmax ty m d a) s = .next (u.retire 4)) ∧
      (∀ v : FV, (∀ j ∈ act, (srcFlt ty none x j).isNan = false) →
        (act = [] → v = .inf false) → (act ≠ [] → ∃ j ∈ act, v = srcFlt ty none x j) →
        (∀ j ∈ act, srcFlt ty none x j = v ∨ cmpFV v (srcFlt ty none x j) = some (-1) ∨
          ((srcFlt ty none x j).isZero = true ∧ v.isZero = true ∧ ∃ e, v = .fin true 0 e)) →
        Writes (s2.flagged s2.me.gen 0) d (BitVec.ofNat 64 (roundTo fmtF32 .rne false 0 v).bits) u →
        exec (.vredmin ty m d a) s = .next (u.retire 4)))

/-- R76, R80, R117, R141 to R143: conversions between types, over the lanes both have, by value (one to the same type rounds nothing, so it
draws nothing); selection of patterns by the mask; dot products of neighbouring half-width elements with the destination lane, exact and
rounded once. A `vdot` of another type is ILLEGAL with its word: the model's reading, log entry 22. -/
def Obligations.ConvertSelectDot : Prop :=
  ∀ (s s0 s1 s2 s3 u : State) (ty st : Ty) (m : MReg) (d a b : VReg) (z x y w : B512) (mk g : B64) (fl : Flags), DestFree s m d →
    (ReadsV s a x s1 → ReadsM s1 m mk s2 →
      let n := min ty.lanes st.lanes
      let rm := vrndMode s2.me.vrnd
      (ty.isFloat = false → st.isFloat = false → IntLanes ty n mk (fun j => clampInt ty.width (tySigned ty) (srcInt st none x j)) (oldOf s d) w →
        WritesV (s2.flagged s2.me.gen 0) d w u → exec (.vcvt ty st m d a) s = .next (u.retire 4)) ∧
      (ty.isFloat = true → st.isFloat = false →
        RndLanes ty n mk (fun j g => roundTo (tyFmt ty) rm false g (FV.ofInt (srcInt st none x j))) (fun _ => 0) (oldOf s d) w s2.me.gen g fl →
        WritesV (s2.flagged g fl) d w u → exec (.vcvt ty st m d a) s = .next (u.retire 4)) ∧
      (ty.isFloat = true → st.isFloat = true →
        RndLanes ty n mk (fun j g => roundTo (tyFmt ty) (if st = ty then .rne else rm) false g (srcFlt st none x j)) (fun _ => 0) (oldOf s d) w
          s2.me.gen g fl →
        WritesV (s2.flagged g fl) d w u → exec (.vcvt ty st m d a) s = .next (u.retire 4)) ∧
      (ty.isFloat = false → st.isFloat = true →
        RndLanes ty n mk (fun j g => roundToInt rm ty.width (tySigned ty) g (srcFlt st none x j)) (fun _ => 0) (oldOf s d) w s2.me.gen g fl →
        WritesV (s2.flagged g fl) d w u → exec (.vcvt ty st m d a) s = .next (u.retire 4))) ∧
    (ReadsV s a x s1 → ReadsV s1 b y s2 → ReadsM s2 m mk s3 →
      (∀ j < ty.lanes, elemBits ty.width j w = elemBits ty.width j (if mk.getLsbD j then x else y)) → WritesV s3 d w u →
      exec (.vsel ty m d a b) s = .next (u.retire 4)) ∧
    (ReadsV s d z s0 → ReadsV s0 a x s1 → ReadsV s1 b y s2 → ReadsM s2 m mk s3 →
      (ty = .s16 ∨ ty = .s32 ∨ ty = .s64 →
        let half (v : B512) (k : Nat) : Int := intVal (ty.width / 2) true (elemBits (ty.width / 2) k v)
        IntLanes ty ty.lanes mk (fun j => srcInt ty none z j + half x (2 * j) * half y (2 * j) + half x (2 * j + 1) * half y (2 * j + 1)) z w →
        WritesV (s3.flagged s3.me.gen 0) d w u → exec (.vdot ty m d a b) s = .next (u.retire 4)) ∧
      (ty = .f32 →
        let half (v : B512) (k : Nat) : FV := fmtBF16.value (elemBits 16 k v)
        let rm := vrndMode s3.me.vrnd
        FltLanes ty mk rm (fun j =>
          let p := fmaFV rm (srcFlt ty none z j) (half x (2 * j)) (half y (2 * j))
          let q := fmaFV rm p.1 (half x (2 * j + 1)) (half y (2 * j + 1))
          (q.1, p.2 ||| q.2)) z w s3.me.gen g fl →
        WritesV (s3.flagged g fl) d w u → exec (.vdot ty m d a b) s = .next (u.retire 4))) ∧
    (ty = .s8 ∨ ty = .n8 ∨ ty = .bf16 ∨ ty = .h16 → s.hasHandler →
      exec (.vdot ty m d a b) s = .next (s.entered 1 (BitVec.ofNat 64 ((encode (.vdot ty m d a b)).getD 0)) s.me.pc false))

/-- R60 to R62, R121 to R124: `view` and the instruction after it are one instruction of eight bytes: an addition under views takes the exact
values of its source elements and writes the destination elements of the active lanes; a follower that the views do not fit is ILLEGAL with its
word. -/
def Obligations.ViewResults : Prop :=
  (∀ (s s1 s2 s3 u : State) (v : View) (ty : Ty) (m : MReg) (d a b : VReg) (x y w : B512) (mk : B64), s.follower s.cur = .vadd ty m d a b →
    viewPairs v ty = true → ty.isFloat = false → s.me.pend.any (fun p => p.cls == .v && p.num == d.val) = false →
    s.me.ports.get? d.val = none → ReadsV s a x s1 → ReadsV s1 b y s2 → ReadsM s2 m mk s3 →
    let sum (j : Nat) : Int := srcInt ty v.av x j + srcInt ty v.bv y j
    (v.dn = none → IntLanes ty ty.lanes mk sum (oldOf s d) w → WritesV (s3.flagged s3.me.gen 0) d w u →
      exec (.view v) s = .next (u.retire 8)) ∧
    (∀ f, v.dn = some f → f.isFloat = false →
      (∀ k < f.count, elemBits f.bits k w =
        if v.di.val * ty.lanes ≤ k ∧ k < v.di.val * ty.lanes + ty.lanes ∧ mk.getLsbD (k - v.di.val * ty.lanes) = true then
          wrapInt f.bits (if v.ds then clampInt f.bits (vSigned f) (sum (k - v.di.val * ty.lanes)) else sum (k - v.di.val * ty.lanes))
        else elemBits f.bits k (oldOf s d)) →
      (∀ k, f.count * f.bits ≤ k → w.getLsbD k = (oldOf s d).getLsbD k) →
      WritesV (s3.flagged s3.me.gen 0) d w u → exec (.view v) s = .next (u.retire 8))) ∧
  (∀ (s t : State) (v : View) (i : Instr) (body : Exec Unit), s.follower s.cur = i → (∀ p c, i ≠ .instructionFetchFault p c) →
    followBody v i = some body → body.run s = .ok ((), t) → exec (.view v) s = .next (t.retire 8)) ∧
  (∀ (s : State) (v : View) (i : Instr), s.follower s.cur = i → (∀ p c, i ≠ .instructionFetchFault p c) → followBody v i = none →
    s.hasHandler → exec (.view v) s = .next (s.entered 1 (followVal i) s.me.pc false))

/-- R117: the frame of the vector forms that write a vector register, whatever their operands are bound to, with a trap handler set: a form
that does not load leaves memory, the pending stores and the Update-only lines as they are; one that loads may first bring stores and combines
to memory, so bytes that neither covers (nor a spill queue stands in, R33) read as before; no register but the destination, the generator and
the flags changes; a trap (of a port, an access, a shape) writes the trap registers, and then no register else. A load is stated with no
`ksend` of its core waiting (R154) and no Echo unit logging. -/
def Obligations.VectorFrame : Prop :=
  ∀ i d s t, vecDest i = some d → s.hasHandler → exec i s = .next t →
    let loads : Prop := (∃ ty m a, i = .vld ty m d a) ∨ (∃ ty m a b, i = .vlds ty m d a b) ∨ (∃ ty m a b, i = .vgather ty m d a b)
    (¬ loads → t.mem = s.mem ∧ t.stores = s.stores ∧ t.upd = s.upd) ∧
    (loads → (s.core s.curCore).ksq = [] → s.fleet.echo.cells = [] →
      (∀ u ∈ s.upd, ∀ e ∈ u.elems.cells, (e.1 + 1) * (if u.w64 then 8 else 4) ≤ 256) →
      ∀ x, (∀ p ∈ s.stores, (x < p.loc ∨ p.loc + p.data.length ≤ x) ∧ (p.comb.isSome = true → x / 256 ≠ p.loc / 256)) → (∀ u ∈ s.upd, x / 256 ≠ u.line) → spillCore x 1 = none →
        readByte t.mem x = readByte s.mem x) ∧
    t.now = s.now ∧ t.cur = s.cur ∧
    (¬ loads ∨ (s.core s.curCore).ksq = [] → ∀ k, SameButVector (s.thread k) (t.thread k) ∧
      (∀ r, k ≠ s.cur ∨ r ≠ d.val → (t.thread k).v.get 0 r = (s.thread k).v.get 0 r) ∧
      (SameTrap (s.thread k) (t.thread k) ∨
        (k = s.cur ∧ (t.thread k).pc = tvecAddr (s.core s.curCore).tvec ∧ (t.thread k).tcause.getLsbD 15 = true ∧
          (t.thread k).v = (s.thread k).v ∧ (t.thread k).fflags = (s.thread k).fflags)))

/-! ## Engines -/

/-- R144, R145, R163, R164, R170, R171: a mill instruction writes its job's id to sD and queues the job with the control values of its issue;
`mm.mova` and `mm.movv` move the half-row sA[5:0] of a tile no job of the task still writes; `mm.query` gives the remembered status, bit 8 done,
bit 9 started, 0x1FF for a job not remembered; `mm.cancel` removes the task's unstarted jobs it names and completes them with E set. -/
def Obligations.MillResults : Prop :=
  (∀ (s s1 s2 u : State) (a : AReg) (k : KReg) (d p q : SReg) (x y : B64), MillRoom s k →
    let id (v : State) : Nat := slotOf s.cur % 4 * 2 ^ 16 + v.me.nextMill
    let queues (v : State) (i : Instr) (op : MillOp) (x y : B64) : Prop :=
      Writes v d (BitVec.ofNat 64 (id v)) u → ∃ r, exec i s = .next r ∧ MillIssued u r k (v.millJob u op (id v) a k x y)
    queues s (.mmZero a k d) .zero 0 0 ∧
    (Reads s p x s1 → queues s1 (.mmLdacc a k d p) .ldacc x 0 ∧ queues s1 (.mmStacc a k d p) .stacc x 0 ∧
      (Reads s1 q y s2 → queues s2 (.mmMma a k d p q) .mma x y ∧ queues s2 (.mmMmag a k d p q) .mmag x y))) ∧
  (∀ (s s1 s2 t : State) (a : AReg) (d b : VReg) (p : SReg) (h : B64) (v : B512), s.me.tilesOld = false → s.tileBusy s.cur a.val = false →
    Reads s p h s1 →
    ((∀ i < 16, elemBits 32 i v = (tileElem s1.me a.val (h.toNat % 64 / 2) (h.toNat % 2 * 16 + i)).toNat) → WritesV s1 d v t →
      exec (.mmMova a d p) s = .next (t.retire 4)) ∧
    (ReadsV s1 b v s2 → ∃ r, exec (.mmMovv a p b) s = .next r ∧ r.me.pc = s2.me.pc + 4 ∧ r.me.s = s2.me.s ∧ r.mem = s2.mem ∧
      (∀ a' i j, i < 32 → j < 32 → tileElem r.me a' i j =
        if a' = a.val ∧ i = h.toNat % 64 / 2 ∧ j / 16 = h.toNat % 2 then BitVec.ofNat 32 (elemBits 32 (j % 16) v)
        else tileElem s2.me a' i j))) ∧
  (∀ (s s1 u : State) (d p : SReg) (x : B64), s.me.tilesOld = false → Reads s p x s1 →
    (∀ j : JobMem, s1.me.jobs.find? (fun m => m.id == x.toNat) = some j →
      Writes s1 d (BitVec.ofNat 64 (j.status + (if j.done then 256 else 0) + (if j.started then 512 else 0))) u →
      exec (.mmQuery d p) s = .next (u.retire 4)) ∧
    (s1.me.jobs.find? (fun m => m.id == x.toNat) = none → Writes s1 d 0x1FF#64 u → exec (.mmQuery d p) s = .next (u.retire 4))) ∧
  (∀ (s s1 : State) (d p : SReg) (x : B64), s.me.tilesOld = false → Reads s p x s1 →
    let named (j : MillJob) : Bool := j.tid == s1.cur && j.act == s1.me.act && (x.toNat == 0 || j.id == x.toNat)
    let js := (s1.core s1.curCore).millQ.filter named
    ∃ v, v.cur = s1.cur ∧ (v.core s1.curCore).millQ = (s1.core s1.curCore).millQ.filter (fun j => !named j) ∧
      (∀ k, v.me.kc.get 0 k = s1.me.kc.get 0 k - js.countP (fun j => j.k == k)) ∧
      (∀ k, v.me.ke.get false k = (s1.me.ke.get false k || js.any (fun j => j.k == k))) ∧
      (∀ u, Writes v d (BitVec.ofNat 64 js.length) u → exec (.mmCancel d p) s = .next (u.retire 4)))

/-- R19, R144, R165 to R168, R251: the arbiter starts the oldest job of the core it serves and finds its status; a block that ends brings the
job one block further, but for one that could not be decoded; a job whose blocks have run retires: with status 0 its tile (or its store) takes
effect and its counter falls, with another status E is set as well and nothing is written. -/
def Obligations.MillJobs : Prop :=
  (∀ (s : State) (f r n : Nat) (j : MillJob) (js : List MillJob), s.stretched (f * 8) = false → s.millPick f = some (r, n) →
    (s.core (f * 8 + r)).millCur = none → (s.core (f * 8 + r)).millQ = j :: js →
    ∃ t j', exec (.millJobStart f) s = .next t ∧ (t.core (f * 8 + r)).millQ = js ∧ (t.core (f * 8 + r)).millCur = some j' ∧
      j'.id = j.id ∧ j'.op = j.op ∧ j'.blocks = j.blocks ∧ (t.croft f).millAt = r ∧
      (j.op = .mma ∨ j.op = .mmag → pairOk j.fa j.fb j.scl = false → j'.status = 1) ∧
      (j.op = .mma → pairOk j.fa j.fb j.scl = true → j.mkReg.toNat = 0 ∨ maxK j.fa < j.mkReg.toNat → j'.status = 2) ∧
      (j.op = .ldacc ∨ j.op = .stacc → j'.status =
        if j.a.toNat % 16 ≠ 0 then 4 else match millPlace (coreOf j.tid) j.a 4096 with | .at _ => 0 | .address => 5 | .prot => 6)) ∧
  (∀ (s : State) (f r n : Nat) (j : MillJob), s.stretched (f * 8) = false → s.millPick f = some (r, n) →
    (s.core (f * 8 + r)).millCur = some j → j.dead = false → j.blocks < j.need →
    ∃ t j', exec (.millBlockEnd f) s = .next t ∧ (t.core (f * 8 + r)).millCur = some j' ∧ j'.id = j.id ∧
      (j'.status = j.status → j'.blocks = j.blocks + 1 ∧ (t.croft f).millLeft = n - 1) ∧
      (j'.status ≠ j.status → j'.blocks = j.blocks ∧ (t.croft f).millLeft = n) ∧
      (j.op = .zero ∨ j.op = .ldacc ∨ j.op = .stacc → j'.status = j.status) ∧
      (j.op = .zero → j'.work = List.replicate 1024 0) ∧
      (∀ l, j.op = .ldacc → j.ahead = [] → s.stores = [] → s.upd = [] → millPlace (coreOf j.tid) j.a 4096 = .at l →
        ∀ i < 1024, j'.work[i]? = some (BitVec.ofNat 32 (leNat (readBytes s.mem (l + 4 * i) 4))))) ∧
  (∀ (s : State) (c : Nat) (j : MillJob), s.stretched (c / 8 * 8) = false → (s.core c).millCur = some j → j.dead = false →
    j.need ≤ j.blocks → (s.thread j.tid).act = j.act → (s.thread j.tid).tilesOld = false →
    ∃ t, exec (.millJobComplete c) s = .next t ∧ (t.core c).millCur = none ∧
      (t.thread j.tid).kc.get 0 j.k = (s.thread j.tid).kc.get 0 j.k - 1 ∧
      (j.status = 0 → (t.thread j.tid).ke = (s.thread j.tid).ke ∧
        (j.op ≠ .stacc → j.work.length = 1024 → t.mem = s.mem ∧
          (∀ i k, i < 32 → k < 32 → some (tileElem (t.thread j.tid) j.tile i k) = j.work[i * 32 + k]?) ∧
          (∀ a i k, i < 32 → k < 32 → a ≠ j.tile → tileElem (t.thread j.tid) a i k = tileElem (s.thread j.tid) a i k)) ∧
        (∀ l, j.op = .stacc → s.stores = [] → s.upd = [] → s.fleet.echo.cells = [] → millPlace (coreOf j.tid) j.a 4096 = .at l →
          (t.thread j.tid).tiles = (s.thread j.tid).tiles ∧
          t.mem = writeBytes s.mem l (j.work.flatMap (fun x => leBytes 4 x.toNat)))) ∧
      (j.status ≠ 0 → (t.thread j.tid).ke.get false j.k = true ∧ (t.thread j.tid).tiles = (s.thread j.tid).tiles ∧ t.mem = s.mem))

/-- R86: a K-block of an unscaled product of plain formats, with nothing pending: each element of the tile takes, rounded to F32 to nearest
even, its value plus the block's exact sum of products rounded to F32. -/
def Obligations.MillProduct : Prop :=
  ∀ (s : State) (f r n : Nat) (j : MillJob) (la lb : Nat → Nat), s.stretched (f * 8) = false → s.millPick f = some (r, n) →
    (s.core (f * 8 + r)).millCur = some j → j.dead = false → j.blocks < j.need → j.op = .mma → j.fa ≠ 13 → j.fb ≠ 13 → j.scl = 0 →
    j.ahead = [] → s.stores = [] → s.upd = [] → j.work.length = 1024 →
    let K := min 32 (j.mkReg.toNat - 32 * j.blocks)
    let wa := millWidth j.fa
    let wb := millWidth j.fb
    (∀ i < 32, millPlace (coreOf j.tid) (j.rowA i + BitVec.ofNat 64 (4 * wa * j.blocks)) ((K * wa + 7) / 8) = .at (la i)) →
    (∀ k < K, millPlace (coreOf j.tid) (j.rowB (32 * j.blocks + k)) (4 * wb) = .at (lb k)) →
    let A (i k : Nat) : FV := millVal j.fa (leNat (readBytes s.mem (la i) ((K * wa + 7) / 8)) / 2 ^ (wa * k) % 2 ^ wa)
    let B (k c : Nat) : FV := millVal j.fb (leNat (readBytes s.mem (lb k) (4 * wb)) / 2 ^ (wb * c) % 2 ^ wb)
    ∃ t j', exec (.millBlockEnd f) s = .next t ∧ (t.core (f * 8 + r)).millCur = some j' ∧ j'.status = j.status ∧ t.mem = s.mem ∧
      ∀ i c acc, i < 32 → c < 32 → j.work[i * 32 + c]? = some acc →
        let p := dotFV ((List.range K).map (A i)) ((List.range K).map (fun k => B k c)) (.fin false 0 0)
        let x := if p.isZero then .fin false 0 0 else fmtF32.value (roundTo fmtF32 .rne false 0 p).bits
        j'.work[i * 32 + c]? = some (BitVec.ofNat 32 (roundTo fmtF32 .rne false 0 (addFV .rne (fmtF32.value acc.toNat) x).1).bits)

/-- R144, R145, R172, R173: a cart instruction writes its job's id to sD and queues the job with the 56 bytes of its block as they stand; a
block that is not aligned in the core's own data area makes it complete at once with E set.
R173 to R175, R178, R252: the arbiter starts the next job of the core it visits and reports SHAPE; the last element of a local byte copy or
fill is written; a job that has moved everything and has every answer first writes what its read packets brought, then its status word at
offset 0x38 of its block (what is left of it, R208), and its counter falls, with E set when the word's code is not 0; its completion message
leaves when NEN asks for one. -/
def Obligations.CartResults : Prop :=
  (∀ (s s1 u : State) (x : Bool) (k : KReg) (d a : SReg) (va : B64) (f : (Bool → KReg → SReg → SReg → Instr) × CartOp),
     f = (Instr.cpCopy, .copy) ∨ f = (Instr.cpGather, .gather) ∨ f = (Instr.cpFill, .fill) ∨ f = (Instr.cpRemote, .remote) ∨
       f = (Instr.cpMcast, .mcast) ∨ f = (Instr.cpRsend, .rsend) ∨ f = (Instr.cpReduce, .reduce) →
     s.me.kc.get 0 k.val < 255 →
     (s.core s.curCore).cartQ.length < 16 → Reads s a va s1 →
     let id := 2 ^ 18 + slotOf s.cur % 4 * 2 ^ 16 + s1.me.nextCart
     (blockOff s.curCore va = none → Writes s1 d (BitVec.ofNat 64 id) u →
       ∃ r, exec (f.1 x k d a) s = .next r ∧ r.me.ke.get false k.val = true ∧ r.me.kc = u.me.kc ∧ r.me.nextCart = nextSeqNo u.me.nextCart ∧
         (r.core u.curCore).cartQ = (u.core u.curCore).cartQ ∧ r.me.pc = u.me.pc + 4 ∧ r.me.s = u.me.s ∧ r.mem = u.mem) ∧
     (∀ o, blockOff s.curCore va = some o → (s1.core s1.curCore).ksq = [] →
       let l := spadLoc s.curCore o
       let v := s1.prepRead s1.cur l 56
       Writes v d (BitVec.ofNat 64 id) u →
       ∃ r j, exec (f.1 x k d a) s = .next r ∧ (r.core u.curCore).cartQ = (u.core u.curCore).cartQ ++ [j] ∧ j.op = f.2 ∧ j.id = id ∧
         j.tid = u.cur ∧ j.k = k.val ∧ j.xafter = x ∧ j.blk = v.readFor s1.cur l 56 ∧ j.loc = l ∧ j.gen = seedOf j.seed ∧
         j.after = u.nextSer ∧ j.pos = 0 ∧ r.me.kc.get 0 k.val = u.me.kc.get 0 k.val + 1 ∧ r.me.nextCart = nextSeqNo u.me.nextCart ∧
         r.me.pc = u.me.pc + 4 ∧ r.me.s = u.me.s ∧ r.mem = u.mem)) ∧
  ((∀ (s : State) (f c : Nat) (j : CartJob), s.stretched (f * 8) = false → s.cartPick f = some c → (s.core c).cartCur = none →
     (s.core c).cartNext = some j →
     ∃ t j', exec (.cartJobStart f) s = .next t ∧ (t.core c).cartCur = some j' ∧ j'.uid = j.uid ∧ j'.id = j.id ∧ j'.pos = j.pos ∧
       (∀ q ∈ (t.core c).cartQ, q.uid ≠ j.uid) ∧
       (j.code = 0 → j.badShape = true → j'.code = 7 ∧ j'.fin = true)) ∧
   (∀ (s : State) (f c l src : Nat) (j : CartJob), s.stretched (f * 8) = false → s.cartPick f = some c → (s.core c).cartCur = some j →
     j.fin = false → j.op = .fill ∨ j.op = .copy → j.sfmt = 0 → j.dfmt = 0 → j.side = 0 → j.segs = [] → j.rivals = [] → j.part = none →
     j.resid = none → j.ahead = [] → j.buf = none → j.owed = 0 → j.total = j.pos + 1 → 1 ≤ (s.core c).cw → s.stores = [] → s.upd = [] → s.fleet.echo.cells = [] →
     (∀ tid key, s.canWriteBack tid key = false ∧ s.canRefill tid key = false) →
     s.route j.core j.ctx j.sys .write (j.dstElem j.pos) = .loc l → spillCore l 1 = none →
     (j.op = .copy → s.route j.core j.ctx j.sys .read (j.srcRow (j.pos / j.count) + BitVec.ofNat 64 (j.pos % j.count)) = .loc src ∧
       spillCore src 1 = none) →
     let b : Byte := if j.op = .fill then (j.aux >>> (8 * (j.pos % j.count % 8))).setWidth 8 else readByte s.mem src
     ∃ t j', exec (.cartVisitEnd f) s = .next t ∧ (t.core c).cartCur = some j' ∧ j'.fin = true ∧ j'.code = j.code ∧ j'.pos = j.pos + 1 ∧
       t.mem = writeBytes s.mem l [b] ∧ (t.croft (croftOf c)).cartAt = c % 8) ∧
   (∀ (s : State) (c : Nat) (j : CartJob), s.stretched (c / 8 * 8) = false → (s.core c).cartCur = some j → j.fin = true → j.part = none → j.resid = none →
     j.owed = 0 → j.reqs = [] → (s.thread j.tid).act = j.act →
     ∃ t, exec (.cartJobComplete c 0) s = .next t ∧ (t.core c).cartCur = none ∧
       (t.thread j.tid).kc.get 0 j.k = (s.thread j.tid).kc.get 0 j.k - 1 ∧
       (j.word % 256 = 0 → (t.thread j.tid).ke = (s.thread j.tid).ke) ∧
       (j.word % 256 ≠ 0 → (t.thread j.tid).ke.get false j.k = true) ∧
       (s.stores = [] → s.upd = [] → s.fleet.echo.cells = [] → spillCore (j.loc + 0x38 + j.told) (8 - j.told) = none →
         t.mem = writeBytes s.mem (j.loc + 0x38 + j.told) ((leBytes 8 j.word).drop j.told)) ∧
       (j.nen = false → t.drift = s.drift) ∧
       (j.nen = true → j.code ≠ 7 → ∃ m, t.drift = s.drift ++ [m] ∧ m.dest = j.ncore ∧ m.ctx = j.ctx ∧ m.chan = bits j.ctl 58 55 ∧
         m.cls = bits j.ctl 54 49 ∧ m.pay = [BitVec.ofNat 64 j.id, BitVec.ofNat 64 j.word])) ∧
   (∀ (s : State) (c l pkt pos : Nat) (b : Byte) (j : CartJob), s.stretched (c / 8 * 8) = false → (s.core c).cartCur = some j → j.fin = true →
     j.stopped = false → j.part = none → j.resid = none → j.told = 0 → j.owed = 0 → j.op = .remote → j.side = 1 → j.sfmt = 0 → j.dfmt = 0 → j.segs = [] → j.rivals = [] →
     j.wrote = [] → j.reqs = [⟨pkt, pos, 1, some (some [b])⟩] → s.route j.core j.ctx j.sys .write (j.dstElem pos) = .loc l → spillCore l 1 = none →
     spillCore (j.loc + 0x38) 8 = none → s.stores = [] → s.upd = [] → s.fleet.echo.cells = [] →
     ∃ t, exec (.cartJobComplete c 0) s = .next t ∧ (t.core c).cartCur = none ∧
       t.mem = writeBytes (writeBytes s.mem l [b]) (j.loc + 0x38) (leBytes 8 j.word)))

/-! ## Power, memory system, host -/

/-- R255 to R257: at the refill step every core that is on keeps at most CAP of what it holds and gets, FILL and a quarter of each neighbour's
surplus (of the state before the step), and wakes; a droop below a threshold stretches the terrace's cores for 6 periods, then they halve for 64
cycles; with threshold 0 nothing happens. -/
def Obligations.RationsAndSqualls : Prop :=
  (∀ (s : State) (k : Nat) (c : Core), s.refillAt ≤ s.now → s.cores.get? k = some c →
    let spare (n : Nat) : Nat :=
      let x := s.core n
      if x.isoff then 0 else x.bal.toNat + x.fill.toNat - x.cap.toNat
    let got := spare (neighbour k .n) / 4 + spare (neighbour k .e) / 4 + spare (neighbour k .s) / 4 + spare (neighbour k .w) / 4
    ∃ t, exec .rationRefill s = .next t ∧ t.refillAt = s.refillAt + 2000 ∧ (t.core k).asleep = false ∧
      (c.isoff = true → (t.core k).bal = c.bal) ∧
      (c.isoff = false → (t.core k).bal = BitVec.ofNat 16 (min c.cap.toNat (min c.cap.toNat (c.bal.toNat + c.fill.toNat) + got)) ∧
        (t.core k).capNow = c.cap)) ∧
  (∀ (s : State) (n i : Nat), n < 6400 → i < 16 → (s.terrace n).droop ≠ 0 →
    ∃ t, exec (.squall n) s = .next t ∧ (t.terrace n).squall = .stretch (s.now + 6) ∧
      (t.core (16 * n + i)).cycAt = s.now + 6 * ((s.core (16 * n + i)).divSet + 1) ∧
      (t.core (16 * n + i)).halfTill = s.cycles (16 * n + i) + 64 ∧ t.mem = s.mem) ∧
  (∀ (s : State) (n : Nat), (s.terrace n).droop = 0 → exec (.squall n) s = .next s) ∧
  (∀ (s : State) (n till : Nat), till ≤ s.now →
    ((s.terrace n).squall = .stretch till →
      exec (.stretchEnd n) s = .next (s.setTerrace n { s.terrace n with squall := .halving (till + 64) })) ∧
    ((s.terrace n).squall = .halving till → exec (.halvingEnd n) s = .next (s.setTerrace n { s.terrace n with squall := .normal })))

/-- R17, R259, R330, R350, R351, R352: the power-kill and the measurement after it; an uncorrectable error ends the context of the instruction
that used it; a trap of the reeve restarts its slot, the fourth within 1 ms ends the contexts of its terrace (log entry 20); the steward's
writes, a new DIV being in force from the next boundary of the core's cycles on; a core switches off only when it may, and comes on with FILL
in its store. -/
def Obligations.PowerAndErrors : Prop :=
  (∀ s : State, KillsFrom s 0 (exec .overCurrentKill s)) ∧
  (∀ (s : State) (p tm : Nat), s.fleet.killNext = some (p, tm) →
    (s.now < tm → exec (.powerRemeasure true) s = .next s) ∧
    (tm ≤ s.now → KillsFrom s p (exec (.powerRemeasure true) s)) ∧
    (tm ≤ s.now → exec (.powerRemeasure false) s = .next { s with fleet := { s.fleet with killNext := none } })) ∧
  (∀ (s : State) (x c k : Nat) (pc val : B64) (r : Ctx), s.ctx? x = some r → r.ended = false →
    ∃ t r', exec (.contextEnd x c k pc val) s = .next t ∧ t.ctx? x = some r' ∧ r'.ended = true ∧ t.fleet.rasunc = s.fleet.rasunc + 1 ∧
      t.fleet.ev.getLsbD 8 = true ∧ (∀ n, n % 8 ≠ 4 → (s.thread n).ctx = x → (s.thread n).st ≠ .free → (t.thread n).st = .free)) ∧
  (∀ (s : State) (c : Nat) (cause : Byte) (pc val : B64),
    let recent := s.now :: (s.core c).sysTraps.filter (fun m => s.now < m + 2000000)
    ∃ t, exec (.systemSlotTrap c cause pc val) s = .next t ∧ (t.thread (tidOf c 4)).st = .free ∧ (t.core c).sysTraps = recent.take 4 ∧
      (recent.length < 4 → t.ctxs = s.ctxs) ∧
      (4 ≤ recent.length → t.terraceReady c = false ∧ ∀ n y k r, s.cores.get? n = some y → terraceOf n = terraceOf c → y.ctx = some k →
        s.ctx? k = some r → ∃ r', t.ctx? k = some r' ∧ r'.ended = true)) ∧
  (∀ (s : State) (w : StewardWrite), s.fleet.steward = [w] →
    (s.now < w.due → exec .stewardControlApply s = .next s) ∧
    (w.due ≤ s.now → ∃ t, exec .stewardControlApply s = .next t ∧ t.fleet.steward = [] ∧
      (w.kind = 0 → (t.terrace w.unit).droop = w.val.toNat % 256) ∧
      (w.kind = 1 → 160 < w.val.toNat % 256 → (t.terrace w.unit).vid = (s.terrace w.unit).vid) ∧
      (w.kind = 1 → w.val.toNat % 256 ≤ 160 → (∀ i < 16, s.minDiv w.unit (w.val.toNat % 256) ≤ (s.core (16 * w.unit + i)).divSet) →
        (t.terrace w.unit).vid = w.val.toNat % 256) ∧
      (w.kind = 2 → (t.core w.unit).off = w.val.getLsbD 8 ∧
        (t.core w.unit).divSet = (if w.val.toNat % 16 < s.minDiv (terraceOf w.unit) (s.terrace (terraceOf w.unit)).vid then (s.core w.unit).divSet
          else w.val.toNat % 16) ∧
        (((s.core w.unit).clocked s.now).boundary s.now ≠ s.now → (s.core w.unit).isoff = false →
          ((t.core w.unit).clocked s.now).div = ((s.core w.unit).clocked s.now).div)))) ∧
  (∀ (s : State) (c : Nat),
    (s.mayOff c = true → ∃ t, exec (.corePowerOff c) s = .next t ∧ (t.core c).isoff = true ∧ (t.core c).asleep = false ∧ t.mem = s.mem) ∧
    (s.mayOff c = false → exec (.corePowerOff c) s = .next s) ∧
    ((s.core c).isoff = false → exec (.corePowerOn c) s = .next s) ∧
    ((s.core c).isoff = true → ∃ t, exec (.corePowerOn c) s = .next t ∧ (t.core c).isoff = false ∧ (t.core c).bal = (s.core c).fill ∧
      (t.core c).dirQ = []))

/-- R35, R37, R38, R308, R310, R316, R245: a read of a line no one holds is served Exclusive, a write leaves the requester alone with it Modified,
either with the sector of the location filled; a request behind a full event queue waits in order; the host
reads and writes usable memory and gets poison elsewhere; a launch that has triggered sends release notices to the cores of its dependents, and
a notice that arrives is kept. The states that a served line is left in, and the sector that is filled, are the model's choice (log entry
48). -/
def Obligations.MemoryAndLaunches : Prop :=
  (∀ (s : State) (pa c : Nat), pa < 2 ^ 40 → c < nCores → s.stackOk pa = true → s.upd = [] → (s.core (homeCore pa)).dirQ.length < 16 →
    (s.core (homeCore pa)).dirWait = [] → ((s.core (homeCore pa)).dir.find? (fun e => e.line == pa / 256) = none → (s.core (homeCore pa)).dir.length < 4096 →
      (∀ x, (s.core c).l1.get? (pa / 256) = some x → x.st ≠ .modified) →
      ∃ t x, exec (.directoryRequest pa c false) s = .next t ∧ (⟨pa / 256, .cores, [c], none⟩ : DirEntry) ∈ (t.core (homeCore pa)).dir ∧
        (t.core c).l1.get? (pa / 256) = some x ∧ x.st = .exclusive ∧ (if pa % 256 < 128 then x.lo = true else x.hi = true) ∧ t.mem = s.mem) ∧
    (∀ e, (s.core (homeCore pa)).dir.find? (fun e => e.line == pa / 256) = some e →
      ∃ t x, exec (.directoryRequest pa c true) s = .next t ∧ (⟨pa / 256, .cores, [c], none⟩ : DirEntry) ∈ (t.core (homeCore pa)).dir ∧
        (t.core c).l1.get? (pa / 256) = some x ∧ x.st = .modified ∧ (if pa % 256 < 128 then x.lo = true else x.hi = true) ∧
        (∀ k, k ≠ c → e.names k = true → (t.core k).l1.get? (pa / 256) = none) ∧ t.mem = s.mem) ∧
    ((s.core (homeCore pa)).dir.find? (fun e => e.line == pa / 256) = none → (s.core (homeCore pa)).dir.length < 4096 →
      ∃ t x, exec (.directoryRequest pa c true) s = .next t ∧ (⟨pa / 256, .cores, [c], none⟩ : DirEntry) ∈ (t.core (homeCore pa)).dir ∧
        (t.core c).l1.get? (pa / 256) = some x ∧ x.st = .modified ∧ (if pa % 256 < 128 then x.lo = true else x.hi = true) ∧ t.mem = s.mem)) ∧
  (∀ (s : State) (pa c : Nat) (w : Bool), pa < 2 ^ 40 → c < nCores → s.stackOk pa = true →
    (16 ≤ (s.core (homeCore pa)).dirQ.length ∨ (s.core (homeCore pa)).dirWait ≠ []) → ∃ t, exec (.directoryRequest pa c w) s = .next t ∧
      (t.core (homeCore pa)).dirWait = (s.core (homeCore pa)).dirWait ++ [(pa, c, w)] ∧ t.mem = s.mem) ∧
  (∀ (s : State) (pa n : Nat) (data : List Byte), s.linkUp = true →
    (s.memUsable pa n = true → s.upd = [] →
      exec (.cxlMemAccess (.read pa n)) s = .next { s with host := { s.host with poison := false, rdData := readBytes s.mem pa n } }) ∧
    (s.memUsable pa data.length = true → s.upd = [] → s.fleet.echo.cells = [] →
      ∃ t, exec (.cxlMemAccess (.write pa data)) s = .next t ∧ t.mem = writeBytes s.mem pa data ∧ t.host.poison = false) ∧
    (s.memUsable pa n = false → ∃ t, exec (.cxlMemAccess (.read pa n)) s = .next t ∧ t.host.poison = true ∧ t.mem = s.mem) ∧
    (s.memUsable pa data.length = false →
      ∃ t, exec (.cxlMemAccess (.write pa data)) s = .next t ∧ t.host.poison = true ∧ t.mem = s.mem)) ∧
  (∀ (s : State) (n m : Nat), ∃ t, exec (.ucieModuleFail n) s = .next t ∧ t.host.ucie.get false n = false ∧
    (m < 4 → m ≠ n → s.host.ucie.get false m = true → t.linkUp = true)) ∧
  (∀ (s : State) (lid : Nat) (l : Launch), s.sq.launches.find? (fun l => l.lid == lid) = some l → lid ∈ s.sq.trigQ →
    (∀ x ∈ l.sers, s.visibleUpTo x.1 x.2 = true) →
    ∃ t, exec (.launchTriggered lid) s = .next t ∧ lid ∉ t.sq.trigQ ∧ (∀ r ∈ s.sq.relNot, r ∈ t.sq.relNot) ∧
      (∀ m ∈ s.sq.launches, m.done = false → lid ∈ m.waits → ∀ c ∈ m.cores, (c, m.lid, lid) ∈ t.sq.relNot) ∧
      (∀ m ∈ t.sq.launches, m.lid = lid → m.isTrig = true)) ∧
  (∀ (s : State) (lid : Nat) (l : Launch), s.sq.launches.find? (fun l => l.lid == lid) = some l →
    (∃ x ∈ l.sers, s.visibleUpTo x.1 x.2 = false) → exec (.launchTriggered lid) s = .next s) ∧
  (∀ (s : State) (n c : Nat) (r : Nat × Nat), s.sq.relNot[n]? = some (c, r) →
    ∃ t, exec (.releaseNoticeArrival n) s = .next t ∧ r ∈ (t.core c).rel ∧ t.sq.relNot = s.sq.relNot.eraseIdx n)

/-- R15, R24, R27, R37, R316 to R318, R342, R347: after device reset nothing runs, no context exists, memory lists nothing (log entry 4),
every control register holds its reset value in every thread, no bit of the readiness map is 1 and the host link's registers are 0, while the
lasers' stored records stay; a function that trains raises its readiness bit, but for a terrace that has fallen, and a port only when it may
be ready: the device has its id, the port is not suspect, at most two of its lanes are erased, and a ciphered one has a key (R318, R344, R346,
R347). -/
def Obligations.ResetAndTraining : Prop :=
  (Memory.wf State.reset.mem = true ∧ State.reset.ctxs.cells = [] ∧ State.reset.stores = [] ∧ State.reset.drift = [] ∧
    State.reset.host.almbase = 0 ∧ State.reset.host.head = 0 ∧ State.reset.host.tail = 0 ∧ State.reset.host.drop = 0 ∧ State.reset.host.almirq = 0 ∧
    State.reset.NothingReady ∧ (∀ p, State.reset.stackOk p = false) ∧ State.reset.ResetRegs ∧
    (∀ tid, (State.reset.thread tid).st = .free ∧ (State.reset.thread tid).gen = 0x9E3779B97F4A7C15#64 ∧
      (State.reset.thread tid).wshape = 0x2002#16 ∧ (State.reset.thread tid).mfmt = 0x66#10 ∧ (State.reset.thread tid).fflags = 0) ∧
    (∀ c, (State.reset.core c).ctx = none ∧ (State.reset.core c).tvec = 0 ∧ (State.reset.core c).dir = [] ∧
      (State.reset.core c).bal = 4096 ∧ (State.reset.core c).fill = 2048 ∧ (State.reset.core c).cap = 4096)) ∧
  (∀ (s : State) (b : Boot), ∃ t, exec (.deviceReset b) s = .next t ∧ t.mem = [] ∧ t.threads.cells = [] ∧ t.cores.cells = [] ∧
    t.ctxs.cells = [] ∧ t.stores = [] ∧ t.fleet.devId = b.devId.getD 0 % 1024 ∧ t.fleet.idValid = b.devId.isSome ∧
    (∀ n < 192, (t.lane n).biasRef = (s.lane n).biasRef ∧ (t.lane n).bias0 = (s.lane n).bias0 ∧ (t.lane n).hours = (s.lane n).hours) ∧
    (∀ p < 24, (t.oport p).cipher = b.ciphers.contains p) ∧ t.NothingReady ∧ t.ResetRegs ∧ t.host.almbase = 0) ∧
  (∀ (s : State) (n : Nat),
    (n < 6400 → (s.terrace n).fallen = false → ∃ t, exec (.functionTrained (.terrace n)) s = .next t ∧ t.readyBit 0 n = true) ∧
    ((s.terrace n).fallen = true → exec (.functionTrained (.terrace n)) s = .next s) ∧
    (n < 12800 → ∃ t, exec (.functionTrained (.mill n)) s = .next t ∧ t.readyBit 0x400 n = true) ∧
    (n < 12800 → ∃ t, exec (.functionTrained (.cart n)) s = .next t ∧ t.readyBit 0xC00 n = true) ∧
    (n < 16 → (∃ t, exec (.functionTrained (.hbm n)) s = .next t ∧ t.readyBit 0x1400 n = true) ∧
      ∃ t, exec (.functionTrained (.slice n)) s = .next t ∧ t.readyBit 0x1400 (16 + n) = true) ∧
    (n < 4 → ∃ t, exec (.functionTrained (.ucie n)) s = .next t ∧ t.readyBit 0x1400 (56 + n) = true ∧ t.linkUp = true) ∧
    (s.portTrains n = true ↔ n < 24 ∧ s.fleet.idValid = true ∧ (s.oport n).suspect = false ∧
      (List.range 8).countP (fun i => (s.lane (8 * n + i)).erased) ≤ 2 ∧ ((s.oport n).cipher = true → 1 ≤ s.fleet.newGen)) ∧
    (s.portTrains n = true → ∃ t, exec (.functionTrained (.port n)) s = .next t ∧ t.portReady n = true) ∧
    (s.portTrains n = false → exec (.functionTrained (.port n)) s = .next s))

/-- R308, R311, R312, R313, R315: a block written to CMDPORT without a link does nothing; one that is not whole, or without credit, is discarded and
counted; any other is numbered, and is rejected with FORMAT or waits in the Almanac's order; ABORT at once fails all that has not started.
R241, R242, R245: LAUNCH is rejected with the STATUS of the first cause of R242's table, or waits with its cores in ascending order, its
arguments and its class, and those of its predecessors that are not triggered yet. That a LAUNCH accepted and not started counts as tracked, and
that the predecessors waited for are fixed as it is accepted, are the model's choices (log entry 39). -/
def Obligations.CommandPosting : Prop :=
  (∀ (s : State) (w : Bool) (b : List B64) (r : (HostArg → Instr) × Nat), CommandRow r.1 r.2 →
    (s.linkUp = false → rowOf b = r.2 → exec (r.1 (.post w b)) s = .next s) ∧
    (s.linkUp = true → rowOf b = r.2 → w = false ∨ s.credit = 0 →
      ∃ t, exec (r.1 (.post w b)) s = .next t ∧ t.host.head = s.host.head ∧ t.host.cmds = s.host.cmds ∧ t.mem = s.mem ∧
        t.host.drop.toNat % 2 ^ 32 = (s.host.drop.toNat + 1) % 2 ^ 32 ∧ t.host.drop.toNat / 2 ^ 32 = s.host.drop.toNat / 2 ^ 32) ∧
    (s.linkUp = true → w = true → b.length = 8 → s.credit ≠ 0 → rowOf b = r.2 → r.2 ≠ 0x21 →
      (fieldsOk b = false → ∃ t, exec (r.1 (.post w b)) s = .next t ∧ t.host.head = (s.host.head + 1) % 2 ^ 32 ∧
        t.word s.host.head = leBytes 8 (stateWord s.host.head 5 1 0)) ∧
      (fieldsOk b = true → r.2 ≠ 0x02 → ∃ t, exec (r.1 (.post w b)) s = .next t ∧ t.host.head = (s.host.head + 1) % 2 ^ 32 ∧
        t.host.cmds = s.host.cmds ++ [⟨s.host.head, b, 1, [], [], 0, []⟩] ∧
        t.word s.host.head = leBytes 8 (stateWord s.host.head 1 0 0) ∧
        (s.upd = [] ∨ s.fleet.echo.cells = [] → readBytes t.mem (s.almEntry s.host.head) 64 = b.flatMap (fun v => leBytes 8 v.toNat))) ∧
      (fieldsOk b = true → r.2 = 0x02 →
        Completes s (r.1 (.post w b)) s.host.head 0 (s.host.cmds.countP (fun c => c.st == 1))
          (fun t => ∀ c ∈ t.host.cmds, c.st ≠ 1)))) ∧
  (∀ (s : State) (b : List B64), s.linkUp = true → b.length = 8 → s.credit ≠ 0 → rowOf b = 0x21 → s.upd = [] →
    let u := s.numbered b
    let d (i : Nat) : Nat := dw b i
    let x := cmdCtx b
    let lid := d 1 % 2 ^ 32
    let preds := [d 4 % 2 ^ 32, d 4 / 2 ^ 32, d 5 % 2 ^ 32, d 5 / 2 ^ 32]
    let queued (c : Cmd) (p : Nat) : Prop := cmdCode c.block = 0x21 ∧ c.st = 1 ∧ dw c.block 1 % 2 ^ 32 = p
    let tracked (p : Nat) : Prop := (∃ l ∈ s.sq.launches, l.lid = p) ∨ ∃ c ∈ s.host.cmds, queued c p
    let rejected (st : Nat) : Prop := ∃ t, exec (.launch (.post true b)) s = .next t ∧ t.host.head = (s.host.head + 1) % 2 ^ 32 ∧
      t.word s.host.head = leBytes 8 (stateWord s.host.head 5 st 0) ∧ (∀ e ∈ t.host.cmds, e ∈ s.host.cmds) ∧ t.drift = s.drift
    (fieldsOk b = false → rejected 1) ∧
    (fieldsOk b = true →
      (tracked lid → rejected 9) ∧
      (¬ tracked lid →
        (s.ctx? x = none → rejected 2) ∧
        (∀ c, s.ctx? x = some c →
          ((∀ i ∈ c.images, i.1 ≠ d 1 / 2 ^ 32) ∨ c.ended = true → rejected 2) ∧
          (∀ img, c.ended = false → c.images.find? (fun i => i.1 == d 1 / 2 ^ 32) = some img →
            ((d 0).testBit 9 = true → img.2 = none → rejected 1) ∧
            (∀ cls, (if (d 0).testBit 9 = true then img.2 = some cls else cls = bits (d 0) 15 10) →
              ((c.classes.get ⟨0, 0⟩ cls).entry = 0 → rejected 1) ∧
              ((c.classes.get ⟨0, 0⟩ cls).entry ≠ 0 →
                let list : Option (List Nat) := if (d 0).testBit 8 = true then u.hostWords x 4 (d 3) (d 2) else some (rectCores (d 2))
                (list = none ∨ u.hostWords x 8 (d 7) (d 6) = none → rejected 5) ∧
                (∀ cores args, list = some cores → u.hostWords x 8 (d 7) (d 6) = some args →
                  (¬ cores.Nodup ∨ (∃ n ∈ cores, 102399 < n) → rejected 3) ∧
                  (cores.Nodup → (∀ n ∈ cores, n ≤ 102399) →
                    ((∃ n ∈ cores, (s.core n).ctx ≠ some x) → rejected 2) ∧
                    ((∀ n ∈ cores, (s.core n).ctx = some x) →
                      ((∃ n ∈ cores, s.coreReady n = false) → rejected 4) ∧
                      ((∀ n ∈ cores, s.coreReady n = true) →
                        ((∃ p ∈ preds, p ≠ 0 ∧ ∃ y, s.trackedCtx p = some y ∧ y ≠ x) → rejected 2) ∧
                        ((∀ p ∈ preds, p ≠ 0 → ∀ y, s.trackedCtx p = some y → y = x) →
                          ∃ t e, exec (.launch (.post true b)) s = .next t ∧ t.host.head = (s.host.head + 1) % 2 ^ 32 ∧
                            ((∀ p ∈ preds, ∀ y ∈ s.sq.left, y.1 ≠ p) → t.word s.host.head = leBytes 8 (stateWord s.host.head 1 0 0)) ∧
                            t.host.cmds = s.host.cmds ++ [e] ∧
                            e.q = s.host.head ∧ e.block = b ∧ e.st = 1 ∧ e.cores.Perm cores ∧ e.cores.Pairwise (· < ·) ∧
                            e.args = args.map (BitVec.ofNat 64) ∧ e.cls = cls ∧ t.drift = s.drift ∧
                            (∀ p, p ∈ e.waits ↔ p ∈ preds ∧ p ≠ 0 ∧
                              ((∃ l ∈ s.sq.launches, l.lid = p ∧ l.isTrig = false) ∨ ∃ c ∈ s.host.cmds, queued c p))))))))))))))

/-- R313, R319, R325, R326, R328: the commands that start: NOP; CTX_CREATE a new context with its fields; CTX_PLACE loads it on the free ready
cores of its rectangle; CTX_END ends it and, its jobs retired, frees it; CLASS_DATA gives a class its data pointer; SHOOTDOWN leaves no
matching translation and, with no packet of the context's cart jobs being filled, completes once what is out through one has been answered;
WIN_SET and WIN_REVOKE; each of CTX_CREATE, CTX_PLACE, CTX_END, CLASS_DATA, SHOOTDOWN and WIN_SET with its STATUS when it cannot. That
CTX_PLACE answers CONTEXT where NOT_READY holds as well is the model's choice (log entry 39). ABORT acts as it is accepted (CommandPosting):
no run reaches a start of its own. -/
def Obligations.ContextCommands : Prop :=
  ∀ (s : State) (q : Nat) (c : Cmd) (k : Ctx),
    let x := cmdCtx c.block
    let d (i : Nat) : Nat := dw c.block i
    let go (row : Nat) : Prop := s.startable q row = some c
    (go 0x01 → Completes s (.hostNop (.start q)) q 0 0 (fun t => ∀ e ∈ t.host.cmds, e.q ≠ q)) ∧
    (go 0x02 →
      Completes s (.hostAbort (.start q)) q 0 (s.host.cmds.countP (fun e => e.st == 1 && e.q != q)) (fun t => ∀ e ∈ t.host.cmds, e.st ≠ 1)) ∧
    (go 0x10 → s.ctx? x = none → s.ctxs.cells.length < 1024 → s.memUsable (d 1) 4096 = true →
      Completes s (.ctxCreate (.start q)) q 0 0 (fun t => ∃ r, t.ctx? x = some r ∧ r.prio = bits (d 0) 18 16 ∧ r.sys = (d 0).testBit 19 ∧
        r.root = d 1 ∧ r.tvec = tvecAddr (c.block.getD 2 0) ∧ r.quota = d 3 ∧ r.ended = false ∧ r.images = [] ∧ r.attRec = List.replicate 64 0)) ∧
    (go 0x10 → s.ctx? x = some k ∨ 1024 ≤ s.ctxs.cells.length → Completes s (.ctxCreate (.start q)) q 2 0 (fun t => t.ctxs = s.ctxs)) ∧
    (go 0x10 → s.ctx? x = none → s.ctxs.cells.length < 1024 → s.memUsable (d 1) 4096 = false →
      Completes s (.ctxCreate (.start q)) q 3 0 (fun t => t.ctxs = s.ctxs)) ∧
    (go 0x11 → s.ctx? x = some k → k.ended = false →
      (∀ n ∈ rectCores (d 2), ((s.core n).ctx = none ∨ (s.core n).ctx = some x) ∧ s.coreReady n = true) →
      Completes s (.ctxPlace (.start q)) q 0 ((rectCores (d 2)).countP (fun n => (s.core n).ctx != some x))
        (fun t => ∀ n ∈ rectCores (d 2), (t.core n).ctx = some x ∧ ((s.core n).ctx = none →
          (t.core n).tvec = k.tvec ∧ (t.core n).bal = 4096 ∧ (t.core n).fill = 2048 ∧ (t.core n).cap = 4096 ∧ t.cycles n = 0))) ∧
    (go 0x11 → (s.ctx? x = none ∨ (s.ctx? x = some k ∧ (k.ended = true ∨ ∃ n ∈ rectCores (d 2), ∃ y, (s.core n).ctx = some y ∧ y ≠ x))) →
      Completes s (.ctxPlace (.start q)) q 2 0 (fun t => t.cores = s.cores)) ∧
    (go 0x11 → s.ctx? x = some k → k.ended = false → (∀ n ∈ rectCores (d 2), (s.core n).ctx = none ∨ (s.core n).ctx = some x) →
      (∃ n ∈ rectCores (d 2), s.coreReady n = false) → Completes s (.ctxPlace (.start q)) q 4 0 (fun t => t.cores = s.cores)) ∧
    (go 0x12 → s.ctx? x = none → Completes s (.ctxEnd (.start q)) q 2 0 (fun t => t.ctxs = s.ctxs)) ∧
    (go 0x12 → s.ctx? x = some k → s.host.ends = [] → s.jobsLeft x = true →
      ∃ t r, exec (.ctxEnd (.start q)) s = .next t ∧ t.host.ends = [(q, x)] ∧ t.ctx? x = some r ∧ r.ended = true) ∧
    (go 0x12 → s.ctx? x = some k → s.host.ends = [] → s.jobsLeft x = false →
      Completes s (.ctxEnd (.start q)) q 0 0 (fun t => t.ctx? x = none ∧ ∀ n, (t.core n).ctx ≠ some x)) ∧
    (go 0x22 → s.ctx? x = some k →
      Completes s (.classData (.start q)) q 0 0 (fun t => ∃ r, t.ctx? x = some r ∧
        r.classes.get ⟨0, 0⟩ (bits (d 0) 13 8) = ⟨(k.classes.get ⟨0, 0⟩ (bits (d 0) 13 8)).entry, c.block.getD 1 0⟩ ∧
        (∀ n, n ≠ bits (d 0) 13 8 → r.classes.get ⟨0, 0⟩ n = k.classes.get ⟨0, 0⟩ n) ∧ r.root = k.root ∧ r.prio = k.prio)) ∧
    (go 0x22 → s.ctx? x = none → Completes s (.classData (.start q)) q 2 0 (fun t => t.ctxs = s.ctxs)) ∧
    (go 0x30 → s.ctx? x = none → Completes s (.shootdown (.start q)) q 2 0 (fun t => t.cores = s.cores ∧ t.crofts = s.crofts)) ∧
    (go 0x30 → s.ctx? x = some k →
      let gone (e : TlbEntry) : Prop := e.ctx = x ∧ ((d 0).testBit 8 = true ∨ e.hits x (d 1) = true)
      let removed (t : State) : Prop := ∀ n e, e ∈ (t.core n).tlb ∨ e ∈ (t.croft n).tlb2 → ¬ gone e
      (∃ t, exec (.shootdown (.start q)) s = .next t ∧ removed t) ∧
      (NoneFilling s x → (¬ OutUnder s x gone → Completes s (.shootdown (.start q)) q 0 0 removed) ∧
        (OutUnder s x gone → AwaitsOps s (.shootdown (.start q)) q 0 removed))) ∧
    (∀ h, s.host.shoots = [h] → (∀ n ∈ h.ops, ∀ o ∈ s.sq.ops, o.id ≠ n) →
      s.finishShoots.word h.q = leBytes 8 (stateWord h.q 3 0 h.result) ∧ s.finishShoots.host.shoots = []) ∧
    (∀ h n o, s.host.shoots = [h] → n ∈ h.ops → o ∈ s.sq.ops → o.id = n → s.finishShoots = s) ∧
    (go 0x31 → s.ctx? x = some k → (∀ w, s.sq.wins.get? (bits (d 0) 19 8) = some w → w.revoked = true) →
      (∀ i < (d 2 + 0xFFFF) / 0x10000, ((s.setCmd q 2 0 0).hostLoc x (d 1 + 0x10000 * i)).isSome = true) →
      Completes s (.winSet (.start q)) q 0 0 (fun t => t.sq.wins.get? (bits (d 0) 19 8) = some ⟨false, d 3, x, d 1, d 2⟩)) ∧
    (go 0x31 → s.ctx? x = none → Completes s (.winSet (.start q)) q 2 0 (fun t => t.sq.wins = s.sq.wins)) ∧
    (∀ w, go 0x31 → s.ctx? x = some k → s.sq.wins.get? (bits (d 0) 19 8) = some w → w.revoked = false →
      Completes s (.winSet (.start q)) q 3 0 (fun t => t.sq.wins = s.sq.wins)) ∧
    (go 0x31 → s.ctx? x = some k → (∀ w, s.sq.wins.get? (bits (d 0) 19 8) = some w → w.revoked = true) →
      (∃ i < (d 2 + 0xFFFF) / 0x10000, (s.setCmd q 2 0 0).hostLoc x (d 1 + 0x10000 * i) = none) →
      Completes s (.winSet (.start q)) q 5 0 (fun t => t.sq.wins = s.sq.wins)) ∧
    (go 0x32 → Completes s (.winRevoke (.start q)) q 0 0 (fun t => ∀ w, t.sq.wins.get? (bits (d 0) 19 8) = some w → w.revoked = true))

/-- R235 to R237, R239, R240, R243, R244, R320, R321, R325: LAUNCH sends one message to each of its cores, with its arguments; IMG_LOAD fails
with the first status its checks find: FORMAT for a header or descriptor, MEASUREMENT or SIGNATURE for the first descriptor that fails, RELOC;
then TRANSLATE for a page that is not mapped, RANGE for a text leaf that another segment shares; else it extends the context's record and
gives the image a handle, the handles counting up by one, once nothing is out through the text pages' translations. ATTEST writes the report
of R321's table and its signature. The model's choices: RANGE for a file or an area that is not usable memory (log entry 34); a relocation
segment's FILESIZE a multiple of 24, the header's LENGTH that of the command (log entry 39); the P of a PC-relative relocation (log entry 45);
the handles (log entry 40); the bytes of the signature, which are free (log entry 14). -/
def Obligations.LaunchImageAttest : Prop :=
  (∀ (s : State) (q : Nat) (c : Cmd) (k : Ctx),
    let x := cmdCtx c.block
    let d (i : Nat) : Nat := dw c.block i
    (s.startable q 0x21 = some c →
      ∃ t l, exec (.launch (.start q)) s = .next t ∧ t.sq.launches = s.sq.launches ++ [l] ∧ l.lid = d 1 % 2 ^ 32 ∧ l.ctx = x ∧ l.cores = c.cores ∧ l.waits = c.waits ∧
        t.word q = leBytes 8 (stateWord q 2 0 0) ∧ t.drift.length = s.drift.length + c.cores.length ∧
        (∀ n ∈ c.cores, ∃ m ∈ t.drift, m.dest = n ∧ m.ctx = x ∧ m.src = 0x1FFFF ∧ m.chan = bits (d 0) 19 16 ∧ m.cls = c.cls ∧ m.pay = c.args ∧
          m.launch = some ⟨d 1 % 2 ^ 32, bits (d 0) 23 20, bits (d 0) 27 24⟩)) ∧
    (s.startable q 0x20 = some c → s.ctx? x = some k → s.memUsable (d 1) (d 2) = true → s.upd = [] →
      let u := s.setCmd q 2 0 0
      let f := readBytes u.mem (d 1) (d 2)
      match imageCheck f (c.block.getD 3 0) with
      | some st => Completes s (.imgLoad (.start q)) q st 0 (fun t => t.ctxs = s.ctxs)
      | none => match u.mapCheck x (segsOf f) (c.block.getD 3 0) with
        | some st => Completes s (.imgLoad (.start q)) q st 0 (fun t => t.ctxs = s.ctxs)
        | none =>
          let loaded (t : State) : Prop := t.host.nextImg = s.host.nextImg + 1 ∧ ∃ r, t.ctx? x = some r ∧
            r.images = k.images ++ [(s.host.nextImg, if fileNat f 0xA 1 = 0xFF then none else some (fileNat f 0xA 1))] ∧
            r.attRec = ((List.range (fileNat f 8 2)).filter (fun i => descNat f i 0 1 != 7)).foldl
              (fun a i => shake256 64 (a ++ slice f (descNat f i 0x28 8) 64)) k.attRec
          let under : Prop := OutUnder s x (fun e => ∃ i < fileNat f 8 2, descNat f i 0 1 = 1 ∧
            ∃ n < (descNat f i 0x18 8 + 0xFFFF) / 0x10000, e.hits x (BitVec.ofNat 64 (descNat f i 0x20 8 + 0x10000 * n) + c.block.getD 3 0).toNat = true)
          (∃ t, exec (.imgLoad (.start q)) s = .next t ∧ loaded t) ∧
          (NoneFilling s x → (¬ under → Completes s (.imgLoad (.start q)) q 0 s.host.nextImg loaded) ∧
            (under → AwaitsOps s (.imgLoad (.start q)) q s.host.nextImg loaded))) ∧
    (s.startable q 0x20 = some c → s.ctx? x = none → Completes s (.imgLoad (.start q)) q 2 0 (fun t => t.ctxs = s.ctxs)) ∧
    (s.startable q 0x40 = some c → s.ctx? x = some k → s.memUsable (d 1) 30064 = true → s.upd = [] →
      let padded (l : List Byte) : List Byte := (l ++ List.replicate 64 0).take 64
      let report : List Byte := leBytes 4 0x53415A53 ++ leBytes 2 1 ++ leBytes 2 s.fleet.devId ++ leBytes 8 x ++ leBytes 8 (d 2) ++ leBytes 8 (d 3) ++
        leBytes 8 (d 4) ++ leBytes 8 (d 5) ++ padded s.fleet.devRec ++ padded k.attRec ++
        (List.range 24).map (fun p => if (s.oport p).cipher then 1 else 0) ++ leBytes 8 0 ++ padded s.fleet.devKey
      Completes s (.attest (.start q)) q 0 0 (fun t => d 1 + 30064 ≤ s.almState q ∨ s.almState q + 8 ≤ d 1 →
        readBytes t.mem (d 1) 272 = report ∧
        readBytes t.mem (d 1 + 272) 29792 = (Config.sign (shake256 64 report) ++ List.replicate 29792 0).take 29792)) ∧
    (s.startable q 0x40 = some c → s.ctx? x = none → Completes s (.attest (.start q)) q 2 0 (fun t => t.ctxs = s.ctxs)) ∧
    (s.startable q 0x40 = some c → s.ctx? x = some k → s.memUsable (d 1) 30064 = false → Completes s (.attest (.start q)) q 3 0 (fun t => t.ctxs = s.ctxs)) ∧
    (s.startable q 0x20 = some c → s.ctx? x = some k → s.memUsable (d 1) (d 2) = false →
      Completes s (.imgLoad (.start q)) q 3 0 (fun t => t.ctxs = s.ctxs))) ∧
  (∀ (f : List Byte) (d : B64),
    let measured (i : Nat) : Prop :=
      shake256 64 (slice f (fileNat f 0x10 8 + 64 * i) 0x28 ++ slice f (descNat f i 8 8) (descNat f i 0x10 8)) = slice f (descNat f i 0x28 8) 64
    let signed (i : Nat) : Prop := sigOk (slice f 0x20 64) (slice f (descNat f i 0x28 8) 64) (slice f (descNat f i 0x30 8) 29792) = true
    (¬ (HeaderKeeps f ∧ DescsKeep f) → imageCheck f d = some 1) ∧
    (HeaderKeeps f → DescsKeep f →
      (∀ i < fileNat f 8 2, descNat f i 0 1 ≠ 7 → (∀ j < i, descNat f j 0 1 ≠ 7 → measured j ∧ signed j) →
        (¬ measured i → imageCheck f d = some 7) ∧ (measured i → ¬ signed i → imageCheck f d = some 6)) ∧
      ((∀ i < fileNat f 8 2, descNat f i 0 1 ≠ 7 → measured i ∧ signed i) →
        (RelsKeep f d → imageCheck f d = none) ∧ (¬ RelsKeep f d → imageCheck f d = some 8)))) ∧
  (∀ (s : State) (x : Nat) (gs : List Seg) (d : B64),
    let page (g : Seg) (i : Nat) : Nat := (BitVec.ofNat 64 (g.vaddr + 0x10000 * i) + d).toNat
    let pages (g : Seg) : Nat := (g.msize + 0xFFFF) / 0x10000
    let mapped : Prop := ∀ g ∈ gs, inMemory g.kind → ∀ i < pages g, page g i < 0xFFF0000000000 ∧ (s.hostLoc x (page g i)).isSome = true
    let shared : Prop := ∃ (a b : Nat) (g h : Seg), gs[a]? = some g ∧ gs[b]? = some h ∧ a ≠ b ∧ g.kind = 1 ∧ inMemory h.kind ∧ ∃ i < pages g, ∃ log2 e,
      s.walk x (page g i) = .leaf log2 e ∧
      RangesMeet (page g i - page g i % 2 ^ log2) (2 ^ log2) (BitVec.ofNat 64 h.vaddr + d).toNat h.msize
    (¬ mapped → s.mapCheck x gs d = some 5) ∧ (mapped → (shared → s.mapCheck x gs d = some 3) ∧ (¬ shared → s.mapCheck x gs d = none)))

/-- R331 to R333, R338: CTX_SAVE holds the context's new tasks and, without DRAIN, its issue; LIMIT stops a draining one; a save that has drained
completes with the cores it saved, and they hold no context; CTX_RESTORE ends with the first status its checks find, or puts the context back on
its cores. That an area whose digest is not the one its context was last saved with gives CONTEXT (log entry 39), against the digest the model
keeps with the context (log entry 30), is the model's choice. -/
def Obligations.SaveAndRestore : Prop :=
  (∀ (s : State) (q : Nat) (c : Cmd) (k : Ctx),
    let x := cmdCtx c.block
    let d (i : Nat) : Nat := dw c.block i
    s.startable q 0x50 = some c → s.ctx? x = some k → k.ended = false → k.saved = false → (∀ v ∈ s.saves, v.ctx ≠ x) →
    areaSize (s.holders x).length ≤ d 2 → s.memUsable (d 1) (areaSize (s.holders x).length) = true →
    ∃ t r, exec (.ctxSave (.start q)) s = .next t ∧ t.word q = leBytes 8 (stateWord q 2 0 0) ∧ t.ctx? x = some r ∧ r.noStart = true ∧
      r.stop = !(d 0).testBit 16 ∧ t.saves = s.saves ++ [⟨x, q, d 1, (d 0).testBit 16, s.now + 2000 * d 3⟩]) ∧
  (∀ (s : State) (x : Nat) (v : Save) (k : Ctx), s.saves.find? (fun v => v.ctx == x) = some v → s.ctx? x = some k →
    (v.drain = true → v.till ≤ s.now → exec (.saveDrainLimit x) s = .next (s.setCtx x { k with stop := true })) ∧
    (s.now < v.till → exec (.saveDrainLimit x) s = .next s) ∧
    (s.drained v = false → exec (.saveDrainDone x) s = .next s) ∧
    (s.drained v = true → Completes s (.saveDrainDone x) v.q 0 (s.holders x).length (fun t =>
      (∀ n ∈ s.holders x, (t.core n).ctx = none) ∧ (∀ w ∈ t.saves, w.ctx ≠ x) ∧ ∃ r, t.ctx? x = some r ∧ r.saved = true ∧ r.stop = false))) ∧
  (∀ (s : State) (q : Nat) (c : Cmd), s.startable q 0x51 = some c → s.upd = [] →
    let u := s.setCmd q 2 0 0
    let x := cmdCtx c.block
    let a := dw c.block 1
    let n := u.memNat (a + 0x10) 8
    let cores := (List.range n).map (fun i => u.memNat (a + 0x10000 + 4 * i) 4)
    let fails (st : Nat) : Prop := Completes s (.ctxRestore (.start q)) q st 0 (fun t => t.ctxs = s.ctxs ∧ t.threads = s.threads ∧ t.cores = s.cores)
    if dw c.block 2 < areaSize 0 ∨ s.memUsable a (areaSize 0) = false then fails 3
    else if 102400 < n ∨ u.headerFits x a n cores = false then fails 1
    else if dw c.block 2 < areaSize n ∨ s.memUsable a (areaSize n) = false then fails 3
    else if u.areaDigest a (areaSize n) ≠ readBytes u.mem (a + 0x40) 64 then fails 7
    else if (∃ k, s.ctx? x = some k ∧ k.ended = false ∧ k.saved = true ∧ k.digest = readBytes u.mem (a + 0x40) 64) ∧ ∀ m ∈ cores, (s.core m).ctx = none then
      if ∀ m ∈ cores, s.coreReady m = true then
        Completes s (.ctxRestore (.start q)) q 0 n (fun t => (∀ m ∈ cores, (t.core m).ctx = some x) ∧ ∃ r, t.ctx? x = some r ∧ r.saved = false)
      else fails 4
    else fails 2)

/-- R282, R309, R313, R314, R317, R341 to R346, R349 to R355: what the host's register writes and reads do, and the values no write may change;
without a trained module of the link a write of the Almanac's or the Well's registers does nothing.
R342, R343, R348, R349: the hourly sample of a lit lane; the installing and the switching of keys; a sensor whose eighth reading in a row is out
of its range becomes doubted, is reported, and stays so until the host clears it. That a read of POUNDSTAT sets PEAK to INUSE and that RUN keeps its
count when DOUBT is cleared (log entry 37), and that the key blob is read as the INSTALL completes (log entry 38), are the model's choices. -/
def Obligations.HostRegisters : Prop :=
  ((∀ (s : State) (v : B64), s.linkUp = false → exec (.almbaseWrite v) s = .next s ∧ exec (.almtailWrite v) s = .next s ∧
     exec (.wellcfgWrite v) s = .next s ∧ ∀ off < 0x50000, exec (.registerWrite off v) s = .next s) ∧
   (∀ (s : State) (v : B64), s.linkUp = true →
     (s.host.almbase.getLsbD 0 = true → exec (.almbaseWrite v) s = .next s) ∧
     (s.host.almbase.getLsbD 0 = false →
       (v.getLsbD 0 = false ∨ s.stackOk ((v &&& 0xFFFF800000#64).toNat) = true →
         exec (.almbaseWrite v) s = .next { s with host := { s.host with almbase := v &&& 0xFFFF800001#64 } }) ∧
       (v.getLsbD 0 = true → s.stackOk ((v &&& 0xFFFF800000#64).toNat) = false → exec (.almbaseWrite v) s = .next s)) ∧
     exec (.almtailWrite v) s = .next
       (if (v.toNat % 2 ^ 32 + 2 ^ 32 - s.host.tail) % 2 ^ 32 ≤ (s.host.head + 2 ^ 32 - s.host.tail) % 2 ^ 32 then
         { s with host := { s.host with tail := v.toNat % 2 ^ 32 } } else s) ∧
     (∃ t, exec (.wellcfgWrite v) s = .next t ∧ t.well.reserve = v.toNat / 2 ^ 32 % 256 ∧
       t.well.margin = if 40 < v.toNat % 256 then s.well.margin else v.toNat % 256)) ∧
   (∀ (s : State) (v : B64),
     (∀ e < 16, ∃ t, exec (.echoctlWrite e v) s = .next t ∧ (t.fleet.echo.get {} e).ctl = v &&& 0x1BFFFF#64 ∧
       (t.fleet.echo.get {} e).pos = 0 ∧ (t.fleet.echo.get {} e).base = (s.fleet.echo.get {} e).base) ∧
     (∀ n < 64, ∃ t, exec (.sqevcntWrite n v) s = .next t ∧ t.fleet.sqcnt.get 0 n = v ∧ (∀ m, m ≠ n → t.fleet.sqcnt.get 0 m = s.fleet.sqcnt.get 0 m))) ∧
   (∀ s : State, exec .fleetevRead s = .next
     { s with host := { s.host with lastRd := s.fleet.ev.setWidth 64, fleetPend := false }, fleet := { s.fleet with ev := 0 } }) ∧
   (∀ s : State, let use := s.sq.inp.countP InPkt.held
     exec .poundstatRead s = .next
       { s with host := { s.host with lastRd := BitVec.ofNat 64 (use + 2 ^ 16 * max use s.sq.peak) }, sq := { s.sq with peak := use } }) ∧
   (∀ s : State, ∃ t, exec .telsnapSnap s = .next t ∧ t.fleet.snapGen = s.fleet.telgen ∧ t.fleet.snapCnt = (s.fleet.snapCnt + 1) % 2 ^ 16 ∧
     (∀ n < 192, t.fleet.snap.get {} n = s.lane n) ∧ t.well = s.well) ∧
   (∀ (s : State) (p : Nat), p < 24 →
     (∃ t, exec (.portRetrain p) s = .next t ∧
       ((t.oport p).retrain = true ↔ ∃ i < 8, (s.lane (8 * p + i)).erased = true ∧ (s.lane (8 * p + i)).failed = false)) ∧
     exec (.suspectClear p) s = .next (s.setOport p { s.oport p with suspect := false, strays := 0, pairs := {} })) ∧
   (∀ (s : State) (v : B64) (n : Nat),
     (s.linkUp = true → exec (.registerWrite 0x218 v) s = .next { s with host := { s.host with almirq := v &&& 0x13F#64 } }) ∧
     (∃ t, exec (.registerWrite 0x78048 v) s = .next t ∧ t.fleet.evIrq = v &&& 0x13F#64 ∧
       (s.host.fleetPend = true → v.getLsbD 8 = true → s.host.fleetAt ≤ s.now →
         t.host.irqs = s.host.irqs ++ [v.toNat % 64] ∧ t.host.fleetPend = false) ∧
       (s.host.fleetPend = false ∨ v.getLsbD 8 = false ∨ s.now < s.host.fleetAt → t.host.irqs = s.host.irqs)) ∧
     (s.linkUp = true → n < 192 → ∃ t, exec (.registerWrite (0x40100 + 8 * n) v) s = .next t ∧ (t.lane n).loss = v.toNat % 2 ^ 16 ∧ (t.lane n).trim = (s.lane n).trim) ∧
     (n < 64 → ∃ t, exec (.registerWrite (0x70000 + 16 * n) v) s = .next t ∧ t.fleet.sqsel.get 0 n = v.setWidth 16) ∧
     (n < 6400 → ∃ t, exec (.registerWrite (0x60000 + n) v) s = .next t ∧
       t.fleet.steward = s.fleet.steward ++ [⟨0, n, v, (s.now / 2000 + 1) * 2000⟩] ∧ t.terraces = s.terraces) ∧
     exec (.registerWrite 0x100 v) s = .next s)) ∧
  ((∀ (s : State) (n : Nat) (bias : BitVec 32), n < 192 → (s.lane n).st = 0 →
     ∃ t, exec (.laserHourlySample n bias) s = .next t ∧ (t.lane n).biasRef = bias.toNat ∧ (t.lane n).hours = (s.lane n).hours + 1 ∧
       (t.lane n).bias0 = (if (s.lane n).hours = 0 then bias.toNat else (s.lane n).bias0) ∧
       ((s.lane n).biasMax ≤ bias.toNat → (t.lane n).eol = 0 ∧ (2000 ≤ (s.lane n).eol → t.fleet.ev.getLsbD 1 = true))) ∧
   (∀ (s : State) (v : B64), s.fleet.keyBusy = none →
     exec (.keyInstall v) s = .next
       { s with fleet := { s.fleet with keyGen := v.toNat / 2 ^ 32, keySw := v.getLsbD 1, keyBusy := some (v.toNat / 2 ^ 32) } }) ∧
   (∀ (s : State) (gen : Nat), s.fleet.keyBusy = some gen → s.upd = [] →
     let blob := readBytes s.mem s.fleet.keyAddr.toNat 1604
     let oldFree : Prop := s.fleet.lowGen = s.fleet.newGen ∨
       (s.fleet.txGen ≠ s.fleet.lowGen ∧ ∀ p ∈ s.well.ports.cells, ∀ x ∈ p.2.flits, x.gen ≠ some s.fleet.lowGen)
     (gen = s.fleet.newGen + 1 → oldFree → leNat (blob.drop 1600) = gen →
       ∃ t, exec .keyInstallDone s = .next t ∧ t.fleet.newGen = gen ∧ t.fleet.lowGen = s.fleet.newGen ∧ t.fleet.keyErr = false ∧ t.fleet.keyBusy = none ∧
         t.fleet.ev.getLsbD 9 = true ∧ t.fleet.txGen = s.fleet.txGen ∧
         t.fleet.keys.get? gen = some (List.zipWith (· ^^^ ·) ((blob.drop 1568).take 32)
           (shake256 32 (kemDecap s.fleet.kemKey (blob.take 1568) ++ leBytes 4 gen))) ∧
         (∀ k, s.fleet.keys.get? s.fleet.newGen = some k → t.fleet.keys.get? s.fleet.newGen = some k)) ∧
     (gen ≠ s.fleet.newGen + 1 ∨ ¬ oldFree ∨ leNat (blob.drop 1600) ≠ gen →
       ∃ t, exec .keyInstallDone s = .next t ∧ t.fleet.newGen = s.fleet.newGen ∧ t.fleet.keys = s.fleet.keys ∧ t.fleet.keyErr = true ∧
         t.fleet.keyBusy = none ∧ t.fleet.ev.getLsbD 9 = true)) ∧
   (∀ (s : State) (v : B64), ∃ t, exec (.keySwitch v) s = .next t ∧ t.fleet.txGen = s.fleet.newGen ∧ t.fleet.ev.getLsbD 9 = true ∧
     (t.fleet.keyErr = true ↔ s.fleet.txGen = s.fleet.newGen)) ∧
   (∀ (s : State) (n : Nat) (raw : BitVec 16), n < 12800 → (s.fleet.sens.get {} n).run = 7 →
     (if n % 2 = 0 then raw.toInt < -640 ∨ 2400 < raw.toInt else raw.toInt < 1600 ∨ 4800 < raw.toInt) →
     ∃ t, exec (.sensorRead [(n, raw)]) s = .next t ∧ (t.fleet.sens.get {} n).raw = raw ∧ (t.fleet.sens.get {} n).run = 8 ∧
       (t.fleet.sens.get {} n).doubt = true ∧ ((s.fleet.sens.get {} n).doubt = false → t.fleet.ev.getLsbD 7 = true)) ∧
   (∀ (s : State) (n : Nat), n < 12800 → ∃ t, exec (.sensDoubtClear n) s = .next t ∧ (t.fleet.sens.get {} n).doubt = false ∧
     (t.fleet.sens.get {} n).run = (s.fleet.sens.get {} n).run ∧ (∀ m, m ≠ n → t.fleet.sens.get {} m = s.fleet.sens.get {} m)))

/-! ## Completion without a result -/

/-- R117, R141 to R143: `vcvt` and `vsel` of every type and `vdot` of the four types it has complete in every state whose operands are plain
registers: the pc moves on, memory, the scalar and mask registers and every other vector register stay, and so does every lane of vD that
`vcvt` and `vdot` do not write. -/
def Obligations.ConvertSelectDotComplete : Prop :=
  ∀ (s : State) (ty st : Ty) (m : MReg) (d a b : VReg), plainV s d → plainV s a → plainV s b → (m = 0 ∨ plainM s m) →
    let on (j : Nat) : Prop := m = 0 ∨ (valM s m).getLsbD j = true
    let completes (i : Instr) (P : B512 → Prop) : Prop := ∃ t, exec i s = .next t ∧ t.cur = s.cur ∧ t.me.pc = s.me.pc + 4 ∧ t.me.s = s.me.s ∧
      t.me.m = s.me.m ∧ t.mem = s.mem ∧ (∀ r, r ≠ d.val → t.me.v.get 0 r = s.me.v.get 0 r) ∧ P (t.me.v.get 0 d.val)
    completes (.vcvt ty st m d a) (fun w => ∀ j < ty.lanes, st.lanes ≤ j ∨ ¬ on j → elemBits ty.width j w = elemBits ty.width j (oldOf s d)) ∧
    completes (.vsel ty m d a b) (fun w => ∀ j < ty.lanes,
      (on j → elemBits ty.width j w = elemBits ty.width j (s.me.v.get 0 a.val)) ∧
      (¬ on j → elemBits ty.width j w = elemBits ty.width j (s.me.v.get 0 b.val))) ∧
    (ty = .s16 ∨ ty = .s32 ∨ ty = .s64 ∨ ty = .f32 →
      completes (.vdot ty m d a b) (fun w => ∀ j < ty.lanes, ¬ on j → elemBits ty.width j w = elemBits ty.width j (oldOf s d)))

/-! ## Arithmetic -/

/-- R66, R67: the values of a format's patterns, its largest one, its infinity, its NaN.
R74, R75, R76, R77: rounding a nonzero value to a format: the chosen neighbour at the format's spacing, overflow, the flags, the draw.
R79: NaN, infinite and zero values rounded; the specials of a sum, a product, a quotient, a root and a fused product and sum, whose finite
results are exact, or for a quotient and a root round as the exact one does.
R80: a value rounded to an integer at spacing 1 and clamped. R106: comparisons, minimum and maximum. -/
def Obligations.Arithmetic : Prop :=
  (∀ f ∈ floatFormats,
     (∀ p < 2 ^ f.width,
       let e : Nat := p / 2 ^ f.mbits % 2 ^ f.ebits
       let m : Nat := p % 2 ^ f.mbits
       let s : ℝ := if f.signBit ≤ p then -1 else 1
       let last := e = 2 ^ f.ebits - 1
       (f.nan = .ieee → last → f.value p = if m = 0 then .inf (decide (f.signBit ≤ p)) else .nan) ∧
       (f.nan = .e4 → last → m = 2 ^ f.mbits - 1 → f.value p = .nan) ∧
       (¬(f.nan = .ieee ∧ last) → ¬(f.nan = .e4 ∧ last ∧ m = 2 ^ f.mbits - 1) →
         (e ≠ 0 → (f.value p).Is (s * (2 : ℝ) ^ ((e : Int) - f.bias) * (1 + (m : ℝ) / 2 ^ f.mbits))) ∧
         (e = 0 → (f.value p).Is (s * (2 : ℝ) ^ (1 - (f.bias : Int)) * ((m : ℝ) / 2 ^ f.mbits)))) ∧
       (∀ v top, (f.value p).Is v → (f.value f.maxPat).Is top → v ≤ top)) ∧
     (f.nan = .ieee → f.value f.infPat = .inf false) ∧ (f.nan ≠ .none → f.value f.nanPat = .nan) ∧
     (∀ (rm : RMode) (sat : Bool) (g : B64), rm ≠ .dyn →
       (∀ (x : FV) (v : ℝ), x.Is v → v ≠ 0 → Rounds f rm sat g v (roundTo f rm sat g x)) ∧
       (∀ (s : Bool) (e : Int), roundTo f rm sat g (.fin s 0 e) = ⟨if s then f.signBit else 0, 0, g⟩) ∧
       roundTo f rm sat g .nan = ⟨if f.nan = .none then 0 else f.nanPat, flagNV, g⟩ ∧
       (∀ s : Bool, roundTo f rm sat g (.inf s) =
         if f.nan = .ieee then ⟨(if s then f.signBit else 0) + f.infPat, 0, g⟩
         else if f.nan = .e4 ∧ sat = false then ⟨f.nanPat, flagNV, g⟩
         else ⟨(if s then f.signBit else 0) + f.maxPat, flagOF ||| flagNX, g⟩) ∧
       (∀ (x y : FV) (v w : ℝ), x.Is v → y.Is w → w ≠ 0 → v ≠ 0 →
         Rounds f rm sat g (v / w) (roundTo f rm sat g (divFV x y).1) ∧ (divFV x y).2 = 0) ∧
       (∀ (x : FV) (v : ℝ), x.Is v → 0 < v → Rounds f rm sat g (Real.sqrt v) (roundTo f rm sat g (sqrtFV x).1) ∧ (sqrtFV x).2 = 0))) ∧
  ([fmtE4, fmtE5, fmtBF16, fmtH16, fmtF32, fmtF64].map (·.nanPat) = [0x7F, 0x7E, 0x7FC0, 0x7E00, 0x7FC00000, 0x7FF8000000000000]) ∧
  (∀ (rm : RMode) (x y z : FV) (v w u : ℝ), x.Is v → y.Is w → z.Is u →
     (v + w ≠ 0 → (addFV rm x y).1.Is (v + w)) ∧
     (v + w = 0 → ∃ e, (addFV rm x y).1 = .fin (if v = 0 ∧ x.sgn = y.sgn then x.sgn else decide (rm = .rdn)) 0 e) ∧ (addFV rm x y).2 = 0 ∧
     (mulFV x y).1.Is (v * w) ∧ (mulFV x y).1.sgn = (x.sgn != y.sgn) ∧ (mulFV x y).2 = 0 ∧
     (v * w + u ≠ 0 → (fmaFV rm z x y).1.Is (v * w + u)) ∧
     (v * w + u = 0 → ∃ e, (fmaFV rm z x y).1 =
       .fin (if v * w = 0 ∧ (x.sgn != y.sgn) = z.sgn then z.sgn else decide (rm = .rdn)) 0 e) ∧ (fmaFV rm z x y).2 = 0 ∧
     (w ≠ 0 → v = 0 → ∃ e, divFV x y = (.fin (x.sgn != y.sgn) 0 e, 0)) ∧
     (w = 0 → divFV x y = if v = 0 then (.nan, flagNV) else (.inf (x.sgn != y.sgn), flagDZ)) ∧
     (v = 0 → ∃ e, sqrtFV x = (.fin x.sgn 0 e, 0)) ∧ (v < 0 → sqrtFV x = (.nan, flagNV)) ∧
     cmpFV x y = some (if v < w then -1 else if v = w then 0 else 1) ∧
     (∀ s : Bool, addFV rm (.inf s) y = (.inf s, 0) ∧ addFV rm y (.inf s) = (.inf s, 0) ∧
       mulFV (.inf s) y = (if w = 0 then (.nan, flagNV) else (.inf (s != y.sgn), 0)) ∧
       mulFV y (.inf s) = (if w = 0 then (.nan, flagNV) else (.inf (y.sgn != s), 0)) ∧
       divFV (.inf s) y = (.inf (s != y.sgn), 0) ∧ (∃ e, divFV y (.inf s) = (.fin (y.sgn != s) 0 e, 0)) ∧
       fmaFV rm (.inf s) x y = (.inf s, 0) ∧ (w ≠ 0 → fmaFV rm z (.inf s) y = (.inf (s != y.sgn), 0) ∧ fmaFV rm z y (.inf s) = (.inf (y.sgn != s), 0)) ∧
       (w = 0 → fmaFV rm z (.inf s) y = (.nan, flagNV) ∧ fmaFV rm z y (.inf s) = (.nan, flagNV)) ∧
       cmpFV (.inf s) y = some (if s then -1 else 1) ∧ cmpFV y (.inf s) = some (if s then 1 else -1))) ∧
  (∀ (rm : RMode) (s t : Bool) (x y : FV),
     addFV rm (.inf s) (.inf t) = (if s = t then (.inf s, 0) else (.nan, flagNV)) ∧ mulFV (.inf s) (.inf t) = (.inf (s != t), 0) ∧
     divFV (.inf s) (.inf t) = (.nan, flagNV) ∧ sqrtFV (.inf s) = (if s then (.nan, flagNV) else (.inf false, 0)) ∧
     cmpFV (.inf s) (.inf t) = some (if s = t then 0 else if s then -1 else 1) ∧ sqrtFV .nan = (.nan, flagNV) ∧
     (x.isNan = true ∨ y.isNan = true → addFV rm x y = (.nan, flagNV) ∧ mulFV x y = (.nan, flagNV) ∧ divFV x y = (.nan, flagNV) ∧
       cmpFV x y = none) ∧
     (∀ z, (x.isNan = true ∨ y.isNan = true ∨ z.isNan = true → fmaFV rm z x y = (.nan, flagNV)) ∧
       fmaFV rm z x y = ((addFV rm (mulFV x y).1 z).1, (mulFV x y).2 ||| (addFV rm (mulFV x y).1 z).2)) ∧
     (∀ mx : Bool, (minMaxFV mx .nan y = (y, flagNV) ∧ minMaxFV mx x .nan = (x, flagNV)) ∧
       (x.isNan = false → y.isNan = false → (minMaxFV mx x y).2 = 0 ∧ ((minMaxFV mx x y).1 = x ∨ (minMaxFV mx x y).1 = y) ∧
         (mx = false → (minMaxFV mx x y).1.Below x ∧ (minMaxFV mx x y).1.Below y) ∧
         (mx = true → x.Below (minMaxFV mx x y).1 ∧ y.Below (minMaxFV mx x y).1)))) ∧
  (∀ (rm : RMode) (w : Nat) (signed : Bool) (g : B64), rm ≠ .dyn → 0 < w → w ≤ 64 →
     let lo : Int := if signed then -(2 ^ (w - 1)) else 0
     let hi : Int := if signed then 2 ^ (w - 1) - 1 else 2 ^ w - 1
     let pattern (c : Int) : Nat := (c % 2 ^ w).toNat
     (∀ (x : FV) (v : ℝ), x.Is v → v ≠ 0 →
       let o := roundToInt rm w signed g x
       o.gen = (if rm = .sto then draw g else g) ∧ ∃ (n : Nat) (i : Int), RoundsAt rm v 1 o.gen n ∧ (i = n ∨ i = -(n : Int)) ∧
         (0 ≤ i ↔ 0 < v ∨ n = 0) ∧ (i < lo → o.bits = pattern lo ∧ o.flags = flagNV) ∧ (hi < i → o.bits = pattern hi ∧ o.flags = flagNV) ∧
         (lo ≤ i → i ≤ hi → o.bits = pattern i ∧ ((n : ℝ) = |v| → o.flags = 0) ∧ ((n : ℝ) ≠ |v| → o.flags = flagNX))) ∧
     (∀ (s : Bool) (e : Int), roundToInt rm w signed g (.fin s 0 e) = ⟨0, 0, g⟩) ∧
     roundToInt rm w signed g .nan = ⟨0, flagNV, g⟩ ∧
     ∀ s : Bool, roundToInt rm w signed g (.inf s) = ⟨pattern (if s then lo else hi), flagNV, g⟩)
end

