-- ==== Sys2Proof/Laws/SMap.lean ====
section
/-!
SUPPORT. Finite maps: what a get answers after a put or an erase.
-/
namespace Sys2Proof.Machine

theorem find?_insertSorted_self {α : Type} (k : Nat) (x : α) (l : List (Nat × α)) (h : ∀ c ∈ l, c.1 ≠ k) :
    (insertSorted k x l).find? (fun c => c.1 == k) = some (k, x) := by
  induction l with
  | nil => simp [insertSorted]
  | cons c cs ih =>
    have hc : c.1 ≠ k := h c (by simp)
    simp only [insertSorted]
    split
    · simp
    · rw [List.find?_cons_of_neg (by simpa using hc)]
      exact ih (fun d hd => h d (by simp [hd]))

theorem find?_insertSorted_ne {α : Type} {k j : Nat} (x : α) (l : List (Nat × α)) (h : j ≠ k) :
    (insertSorted k x l).find? (fun c => c.1 == j) = l.find? (fun c => c.1 == j) := by
  induction l with
  | nil => simp [insertSorted, Ne.symm h]
  | cons c cs ih =>
    simp only [insertSorted]
    split
    · rw [List.find?_cons_of_neg (by simpa using Ne.symm h)]
    · by_cases hc : c.1 = j
      · simp [hc]
      · rw [List.find?_cons_of_neg (by simpa using hc), List.find?_cons_of_neg (by simpa using hc), ih]

theorem find?_filter_ne {α : Type} {k j : Nat} (l : List (Nat × α)) (h : j ≠ k) :
    (l.filter (fun c => c.1 != k)).find? (fun c => c.1 == j) = l.find? (fun c => c.1 == j) := by
  induction l with
  | nil => rfl
  | cons c cs ih =>
    by_cases hk : c.1 = k
    · have hj : c.1 ≠ j := fun e => h (e.symm.trans hk)
      rw [List.filter_cons_of_neg (by simpa using hk), List.find?_cons_of_neg (by simpa using hj), ih]
    · rw [List.filter_cons_of_pos (by simpa using hk)]
      by_cases hj : c.1 = j
      · simp [hj]
      · rw [List.find?_cons_of_neg (by simpa using hj), List.find?_cons_of_neg (by simpa using hj), ih]

theorem find?_filter_self {α : Type} (k : Nat) (l : List (Nat × α)) :
    (l.filter (fun c => c.1 != k)).find? (fun c => c.1 == k) = none := by
  simp [List.find?_eq_none]

theorem SMap.get?_put_self {α : Type} (m : SMap α) (k : Nat) (x : α) : (m.put k x).get? k = some x := by
  have h : ∀ c ∈ (m.erase k).cells, c.1 ≠ k := by
    intro c hc
    simpa using (List.mem_filter.mp hc).2
  simp [SMap.get?, SMap.put, find?_insertSorted_self k x _ h]
theorem SMap.get?_put_ne {α : Type} (m : SMap α) {k j : Nat} (x : α) (h : j ≠ k) : (m.put k x).get? j = m.get? j := by
  simp [SMap.get?, SMap.put, SMap.erase, find?_insertSorted_ne x _ h, find?_filter_ne m.cells h]
theorem SMap.get_eq_get? {α : Type} (d : α) (m : SMap α) (k : Nat) : m.get d k = (m.get? k).getD d := rfl
theorem SMap.get_put_self {α : Type} (d : α) (m : SMap α) (k : Nat) (x : α) : (m.put k x).get d k = x := by
  simp [SMap.get_eq_get?, SMap.get?_put_self]
theorem SMap.get_put_ne {α : Type} (d : α) (m : SMap α) {k j : Nat} (x : α) (h : j ≠ k) :
    (m.put k x).get d j = m.get d j := by
  simp [SMap.get_eq_get?, SMap.get?_put_ne m x h]
theorem SMap.get?_erase_self {α : Type} (m : SMap α) (k : Nat) : (m.erase k).get? k = none := by
  simp [SMap.get?, SMap.erase]
theorem SMap.get?_erase_ne {α : Type} (m : SMap α) {k j : Nat} (h : j ≠ k) : (m.erase k).get? j = m.get? j := by
  simp [SMap.get?, SMap.erase, find?_filter_ne m.cells h]
theorem SMap.get?_empty {α : Type} (k : Nat) : ({} : SMap α).get? k = none := rfl
theorem SMap.get_empty {α : Type} (d : α) (k : Nat) : ({} : SMap α).get d k = d := rfl

end Sys2Proof.Machine
end

