-- ==== Sys2Proof/Laws/Memory.lean ====
section
/-!
SUPPORT. The memory list: reads after writes, and that every write keeps the canonical form.
-/
namespace Sys2Proof.Machine

theorem readByte_writeByte_self (m : List Host.Cell) (a : Nat) (b : Byte) : readByte (writeByte m a b) a = b := by
  simp only [readByte, writeByte]
  split
  · next h => rw [find?_filter_self]; simp [h]
  · rw [find?_insertSorted_self]
    · rfl
    · intro c hc
      simpa using (List.mem_filter.mp hc).2
theorem readByte_writeByte_ne (m : List Host.Cell) {a x : Nat} (b : Byte) (h : x ≠ a) :
    readByte (writeByte m a b) x = readByte m x := by
  simp only [readByte, writeByte]
  split
  · rw [find?_filter_ne m h]
  · rw [find?_insertSorted_ne b _ h, find?_filter_ne m h]
/-- A write of bytes leaves every address outside them alone. -/
theorem readByte_writeBytes_out (bs : List Byte) (m : List Host.Cell) (a x : Nat) (h : x < a ∨ a + bs.length ≤ x) :
    readByte (writeBytes m a bs) x = readByte m x := by
  induction bs generalizing m a with
  | nil => rfl
  | cons b bs ih =>
    simp only [List.length_cons] at h
    rw [writeBytes, ih _ _ (by omega), readByte_writeByte_ne _ _ (by omega)]
/-- A write of bytes is read back. -/
theorem readByte_writeBytes_in (bs : List Byte) (m : List Host.Cell) (a i : Nat) (h : i < bs.length) :
    readByte (writeBytes m a bs) (a + i) = bs[i] := by
  induction bs generalizing m a i with
  | nil => simp at h
  | cons b bs ih =>
    cases i with
    | zero => rw [writeBytes, readByte_writeBytes_out _ _ _ _ (by omega), Nat.add_zero, readByte_writeByte_self]; rfl
    | succ i =>
      have := ih (writeByte m a b) (a + 1) i (by simpa using h)
      rw [writeBytes, show a + (i + 1) = a + 1 + i by omega, this]; rfl
theorem readBytes_length (m : List Host.Cell) (a n : Nat) : (readBytes m a n).length = n := by
  induction n generalizing a with
  | zero => rfl
  | succ n ih => simp [readBytes, ih]
theorem readBytes_writeBytes_self (bs : List Byte) (m : List Host.Cell) (a : Nat) :
    readBytes (writeBytes m a bs) a bs.length = bs := by
  induction bs generalizing m a with
  | nil => rfl
  | cons b bs ih =>
    simp only [List.length_cons, readBytes, writeBytes]
    rw [readByte_writeBytes_out _ _ _ _ (by omega), readByte_writeByte_self, ih]

/-! ## The canonical form -/

theorem wf_iff (m : List Host.Cell) :
    Memory.wf m = true ↔ (∀ c ∈ m, c.2 ≠ unlisted) ∧ m.Pairwise (fun c d => c.1 < d.1) := by
  induction m with
  | nil => simp [Memory.wf]
  | cons c cs ih =>
    cases cs with
    | nil => simp [Memory.wf]
    | cons d ds =>
      rw [Memory.wf, Bool.and_eq_true, Bool.and_eq_true, ih]
      simp only [bne_iff_ne, decide_eq_true_eq, List.pairwise_cons, List.mem_cons, forall_eq_or_imp]
      constructor
      · rintro ⟨⟨h1, h2⟩, ⟨h3, h4⟩, h5, h6⟩
        exact ⟨⟨h1, h3, h4⟩, ⟨h2, fun e he => Nat.lt_trans h2 (h5 e he)⟩, h5, h6⟩
      · rintro ⟨⟨h1, h3, h4⟩, ⟨h2, -⟩, h5, h6⟩
        exact ⟨⟨h1, h2⟩, ⟨h3, h4⟩, h5, h6⟩
theorem wf_nil : Memory.wf [] = true := rfl
theorem wf_filter {m : List Host.Cell} (p : Host.Cell → Bool) (h : Memory.wf m = true) : Memory.wf (m.filter p) = true := by
  rw [wf_iff] at h ⊢
  exact ⟨fun c hc => h.1 c (List.mem_of_mem_filter hc), h.2.filter p⟩
theorem mem_insertSorted {α : Type} {k : Nat} {x : α} {l : List (Nat × α)} {c : Nat × α} (h : c ∈ insertSorted k x l) :
    c = (k, x) ∨ c ∈ l := by
  induction l with
  | nil => simpa [insertSorted] using h
  | cons d ds ih =>
    simp only [insertSorted] at h
    split at h
    · simpa using h
    · rcases List.mem_cons.mp h with h | h
      · exact .inr (by simp [h])
      · exact (ih h).imp id (fun h => List.mem_cons_of_mem d h)
theorem pairwise_insertSorted {α : Type} {k : Nat} {x : α} {l : List (Nat × α)} (hk : ∀ c ∈ l, c.1 ≠ k)
    (h : l.Pairwise (fun c d => c.1 < d.1)) : (insertSorted k x l).Pairwise (fun c d => c.1 < d.1) := by
  induction l with
  | nil => simp [insertSorted]
  | cons d ds ih =>
    rw [List.pairwise_cons] at h
    simp only [insertSorted]
    split
    · next hlt =>
      refine List.pairwise_cons.mpr ⟨?_, List.pairwise_cons.mpr h⟩
      intro c hc
      rcases List.mem_cons.mp hc with rfl | hc
      · exact hlt
      · exact Nat.lt_trans hlt (h.1 c hc)
    · next hge =>
      refine List.pairwise_cons.mpr ⟨?_, ih (fun c hc => hk c (by simp [hc])) h.2⟩
      intro c hc
      rcases mem_insertSorted hc with rfl | hc
      · have := hk d (by simp)
        simp only; omega
      · exact h.1 c hc
theorem wf_writeByte {m : List Host.Cell} (a : Nat) (b : Byte) (h : Memory.wf m = true) :
    Memory.wf (writeByte m a b) = true := by
  have hf := wf_filter (fun c => c.1 != a) h
  simp only [writeByte]
  split
  · exact hf
  · next hb =>
    rw [wf_iff] at hf ⊢
    refine ⟨?_, pairwise_insertSorted ?_ hf.2⟩
    · intro c hc
      rcases mem_insertSorted hc with rfl | hc
      · exact hb
      · exact hf.1 c hc
    · intro c hc
      simpa using (List.mem_filter.mp hc).2
theorem wf_writeBytes (bs : List Byte) {m : List Host.Cell} (a : Nat) (h : Memory.wf m = true) :
    Memory.wf (writeBytes m a bs) = true := by
  induction bs generalizing m a with
  | nil => exact h
  | cons b bs ih => exact ih (a + 1) (wf_writeByte a b h)
/-- Equal reads are equal memories: the canonical form says what memory is. -/
theorem readByte_of_mem {m : List Host.Cell} (h : Memory.wf m = true) {c : Host.Cell} (hc : c ∈ m) : readByte m c.1 = c.2 := by
  rw [wf_iff] at h
  obtain ⟨-, h⟩ := h
  induction m with
  | nil => simp at hc
  | cons d ds ih =>
    rw [List.pairwise_cons] at h
    rcases List.mem_cons.mp hc with rfl | hc
    · simp [readByte]
    · have := h.1 c hc
      have hne : d.1 ≠ c.1 := by omega
      rw [readByte, List.find?_cons_of_neg (by simpa using hne)]
      exact ih hc h.2

end Sys2Proof.Machine
end

