-- ==== Sys2Proof/Laws/State.lean ====
section
/-!
SUPPORT. What each update of the state leaves alone, field by field, and what the parts read as after an update.
-/
namespace Sys2Proof.Machine

/-! ## setThread -/

@[simp] theorem State.setThread_now (s : State) (k : Nat) (x : Thread) : (s.setThread k x).now = s.now := rfl
@[simp] theorem State.setThread_cur (s : State) (k : Nat) (x : Thread) : (s.setThread k x).cur = s.cur := rfl
@[simp] theorem State.setThread_mem (s : State) (k : Nat) (x : Thread) : (s.setThread k x).mem = s.mem := rfl
@[simp] theorem State.setThread_cores (s : State) (k : Nat) (x : Thread) : (s.setThread k x).cores = s.cores := rfl
@[simp] theorem State.setThread_crofts (s : State) (k : Nat) (x : Thread) : (s.setThread k x).crofts = s.crofts := rfl
@[simp] theorem State.setThread_terraces (s : State) (k : Nat) (x : Thread) : (s.setThread k x).terraces = s.terraces := rfl
@[simp] theorem State.setThread_ctxs (s : State) (k : Nat) (x : Thread) : (s.setThread k x).ctxs = s.ctxs := rfl
@[simp] theorem State.setThread_stores (s : State) (k : Nat) (x : Thread) : (s.setThread k x).stores = s.stores := rfl
@[simp] theorem State.setThread_nextSer (s : State) (k : Nat) (x : Thread) : (s.setThread k x).nextSer = s.nextSer := rfl
@[simp] theorem State.setThread_upd (s : State) (k : Nat) (x : Thread) : (s.setThread k x).upd = s.upd := rfl
@[simp] theorem State.setThread_drift (s : State) (k : Nat) (x : Thread) : (s.setThread k x).drift = s.drift := rfl
@[simp] theorem State.setThread_sqHeld (s : State) (k : Nat) (x : Thread) : (s.setThread k x).sqHeld = s.sqHeld := rfl
@[simp] theorem State.setThread_kin (s : State) (k : Nat) (x : Thread) : (s.setThread k x).kin = s.kin := rfl
@[simp] theorem State.setThread_kinOps (s : State) (k : Nat) (x : Thread) : (s.setThread k x).kinOps = s.kinOps := rfl
@[simp] theorem State.setThread_kinRel (s : State) (k : Nat) (x : Thread) : (s.setThread k x).kinRel = s.kinRel := rfl
@[simp] theorem State.setThread_kinAns (s : State) (k : Nat) (x : Thread) : (s.setThread k x).kinAns = s.kinAns := rfl
@[simp] theorem State.setThread_saves (s : State) (k : Nat) (x : Thread) : (s.setThread k x).saves = s.saves := rfl
@[simp] theorem State.setThread_poundto (s : State) (k : Nat) (x : Thread) : (s.setThread k x).poundto = s.poundto := rfl
@[simp] theorem State.setThread_refillAt (s : State) (k : Nat) (x : Thread) : (s.setThread k x).refillAt = s.refillAt := rfl
@[simp] theorem State.setThread_well (s : State) (k : Nat) (x : Thread) : (s.setThread k x).well = s.well := rfl
@[simp] theorem State.setThread_sq (s : State) (k : Nat) (x : Thread) : (s.setThread k x).sq = s.sq := rfl
@[simp] theorem State.setThread_host (s : State) (k : Nat) (x : Thread) : (s.setThread k x).host = s.host := rfl
@[simp] theorem State.setThread_fleet (s : State) (k : Nat) (x : Thread) : (s.setThread k x).fleet = s.fleet := rfl
@[simp] theorem State.setThread_freeCtr (s : State) (k : Nat) (x : Thread) : (s.setThread k x).freeCtr = s.freeCtr := rfl
@[simp] theorem State.setThread_agenda (s : State) (k : Nat) (x : Thread) : (s.setThread k x).agenda = s.agenda := rfl

/-! ## setCore -/

@[simp] theorem State.setCore_now (s : State) (k : Nat) (x : Core) : (s.setCore k x).now = s.now := rfl
@[simp] theorem State.setCore_cur (s : State) (k : Nat) (x : Core) : (s.setCore k x).cur = s.cur := rfl
@[simp] theorem State.setCore_mem (s : State) (k : Nat) (x : Core) : (s.setCore k x).mem = s.mem := rfl
@[simp] theorem State.setCore_threads (s : State) (k : Nat) (x : Core) : (s.setCore k x).threads = s.threads := rfl
@[simp] theorem State.setCore_crofts (s : State) (k : Nat) (x : Core) : (s.setCore k x).crofts = s.crofts := rfl
@[simp] theorem State.setCore_terraces (s : State) (k : Nat) (x : Core) : (s.setCore k x).terraces = s.terraces := rfl
@[simp] theorem State.setCore_ctxs (s : State) (k : Nat) (x : Core) : (s.setCore k x).ctxs = s.ctxs := rfl
@[simp] theorem State.setCore_stores (s : State) (k : Nat) (x : Core) : (s.setCore k x).stores = s.stores := rfl
@[simp] theorem State.setCore_nextSer (s : State) (k : Nat) (x : Core) : (s.setCore k x).nextSer = s.nextSer := rfl
@[simp] theorem State.setCore_upd (s : State) (k : Nat) (x : Core) : (s.setCore k x).upd = s.upd := rfl
@[simp] theorem State.setCore_drift (s : State) (k : Nat) (x : Core) : (s.setCore k x).drift = s.drift := rfl
@[simp] theorem State.setCore_sqHeld (s : State) (k : Nat) (x : Core) : (s.setCore k x).sqHeld = s.sqHeld := rfl
@[simp] theorem State.setCore_kin (s : State) (k : Nat) (x : Core) : (s.setCore k x).kin = s.kin := rfl
@[simp] theorem State.setCore_kinOps (s : State) (k : Nat) (x : Core) : (s.setCore k x).kinOps = s.kinOps := rfl
@[simp] theorem State.setCore_kinRel (s : State) (k : Nat) (x : Core) : (s.setCore k x).kinRel = s.kinRel := rfl
@[simp] theorem State.setCore_kinAns (s : State) (k : Nat) (x : Core) : (s.setCore k x).kinAns = s.kinAns := rfl
@[simp] theorem State.setCore_saves (s : State) (k : Nat) (x : Core) : (s.setCore k x).saves = s.saves := rfl
@[simp] theorem State.setCore_poundto (s : State) (k : Nat) (x : Core) : (s.setCore k x).poundto = s.poundto := rfl
@[simp] theorem State.setCore_refillAt (s : State) (k : Nat) (x : Core) : (s.setCore k x).refillAt = s.refillAt := rfl
@[simp] theorem State.setCore_well (s : State) (k : Nat) (x : Core) : (s.setCore k x).well = s.well := rfl
@[simp] theorem State.setCore_sq (s : State) (k : Nat) (x : Core) : (s.setCore k x).sq = s.sq := rfl
@[simp] theorem State.setCore_host (s : State) (k : Nat) (x : Core) : (s.setCore k x).host = s.host := rfl
@[simp] theorem State.setCore_fleet (s : State) (k : Nat) (x : Core) : (s.setCore k x).fleet = s.fleet := rfl
@[simp] theorem State.setCore_freeCtr (s : State) (k : Nat) (x : Core) : (s.setCore k x).freeCtr = s.freeCtr := rfl
@[simp] theorem State.setCore_agenda (s : State) (k : Nat) (x : Core) : (s.setCore k x).agenda = s.agenda := rfl

/-! ## setCroft -/

@[simp] theorem State.setCroft_now (s : State) (k : Nat) (x : Croft) : (s.setCroft k x).now = s.now := rfl
@[simp] theorem State.setCroft_cur (s : State) (k : Nat) (x : Croft) : (s.setCroft k x).cur = s.cur := rfl
@[simp] theorem State.setCroft_mem (s : State) (k : Nat) (x : Croft) : (s.setCroft k x).mem = s.mem := rfl
@[simp] theorem State.setCroft_threads (s : State) (k : Nat) (x : Croft) : (s.setCroft k x).threads = s.threads := rfl
@[simp] theorem State.setCroft_cores (s : State) (k : Nat) (x : Croft) : (s.setCroft k x).cores = s.cores := rfl
@[simp] theorem State.setCroft_terraces (s : State) (k : Nat) (x : Croft) : (s.setCroft k x).terraces = s.terraces := rfl
@[simp] theorem State.setCroft_ctxs (s : State) (k : Nat) (x : Croft) : (s.setCroft k x).ctxs = s.ctxs := rfl
@[simp] theorem State.setCroft_stores (s : State) (k : Nat) (x : Croft) : (s.setCroft k x).stores = s.stores := rfl
@[simp] theorem State.setCroft_nextSer (s : State) (k : Nat) (x : Croft) : (s.setCroft k x).nextSer = s.nextSer := rfl
@[simp] theorem State.setCroft_upd (s : State) (k : Nat) (x : Croft) : (s.setCroft k x).upd = s.upd := rfl
@[simp] theorem State.setCroft_drift (s : State) (k : Nat) (x : Croft) : (s.setCroft k x).drift = s.drift := rfl
@[simp] theorem State.setCroft_sqHeld (s : State) (k : Nat) (x : Croft) : (s.setCroft k x).sqHeld = s.sqHeld := rfl
@[simp] theorem State.setCroft_kin (s : State) (k : Nat) (x : Croft) : (s.setCroft k x).kin = s.kin := rfl
@[simp] theorem State.setCroft_kinOps (s : State) (k : Nat) (x : Croft) : (s.setCroft k x).kinOps = s.kinOps := rfl
@[simp] theorem State.setCroft_kinRel (s : State) (k : Nat) (x : Croft) : (s.setCroft k x).kinRel = s.kinRel := rfl
@[simp] theorem State.setCroft_kinAns (s : State) (k : Nat) (x : Croft) : (s.setCroft k x).kinAns = s.kinAns := rfl
@[simp] theorem State.setCroft_saves (s : State) (k : Nat) (x : Croft) : (s.setCroft k x).saves = s.saves := rfl
@[simp] theorem State.setCroft_poundto (s : State) (k : Nat) (x : Croft) : (s.setCroft k x).poundto = s.poundto := rfl
@[simp] theorem State.setCroft_refillAt (s : State) (k : Nat) (x : Croft) : (s.setCroft k x).refillAt = s.refillAt := rfl
@[simp] theorem State.setCroft_well (s : State) (k : Nat) (x : Croft) : (s.setCroft k x).well = s.well := rfl
@[simp] theorem State.setCroft_sq (s : State) (k : Nat) (x : Croft) : (s.setCroft k x).sq = s.sq := rfl
@[simp] theorem State.setCroft_host (s : State) (k : Nat) (x : Croft) : (s.setCroft k x).host = s.host := rfl
@[simp] theorem State.setCroft_fleet (s : State) (k : Nat) (x : Croft) : (s.setCroft k x).fleet = s.fleet := rfl
@[simp] theorem State.setCroft_freeCtr (s : State) (k : Nat) (x : Croft) : (s.setCroft k x).freeCtr = s.freeCtr := rfl
@[simp] theorem State.setCroft_agenda (s : State) (k : Nat) (x : Croft) : (s.setCroft k x).agenda = s.agenda := rfl

/-! ## setTerrace -/

@[simp] theorem State.setTerrace_now (s : State) (k : Nat) (x : Terrace) : (s.setTerrace k x).now = s.now := rfl
@[simp] theorem State.setTerrace_cur (s : State) (k : Nat) (x : Terrace) : (s.setTerrace k x).cur = s.cur := rfl
@[simp] theorem State.setTerrace_mem (s : State) (k : Nat) (x : Terrace) : (s.setTerrace k x).mem = s.mem := rfl
@[simp] theorem State.setTerrace_threads (s : State) (k : Nat) (x : Terrace) : (s.setTerrace k x).threads = s.threads := rfl
@[simp] theorem State.setTerrace_cores (s : State) (k : Nat) (x : Terrace) : (s.setTerrace k x).cores = s.cores := rfl
@[simp] theorem State.setTerrace_crofts (s : State) (k : Nat) (x : Terrace) : (s.setTerrace k x).crofts = s.crofts := rfl
@[simp] theorem State.setTerrace_ctxs (s : State) (k : Nat) (x : Terrace) : (s.setTerrace k x).ctxs = s.ctxs := rfl
@[simp] theorem State.setTerrace_stores (s : State) (k : Nat) (x : Terrace) : (s.setTerrace k x).stores = s.stores := rfl
@[simp] theorem State.setTerrace_nextSer (s : State) (k : Nat) (x : Terrace) : (s.setTerrace k x).nextSer = s.nextSer := rfl
@[simp] theorem State.setTerrace_upd (s : State) (k : Nat) (x : Terrace) : (s.setTerrace k x).upd = s.upd := rfl
@[simp] theorem State.setTerrace_drift (s : State) (k : Nat) (x : Terrace) : (s.setTerrace k x).drift = s.drift := rfl
@[simp] theorem State.setTerrace_sqHeld (s : State) (k : Nat) (x : Terrace) : (s.setTerrace k x).sqHeld = s.sqHeld := rfl
@[simp] theorem State.setTerrace_kin (s : State) (k : Nat) (x : Terrace) : (s.setTerrace k x).kin = s.kin := rfl
@[simp] theorem State.setTerrace_kinOps (s : State) (k : Nat) (x : Terrace) : (s.setTerrace k x).kinOps = s.kinOps := rfl
@[simp] theorem State.setTerrace_kinRel (s : State) (k : Nat) (x : Terrace) : (s.setTerrace k x).kinRel = s.kinRel := rfl
@[simp] theorem State.setTerrace_kinAns (s : State) (k : Nat) (x : Terrace) : (s.setTerrace k x).kinAns = s.kinAns := rfl
@[simp] theorem State.setTerrace_saves (s : State) (k : Nat) (x : Terrace) : (s.setTerrace k x).saves = s.saves := rfl
@[simp] theorem State.setTerrace_poundto (s : State) (k : Nat) (x : Terrace) : (s.setTerrace k x).poundto = s.poundto := rfl
@[simp] theorem State.setTerrace_refillAt (s : State) (k : Nat) (x : Terrace) : (s.setTerrace k x).refillAt = s.refillAt := rfl
@[simp] theorem State.setTerrace_well (s : State) (k : Nat) (x : Terrace) : (s.setTerrace k x).well = s.well := rfl
@[simp] theorem State.setTerrace_sq (s : State) (k : Nat) (x : Terrace) : (s.setTerrace k x).sq = s.sq := rfl
@[simp] theorem State.setTerrace_host (s : State) (k : Nat) (x : Terrace) : (s.setTerrace k x).host = s.host := rfl
@[simp] theorem State.setTerrace_fleet (s : State) (k : Nat) (x : Terrace) : (s.setTerrace k x).fleet = s.fleet := rfl
@[simp] theorem State.setTerrace_freeCtr (s : State) (k : Nat) (x : Terrace) : (s.setTerrace k x).freeCtr = s.freeCtr := rfl
@[simp] theorem State.setTerrace_agenda (s : State) (k : Nat) (x : Terrace) : (s.setTerrace k x).agenda = s.agenda := rfl

/-! ## setCtx -/

@[simp] theorem State.setCtx_now (s : State) (k : Nat) (x : Ctx) : (s.setCtx k x).now = s.now := rfl
@[simp] theorem State.setCtx_cur (s : State) (k : Nat) (x : Ctx) : (s.setCtx k x).cur = s.cur := rfl
@[simp] theorem State.setCtx_mem (s : State) (k : Nat) (x : Ctx) : (s.setCtx k x).mem = s.mem := rfl
@[simp] theorem State.setCtx_threads (s : State) (k : Nat) (x : Ctx) : (s.setCtx k x).threads = s.threads := rfl
@[simp] theorem State.setCtx_cores (s : State) (k : Nat) (x : Ctx) : (s.setCtx k x).cores = s.cores := rfl
@[simp] theorem State.setCtx_crofts (s : State) (k : Nat) (x : Ctx) : (s.setCtx k x).crofts = s.crofts := rfl
@[simp] theorem State.setCtx_terraces (s : State) (k : Nat) (x : Ctx) : (s.setCtx k x).terraces = s.terraces := rfl
@[simp] theorem State.setCtx_stores (s : State) (k : Nat) (x : Ctx) : (s.setCtx k x).stores = s.stores := rfl
@[simp] theorem State.setCtx_nextSer (s : State) (k : Nat) (x : Ctx) : (s.setCtx k x).nextSer = s.nextSer := rfl
@[simp] theorem State.setCtx_upd (s : State) (k : Nat) (x : Ctx) : (s.setCtx k x).upd = s.upd := rfl
@[simp] theorem State.setCtx_drift (s : State) (k : Nat) (x : Ctx) : (s.setCtx k x).drift = s.drift := rfl
@[simp] theorem State.setCtx_sqHeld (s : State) (k : Nat) (x : Ctx) : (s.setCtx k x).sqHeld = s.sqHeld := rfl
@[simp] theorem State.setCtx_kin (s : State) (k : Nat) (x : Ctx) : (s.setCtx k x).kin = s.kin := rfl
@[simp] theorem State.setCtx_kinOps (s : State) (k : Nat) (x : Ctx) : (s.setCtx k x).kinOps = s.kinOps := rfl
@[simp] theorem State.setCtx_kinRel (s : State) (k : Nat) (x : Ctx) : (s.setCtx k x).kinRel = s.kinRel := rfl
@[simp] theorem State.setCtx_kinAns (s : State) (k : Nat) (x : Ctx) : (s.setCtx k x).kinAns = s.kinAns := rfl
@[simp] theorem State.setCtx_saves (s : State) (k : Nat) (x : Ctx) : (s.setCtx k x).saves = s.saves := rfl
@[simp] theorem State.setCtx_poundto (s : State) (k : Nat) (x : Ctx) : (s.setCtx k x).poundto = s.poundto := rfl
@[simp] theorem State.setCtx_refillAt (s : State) (k : Nat) (x : Ctx) : (s.setCtx k x).refillAt = s.refillAt := rfl
@[simp] theorem State.setCtx_well (s : State) (k : Nat) (x : Ctx) : (s.setCtx k x).well = s.well := rfl
@[simp] theorem State.setCtx_sq (s : State) (k : Nat) (x : Ctx) : (s.setCtx k x).sq = s.sq := rfl
@[simp] theorem State.setCtx_host (s : State) (k : Nat) (x : Ctx) : (s.setCtx k x).host = s.host := rfl
@[simp] theorem State.setCtx_fleet (s : State) (k : Nat) (x : Ctx) : (s.setCtx k x).fleet = s.fleet := rfl
@[simp] theorem State.setCtx_freeCtr (s : State) (k : Nat) (x : Ctx) : (s.setCtx k x).freeCtr = s.freeCtr := rfl
@[simp] theorem State.setCtx_agenda (s : State) (k : Nat) (x : Ctx) : (s.setCtx k x).agenda = s.agenda := rfl

/-! ## setPath -/

@[simp] theorem State.setPath_now (s : State) (k : Nat) (x : Path) : (s.setPath k x).now = s.now := rfl
@[simp] theorem State.setPath_cur (s : State) (k : Nat) (x : Path) : (s.setPath k x).cur = s.cur := rfl
@[simp] theorem State.setPath_mem (s : State) (k : Nat) (x : Path) : (s.setPath k x).mem = s.mem := rfl
@[simp] theorem State.setPath_threads (s : State) (k : Nat) (x : Path) : (s.setPath k x).threads = s.threads := rfl
@[simp] theorem State.setPath_cores (s : State) (k : Nat) (x : Path) : (s.setPath k x).cores = s.cores := rfl
@[simp] theorem State.setPath_crofts (s : State) (k : Nat) (x : Path) : (s.setPath k x).crofts = s.crofts := rfl
@[simp] theorem State.setPath_terraces (s : State) (k : Nat) (x : Path) : (s.setPath k x).terraces = s.terraces := rfl
@[simp] theorem State.setPath_ctxs (s : State) (k : Nat) (x : Path) : (s.setPath k x).ctxs = s.ctxs := rfl
@[simp] theorem State.setPath_stores (s : State) (k : Nat) (x : Path) : (s.setPath k x).stores = s.stores := rfl
@[simp] theorem State.setPath_nextSer (s : State) (k : Nat) (x : Path) : (s.setPath k x).nextSer = s.nextSer := rfl
@[simp] theorem State.setPath_upd (s : State) (k : Nat) (x : Path) : (s.setPath k x).upd = s.upd := rfl
@[simp] theorem State.setPath_drift (s : State) (k : Nat) (x : Path) : (s.setPath k x).drift = s.drift := rfl
@[simp] theorem State.setPath_sqHeld (s : State) (k : Nat) (x : Path) : (s.setPath k x).sqHeld = s.sqHeld := rfl
@[simp] theorem State.setPath_kin (s : State) (k : Nat) (x : Path) : (s.setPath k x).kin = s.kin := rfl
@[simp] theorem State.setPath_kinOps (s : State) (k : Nat) (x : Path) : (s.setPath k x).kinOps = s.kinOps := rfl
@[simp] theorem State.setPath_kinRel (s : State) (k : Nat) (x : Path) : (s.setPath k x).kinRel = s.kinRel := rfl
@[simp] theorem State.setPath_kinAns (s : State) (k : Nat) (x : Path) : (s.setPath k x).kinAns = s.kinAns := rfl
@[simp] theorem State.setPath_saves (s : State) (k : Nat) (x : Path) : (s.setPath k x).saves = s.saves := rfl
@[simp] theorem State.setPath_poundto (s : State) (k : Nat) (x : Path) : (s.setPath k x).poundto = s.poundto := rfl
@[simp] theorem State.setPath_refillAt (s : State) (k : Nat) (x : Path) : (s.setPath k x).refillAt = s.refillAt := rfl
@[simp] theorem State.setPath_sq (s : State) (k : Nat) (x : Path) : (s.setPath k x).sq = s.sq := rfl
@[simp] theorem State.setPath_host (s : State) (k : Nat) (x : Path) : (s.setPath k x).host = s.host := rfl
@[simp] theorem State.setPath_fleet (s : State) (k : Nat) (x : Path) : (s.setPath k x).fleet = s.fleet := rfl
@[simp] theorem State.setPath_freeCtr (s : State) (k : Nat) (x : Path) : (s.setPath k x).freeCtr = s.freeCtr := rfl
@[simp] theorem State.setPath_agenda (s : State) (k : Nat) (x : Path) : (s.setPath k x).agenda = s.agenda := rfl

/-! ## setLane -/

@[simp] theorem State.setLane_now (s : State) (k : Nat) (x : Lane) : (s.setLane k x).now = s.now := rfl
@[simp] theorem State.setLane_cur (s : State) (k : Nat) (x : Lane) : (s.setLane k x).cur = s.cur := rfl
@[simp] theorem State.setLane_mem (s : State) (k : Nat) (x : Lane) : (s.setLane k x).mem = s.mem := rfl
@[simp] theorem State.setLane_threads (s : State) (k : Nat) (x : Lane) : (s.setLane k x).threads = s.threads := rfl
@[simp] theorem State.setLane_cores (s : State) (k : Nat) (x : Lane) : (s.setLane k x).cores = s.cores := rfl
@[simp] theorem State.setLane_crofts (s : State) (k : Nat) (x : Lane) : (s.setLane k x).crofts = s.crofts := rfl
@[simp] theorem State.setLane_terraces (s : State) (k : Nat) (x : Lane) : (s.setLane k x).terraces = s.terraces := rfl
@[simp] theorem State.setLane_ctxs (s : State) (k : Nat) (x : Lane) : (s.setLane k x).ctxs = s.ctxs := rfl
@[simp] theorem State.setLane_stores (s : State) (k : Nat) (x : Lane) : (s.setLane k x).stores = s.stores := rfl
@[simp] theorem State.setLane_nextSer (s : State) (k : Nat) (x : Lane) : (s.setLane k x).nextSer = s.nextSer := rfl
@[simp] theorem State.setLane_upd (s : State) (k : Nat) (x : Lane) : (s.setLane k x).upd = s.upd := rfl
@[simp] theorem State.setLane_drift (s : State) (k : Nat) (x : Lane) : (s.setLane k x).drift = s.drift := rfl
@[simp] theorem State.setLane_sqHeld (s : State) (k : Nat) (x : Lane) : (s.setLane k x).sqHeld = s.sqHeld := rfl
@[simp] theorem State.setLane_kin (s : State) (k : Nat) (x : Lane) : (s.setLane k x).kin = s.kin := rfl
@[simp] theorem State.setLane_kinOps (s : State) (k : Nat) (x : Lane) : (s.setLane k x).kinOps = s.kinOps := rfl
@[simp] theorem State.setLane_kinRel (s : State) (k : Nat) (x : Lane) : (s.setLane k x).kinRel = s.kinRel := rfl
@[simp] theorem State.setLane_kinAns (s : State) (k : Nat) (x : Lane) : (s.setLane k x).kinAns = s.kinAns := rfl
@[simp] theorem State.setLane_saves (s : State) (k : Nat) (x : Lane) : (s.setLane k x).saves = s.saves := rfl
@[simp] theorem State.setLane_poundto (s : State) (k : Nat) (x : Lane) : (s.setLane k x).poundto = s.poundto := rfl
@[simp] theorem State.setLane_refillAt (s : State) (k : Nat) (x : Lane) : (s.setLane k x).refillAt = s.refillAt := rfl
@[simp] theorem State.setLane_sq (s : State) (k : Nat) (x : Lane) : (s.setLane k x).sq = s.sq := rfl
@[simp] theorem State.setLane_host (s : State) (k : Nat) (x : Lane) : (s.setLane k x).host = s.host := rfl
@[simp] theorem State.setLane_fleet (s : State) (k : Nat) (x : Lane) : (s.setLane k x).fleet = s.fleet := rfl
@[simp] theorem State.setLane_freeCtr (s : State) (k : Nat) (x : Lane) : (s.setLane k x).freeCtr = s.freeCtr := rfl
@[simp] theorem State.setLane_agenda (s : State) (k : Nat) (x : Lane) : (s.setLane k x).agenda = s.agenda := rfl

/-! ## setOport -/

@[simp] theorem State.setOport_now (s : State) (k : Nat) (x : OPort) : (s.setOport k x).now = s.now := rfl
@[simp] theorem State.setOport_cur (s : State) (k : Nat) (x : OPort) : (s.setOport k x).cur = s.cur := rfl
@[simp] theorem State.setOport_mem (s : State) (k : Nat) (x : OPort) : (s.setOport k x).mem = s.mem := rfl
@[simp] theorem State.setOport_threads (s : State) (k : Nat) (x : OPort) : (s.setOport k x).threads = s.threads := rfl
@[simp] theorem State.setOport_cores (s : State) (k : Nat) (x : OPort) : (s.setOport k x).cores = s.cores := rfl
@[simp] theorem State.setOport_crofts (s : State) (k : Nat) (x : OPort) : (s.setOport k x).crofts = s.crofts := rfl
@[simp] theorem State.setOport_terraces (s : State) (k : Nat) (x : OPort) : (s.setOport k x).terraces = s.terraces := rfl
@[simp] theorem State.setOport_ctxs (s : State) (k : Nat) (x : OPort) : (s.setOport k x).ctxs = s.ctxs := rfl
@[simp] theorem State.setOport_stores (s : State) (k : Nat) (x : OPort) : (s.setOport k x).stores = s.stores := rfl
@[simp] theorem State.setOport_nextSer (s : State) (k : Nat) (x : OPort) : (s.setOport k x).nextSer = s.nextSer := rfl
@[simp] theorem State.setOport_upd (s : State) (k : Nat) (x : OPort) : (s.setOport k x).upd = s.upd := rfl
@[simp] theorem State.setOport_drift (s : State) (k : Nat) (x : OPort) : (s.setOport k x).drift = s.drift := rfl
@[simp] theorem State.setOport_sqHeld (s : State) (k : Nat) (x : OPort) : (s.setOport k x).sqHeld = s.sqHeld := rfl
@[simp] theorem State.setOport_kin (s : State) (k : Nat) (x : OPort) : (s.setOport k x).kin = s.kin := rfl
@[simp] theorem State.setOport_kinOps (s : State) (k : Nat) (x : OPort) : (s.setOport k x).kinOps = s.kinOps := rfl
@[simp] theorem State.setOport_kinRel (s : State) (k : Nat) (x : OPort) : (s.setOport k x).kinRel = s.kinRel := rfl
@[simp] theorem State.setOport_kinAns (s : State) (k : Nat) (x : OPort) : (s.setOport k x).kinAns = s.kinAns := rfl
@[simp] theorem State.setOport_saves (s : State) (k : Nat) (x : OPort) : (s.setOport k x).saves = s.saves := rfl
@[simp] theorem State.setOport_poundto (s : State) (k : Nat) (x : OPort) : (s.setOport k x).poundto = s.poundto := rfl
@[simp] theorem State.setOport_refillAt (s : State) (k : Nat) (x : OPort) : (s.setOport k x).refillAt = s.refillAt := rfl
@[simp] theorem State.setOport_sq (s : State) (k : Nat) (x : OPort) : (s.setOport k x).sq = s.sq := rfl
@[simp] theorem State.setOport_host (s : State) (k : Nat) (x : OPort) : (s.setOport k x).host = s.host := rfl
@[simp] theorem State.setOport_fleet (s : State) (k : Nat) (x : OPort) : (s.setOport k x).fleet = s.fleet := rfl
@[simp] theorem State.setOport_freeCtr (s : State) (k : Nat) (x : OPort) : (s.setOport k x).freeCtr = s.freeCtr := rfl
@[simp] theorem State.setOport_agenda (s : State) (k : Nat) (x : OPort) : (s.setOport k x).agenda = s.agenda := rfl

/-! ## setTok -/

@[simp] theorem State.setTok_now (s : State) (k : Nat) (x : TokSlot) : (s.setTok k x).now = s.now := rfl
@[simp] theorem State.setTok_cur (s : State) (k : Nat) (x : TokSlot) : (s.setTok k x).cur = s.cur := rfl
@[simp] theorem State.setTok_mem (s : State) (k : Nat) (x : TokSlot) : (s.setTok k x).mem = s.mem := rfl
@[simp] theorem State.setTok_threads (s : State) (k : Nat) (x : TokSlot) : (s.setTok k x).threads = s.threads := rfl
@[simp] theorem State.setTok_cores (s : State) (k : Nat) (x : TokSlot) : (s.setTok k x).cores = s.cores := rfl
@[simp] theorem State.setTok_crofts (s : State) (k : Nat) (x : TokSlot) : (s.setTok k x).crofts = s.crofts := rfl
@[simp] theorem State.setTok_terraces (s : State) (k : Nat) (x : TokSlot) : (s.setTok k x).terraces = s.terraces := rfl
@[simp] theorem State.setTok_ctxs (s : State) (k : Nat) (x : TokSlot) : (s.setTok k x).ctxs = s.ctxs := rfl
@[simp] theorem State.setTok_stores (s : State) (k : Nat) (x : TokSlot) : (s.setTok k x).stores = s.stores := rfl
@[simp] theorem State.setTok_nextSer (s : State) (k : Nat) (x : TokSlot) : (s.setTok k x).nextSer = s.nextSer := rfl
@[simp] theorem State.setTok_upd (s : State) (k : Nat) (x : TokSlot) : (s.setTok k x).upd = s.upd := rfl
@[simp] theorem State.setTok_drift (s : State) (k : Nat) (x : TokSlot) : (s.setTok k x).drift = s.drift := rfl
@[simp] theorem State.setTok_sqHeld (s : State) (k : Nat) (x : TokSlot) : (s.setTok k x).sqHeld = s.sqHeld := rfl
@[simp] theorem State.setTok_kin (s : State) (k : Nat) (x : TokSlot) : (s.setTok k x).kin = s.kin := rfl
@[simp] theorem State.setTok_kinOps (s : State) (k : Nat) (x : TokSlot) : (s.setTok k x).kinOps = s.kinOps := rfl
@[simp] theorem State.setTok_kinRel (s : State) (k : Nat) (x : TokSlot) : (s.setTok k x).kinRel = s.kinRel := rfl
@[simp] theorem State.setTok_kinAns (s : State) (k : Nat) (x : TokSlot) : (s.setTok k x).kinAns = s.kinAns := rfl
@[simp] theorem State.setTok_saves (s : State) (k : Nat) (x : TokSlot) : (s.setTok k x).saves = s.saves := rfl
@[simp] theorem State.setTok_poundto (s : State) (k : Nat) (x : TokSlot) : (s.setTok k x).poundto = s.poundto := rfl
@[simp] theorem State.setTok_refillAt (s : State) (k : Nat) (x : TokSlot) : (s.setTok k x).refillAt = s.refillAt := rfl
@[simp] theorem State.setTok_well (s : State) (k : Nat) (x : TokSlot) : (s.setTok k x).well = s.well := rfl
@[simp] theorem State.setTok_host (s : State) (k : Nat) (x : TokSlot) : (s.setTok k x).host = s.host := rfl
@[simp] theorem State.setTok_fleet (s : State) (k : Nat) (x : TokSlot) : (s.setTok k x).fleet = s.fleet := rfl
@[simp] theorem State.setTok_freeCtr (s : State) (k : Nat) (x : TokSlot) : (s.setTok k x).freeCtr = s.freeCtr := rfl
@[simp] theorem State.setTok_agenda (s : State) (k : Nat) (x : TokSlot) : (s.setTok k x).agenda = s.agenda := rfl

/-! ## modThread -/

@[simp] theorem State.modThread_now (s : State) (k : Nat) (f : Thread → Thread) : (s.modThread k f).now = s.now := rfl
@[simp] theorem State.modThread_cur (s : State) (k : Nat) (f : Thread → Thread) : (s.modThread k f).cur = s.cur := rfl
@[simp] theorem State.modThread_mem (s : State) (k : Nat) (f : Thread → Thread) : (s.modThread k f).mem = s.mem := rfl
@[simp] theorem State.modThread_cores (s : State) (k : Nat) (f : Thread → Thread) : (s.modThread k f).cores = s.cores := rfl
@[simp] theorem State.modThread_crofts (s : State) (k : Nat) (f : Thread → Thread) : (s.modThread k f).crofts = s.crofts := rfl
@[simp] theorem State.modThread_terraces (s : State) (k : Nat) (f : Thread → Thread) : (s.modThread k f).terraces = s.terraces := rfl
@[simp] theorem State.modThread_ctxs (s : State) (k : Nat) (f : Thread → Thread) : (s.modThread k f).ctxs = s.ctxs := rfl
@[simp] theorem State.modThread_stores (s : State) (k : Nat) (f : Thread → Thread) : (s.modThread k f).stores = s.stores := rfl
@[simp] theorem State.modThread_nextSer (s : State) (k : Nat) (f : Thread → Thread) : (s.modThread k f).nextSer = s.nextSer := rfl
@[simp] theorem State.modThread_upd (s : State) (k : Nat) (f : Thread → Thread) : (s.modThread k f).upd = s.upd := rfl
@[simp] theorem State.modThread_drift (s : State) (k : Nat) (f : Thread → Thread) : (s.modThread k f).drift = s.drift := rfl
@[simp] theorem State.modThread_sqHeld (s : State) (k : Nat) (f : Thread → Thread) : (s.modThread k f).sqHeld = s.sqHeld := rfl
@[simp] theorem State.modThread_kin (s : State) (k : Nat) (f : Thread → Thread) : (s.modThread k f).kin = s.kin := rfl
@[simp] theorem State.modThread_kinOps (s : State) (k : Nat) (f : Thread → Thread) : (s.modThread k f).kinOps = s.kinOps := rfl
@[simp] theorem State.modThread_kinRel (s : State) (k : Nat) (f : Thread → Thread) : (s.modThread k f).kinRel = s.kinRel := rfl
@[simp] theorem State.modThread_kinAns (s : State) (k : Nat) (f : Thread → Thread) : (s.modThread k f).kinAns = s.kinAns := rfl
@[simp] theorem State.modThread_saves (s : State) (k : Nat) (f : Thread → Thread) : (s.modThread k f).saves = s.saves := rfl
@[simp] theorem State.modThread_poundto (s : State) (k : Nat) (f : Thread → Thread) : (s.modThread k f).poundto = s.poundto := rfl
@[simp] theorem State.modThread_refillAt (s : State) (k : Nat) (f : Thread → Thread) : (s.modThread k f).refillAt = s.refillAt := rfl
@[simp] theorem State.modThread_well (s : State) (k : Nat) (f : Thread → Thread) : (s.modThread k f).well = s.well := rfl
@[simp] theorem State.modThread_sq (s : State) (k : Nat) (f : Thread → Thread) : (s.modThread k f).sq = s.sq := rfl
@[simp] theorem State.modThread_host (s : State) (k : Nat) (f : Thread → Thread) : (s.modThread k f).host = s.host := rfl
@[simp] theorem State.modThread_fleet (s : State) (k : Nat) (f : Thread → Thread) : (s.modThread k f).fleet = s.fleet := rfl
@[simp] theorem State.modThread_freeCtr (s : State) (k : Nat) (f : Thread → Thread) : (s.modThread k f).freeCtr = s.freeCtr := rfl
@[simp] theorem State.modThread_agenda (s : State) (k : Nat) (f : Thread → Thread) : (s.modThread k f).agenda = s.agenda := rfl

/-! ## modCore -/

@[simp] theorem State.modCore_now (s : State) (k : Nat) (f : Core → Core) : (s.modCore k f).now = s.now := rfl
@[simp] theorem State.modCore_cur (s : State) (k : Nat) (f : Core → Core) : (s.modCore k f).cur = s.cur := rfl
@[simp] theorem State.modCore_mem (s : State) (k : Nat) (f : Core → Core) : (s.modCore k f).mem = s.mem := rfl
@[simp] theorem State.modCore_threads (s : State) (k : Nat) (f : Core → Core) : (s.modCore k f).threads = s.threads := rfl
@[simp] theorem State.modCore_crofts (s : State) (k : Nat) (f : Core → Core) : (s.modCore k f).crofts = s.crofts := rfl
@[simp] theorem State.modCore_terraces (s : State) (k : Nat) (f : Core → Core) : (s.modCore k f).terraces = s.terraces := rfl
@[simp] theorem State.modCore_ctxs (s : State) (k : Nat) (f : Core → Core) : (s.modCore k f).ctxs = s.ctxs := rfl
@[simp] theorem State.modCore_stores (s : State) (k : Nat) (f : Core → Core) : (s.modCore k f).stores = s.stores := rfl
@[simp] theorem State.modCore_nextSer (s : State) (k : Nat) (f : Core → Core) : (s.modCore k f).nextSer = s.nextSer := rfl
@[simp] theorem State.modCore_upd (s : State) (k : Nat) (f : Core → Core) : (s.modCore k f).upd = s.upd := rfl
@[simp] theorem State.modCore_drift (s : State) (k : Nat) (f : Core → Core) : (s.modCore k f).drift = s.drift := rfl
@[simp] theorem State.modCore_sqHeld (s : State) (k : Nat) (f : Core → Core) : (s.modCore k f).sqHeld = s.sqHeld := rfl
@[simp] theorem State.modCore_kin (s : State) (k : Nat) (f : Core → Core) : (s.modCore k f).kin = s.kin := rfl
@[simp] theorem State.modCore_kinOps (s : State) (k : Nat) (f : Core → Core) : (s.modCore k f).kinOps = s.kinOps := rfl
@[simp] theorem State.modCore_kinRel (s : State) (k : Nat) (f : Core → Core) : (s.modCore k f).kinRel = s.kinRel := rfl
@[simp] theorem State.modCore_kinAns (s : State) (k : Nat) (f : Core → Core) : (s.modCore k f).kinAns = s.kinAns := rfl
@[simp] theorem State.modCore_saves (s : State) (k : Nat) (f : Core → Core) : (s.modCore k f).saves = s.saves := rfl
@[simp] theorem State.modCore_poundto (s : State) (k : Nat) (f : Core → Core) : (s.modCore k f).poundto = s.poundto := rfl
@[simp] theorem State.modCore_refillAt (s : State) (k : Nat) (f : Core → Core) : (s.modCore k f).refillAt = s.refillAt := rfl
@[simp] theorem State.modCore_well (s : State) (k : Nat) (f : Core → Core) : (s.modCore k f).well = s.well := rfl
@[simp] theorem State.modCore_sq (s : State) (k : Nat) (f : Core → Core) : (s.modCore k f).sq = s.sq := rfl
@[simp] theorem State.modCore_host (s : State) (k : Nat) (f : Core → Core) : (s.modCore k f).host = s.host := rfl
@[simp] theorem State.modCore_fleet (s : State) (k : Nat) (f : Core → Core) : (s.modCore k f).fleet = s.fleet := rfl
@[simp] theorem State.modCore_freeCtr (s : State) (k : Nat) (f : Core → Core) : (s.modCore k f).freeCtr = s.freeCtr := rfl
@[simp] theorem State.modCore_agenda (s : State) (k : Nat) (f : Core → Core) : (s.modCore k f).agenda = s.agenda := rfl

/-! ## modCroft -/

@[simp] theorem State.modCroft_now (s : State) (k : Nat) (f : Croft → Croft) : (s.modCroft k f).now = s.now := rfl
@[simp] theorem State.modCroft_cur (s : State) (k : Nat) (f : Croft → Croft) : (s.modCroft k f).cur = s.cur := rfl
@[simp] theorem State.modCroft_mem (s : State) (k : Nat) (f : Croft → Croft) : (s.modCroft k f).mem = s.mem := rfl
@[simp] theorem State.modCroft_threads (s : State) (k : Nat) (f : Croft → Croft) : (s.modCroft k f).threads = s.threads := rfl
@[simp] theorem State.modCroft_cores (s : State) (k : Nat) (f : Croft → Croft) : (s.modCroft k f).cores = s.cores := rfl
@[simp] theorem State.modCroft_terraces (s : State) (k : Nat) (f : Croft → Croft) : (s.modCroft k f).terraces = s.terraces := rfl
@[simp] theorem State.modCroft_ctxs (s : State) (k : Nat) (f : Croft → Croft) : (s.modCroft k f).ctxs = s.ctxs := rfl
@[simp] theorem State.modCroft_stores (s : State) (k : Nat) (f : Croft → Croft) : (s.modCroft k f).stores = s.stores := rfl
@[simp] theorem State.modCroft_nextSer (s : State) (k : Nat) (f : Croft → Croft) : (s.modCroft k f).nextSer = s.nextSer := rfl
@[simp] theorem State.modCroft_upd (s : State) (k : Nat) (f : Croft → Croft) : (s.modCroft k f).upd = s.upd := rfl
@[simp] theorem State.modCroft_drift (s : State) (k : Nat) (f : Croft → Croft) : (s.modCroft k f).drift = s.drift := rfl
@[simp] theorem State.modCroft_sqHeld (s : State) (k : Nat) (f : Croft → Croft) : (s.modCroft k f).sqHeld = s.sqHeld := rfl
@[simp] theorem State.modCroft_kin (s : State) (k : Nat) (f : Croft → Croft) : (s.modCroft k f).kin = s.kin := rfl
@[simp] theorem State.modCroft_kinOps (s : State) (k : Nat) (f : Croft → Croft) : (s.modCroft k f).kinOps = s.kinOps := rfl
@[simp] theorem State.modCroft_kinRel (s : State) (k : Nat) (f : Croft → Croft) : (s.modCroft k f).kinRel = s.kinRel := rfl
@[simp] theorem State.modCroft_kinAns (s : State) (k : Nat) (f : Croft → Croft) : (s.modCroft k f).kinAns = s.kinAns := rfl
@[simp] theorem State.modCroft_saves (s : State) (k : Nat) (f : Croft → Croft) : (s.modCroft k f).saves = s.saves := rfl
@[simp] theorem State.modCroft_poundto (s : State) (k : Nat) (f : Croft → Croft) : (s.modCroft k f).poundto = s.poundto := rfl
@[simp] theorem State.modCroft_refillAt (s : State) (k : Nat) (f : Croft → Croft) : (s.modCroft k f).refillAt = s.refillAt := rfl
@[simp] theorem State.modCroft_well (s : State) (k : Nat) (f : Croft → Croft) : (s.modCroft k f).well = s.well := rfl
@[simp] theorem State.modCroft_sq (s : State) (k : Nat) (f : Croft → Croft) : (s.modCroft k f).sq = s.sq := rfl
@[simp] theorem State.modCroft_host (s : State) (k : Nat) (f : Croft → Croft) : (s.modCroft k f).host = s.host := rfl
@[simp] theorem State.modCroft_fleet (s : State) (k : Nat) (f : Croft → Croft) : (s.modCroft k f).fleet = s.fleet := rfl
@[simp] theorem State.modCroft_freeCtr (s : State) (k : Nat) (f : Croft → Croft) : (s.modCroft k f).freeCtr = s.freeCtr := rfl
@[simp] theorem State.modCroft_agenda (s : State) (k : Nat) (f : Croft → Croft) : (s.modCroft k f).agenda = s.agenda := rfl

/-! ## freshCtr -/

@[simp] theorem State.freshCtr_now (s : State) : (s.freshCtr).now = s.now := rfl
@[simp] theorem State.freshCtr_cur (s : State) : (s.freshCtr).cur = s.cur := rfl
@[simp] theorem State.freshCtr_mem (s : State) : (s.freshCtr).mem = s.mem := rfl
@[simp] theorem State.freshCtr_threads (s : State) : (s.freshCtr).threads = s.threads := rfl
@[simp] theorem State.freshCtr_cores (s : State) : (s.freshCtr).cores = s.cores := rfl
@[simp] theorem State.freshCtr_crofts (s : State) : (s.freshCtr).crofts = s.crofts := rfl
@[simp] theorem State.freshCtr_terraces (s : State) : (s.freshCtr).terraces = s.terraces := rfl
@[simp] theorem State.freshCtr_ctxs (s : State) : (s.freshCtr).ctxs = s.ctxs := rfl
@[simp] theorem State.freshCtr_stores (s : State) : (s.freshCtr).stores = s.stores := rfl
@[simp] theorem State.freshCtr_nextSer (s : State) : (s.freshCtr).nextSer = s.nextSer := rfl
@[simp] theorem State.freshCtr_upd (s : State) : (s.freshCtr).upd = s.upd := rfl
@[simp] theorem State.freshCtr_drift (s : State) : (s.freshCtr).drift = s.drift := rfl
@[simp] theorem State.freshCtr_sqHeld (s : State) : (s.freshCtr).sqHeld = s.sqHeld := rfl
@[simp] theorem State.freshCtr_kin (s : State) : (s.freshCtr).kin = s.kin := rfl
@[simp] theorem State.freshCtr_kinOps (s : State) : (s.freshCtr).kinOps = s.kinOps := rfl
@[simp] theorem State.freshCtr_kinRel (s : State) : (s.freshCtr).kinRel = s.kinRel := rfl
@[simp] theorem State.freshCtr_kinAns (s : State) : (s.freshCtr).kinAns = s.kinAns := rfl
@[simp] theorem State.freshCtr_saves (s : State) : (s.freshCtr).saves = s.saves := rfl
@[simp] theorem State.freshCtr_poundto (s : State) : (s.freshCtr).poundto = s.poundto := rfl
@[simp] theorem State.freshCtr_refillAt (s : State) : (s.freshCtr).refillAt = s.refillAt := rfl
@[simp] theorem State.freshCtr_well (s : State) : (s.freshCtr).well = s.well := rfl
@[simp] theorem State.freshCtr_sq (s : State) : (s.freshCtr).sq = s.sq := rfl
@[simp] theorem State.freshCtr_host (s : State) : (s.freshCtr).host = s.host := rfl
@[simp] theorem State.freshCtr_fleet (s : State) : (s.freshCtr).fleet = s.fleet := rfl
@[simp] theorem State.freshCtr_agenda (s : State) : (s.freshCtr).agenda = s.agenda := rfl

/-! ## Parts read back -/

@[simp] theorem State.thread_setThread_self (s : State) (k : Nat) (x : Thread) : (s.setThread k x).thread k = x :=
  SMap.get_put_self _ _ _ _
theorem State.thread_setThread_ne (s : State) {k j : Nat} (x : Thread) (h : j ≠ k) : (s.setThread k x).thread j = s.thread j :=
  SMap.get_put_ne _ _ _ h
@[simp] theorem State.thread_modThread_self (s : State) (k : Nat) (f : Thread → Thread) :
    (s.modThread k f).thread k = f (s.thread k) := SMap.get_put_self _ _ _ _
theorem State.thread_modThread_ne (s : State) {k j : Nat} (f : Thread → Thread) (h : j ≠ k) :
    (s.modThread k f).thread j = s.thread j := SMap.get_put_ne _ _ _ h
@[simp] theorem State.core_setThread (s : State) (k j : Nat) (x : Thread) : (s.setThread k x).core j = s.core j := rfl
@[simp] theorem State.core_modThread (s : State) (k j : Nat) (f : Thread → Thread) : (s.modThread k f).core j = s.core j := rfl
@[simp] theorem State.thread_setCore (s : State) (k j : Nat) (x : Core) : (s.setCore k x).thread j = s.thread j := rfl
@[simp] theorem State.thread_modCore (s : State) (k j : Nat) (f : Core → Core) : (s.modCore k f).thread j = s.thread j := rfl
@[simp] theorem State.core_setCore_self (s : State) (k : Nat) (x : Core) : (s.setCore k x).core k = x :=
  SMap.get_put_self _ _ _ _
theorem State.core_setCore_ne (s : State) {k j : Nat} (x : Core) (h : j ≠ k) : (s.setCore k x).core j = s.core j :=
  SMap.get_put_ne _ _ _ h
@[simp] theorem State.core_modCore_self (s : State) (k : Nat) (f : Core → Core) : (s.modCore k f).core k = f (s.core k) :=
  SMap.get_put_self _ _ _ _
theorem State.core_modCore_ne (s : State) {k j : Nat} (f : Core → Core) (h : j ≠ k) : (s.modCore k f).core j = s.core j :=
  SMap.get_put_ne _ _ _ h
@[simp] theorem State.curCore_setThread (s : State) (k : Nat) (x : Thread) : (s.setThread k x).curCore = s.curCore := rfl
@[simp] theorem State.curCore_modThread (s : State) (k : Nat) (f : Thread → Thread) : (s.modThread k f).curCore = s.curCore := rfl
@[simp] theorem State.curCore_setCore (s : State) (k : Nat) (x : Core) : (s.setCore k x).curCore = s.curCore := rfl
@[simp] theorem State.curCore_modCore (s : State) (k : Nat) (f : Core → Core) : (s.modCore k f).curCore = s.curCore := rfl
@[simp] theorem State.croft_setCroft_self (s : State) (k : Nat) (x : Croft) : (s.setCroft k x).croft k = x :=
  SMap.get_put_self _ _ _ _
@[simp] theorem State.terrace_setTerrace_self (s : State) (k : Nat) (x : Terrace) : (s.setTerrace k x).terrace k = x :=
  SMap.get_put_self _ _ _ _
@[simp] theorem State.ctx?_setCtx_self (s : State) (k : Nat) (x : Ctx) : (s.setCtx k x).ctx? k = some x :=
  SMap.get?_put_self _ _ _
@[simp] theorem State.lane_setLane_self (s : State) (k : Nat) (x : Lane) : (s.setLane k x).lane k = x :=
  SMap.get_put_self _ _ _ _
@[simp] theorem State.oport_setOport_self (s : State) (k : Nat) (x : OPort) : (s.setOport k x).oport k = x :=
  SMap.get_put_self _ _ _ _
@[simp] theorem State.tok_setTok_self (s : State) (k : Nat) (x : TokSlot) : (s.setTok k x).tok k = x :=
  SMap.get_put_self _ _ _ _
@[simp] theorem State.path?_setPath_self (s : State) (k : Nat) (x : Path) : (s.setPath k x).path? k = some x :=
  SMap.get?_put_self _ _ _

/-! ## Reset -/

theorem State.reset_mem : State.reset.mem = [] := rfl
theorem State.thread_reset (k : Nat) : State.reset.thread k = slotInit k := rfl
theorem State.core_reset (k : Nat) : State.reset.core k = {} := rfl

end Sys2Proof.Machine
end

