-- ==== Sys2Proof/Laws/Ops.lean ====
section
/-!
SUPPORT. What the shared operations do, once: how a body ends (retire, stall, trap), how bodies compose, and what a
register read or write answers in each of its cases.
-/
namespace Sys2Proof.Machine

/-! ## Bodies -/

theorem run_pure {α : Type} (a : α) (s : State) : (pure a : Exec α).run s = .ok (a, s) := rfl
theorem run_get (s : State) : (get : Exec State).run s = .ok (s, s) := rfl
theorem run_set (t s : State) : (set t : Exec PUnit).run s = .ok (⟨⟩, t) := rfl
theorem run_modify (f : State → State) (s : State) : (modify f : Exec PUnit).run s = .ok (⟨⟩, f s) := rfl
theorem run_throw {α : Type} (e : Stop) (s : State) : (throw e : Exec α).run s = .error e := rfl
theorem run_stall {α : Type} (w : Wait) (s : State) : (stall w : Exec α).run s = .error (.stall w) := rfl
theorem run_trap {α : Type} (c : Nat) (v : B64) (s : State) : (trap c v : Exec α).run s = .error (.trap c v false none) := rfl
theorem run_halt {α : Type} (t s : State) : (halt t : Exec α).run s = .error (.halt t) := rfl
theorem run_thr (s : State) : thr.run s = .ok (s.thread s.cur, s) := rfl
theorem run_modThr (f : Thread → Thread) (s : State) : (modThr f).run s = .ok (⟨⟩, s.modThread s.cur f) := rfl
theorem run_modCore (f : Core → Core) (s : State) : (modCore f).run s = .ok (⟨⟩, s.modCore s.curCore f) := rfl
/-- A bind whose first part ends goes on from its answer. -/
theorem run_bind_ok {α β : Type} {x : Exec α} {f : α → Exec β} {s t : State} {a : α} (h : x.run s = .ok (a, t)) :
    (x >>= f).run s = (f a).run t := by
  rw [StateT.run_bind, h]; rfl
/-- A bind whose first part stops, stops so. -/
theorem run_bind_error {α β : Type} {x : Exec α} {f : α → Exec β} {s : State} {e : Stop} (h : x.run s = .error e) :
    (x >>= f).run s = .error e := by
  rw [StateT.run_bind, h]; rfl
/-- A bind that ends, ended in both parts. -/
theorem run_bind_eq_ok {α β : Type} {x : Exec α} {f : α → Exec β} {s u : State} {b : β} (h : (x >>= f).run s = .ok (b, u)) :
    ∃ a t, x.run s = .ok (a, t) ∧ (f a).run t = .ok (b, u) := by
  cases hx : x.run s with
  | error e => rw [run_bind_error hx] at h; cases h
  | ok r => exact ⟨r.1, r.2, rfl, (run_bind_ok (a := r.1) (t := r.2) hx) ▸ h⟩
/-- A bind that stops, stopped in one of its parts. -/
theorem run_bind_eq_error {α β : Type} {x : Exec α} {f : α → Exec β} {s : State} {e : Stop} (h : (x >>= f).run s = .error e) :
    x.run s = .error e ∨ ∃ a t, x.run s = .ok (a, t) ∧ (f a).run t = .error e := by
  cases hx : x.run s with
  | error e' => rw [run_bind_error hx] at h; cases h; exact .inl rfl
  | ok r => exact .inr ⟨r.1, r.2, rfl, (run_bind_ok (a := r.1) (t := r.2) hx) ▸ h⟩

theorem runI_ok {len : Nat} {body : Exec Unit} {s t : State} {u : Unit} (h : body.run s = .ok (u, t)) :
    runI len body s = t.retire len := by simp [runI, h]
theorem runI_error {len : Nat} {body : Exec Unit} {s : State} {e : Stop} (h : body.run s = .error e) :
    runI len body s = s.stopped len e := by simp [runI, h]
theorem runI_stall {len : Nat} {body : Exec Unit} {s : State} {w : Wait} (h : body.run s = .error (.stall w)) :
    runI len body s = s.stallCur w := by rw [runI_error h]; rfl
theorem runI_halt {len : Nat} {body : Exec Unit} {s t : State} (h : body.run s = .error (.halt t)) :
    runI len body s = t := by rw [runI_error h]; rfl
theorem runI_trap {len c : Nat} {v : B64} {body : Exec Unit} {s : State} (h : body.run s = .error (.trap c v false none)) :
    runI len body s = s.takeTrap c v (s.thread s.cur).pc (len == 2) := by rw [runI_error h]; rfl
theorem runJ_ok {len : Nat} {body : Exec B64} {s t : State} {pc : B64} (h : body.run s = .ok (pc, t)) :
    runJ len body s = t.modThread t.cur (fun x => { x with pc := pc, charged := false, phase := .idle, skipped := 0, skipArg := none, holds := [] }) := by
  simp [runJ, h]
theorem runJ_error {len : Nat} {body : Exec B64} {s : State} {e : Stop} (h : body.run s = .error e) :
    runJ len body s = s.stopped len e := by simp [runJ, h]

/-! ## Register reads and writes -/

theorem settled_free {c : RegCls} {n : Nat} {s : State} (h : (s.thread s.cur).pend.any (fun p => p.cls == c && p.num == n) = false) :
    (settled c n).run s = .ok ((), s) := by
  rw [settled, run_bind_ok (run_thr s)]; simp only [h]; rfl
theorem settled_pending {c : RegCls} {n : Nat} {s : State}
    (h : (s.thread s.cur).pend.any (fun p => p.cls == c && p.num == n) = true) :
    (settled c n).run s = .error (.stall (.pending c n)) := by
  rw [settled, run_bind_ok (run_thr s)]; simp [h, run_stall]
/-- s0 reads zero. -/
theorem readS_zero (s : State) : (readS 0).run s = .ok (0, s) := rfl
/-- A register that no port binds and nothing will still write reads its value. -/
theorem readS_plain {r : SReg} {s : State} (h0 : r ≠ 0)
    (hp : (s.thread s.cur).pend.any (fun p => p.cls == .s && p.num == r.val) = false)
    (hb : (s.thread s.cur).ports.get? (32 + r.val) = none) :
    (readS r).run s = .ok ((s.thread s.cur).s.get 0 r.val, s) := by
  simp only [readS, if_neg h0]
  rw [run_bind_ok (settled_free hp), run_bind_ok (run_thr s)]
  simp only [hb]; rfl
/-- A bound register pops its port. -/
theorem readS_port {r : SReg} {s t : State} {p : Port} {v : B512} (h0 : r ≠ 0)
    (hp : (s.thread s.cur).pend.any (fun p => p.cls == .s && p.num == r.val) = false)
    (hb : (s.thread s.cur).ports.get? (32 + r.val) = some p) (hv : (popPort (32 + r.val) p).run s = .ok (v, t)) :
    (readS r).run s = .ok (v.setWidth 64, t) := by
  simp only [readS, if_neg h0]
  rw [run_bind_ok (settled_free hp), run_bind_ok (run_thr s)]
  simp only [hb]
  rw [run_bind_ok hv]; rfl
/-- A register still pending makes its reader wait. -/
theorem readS_pending {r : SReg} {s : State} (h0 : r ≠ 0)
    (hp : (s.thread s.cur).pend.any (fun p => p.cls == .s && p.num == r.val) = true) :
    (readS r).run s = .error (.stall (.pending .s r.val)) := by
  simp only [readS, if_neg h0]
  rw [run_bind_error (settled_pending hp)]
/-- s0 discards. -/
theorem writeS_zero (v : B64) (s : State) : (writeS 0 v).run s = .ok ((), s) := rfl
theorem writeS_plain {r : SReg} {v : B64} {s : State} (h0 : r ≠ 0)
    (hp : (s.thread s.cur).pend.any (fun p => p.cls == .s && p.num == r.val) = false)
    (hb : (s.thread s.cur).ports.get? (32 + r.val) = none) :
    (writeS r v).run s = .ok ((), s.modThread s.cur (fun t => { t with s := t.s.put r.val v })) := by
  simp only [writeS, if_neg h0]
  rw [run_bind_ok (settled_free hp), run_bind_ok (run_thr s)]
  simp [hb, run_modThr]
/-- A bound register pushes its port. -/
theorem writeS_port {r : SReg} {v : B64} {s t : State} {p : Port} (h0 : r ≠ 0)
    (hp : (s.thread s.cur).pend.any (fun p => p.cls == .s && p.num == r.val) = false)
    (hb : (s.thread s.cur).ports.get? (32 + r.val) = some p)
    (hv : (pushPort (32 + r.val) p (v.setWidth 512)).run s = .ok ((), t)) : (writeS r v).run s = .ok ((), t) := by
  simp only [writeS, if_neg h0]
  rw [run_bind_ok (settled_free hp), run_bind_ok (run_thr s)]
  simpa [hb] using hv
theorem writeS_pending {r : SReg} {v : B64} {s : State} (h0 : r ≠ 0)
    (hp : (s.thread s.cur).pend.any (fun p => p.cls == .s && p.num == r.val) = true) :
    (writeS r v).run s = .error (.stall (.pending .s r.val)) := by
  simp only [writeS, if_neg h0]
  rw [run_bind_error (settled_pending hp)]
theorem readV_plain {r : VReg} {s : State}
    (hp : (s.thread s.cur).pend.any (fun p => p.cls == .v && p.num == r.val) = false)
    (hb : (s.thread s.cur).ports.get? r.val = none) : (readV r).run s = .ok ((s.thread s.cur).v.get 0 r.val, s) := by
  simp only [readV]
  rw [run_bind_ok (settled_free hp), run_bind_ok (run_thr s)]
  simp only [hb]; rfl
theorem writeV_plain {r : VReg} {v : B512} {s : State}
    (hp : (s.thread s.cur).pend.any (fun p => p.cls == .v && p.num == r.val) = false)
    (hb : (s.thread s.cur).ports.get? r.val = none) :
    (writeV r v).run s = .ok ((), s.modThread s.cur (fun t => { t with v := t.v.put r.val v })) := by
  simp only [writeV]
  rw [run_bind_ok (settled_free hp), run_bind_ok (run_thr s)]
  simp [hb, run_modThr]
/-- m0 is all ones. -/
theorem readM_zero (s : State) : (readM 0).run s = .ok (BitVec.allOnes 64, s) := rfl
theorem readM_plain {r : MReg} {s : State} (h0 : r ≠ 0)
    (hp : (s.thread s.cur).pend.any (fun p => p.cls == .m && p.num == r.val) = false) :
    (readM r).run s = .ok ((s.thread s.cur).m.get 0 r.val, s) := by
  simp only [readM, if_neg h0]
  rw [run_bind_ok (settled_free hp), run_bind_ok (run_thr s)]
  rfl
/-- m0 discards. -/
theorem writeM_zero (v : B64) (s : State) : (writeM 0 v).run s = .ok ((), s) := rfl
theorem writeM_plain {r : MReg} {v : B64} {s : State} (h0 : r ≠ 0)
    (hp : (s.thread s.cur).pend.any (fun p => p.cls == .m && p.num == r.val) = false) :
    (writeM r v).run s = .ok ((), s.modThread s.cur (fun t => { t with m := t.m.put r.val v })) := by
  simp only [writeM, if_neg h0]
  rw [run_bind_ok (settled_free hp)]
  rfl

/-! ## Traps -/

/-- Entry to the handler (R113): outside a system slot, with a handler and no trap being handled. -/
theorem takeTrap_enters {s : State} {cause : Nat} {val ret : B64} {compact : Bool} (hslot : slotOf s.cur ≠ 4)
    (hx : cause ≠ cXLATE) (hv : tvecAddr (s.core s.curCore).tvec ≠ 0) (hin : tcauseIN (s.thread s.cur).tcause = false) :
    s.takeTrap cause val ret compact =
      s.setThread s.cur { s.thread s.cur with
        tpc := ret &&& 0x000FFFFFFFFFFFFF#64, tval := val, tcause := tcauseOf (s.thread s.cur).sysMode compact cause, sysMode := true,
        pc := tvecAddr (s.core s.curCore).tvec, charged := false, phase := .idle, skipped := 0, skipArg := none, holds := [] } := by
  simp only [State.takeTrap, if_neg hx, if_neg hslot]
  rw [if_neg]
  simp [show ¬ tvecAddr (s.core s.curCore).tvec = 0#64 from hv, hin]
/-- With no handler, or a trap being handled, the context ends (R113). -/
theorem takeTrap_ends {s : State} {cause : Nat} {val ret : B64} {compact : Bool} (hslot : slotOf s.cur ≠ 4)
    (hx : cause ≠ cXLATE) (h : tvecAddr (s.core s.curCore).tvec = 0 ∨ tcauseIN (s.thread s.cur).tcause = true) :
    s.takeTrap cause val ret compact =
      s.endContext (s.thread s.cur).ctx cause (tcauseIN (s.thread s.cur).tcause) (whereOf s.cur) ret val := by
  simp only [State.takeTrap, if_neg hx, if_neg hslot]
  rw [if_pos h]

end Sys2Proof.Machine
end

