-- ==== Sys2Proof/Laws/Recall.lean ====
section
/-!
SUPPORT. What a recall and a translation may change: memory, the Update-only lines, the event counters and the Echo
units. Everything else of the state stays.
-/
namespace Sys2Proof.Machine

/-- The state without the parts a recall may change. -/
def State.rest (s : State) : State := { s with mem := [], upd := [], fleet := {}, crofts := {} }

/-- Steps that each keep a view of the state keep it together. -/
theorem foldl_keeps {α β σ : Type} {p : σ → β} {f : σ → α → σ} (h : ∀ s a, p (f s a) = p s) (l : List α) (s : σ) :
    p (l.foldl f s) = p s := by
  induction l generalizing s with
  | nil => rfl
  | cons a l ih => rw [List.foldl_cons, ih, h]
theorem rest_count (s : State) (core slot src n : Nat) : (s.count core slot src n).rest = s.rest := by
  unfold State.count; dsimp only; split <;> rfl
theorem rest_echoOne {home : State → Nat → Nat → State} (h : ∀ s a n, (home s a n).rest = s.rest) (loc src kind : Nat)
    (tag : BitVec 16) (dev : Nat) (s : State) (c : Nat × Echo) : (echoOne home loc src kind tag dev s c).rest = s.rest := by
  unfold echoOne
  dsimp only
  split <;> split <;> first | rfl | exact h _ _ _
theorem rest_echoBy {home : State → Nat → Nat → State} (h : ∀ s a n, (home s a n).rest = s.rest) (s : State) (loc src kind : Nat)
    (tag : BitVec 16) (dev : Nat) : (s.echoBy home loc src kind tag dev).rest = s.rest :=
  foldl_keeps (rest_echoOne h loc src kind tag dev) _ _
theorem rest_mergeElem {home : State → Nat → Nat → State} (h : ∀ s a n, (home s a n).rest = s.rest) (u : UpdLine) (s : State)
    (c : Nat × B64) : (mergeElem home u s c).rest = s.rest := rest_echoBy h _ _ _ _ _ _
theorem rest_mergeLine {home : State → Nat → Nat → State} (h : ∀ s a n, (home s a n).rest = s.rest) (s : State) (u : UpdLine) :
    (mergeLine home s u).rest = s.rest :=
  (rest_count _ _ _ _ _).trans (foldl_keeps (rest_mergeElem h u) _ _)
theorem rest_mergeUpTo (n : Nat) : ∀ (p : UpdLine → Bool) (s : State), (mergeUpTo n p s).rest = s.rest := by
  induction n with
  | zero => exact fun _ _ => rfl
  | succ n ih =>
    intro p s
    unfold mergeUpTo
    split
    · rfl
    · exact (ih _ _).trans (rest_mergeLine (fun _ _ _ => ih _ _) _ _)
theorem rest_mergeWhere (s : State) (p : UpdLine → Bool) : (s.mergeWhere p).rest = s.rest := rest_mergeUpTo _ _ _
theorem rest_echo (s : State) (loc src kind : Nat) (tag : BitVec 16) (dev : Nat) : (s.echo loc src kind tag dev).rest = s.rest :=
  rest_echoBy (fun s _ _ => rest_mergeWhere s _) _ _ _ _ _ _
theorem rest_spillSync (s : State) (loc n : Nat) : (s.spillSync loc n).rest = s.rest := by
  unfold State.spillSync; split <;> rfl
/-- A recall changes memory, Update-only lines, event counters and Echo units. -/
theorem rest_recall (s : State) (loc n : Nat) : (s.recall loc n).rest = s.rest := by
  rw [State.recall, rest_spillSync]
  exact rest_mergeWhere s _
/-- So does a translation. -/
theorem rest_walked (s : State) (core ctx : Nat) (va : B64) : (s.walked core ctx va).rest = s.rest := by
  unfold State.walked
  dsimp only
  split
  · rfl
  split
  · exact rest_count _ _ _ _ _
  split
  · exact rest_count _ _ _ _ _
  · exact (foldl_keeps (fun s a => rest_recall s a 8) _ _).trans (rest_count _ _ _ _ _)

@[simp] theorem State.walked_now (s : State) (core ctx : Nat) (va : B64) : (s.walked core ctx va).now = s.now := by
  show (s.walked core ctx va).rest.now = s.rest.now
  rw [rest_walked]
@[simp] theorem State.walked_cur (s : State) (core ctx : Nat) (va : B64) : (s.walked core ctx va).cur = s.cur := by
  show (s.walked core ctx va).rest.cur = s.rest.cur
  rw [rest_walked]
@[simp] theorem State.walked_threads (s : State) (core ctx : Nat) (va : B64) : (s.walked core ctx va).threads = s.threads := by
  show (s.walked core ctx va).rest.threads = s.rest.threads
  rw [rest_walked]
@[simp] theorem State.walked_cores (s : State) (core ctx : Nat) (va : B64) : (s.walked core ctx va).cores = s.cores := by
  show (s.walked core ctx va).rest.cores = s.rest.cores
  rw [rest_walked]
@[simp] theorem State.walked_ctxs (s : State) (core ctx : Nat) (va : B64) : (s.walked core ctx va).ctxs = s.ctxs := by
  show (s.walked core ctx va).rest.ctxs = s.rest.ctxs
  rw [rest_walked]
@[simp] theorem State.walked_stores (s : State) (core ctx : Nat) (va : B64) : (s.walked core ctx va).stores = s.stores := by
  show (s.walked core ctx va).rest.stores = s.rest.stores
  rw [rest_walked]
@[simp] theorem State.walked_nextSer (s : State) (core ctx : Nat) (va : B64) : (s.walked core ctx va).nextSer = s.nextSer := by
  show (s.walked core ctx va).rest.nextSer = s.rest.nextSer
  rw [rest_walked]
@[simp] theorem State.walked_sq (s : State) (core ctx : Nat) (va : B64) : (s.walked core ctx va).sq = s.sq := by
  show (s.walked core ctx va).rest.sq = s.rest.sq
  rw [rest_walked]
@[simp] theorem State.walked_well (s : State) (core ctx : Nat) (va : B64) : (s.walked core ctx va).well = s.well := by
  show (s.walked core ctx va).rest.well = s.rest.well
  rw [rest_walked]

/-! ## Canonical memory -/

theorem foldl_holds {α σ : Type} {P : σ → Prop} {f : σ → α → σ} (h : ∀ s a, P s → P (f s a)) (l : List α) (s : σ) (hs : P s) :
    P (l.foldl f s) := by
  induction l generalizing s with
  | nil => exact hs
  | cons a l ih => exact ih _ (h s a hs)
/-- Memory of a state is in its canonical form. -/
def State.memWf (s : State) : Prop := Memory.wf s.mem = true
theorem memWf_of_mem {s t : State} (h : t.mem = s.mem) (hs : s.memWf) : t.memWf := by rw [State.memWf, h]; exact hs
theorem memWf_write (s : State) (a : Nat) (bs : List Byte) (h : s.memWf) : ({ s with mem := writeBytes s.mem a bs } : State).memWf :=
  wf_writeBytes bs a h
theorem count_mem (s : State) (core slot src n : Nat) : (s.count core slot src n).mem = s.mem := by
  unfold State.count; dsimp only; split <;> rfl
theorem memWf_echoOne {home : State → Nat → Nat → State} (hh : ∀ s a n, s.memWf → (home s a n).memWf) (loc src kind : Nat)
    (tag : BitVec 16) (dev : Nat) (s : State) (c : Nat × Echo) (h : s.memWf) : (echoOne home loc src kind tag dev s c).memWf := by
  unfold echoOne
  dsimp only
  split <;> split <;> first | exact h | exact wf_writeBytes _ _ (hh _ _ _ h)
theorem memWf_echoBy {home : State → Nat → Nat → State} (hh : ∀ s a n, s.memWf → (home s a n).memWf) (s : State)
    (loc src kind : Nat) (tag : BitVec 16) (dev : Nat) (h : s.memWf) : (s.echoBy home loc src kind tag dev).memWf :=
  foldl_holds (memWf_echoOne hh loc src kind tag dev) _ _ h
theorem memWf_mergeElem {home : State → Nat → Nat → State} (hh : ∀ s a n, s.memWf → (home s a n).memWf) (u : UpdLine) (s : State)
    (c : Nat × B64) (h : s.memWf) : (mergeElem home u s c).memWf := memWf_echoBy hh _ _ _ _ _ _ (memWf_write s _ _ h)
theorem memWf_mergeLine {home : State → Nat → Nat → State} (hh : ∀ s a n, s.memWf → (home s a n).memWf) (s : State) (u : UpdLine)
    (h : s.memWf) : (mergeLine home s u).memWf :=
  memWf_of_mem (count_mem _ _ _ _ _) (foldl_holds (P := State.memWf) (memWf_mergeElem hh u) _ _ h)
theorem memWf_mergeUpTo (n : Nat) : ∀ (p : UpdLine → Bool) (s : State), s.memWf → (mergeUpTo n p s).memWf := by
  induction n with
  | zero => exact fun _ _ h => h
  | succ n ih =>
    intro p s h
    unfold mergeUpTo
    split
    · exact h
    · exact ih _ _ (memWf_mergeLine (fun _ _ _ => ih _ _) _ _ (memWf_of_mem rfl h))
theorem memWf_mergeWhere (s : State) (p : UpdLine → Bool) (h : s.memWf) : (s.mergeWhere p).memWf := memWf_mergeUpTo _ _ _ h
theorem memWf_echo (s : State) (loc src kind : Nat) (tag : BitVec 16) (dev : Nat) (h : s.memWf) : (s.echo loc src kind tag dev).memWf :=
  memWf_echoBy (fun s _ _ => memWf_mergeWhere s _) _ _ _ _ _ _ h
theorem memWf_reserveOut (s : State) (core : Nat) (h : s.memWf) : (s.reserveOut core).memWf :=
  foldl_holds (P := fun m => Memory.wf m = true) (fun m e hm => by
    split
    · split
      · exact wf_writeBytes _ _ hm
      · exact hm
    · exact hm) _ _ h
/-- A message written into its entry. -/
theorem wf_putMsg {m : List Host.Cell} (a : Nat) (x : Msg) (h : Memory.wf m = true) : Memory.wf (putMsg m a x) = true :=
  foldl_holds (P := fun m => Memory.wf m = true) (fun _ _ hm => wf_writeBytes _ _ hm) _ _ h
theorem memWf_spillOut (s : State) (core : Nat) (h : s.memWf) : (s.spillOut core).memWf :=
  foldl_holds (P := fun m => Memory.wf m = true) (fun _ _ hm =>
    foldl_holds (P := fun m => Memory.wf m = true) (fun _ _ hm => wf_putMsg _ _ hm) _ _ hm) _ _ (memWf_reserveOut s core h)
theorem memWf_spillSync (s : State) (loc n : Nat) (h : s.memWf) : (s.spillSync loc n).memWf := by
  unfold State.spillSync
  split
  · exact memWf_spillOut s _ h
  · exact h
/-- A recall keeps the canonical form. -/
theorem memWf_recall (s : State) (loc n : Nat) (h : s.memWf) : (s.recall loc n).memWf := by
  exact memWf_spillSync _ _ _ (memWf_mergeWhere s _ h)
/-- So does a write at a location. -/
theorem memWf_poke (s : State) (loc : Nat) (data : List Byte) (h : s.memWf) : (s.poke loc data).memWf := by
  unfold State.poke
  split
  · exact wf_writeBytes _ _ h
  · exact wf_writeBytes _ _ (memWf_spillOut s _ h)
theorem memWf_walked (s : State) (core ctx : Nat) (va : B64) (h : s.memWf) : (s.walked core ctx va).memWf := by
  have hc : ∀ a b c d, (s.count a b c d).memWf := fun a b c d => memWf_of_mem (count_mem s a b c d) h
  unfold State.walked
  dsimp only
  split
  · exact h
  split
  · exact hc _ _ _ _
  split
  · exact hc _ _ _ _
  · exact foldl_holds (P := State.memWf) (fun s a hs => memWf_recall s a 8 hs) _ _ (hc _ _ _ _)

end Sys2Proof.Machine
end

