-- ==== Sys2Proof/Laws/Bodies.lean ====
section
/-!
SUPPORT. One lemma for each shared body: how it ends when its operands can be read and its result written.
-/
namespace Sys2Proof.Machine

theorem binary_runs {f : B64 → B64 → B64} {d a b : SReg} {x y : B64} {s s1 s2 t : State} {len : Nat}
    (h1 : Reads s a x s1) (h2 : Reads s1 b y s2) (h3 : Writes s2 d (f x y) t) : runI len (binary f d a b) s = t.retire len :=
  runI_ok (by rw [binary, run_bind_ok h1, run_bind_ok h2]; exact h3)
theorem unary_runs {f : B64 → B64} {d a : SReg} {x : B64} {s s1 t : State} {len : Nat}
    (h1 : Reads s a x s1) (h2 : Writes s1 d (f x) t) : runI len (unary f d a) s = t.retire len :=
  runI_ok (by rw [unary, run_bind_ok h1]; exact h2)
theorem branch_runs {c : B64 → B64 → Bool} {off : B64} {a b : SReg} {x y : B64} {s s1 s2 : State} {len : Nat}
    (h1 : Reads s a x s1) (h2 : Reads s1 b y s2) :
    runJ len (branch len c off a b) s = s2.jumped (if c x y then s2.me.pc + off else s2.me.pc + BitVec.ofNat 64 len) :=
  runJ_ok (by rw [branch, run_bind_ok h1, run_bind_ok h2, run_bind_ok (run_thr s2)]; rfl)
theorem jumpRel_runs {d : SReg} {off : B64} {s t : State} {len : Nat} (h : Writes s d (s.me.pc + BitVec.ofNat 64 len) t) :
    runJ len (jumpRel len d off) s = t.jumped (s.me.pc + off) :=
  runJ_ok (by rw [jumpRel, run_bind_ok (run_thr s), run_bind_ok (show (writeS d ((s.thread s.cur).pc + _)).run s = _ from h)]; rfl)
/-- The state before an instruction is not changed by its reads of plain registers; a trap is taken from it. -/
theorem takeTrap_entered {s : State} {cause : Nat} {val ret : B64} {compact : Bool} (h : s.hasHandler) (hx : cause ≠ cXLATE) :
    s.takeTrap cause val ret compact = s.entered cause val ret compact :=
  takeTrap_enters h.1 hx h.2.1 h.2.2

/-- An instruction that asks ends with its answer once that is there, and else has asked and waits. -/
theorem asking_answered {α : Type} {w : Wait} {operands : Exec α} {send : α → Exec Unit} {use : B64 → B64 → Exec Unit} {s s1 t : State} {x : α}
    {v v2 : B64} {len : Nat} (hp : s.me.phase = .answered v v2) (ho : operands.run s = .ok (x, s1)) (hu : (use v v2).run s1 = .ok ((), t)) :
    runI len (asking w operands send use) s = t.retire len :=
  runI_ok (by
    simp only [State.me] at hp
    rw [asking, run_bind_ok (run_get s), run_bind_ok ho, run_bind_ok (run_get s1)]
    simp only [hp]; exact hu)
theorem asking_idle {α : Type} {w : Wait} {operands : Exec α} {send : α → Exec Unit} {use : B64 → B64 → Exec Unit} {s s1 t : State} {x : α}
    {len : Nat} (hp : s.me.phase = .idle) (ho : operands.run s = .ok (x, s1)) (hs : (send x).run s = .ok ((), t)) :
    runI len (asking w operands send use) s =
      ((t.modThread t.cur (fun k => { k with holds := chansRead s s1 })).modThread t.cur (fun k => { k with phase := .sent })).stallCur w := by
  simp only [State.me] at hp
  have h : (asking w operands send use).run s = .error (.halt
      (((t.modThread t.cur (fun k => { k with holds := chansRead s s1 })).modThread t.cur (fun k => { k with phase := .sent })).stallCur w)) := by
    rw [asking, run_bind_ok (run_get s), run_bind_ok ho, run_bind_ok (run_get s1)]
    simp only [hp]
    rw [run_bind_ok (show (set s : Exec Unit).run s1 = .ok ((), s) from rfl), run_bind_ok hs]
    rfl
  simp only [runI, h]; rfl

/-! ## Accesses -/

/-- With no store under way to the bytes it reads, a read that is an event for each byte gives what memory holds, but for
what the reader has read already. -/
theorem portRead_quiet {s : State} {ahead : List (Nat × Byte)} {l n : Nat}
    (h : ∀ p ∈ (s.recall l n).stores, overlap p.loc p.data.length l n = false) :
    s.portRead ahead l n = (s.recall l n, underAhead ahead l (readBytes (s.recall l n).mem l n)) := by
  have e : (s.recall l n).arrivals (fun p => overlap p.loc p.data.length l n) = s.recall l n := by
    simp only [State.arrivals]
    rw [if_pos]
    rw [List.isEmpty_iff, List.filter_eq_nil_iff]
    intro p hp; simp [h p hp]
  simp only [State.portRead, e, if_true]
theorem underAhead_nil (l : Nat) (bs : List Byte) : underAhead [] l bs = bs := by
  exact List.ext_getElem (by simp [underAhead]) (fun i h h' => by simp [underAhead])

theorem aligned_runs {n : Nat} {va : B64} {s : State} (h : va.toNat % n = 0) : (aligned n va).run s = .ok ((), s) := by
  simp only [aligned, if_pos h]; rfl
theorem locOf_runs {acc : Acc} {va : B64} {l : Nat} {s : State}
    (h : s.route s.curCore s.me.ctx s.me.sysMode acc va = .loc l) : (locOf acc va).run s = .ok (l, s.translated va) := by
  simp only [State.me] at h
  rw [locOf, run_bind_ok (run_get s)]
  simp only [h]; rfl
/-- A translation changes neither the threads nor which is the current one, nor the current core. -/
theorem translated_me (s : State) (va : B64) : (s.translated va).me = s.me := by
  simp [State.me, State.translated, State.thread]
theorem translated_curCore (s : State) (va : B64) : (s.translated va).core (s.translated va).curCore = s.core s.curCore := by
  simp [State.translated, State.curCore, State.core]
theorem dirGate_runs {l : Nat} {s0 s : State} (h : s0.dirAsleep s0.curCore l = false) : (dirGate s0 l).run s = .ok ((), s) := by
  simp only [dirGate, h]; rfl
theorem filed_runs {l : Nat} {s : State} (h : (spadCore l).isSome = true → (s.core s.curCore).ksq = []) :
    (filed l).run s = .ok ((), s) := by
  rw [filed, run_bind_ok (run_get s)]
  cases hs : (spadCore l).isSome with
  | false => simp only [Bool.and_false, Bool.false_and]; rfl
  | true => simp only [h hs, List.isEmpty_nil, Bool.not_true, Bool.and_false]; rfl
theorem awaitValue_runs {s0 s : State} {far : Bool} (h : far = false ∨ s0.hasAnswer) : (awaitValue s0 far).run s = .ok ((), s) := by
  cases far with
  | false => rfl
  | true =>
    obtain ⟨v, w, hv⟩ := h.resolve_left (by simp)
    simp only [State.me] at hv
    simp only [awaitValue, hv]; rfl
theorem readLoc_runs (l n : Nat) (s : State) : (readLoc l n).run s = .ok ((s.loaded l n).2, (s.loaded l n).1) := by
  rw [readLoc, run_bind_ok (run_modify _ s), run_bind_ok (run_get _)]; rfl
theorem storeLoc_runs (l : Nat) (data : List Byte) (s : State) : (storeLoc l data).run s = .ok ((), s.stored l data) := rfl
theorem loadMem_runs {s0 s : State} {n : Nat} {va : B64} {l : Nat} (h : AccessAt s0 s .read n va l) :
    (loadMem s0 n va).run s = .ok (((s.translated va).loaded l n).2, ((s.translated va).loaded l n).1) := by
  obtain ⟨h1, h2, h3, h4, h5⟩ := h
  rw [loadMem, run_bind_ok (aligned_runs h1), run_bind_ok (locOf_runs h2),
    run_bind_ok (filed_runs (by rwa [translated_curCore])), run_bind_ok (dirGate_runs (h4 rfl)),
    run_bind_ok (awaitValue_runs h3), readLoc_runs]
theorem loadBody_runs {n len : Nat} {f : B64 → B64} {d a : SReg} {off x : B64} {l : Nat} {s s1 t : State}
    (h1 : Reads s a x s1) (h2 : AccessAt s s1 .read n (x + off) l)
    (h3 : Writes ((s1.translated (x + off)).loaded l n).1 d (f (BitVec.ofNat 64 ((s1.translated (x + off)).loaded l n).2)) t) :
    runI len (loadBody n f d a off) s = t.retire len :=
  runI_ok (by rw [loadBody, run_bind_ok (run_get s), run_bind_ok h1, run_bind_ok (loadMem_runs h2)]; exact h3)
theorem storeBody_runs {n len : Nat} {a b : SReg} {off x y : B64} {l : Nat} {s s1 s2 : State}
    (h1 : Reads s a x s1) (h2 : Reads s1 b y s2) (hl : (x + off).toNat % n = 0)
    (hr : s2.route s2.curCore s2.me.ctx s2.me.sysMode .write (x + off) = .loc l)
    (hk : (spadCore l).isSome = true → (s2.core s2.curCore).ksq = []) :
    runI len (storeBody n a b off) s = ((s2.translated (x + off)).stored l (leBytes n y.toNat)).retire len :=
  runI_ok (by
    rw [storeBody, run_bind_ok h1, run_bind_ok h2, storeMem, run_bind_ok (aligned_runs hl), run_bind_ok (locOf_runs hr),
      run_bind_ok (filed_runs (by rwa [translated_curCore])), storeLoc_runs])

end Sys2Proof.Machine
end

