-- ==== Sys2Proof/Tests/Slice0.lean ====
section
/-!
SUPPORT. Tests: a word of every encoding written out from the tables, the encodings the spec works through, an
ill-formed term for each check of `Instr.wellFormed`, and single steps whose results stand in the spec's worked examples.
-/
namespace Sys2Proof.Tests
open Sys2Proof Sys2Proof.Machine

set_option maxRecDepth 20000
set_option exponentiation.threshold 1024

/-! ## Decoding -/

/-- Words written out from the tables of spec/03 (their meanings: R90, R91). -/
theorem decode_int : ∀ p ∈ ([
    (0x00181A03, .add 20 1 12), (0x005E4B83, .sub 23 4 15), (0x00A47D03, .and 26 7 18), (0x00EAAE83, .or 29 10 21),
    (0x0130D103, .xor 2 13 24), (0x01770283, .andn 5 16 27), (0x01BD3403, .sll 8 19 30), (0x01C76583, .srl 11 22 3),
    (0x020D9703, .sra 14 25 6), (0x0253C883, .rotl 17 28 9), (0x02981A03, .mul 20 1 12), (0x02DE4B83, .mulh 23 4 15),
    (0x03247D03, .mulhn 26 7 18), (0x036AAE83, .div 29 10 21), (0x03B0D103, .divn 2 13 24), (0x03F70283, .rem 5 16 27),
    (0x043D3403, .remn 8 19 30), (0x04476583, .min 11 22 3), (0x048D9703, .max 14 25 6), (0x04D3C883, .minn 17 28 9),
    (0x05181A03, .maxn 20 1 12), (0x055E4B83, .slt 23 4 15), (0x05A47D03, .sltn 26 7 18), (0x05C0AE83, .clz 29 10),
    (0x0600D103, .ctz 2 13), (0x06410283, .popc 5 16), (0x06813403, .bswap 8 19), (0xCEC76583, .csel 11 22 3 25)] : List (Nat × Instr)), decode32 p.1 = some p.2 ∧ encode p.2 = some p.1 := by decide

/-- Words written out from the tables of spec/03 (their meanings: R92). -/
theorem decode_inti : ∀ p ∈ ([
    (0xB0B19705, .addi 14 25 2827), (0x2743C885, .andi 17 28 628), (0x9DD41A05, .ori 20 1 2525),
    (0x14664B85, .xori 23 4 326), (0x8AF87D05, .slti 26 7 2223), (0x018AAE85, .sltni 29 10 24), (0x001CD105, .slli 2 13 1),
    (0x06AD0285, .srli 5 16 42), (0x093D3405, .srai 8 19 19)] : List (Nat × Instr)), decode32 p.1 = some p.2 ∧ encode p.2 = some p.1 := by decide

/-- Words written out from the tables of spec/03 (their meanings: R93, R94). -/
theorem decode_upper : ∀ p ∈ ([
    (0xA7DBC587, .lui 11 687548), (0xF4525709, .auipc 14 1000741), (0x40C8E88B, .jal 17 265358),
    (0x3F701A0D, .jalr 20 1 1015)] : List (Nat × Instr)), decode32 p.1 = some p.2 ∧ encode p.2 = some p.1 := by decide

/-- Words written out from the tables of spec/03 (their meanings: R95). -/
theorem decode_branch : ∀ p ∈ ([
    (0xB61E400F, .beq 4 15 2912), (0x2C64748F, .bne 7 18 713), (0xA2AAA90F, .blt 10 21 2610), (0x18F0DD8F, .bge 13 24 411),
    (0x9137020F, .bltn 16 27 2308), (0x077D368F, .bgen 19 30 109)] : List (Nat × Instr)), decode32 p.1 = some p.2 ∧ encode p.2 = some p.1 := by decide

/-- Words written out from the tables of spec/03 (their meanings: R97). -/
theorem decode_load_store : ∀ p ∈ ([
    (0x7D616591, .ldS8 11 22 2006), (0xF3F39711, .ldN8 14 25 3903), (0x6A85C891, .ldS16 17 28 1704),
    (0xE1161A11, .ldN16 20 1 3601), (0x57A84B91, .ldS32 23 4 1402), (0xCE3A7D11, .ldN32 26 7 3299),
    (0x44CCAE91, .ld64 29 10 1100), (0xBA30DA93, .st8 13 24 2997), (0x30770F13, .st16 16 27 798),
    (0xA8BD3393, .st32 19 30 2695), (0x1EC76813, .st64 22 3 496)] : List (Nat × Instr)), decode32 p.1 = some p.2 ∧ encode p.2 = some p.1 := by decide

/-- Words written out from the tables of spec/03 (their meanings: R101, R102). -/
theorem decode_amo : ∀ p ∈ ([
    (0xBC0D9715, .amoSwap 14 25 6 ⟨true, .ar, .s⟩), (0x2053C895, .amoAdd 17 28 9 ⟨false, .rlx, .c⟩),
    (0x68981A15, .amoAnd 20 1 12 ⟨false, .acq, .f⟩), (0xB4DE4B95, .amoOr 23 4 15 ⟨true, .rel, .s⟩),
    (0x3D247D15, .amoXor 26 7 18 ⟨true, .ar, .c⟩), (0x616AAE95, .amoMin 29 10 21 ⟨false, .rlx, .f⟩),
    (0xA9B0D115, .amoMax 2 13 24 ⟨false, .acq, .s⟩), (0x35F70295, .amoMinn 5 16 27 ⟨true, .rel, .c⟩),
    (0x7E3D3415, .amoMaxn 8 19 30 ⟨true, .ar, .f⟩), (0xA2476595, .amoCas 11 22 3 ⟨false, .rlx, .s⟩),
    (0x2A8D9715, .amoFadd 14 25 6 ⟨false, .acq, .c⟩), (0x66D3C015, .updAdd 28 9 ⟨true, .rlx, .f⟩),
    (0xB7181015, .updFadd 1 12 ⟨true, .rel, .s⟩), (0x235E4015, .updMin 4 15 ⟨false, .rlx, .c⟩),
    (0x73A47015, .updMax 7 18 ⟨false, .rel, .f⟩), (0xA7EAA015, .updOr 10 21 ⟨true, .rlx, .s⟩)] : List (Nat × Instr)), decode32 p.1 = some p.2 ∧ encode p.2 = some p.1 := by decide

/-- Words written out from the tables of spec/03 (their meanings: R103). -/
theorem decode_fence : ∀ p ∈ ([
    (0x05000017, .fence .acq .c), (0x00400017, .fenceAck), (0x0F800017, .fenceEng .ar .f)] : List (Nat × Instr)), decode32 p.1 = some p.2 ∧ encode p.2 = some p.1 := by decide

/-- Words written out from the tables of spec/03 (their meanings: R105, R106, R107). -/
theorem decode_fps : ∀ p ∈ ([
    (0x10076599, .fadd .f32 .rtz 11 22 3), (0x284D9719, .fsub .f64 .rdn 14 25 6), (0x3093C899, .fmul .f32 .rup 17 28 9),
    (0x48D81A19, .fdiv .f64 .rna 20 1 12), (0x51004B99, .fsqrt .f32 .sto 23 4), (0x69647D19, .fma .f64 .dyn 26 7 18),
    (0x01AAAE99, .fmin .f32 29 10 21), (0x09F0D119, .fmax .f64 2 13 24), (0x02370299, .feq .f32 5 16 27),
    (0x0A7D3419, .flt .f64 8 19 30), (0x02876599, .fle .f32 11 22 3), (0x0B019719, .fclass .f64 14 25),
    (0x12C1C899, .fcvtFromS64 .f32 .rtz 17 28), (0x2AC21A19, .fcvtFromN64 .f64 .rdn 20 1),
    (0x32C44B99, .fcvtFromOther .f32 .rup 23 4), (0x4AC67D19, .fcvtToS64 .f64 .rna 26 7),
    (0x52C8AE99, .fcvtToN64 .f32 .sto 29 10)] : List (Nat × Instr)), decode32 p.1 = some p.2 ∧ encode p.2 = some p.1 := by decide

/-- Words written out from the tables of spec/03 (their meanings: R108). -/
theorem decode_creg : ∀ p ∈ ([
    (0x66F0011B, .crr 2 1647), (0xDD83001B, .crw 3544 16), (0x5415341B, .crs 8 1345 19), (0xCAA7659B, .crc 11 3242 22)] : List (Nat × Instr)), decode32 p.1 = some p.2 ∧ encode p.2 = some p.1 := by decide

/-- Words written out from the tables of spec/03 (their meanings: R96). -/
theorem decode_bitf : ∀ p ∈ ([
    (0x50E1971F, .bfx 14 25 14 20), (0x54F3C89F, .bfxn 17 28 15 21), (0x59041A1F, .bfi 20 1 16 22)] : List (Nat × Instr)), decode32 p.1 = some p.2 ∧ encode p.2 = some p.1 := by decide

/-- Words written out from the tables of spec/03 (their meanings: R109, R110, R111, R114). -/
theorem decode_sys : ∀ p ∈ ([
    (0x3800001D, .trap 14), (0xDC40001D, .brk 55), (0x0080001D, .rett), (0x00C0001D, .idle), (0x0100029D, .tstamp 5),
    (0x0141301D, .cflush 19), (0x0181601D, .cinv 22), (0x01C1901D, .tlbinv 25)] : List (Nat × Instr)), decode32 p.1 = some p.2 ∧ encode p.2 = some p.1 := by decide

/-- Words written out from the tables of spec/03 (their meanings: R147, R148, R149, R150). -/
theorem decode_task : ∀ p ∈ ([
    (0x1427C021, .send 28 19 5), (0x14581021, .sendv 1 12 5), (0x00800021, .taskDone), (0x00C00021, .yield),
    (0xA106A421, .waitk 8 232 10), (0x01400021, .waitdep), (0x01800021, .trig), (0x01C13421, .waitev 8 19),
    (0x02076021, .chbind 22 3)] : List (Nat × Instr)), decode32 p.1 = some p.2 ∧ encode p.2 = some p.1 := by decide

/-- Words written out from the tables of spec/03 (their meanings: R152, R154). -/
theorem decode_kin : ∀ p ∈ ([
    (0x00019023, .kjoin 25), (0x0041C023, .kleave 28), (0x00801023, .kbar 1), (0x00C04BA3, .kcount 23 4),
    (0xB8247025, .ksend .s64 2 0 7 18)] : List (Nat × Instr)), decode32 p.1 = some p.2 ∧ encode p.2 = some p.1 := by decide

/-- Words written out from the tables of spec/03 (their meanings: R156, R159, R160, R161). -/
theorem decode_port : ∀ p ∈ ([
    (0x0000AC27, .bindStream ⟨false, 24⟩ 10), (0x33000EA7, .bindLink ⟨true, 29⟩ .s true),
    (0x44000D27, .bindChan ⟨false, 26⟩ 8), (0x01400FA7, .unbind ⟨true, 31⟩), (0x00816C27, .skipPort ⟨false, 24⟩ 22),
    (0x01C00EA7, .sdrain ⟨true, 29⟩)] : List (Nat × Instr)), decode32 p.1 = some p.2 ∧ encode p.2 = some p.1 := by decide

/-- Words written out from the tables of spec/03 (their meanings: R180, R187). -/
theorem decode_remote : ∀ p ∈ ([
    (0x0101C8A9, .rld true 17 28), (0xEF581A29, .rst true true (.two 2 3) 20 1 12),
    (0xCB9E4BA9, .ramo .cas true true true 23 4 15), (0xE7E47D29, .rstc true true (some 2) 3 26 7 18),
    (0x03A2AEAB, .rmcast true 6 29 10 17)] : List (Nat × Instr)), decode32 p.1 = some p.2 ∧ encode p.2 = some p.1 := by decide

/-- Words written out from the tables of spec/03 (their meanings: R194, R196, R197, R198). -/
theorem decode_token_light : ∀ p ∈ ([
    (0x0000112D, .tkwait 2 1), (0x004000AD, .tkdrop 1), (0x0080312D, .tkmerge 2 3 0), (0x000765AF, .grant 11 22 3),
    (0x004D972F, .grq 14 25 6), (0x0093C8AF, .pathset 17 28 9)] : List (Nat × Instr)), decode32 p.1 = some p.2 ∧ encode p.2 = some p.1 := by decide

/-- Words written out from the tables of spec/03 (their meanings: R202, R203, R204, R205, R206). -/
theorem decode_weave : ∀ p ∈ ([
    (0x00001131, .wvShape 2 1), (0x005E42B1, .wvPack 5 4 15), (0x00A42D31, .wvUnpk 26 2 18), (0x00EAA1B1, .wvSet 3 10 21),
    (0x01300131, .wvGet 2 0 24), (0x054A30B1, .wvAdd true 1 3 5), (0x05806231, .wvSub true 4 6 0),
    (0x01C615B1, .wvCmp 11 1 3), (0x020C4731, .wvInbox 14 4 6), (0x024878B1, .wvNext 17 7 4), (0x028C2A31, .wvCut 20 2 6),
    (0x02C84BB1, .wvRlist 23 4 4), (0x03000331, .wvClrf 6)] : List (Nat × Instr)), decode32 p.1 = some p.2 ∧ encode p.2 = some p.1 := by decide

/-- Words written out from the tables of spec/03 (their meanings: R166, R169, R170, R171). -/
theorem decode_mill : ∀ p ∈ ([
    (0x176AAEB3, .mmMma 5 13 29 10 21), (0x20F0D133, .mmMmag 0 3 2 13 24), (0x4E0002B3, .mmZero 3 8 5),
    (0x7B413433, .mmLdacc 6 13 8 19), (0x84C165B3, .mmStacc 1 3 11 22), (0xB0019733, .mmMova 4 14 25),
    (0xDC13C033, .mmMovv 7 28 9), (0xE0001A33, .mmQuery 20 1), (0xE4004BB3, .mmCancel 23 4)] : List (Nat × Instr)), decode32 p.1 = some p.2 ∧ encode p.2 = some p.1 := by decide

/-- Words written out from the tables of spec/03 (their meanings: R175, R176, R177). -/
theorem decode_cart : ∀ p ∈ ([
    (0x07407D35, .cpCopy true 13 26 7), (0x24C0AEB5, .cpGather true 3 29 10), (0x4600D135, .cpFill true 8 2 13),
    (0x674102B5, .cpRemote true 13 5 16), (0x84C13435, .cpMcast true 3 8 19), (0xA60165B5, .cpRsend true 8 11 22),
    (0xC7419735, .cpReduce true 13 14 25)] : List (Nat × Instr)), decode32 p.1 = some p.2 ∧ encode p.2 = some p.1 := by decide

/-- Words written out from the tables of spec/03 (their meanings: R62, R127). -/
theorem decode_view_vmem : ∀ p ∈ ([
    (0x2A986637, .view ⟨some ⟨.e5, 3⟩, some ⟨.e4, 2⟩, some .f6a, 5, .rdn, true⟩), (0xA0001A39, .vld .bf16 2 20 1),
    (0xF85E4039, .vst .s64 3 4 15), (0x18A47D39, .vlds .s32 0 26 7 18), (0x58EAAEB9, .vsts .s32 1 29 10 21),
    (0x9130D139, .vgather .s16 2 2 13 24), (0xF17702B9, .vscatter .f32 3 5 16 27)] : List (Nat × Instr)), decode32 p.1 = some p.2 ∧ encode p.2 = some p.1 := by decide

/-- Words written out from the tables of spec/03 (their meanings: R130, R131). -/
theorem decode_varith : ∀ p ∈ ([
    (0x083D343B, .vadd .n8 0 8 19 30), (0x504765BB, .vsub .s16 1 11 22 3), (0xB88D973B, .vmul .s64 2 14 25 6),
    (0xC0D3C8BB, .vmulh .s8 3 17 28 9), (0x31181A3B, .vma .f32 0 20 1 12), (0x495E4BBB, .vms .n8 1 23 4 15),
    (0xA9A47D3B, .vmin .h16 2 26 7 18), (0xE1EAAEBB, .vmax .bf16 3 29 10 21), (0x2200D13B, .vabs .bf16 0 2 13),
    (0x7A4102BB, .vneg .s64 1 5 16), (0x92BD343B, .vand .s16 2 8 19 30), (0xDAC765BB, .vor .s32 3 11 22 3),
    (0x3B0D973B, .vxor .s64 0 14 25 6), (0x4353C8BB, .vsll .s8 1 17 28 9), (0x8B981A3B, .vsrl .n8 2 20 1 12),
    (0xD3DE4BBB, .vsra .s16 3 23 4 15), (0x3C247D3B, .vdiv .s64 0 26 7 18), (0x7440AEBB, .vsqrt .f32 1 29 10)] : List (Nat × Instr)), decode32 p.1 = some p.2 ∧ encode p.2 = some p.1 := by decide

/-- Words written out from the tables of spec/03 (their meanings: R133). -/
theorem decode_vspec : ∀ p ∈ ([
    (0xA000D13D, .vrcp .bf16 2 2 13), (0xE84102BD, .vrsq .h16 3 5 16), (0x3081343D, .vexp2 .f32 0 8 19),
    (0x60C165BD, .vlog2 .bf16 1 11 22), (0xA901973D, .vsig .h16 2 14 25), (0xF141C8BD, .vtanh .f32 3 17 28)] : List (Nat × Instr)), decode32 p.1 = some p.2 ∧ encode p.2 = some p.1 := by decide

/-- Words written out from the tables of spec/03 (their meanings: R136, R137, R138). -/
theorem decode_vperm : ∀ p ∈ ([
    (0x18181A3F, .vshuf .s32 0 20 1 12), (0x58404BBF, .vbcast .s32 1 23 4), (0x10A47D3F, .vextr .s16 26 7 18),
    (0x30EAAEBF, .vins .f32 29 10 21), (0x0930D13F, .vslide .n8 0 2 13 24), (0x514102BF, .vredsum .s16 1 5 16),
    (0xB981343F, .vredmax .s64 2 8 19), (0xE9C165BF, .vredmin .h16 3 11 22), (0x3201973F, .vscan .f32 0 14 25)] : List (Nat × Instr)), decode32 p.1 = some p.2 ∧ encode p.2 = some p.1 := by decide

/-- Words written out from the tables of spec/03 (their meanings: R139, R140). -/
theorem decode_vmask : ∀ p ∈ ([
    (0x4853C1C1, .vcmp .ne .n8 1 3 28 9), (0x02041041, .mand 0 1 2), (0x024620C1, .mor 1 2 3), (0x02803141, .mxor 2 3 0),
    (0x02C001C1, .mnot 3 0), (0x83001141, .mpop 2 2 1), (0xC34022C1, .mfirst 3 5 2)] : List (Nat × Instr)), decode32 p.1 = some p.2 ∧ encode p.2 = some p.1 := by decide

/-- Words written out from the tables of spec/03 (their meanings: R141, R142, R143, R207). -/
theorem decode_vconv_vweave : ∀ p ∈ ([
    (0x100D3443, .vcvt .s16 .f32 0 8 19), (0x704765C3, .vsel .f32 1 11 22 3), (0x888D9743, .vdot .n8 2 14 25 6),
    (0xD813C8C5, .vwadd .s32 3 17 28 9), (0x38581145, .vwinbox .s64 0 2 1 12), (0x589E4BC5, .vwaddT .s32 1 23 4 15)] : List (Nat × Instr)), decode32 p.1 = some p.2 ∧ encode p.2 = some p.1 := by decide

/-- Words written out from the tables of spec/03 (their meanings: R59). -/
theorem decode_compact : ∀ p ∈ ([
    (0x7740, .cLi 26 29), (0x1BA2, .cAddi 29 6), (0x1444, .cMv 2 5), (0x20A6, .cAdd 5 8), (0x2D08, .cSub 8 11),
    (0x53EA, .cLd 7 3 10), (0x9E0C, .cSt 0 6 19), (0x7C6E, .cBeqz 3 124), (0xE5D0, .cBnez 6 229), (0x69D2, .cJ 846),
    (0x0014, .cNop), (0x0034, .cDone), (0x0054, .cYield), (0x0074, .cBreak), (0xB716, .cWaitk 8 91), (0x1178, .cSlli 11 4),
    (0xB5DA, .cAndi 14 45)] : List (Nat × Instr)), decode16 p.1 = some p.2 ∧ encode p.2 = some p.1 := by decide

/-- Words the spec works through (spec/05, 07, 08, 12). -/
theorem decode_worked_examples : ∀ p ∈ ([
    (0x8866A915, .amoAdd 18 10 19 ⟨false, .acq, .d⟩), (0x12000017, .fence .rel .d), (0x00400017, .fenceAck),
    (0x0103201B, .crw 0x010 18), (0x15B0991F, .bfx 18 9 27 5), (0x0080001D, .rett), (0x0016A983, .add 19 10 11),
    (0x0064A02B, .rmcast false 1 0 10 18), (0x0016A92F, .grant 18 10 11), (0x000120B1, .wvShape 1 18),
    (0x01461131, .wvAdd false 2 1 3), (0x05461131, .wvAdd true 2 1 3), (0x02840C31, .wvCut 24 0 2), (0x02C4AAB1, .wvRlist 21 10 2),
    (0x40001907, .lui 18 0x40001), (0xA2012905, .addi 18 18 0xA20),
    (0x21080037, .view ⟨none, none, some .e4, 2, .rne, true⟩), (0x300C4343, .vcvt .f32 .f32 0 6 4), (0x700C4343, .vcvt .f32 .f32 1 6 4)] :
    List (Nat × Instr)), decode32 p.1 = some p.2 := by decide

/-- R63: words that no table defines: a code above the last, a field that must be 0, a register out of its class, a rounding
code 7, the compact halfword of zeros. -/
theorem decode_refuses : ∀ w ∈ ([0x70000003, 0x00000001, 0x00040017, 0x70000019, 0x0016A92D, 0x01009029, 0xFFFFFFFF] : List Nat),
    decode32 w = none := by decide
theorem decode16_refuses : ∀ w ∈ ([0x0000, 0x0094, 0x8004, 0x0002, 0x001C] : List Nat), decode16 w = none := by decide

/-- The opcode table's numbering of bits (a compact row has 16). -/
theorem decode_table_words : decodeTableWord 32 0x00000003 = some (.add 0 0 0) ∧ decodeTableWord 16 0x0034 = some .cDone ∧
    decodeTableWord 32 0x0080001D = some .rett := by decide

/-! ## Well-formedness -/

/-- One ill-formed term for each check. -/
theorem ill_formed : ∀ i ∈ ([
    .bfx 1 2 40 30, .bfxn 1 2 63 1, .bfi 1 2 1 63, .updAdd 1 2 ⟨true, .acq, .d⟩, .updFadd 1 2 ⟨true, .ar, .d⟩,
    .updMin 1 2 ⟨false, .acq, .d⟩, .updMax 1 2 ⟨false, .ar, .d⟩, .updOr 1 2 ⟨false, .acq, .d⟩, .fence .rlx .d, .fenceEng .rlx .d,
    .send 1 2 9, .send 1 30 3, .sendv 1 2 9, .ksend .s8 0 1 2 3, .bindStream ⟨false, 3⟩ 1, .bindLink ⟨true, 27⟩ .n false,
    .bindChan ⟨false, 23⟩ 0, .unbind ⟨true, 0⟩, .skipPort ⟨false, 0⟩ 1, .sdrain ⟨true, 24⟩, .rld true 0 1, .rld true 31 1,
    .rst false false .none 1 2 3, .ramo .add true true false 31 2 3, .rstc false false none 0 1 2 3, .rmcast false 0 1 2 3,
    .rmcast true 7 1 2 25, .wvInbox 1 2 3, .wvNext 1 2 3, .wvNext 31 2 4, .wvNext 0 2 4, .wvCut 0 2 4, .wvCut 1 2 5,
    .wvRlist 1 2 3] : List Instr), i.wellFormed = false := by decide
theorem ill_formed_vector : ∀ i ∈ ([
    .view ⟨some ⟨.n16, 4⟩, none, none, 0, .rne, false⟩, .view ⟨none, some ⟨.n64, 1⟩, none, 0, .rne, false⟩,
    .view ⟨none, none, none, 1, .rne, false⟩, .view ⟨none, none, none, 0, .rtz, false⟩, .view ⟨none, none, none, 0, .rne, true⟩,
    .view ⟨none, none, some .s4, 0, .rtz, false⟩,
    .vmulh .f32 0 1 2 3, .vand .f32 0 1 2 3, .vor .h16 0 1 2 3, .vxor .bf16 0 1 2 3, .vsll .f32 0 1 2 3, .vsrl .f32 0 1 2 3,
    .vsra .f32 0 1 2 3, .vsqrt .s8 0 1 2, .vrcp .s32 0 1 2, .vrsq .n8 0 1 2, .vexp2 .s16 0 1 2, .vlog2 .s64 0 1 2, .vsig .s8 0 1 2,
    .vtanh .s8 0 1 2, .vcmp .un .s8 0 1 2 3, .vwadd .s8 0 1 2 3, .vwinbox .f32 0 1 2 3, .vwaddT .s16 0 1 2 3,
    .cLi 0 1, .cAddi 0 1, .cMv 0 1, .cAdd 0 1, .cSub 0 1, .cSlli 0 1, .cAndi 0 1] : List Instr), i.wellFormed = false := by decide

/-! ## Single steps -/

/-- A task of context 1, in context mode, in slot 0 of core 0. -/
def task : Thread :=
  { st := .running, ctx := 1, pc := 0x100400, s := ⟨[(5, 7), (6, 3), (7, 0xFFFFFFFFC0040)]⟩,
    v := ⟨[(1, 0x0102), (2, 0x0304)]⟩, m := ⟨[(1, 5)]⟩ }
/-- Its machine: the core, the context, a task. -/
def small (t : Thread) : State :=
  { State.reset with
    threads := ⟨[(0, t)]⟩, cores := ⟨[(0, { ctx := some 1, tvec := 0x20000 })]⟩,
    ctxs := ⟨[(1, { prio := 0, sys := false, root := 0x1000, tvec := 0x20000, quota := 0 })]⟩ }
/-- The same task with other values in s5 and s6. -/
def withAB (x y : B64) : State := small { task with s := ⟨[(5, x), (6, y)]⟩ }
/-- A field of the state after an instruction, if the machine goes on. -/
def after {α : Type} (s : State) (i : Instr) (f : Thread → α) : Option α :=
  match exec i s with
  | .next t => some (f t.me)
  | .fault _ => none
  | .refused _ => none
/-- Scalar register 8 after an instruction. -/
def s8After (s : State) (i : Instr) : Option B64 := after s i (fun t => t.s.get 0 8)
/-- Equal lanes and single lanes as a register. -/
def lanesOf (w : Nat) (xs : List Nat) : B512 := BitVec.ofNat 512 (xs.foldr (fun x a => x + 2 ^ w * a) 0)

/-- spec/05, "Integer corner cases". -/
theorem test_div : s8After (withAB (-7) 2) (.div 8 5 6) = some (-3) ∧ s8After (withAB 0x8000000000000000 (-1)) (.div 8 5 6) = some 0x8000000000000000 := by decide
theorem test_rem : s8After (withAB (-7) 2) (.rem 8 5 6) = some (-1) ∧ s8After (withAB 0x8000000000000000 (-1)) (.rem 8 5 6) = some 0 := by decide
theorem test_divn_remn_zero : s8After (withAB 7 0) (.divn 8 5 6) = some 0xFFFFFFFFFFFFFFFF ∧ s8After (withAB 7 0) (.remn 8 5 6) = some 7 := by decide
theorem test_mulh_mulhn : s8After (withAB (-1) (-1)) (.mulh 8 5 6) = some 0 ∧ s8After (withAB (-1) (-1)) (.mulhn 8 5 6) = some 0xFFFFFFFFFFFFFFFE := by decide
theorem test_sra_mod64 : s8After (withAB (-16) 68) (.sra 8 5 6) = some (-1) := by decide
theorem test_clz_ctz_zero : s8After (withAB 0 0) (.clz 8 5) = some 64 ∧ s8After (withAB 0 0) (.ctz 8 5) = some 64 := by decide
theorem test_sltn : s8After (withAB 0 (-1)) (.sltn 8 5 6) = some 1 := by decide
/-- R18: a write to s0 is discarded. -/
theorem test_s0_discards : after (withAB 1 2) (.add 0 5 6) (fun t => (t.s.get 0 0, t.pc)) = some (0, 0x100404) := by decide
/-- spec/10: the pair of `lui` and `addi` makes 0x4000_0A20 of 0x4_0001 and 0xA20. -/
theorem test_lui_addi : s8After (withAB 0 0) (.lui 8 0x40001) = some 0x40001000 ∧ s8After (withAB 0x40001000 0) (.addi 8 5 0xA20) = some 0x40000A20 := by decide
/-- R96: the field of 6 bits from bit 27. -/
theorem test_bfx : s8After (withAB (0x2F <<< 27) 0) (.bfx 8 5 27 5) = some (-17) ∧ s8After (withAB (0x2F <<< 27) 0) (.bfxn 8 5 27 5) = some 0x2F := by decide
/-- R95: a taken branch back by one instruction. -/
theorem test_bne_taken : after (withAB 1 2) (.bne 5 6 0xFFE) (·.pc) = some 0x1003FC := by decide

/-- spec/05, "Trap entries worked through": cause and IN, TVAL, TPC. -/
def entryOf (s : State) (i : Instr) : Option (B64 × B64 × B64 × B64) := after s i (fun t => (t.tcause, t.tval, t.tpc, t.pc))
theorem test_trap_misaligned_load : entryOf (withAB 0x40000000 0) (.ld64 8 5 4) = some (0x8002, 0x40000004, 0x100400, 0x20000) := by decide
theorem test_trap_jalr_odd : entryOf (withAB 0x100801 0) (.jalr 1 5 0) = some (0x8002, 0x100801, 0x100400, 0x20000) := by decide
theorem test_trap_cbreak : entryOf (withAB 0 0) .cBreak = some (0xA008, 0, 0x100402, 0x20000) := by decide
theorem test_trap_trap17 : entryOf (withAB 0 0) (.trap 17) = some (0x8009, 17, 0x100404, 0x20000) := by decide
theorem test_trap_crr_tcause : entryOf (withAB 0 0) (.crr 8 0x081) = some (0x800A, 0x081, 0x100400, 0x20000) := by decide
theorem test_trap_rett : entryOf (withAB 0 0) .rett = some (0x800A, 0x0080001D, 0x100400, 0x20000) := by decide
/-- R114: the handler's return. -/
theorem test_rett_returns : after (small { task with sysMode := true, tcause := 0x8002, tpc := 0x100400, pc := 0x20000 }) .rett
    (fun t => (t.pc, t.sysMode, t.tcause)) = some (0x100400, false, 0x0002) := by decide

/-- spec/05: −2.5 to the nearest integer, ties away, gives −3 and NX; 2^64 gives 2^63 − 1 and NV. -/
theorem test_fcvt_to_int : after (withAB 0xC004000000000000 0) (.fcvtToS64 .f64 .rna 8 5) (fun t => (t.s.get 0 8, t.fflags)) = some (-3, 1) ∧
    after (withAB 0x43F0000000000000 0) (.fcvtToS64 .f64 .rna 8 5) (fun t => (t.s.get 0 8, t.fflags)) = some (0x7FFFFFFFFFFFFFFF, 16) := by decide
/-- IEEE 754 by hand: 1.5 + 2.25 in F32, and 1 / 3 in F64 to the nearest. -/
theorem test_fadd_fdiv : s8After (withAB 0x3FC00000 0x40100000) (.fadd .f32 .rne 8 5 6) = some 0x40700000 ∧
    s8After (withAB 0x3FF0000000000000 0x4008000000000000) (.fdiv .f64 .rne 8 5 6) = some 0x3FD5555555555555 := by decide
/-- spec/04: a stochastic rounding of 1 + 2^−8 to BF16 with generator 1 goes up, RNE goes down; both are inexact. -/
theorem test_round_stochastic : (roundTo fmtBF16 .sto false 1 (fmtF32.value 0x3F808000)).bits = 0x3F81 ∧
    (roundTo fmtBF16 .sto false 1 (fmtF32.value 0x3F808000)).gen = 0x40822041#64 ∧ (roundTo fmtBF16 .rne false 1 (fmtF32.value 0x3F808000)).bits = 0x3F80 := by decide

/-- spec/06: the narrowing into packed E4 lanes; the follower's word stands after the view at the pc. -/
def narrowing (mask : Fin 4) (word : Nat) : Option (List Nat × BitVec 5) :=
  let v4 := lanesOf 32 ([0x43FA0000, 0x7FC00000, 0x3E99999A, 0xC47A0000] ++ List.replicate 12 0x3F800000)
  let t : Thread := { task with pc := 0xFFFFFFFFC0000, v := ⟨[(4, v4), (6, lanesOf 8 (List.replicate 64 0x11))]⟩, m := ⟨[(1, 0xFFFD)]⟩, sysMode := true }
  match followBody ⟨none, none, some .e4, 2, .rne, true⟩ ((decode32 word).getD (.vcvt .f32 .f32 mask 6 4)) with
  | none => none
  | some body => match body.run (small t) with
    | .ok ((), u) => some (((List.range 8).map (fun k => elemBits 8 (30 + k) (u.me.v.get 0 6))), u.me.fflags)
    | .error _ => none
theorem test_narrowing : narrowing 0 0x300C4343 = some ([0x11, 0x11, 0x7E, 0x7F, 0x2A, 0xFE, 0x38, 0x38], 0x15) := by decide
theorem test_narrowing_masked : narrowing 1 0x700C4343 = some ([0x11, 0x11, 0x7E, 0x11, 0x2A, 0xFE, 0x38, 0x38], 0x05) := by decide

/-- spec/04, "Two sums worked through": the pairwise tree keeps 16,777,230. -/
theorem test_vredsum_tree : after (small { task with v := ⟨[(1, lanesOf 32 (0x4B800000 :: List.replicate 15 0x3F800000))]⟩ }) (.vredsum .f32 0 8 1)
    (fun t => (t.s.get 0 8, t.fflags)) = some (0x4B800007, 1) := by decide

/-- spec/08, "Cutting a box into ranges": the runs of the box from (2, 1) to (5, 3), three bits an axis. -/
def boxTask (cursor : B64) : State :=
  small { task with w := ⟨[(0, ⟨cursor, 2, 3, 0⟩), (2, ⟨6, 2, 3, 0⟩), (3, ⟨27, 2, 3, 0⟩)]⟩ }
def cutOf (cursor : B64) : Option (B64 × B64) := after (boxTask cursor) (.wvCut 24 0 2) (fun t => (t.s.get 0 24, t.s.get 0 25))
theorem test_wv_cut : cutOf 0 = some (6, 7) ∧ cutOf 8 = some (12, 15) := by decide
theorem test_wv_cut_end : cutOf 20 = some (24, 27) ∧ cutOf 28 = some (1, 0) := by decide
theorem test_box_cover : boxRanges 2 3 6 27 65 0 = [(6, 7), (12, 15), (18, 19), (24, 27)] ∧
    boxCover (boxRanges 2 3 6 27 65 0) 2 = [(6, 19), (24, 27)] := by decide

/-- spec/11: a busy core at BAL 200 beside an idle one at 4,096 that gives 512 ends at 2,760 (the other neighbours
have no spare). -/
def refilled : Option (BitVec 16 × BitVec 16) :=
  let dry : Core := { ctx := some 1, fill := 0 }
  match exec .rationRefill { State.reset with
    cores := ⟨[(neighbour 1000 .n, dry), (neighbour 1000 .w, dry), (1000, { ctx := some 1, bal := 200 }), (neighbour 1000 .e, { ctx := some 1 }), (neighbour 1000 .s, dry)]⟩
    now := 2000 } with
  | .next t => some ((t.core 1000).bal, (t.core (neighbour 1000 .e)).bal)
  | .fault _ => none
  | .refused _ => none
theorem test_refill : refilled = some (2760, 4096) := by decide
/-- spec/11: a squall at 1,000 ns: the stretch lasts to 1,003 ns, the halving to 1,035. -/
theorem test_squall : (match exec (.squall 0) (({ State.reset with now := 2000 }).setTerrace 0 { droop := 5 }) with
    | .next t => (t.terrace 0).squall == .stretch 2006
    | .fault _ => false
    | .refused _ => false) = true := by decide
theorem test_squall_halving : (match exec (.stretchEnd 0) (({ State.reset with now := 2006 }).setTerrace 0 { squall := .stretch 2006 }) with
    | .next t => (t.terrace 0).squall == .halving 2070
    | .fault _ => false
    | .refused _ => false) = true := by decide

/-- spec/17: the walk of the data pointer 0x4000_0A20 through a 32 MiB leaf to 0x2_0000_0A20. -/
def walked : Xl :=
  let m := writeBytes (writeBytes (writeBytes [] 0x100000 (leBytes 8 0x101001)) 0x101000 (leBytes 8 0x102001)) 0x102100 (leBytes 8 0x200000017)
  let s := { small task with
    mem := m, ctxs := ⟨[(1, { prio := 0, sys := false, root := 0x100000, tvec := 0x20000, quota := 0 })]⟩ }
  ((s.trained (.hbm 0)).trained (.slice 0)).route 0 1 false .read 0x40000A20#64
theorem test_walk : walked = .loc 0x200000A20 := by decide

/-- R97, R209: a store of the thread is pending, least significant byte first, and its own load reads it. -/
theorem test_store_pending : (match exec (.st32 7 5 0) (small { task with s := ⟨[(5, 0x11223344), (7, 0xFFFFFFFFC0040)]⟩ }) with
    | .next t => t.stores.map (fun p => (p.loc, p.data)) == [(spadLoc 0 0x40, [0x44, 0x33, 0x22, 0x11])] && t.mem == []
    | .fault _ => false
    | .refused _ => false) = true := by decide
/-- R97: a signed byte load. -/
theorem test_ld_s8 : s8After { small task with mem := writeBytes [] (spadLoc 0 0x40) [0x80] } (.ldS8 8 7 0) = some (-128) := by decide
/-- R100, R101: `fadd` answers zero-extended, other 32-bit forms sign-extended. -/
theorem test_amo_extends : s8After { small { task with s := ⟨[(5, 1), (7, 0xFFFFFFFFC0040)]⟩ } with mem := writeBytes [] (spadLoc 0 0x40) [0, 0, 0, 0x80] }
      (.amoAdd 8 7 5 ⟨false, .rlx, .d⟩) = some (-0x80000000) ∧
    s8After { small { task with s := ⟨[(5, 0), (7, 0xFFFFFFFFC0040)]⟩ } with mem := writeBytes [] (spadLoc 0 0x40) [0, 0, 0, 0x80] }
      (.amoFadd 8 7 5 ⟨false, .rlx, .d⟩) = some 0x80000000 := by decide
/-- R149: with no message waiting, `done` frees the slot. -/
theorem test_done_frees : (match exec .taskDone (small task) with
    | .next t => (t.thread 0).st == .free && (t.thread 0).s == {}
    | .fault _ => false
    | .refused _ => false) = true := by decide

/-! ## A step from reset -/

/-- The first instruction after reset is the one placed where the step fetches it (log entry 15). -/
theorem test_first_step : (match step (State.reset.withFetchWord 32 0x00100905) with
    | .next t => (t.thread t.cur).s.get 0 18
    | .fault _ => 0
    | .refused _ => 0) = 1 := by decide
theorem test_first_step_compact : (match step (State.reset.withFetchWord 16 0x0640) with
    | .next t => (t.thread t.cur).s.get 0 18
    | .fault _ => 0
    | .refused _ => 0) = 1 := by decide

end Sys2Proof.Tests
end

