-- ==== Sys2Proof/Tests/Witness.lean ====
section
/-!
SUPPORT. For every statement that has hypotheses, a state and operands that meet them: the statements say something.
-/
namespace Sys2Proof.Tests
open Sys2Proof Sys2Proof.Machine

set_option maxRecDepth 20000
set_option linter.unreachableTactic false
set_option linter.unusedTactic false
set_option exponentiation.threshold 2048

/-- The machine of the witnesses: a task of context 1 in slot 0 of core 0, a handler set. -/
def base : State := small task
/-- The same with another core 0. -/
def baseCore (c : Core) : State := { base with cores := ⟨[(0, { c with ctx := some 1, tvec := 0x20000 })]⟩ }
/-- The same in system mode. -/
def baseSys : State := small { task with sysMode := true }
/-- An aligned address of core 0's own data area. -/
abbrev here : B64 := 0xFFFFFFFFC0040
theorem base_hasHandler : base.hasHandler := ⟨by decide, by decide, by decide⟩
theorem base_access (acc : Acc) (h : acc = .read ∨ acc = .write) : base.route 0 1 false acc here = .loc (spadLoc 0 0x40) := by
  rcases h with rfl | rfl <;> decide

theorem witness_DecodeEncode : (Instr.bfx 18 9 27 36).wellFormed = true ∧ (∃ w, encode (.bfx 18 9 27 36) = some w) ∧
    (Instr.cWaitk 15 127).wellFormed = true ∧ ∃ w, encode (.cWaitk 15 127) = some w := ⟨rfl, ⟨_, rfl⟩, rfl, _, rfl⟩
theorem witness_MemoryStaysCanonical : Memory.wf (State.reset.withFetchWord 32 0x00100905).mem = true ∧
    ∃ t, step (State.reset.withFetchWord 32 0x00100905) = .next t := ⟨by decide, _, rfl⟩
theorem witness_StepRunsDecoded :
    (let s := (State.reset.withFetchWord 32 0x00100905).settled
     s.agenda = [] ∧ s.mandatory = none ∧ s.pick s.curCore = some 0 ∧
       s.refillDue (max s.now (s.core s.curCore).nextIss) = false ∧ s.fetchHalf 0 (s.thread 0).pc = .ok 0x0905 ∧ 0x0905 % 2 = 1 ∧
       s.fetchHalf 0 ((s.thread 0).pc + 2) = .ok 0x0010 ∧ decode32 (0x0905 + 65536 * 0x0010) = some (.addi 18 0 1) ∧
       s.charge 0 (.addi 18 0 1) ≤ (s.core s.curCore).bal.toNat) ∧
    (let s := (State.reset.withFetchWord 16 0x0640).settled
     s.agenda = [] ∧ s.mandatory = none ∧ s.pick s.curCore = some 0 ∧
       s.refillDue (max s.now (s.core s.curCore).nextIss) = false ∧ s.fetchHalf 0 (s.thread 0).pc = .ok 0x0640 ∧ 0x0640 % 2 = 0 ∧
       decode16 0x0640 = some (.cLi 18 1) ∧ s.charge 0 (.cLi 18 1) ≤ (s.core s.curCore).bal.toNat) := by decide

/-- A machine whose register s30 is a port. -/
def ported (p : Port) : State := small { task with ports := ⟨[(62, p)]⟩ }
/-- A stream record of `n` elements of 8 bytes from `here` on, each next to the last; `dir` 1 for a write stream. -/
def record (n dir : Nat) : List Byte := leBytes 64 (here.toNat + 2 ^ 64 * (n * 2 ^ 32 + 8) + 2 ^ (64 * 5) * (4 * dir))
theorem witness_Operands :
    (plainS base 5 ∧ plainS base 31 ∧ plainS base 0) ∧
    (small { task with pend := [⟨.s, 5, 0⟩] }).me.pend.any (fun p => p.cls == .s && p.num == 5) = true ∧
    (let p : Port := { kind := .readStream, entries := [{ n := 0, val := 9 }] }
     (ported p).me.ports.get? (32 + 30) = some p ∧ (ported p).me.pend.any (fun p => p.cls == .s && p.num == 30) = false) ∧
    (let p : Port := { kind := .writeStream, recd := record 4 1 }
     (ported p).me.ports.get? (32 + 30) = some p ∧ p.next < streamTotal p.recd ∧ p.entries.length < 8) ∧
    (plainV base 0 ∧ plainV base 31 ∧ plainM base 0 ∧ plainM base 3) ∧
    (let m : Msg := { src := 1, pair := 8, ctx := 1, dest := 0, chan := 3, cls := 2, pay := [5], no := 0 }
     let s : State := { small { task with ports := ⟨[(24, { kind := .chan 3 })]⟩ } with
       cores := ⟨[(0, { ctx := some 1, tvec := 0x20000, entries := ⟨[(3, [m])]⟩ })]⟩ }
     s.me.ports.get? 24 = some { kind := .chan 3 } ∧ s.wordsHeld s.cur 3 = false ∧ (s.core s.curCore).waiting 3 = [m]) := by
  unfold plainS plainV plainM; decide
theorem witness_IntegerResults : Reads base 5 7 base ∧ Reads base 6 3 base ∧ (∃ t, Writes base 8 10 t) ∧ (∃ t, Writes base 0 10 t) ∧
    ((7 : B64) ≠ 0 ∧ (60 < 64 ∧ (7 : B64).toNat < 2 ^ (64 - 61) ∧ 2 ^ (63 - 61) ≤ (7 : B64).toNat)) ∧
    ((7 : B64).toNat % 2 ^ 0 = 0 ∧ (7 : B64).toNat.testBit 0 = true) ∧
    (∀ i < 8, ((0x0700000000000000 : B64) >>> (8 * i)).setWidth 8 = ((7 : B64) >>> (8 * (7 - i))).setWidth 8) := by
  repeat' (first | exact rfl | decide | apply And.intro | apply Exists.intro)
theorem witness_ImmediateResults : Reads base 5 7 base ∧ (∃ t, Writes base 8 10 t) ∧
    (∀ k < 64, (0x1F : B64).getLsbD k = if 2 ≤ k ∧ k ≤ 2 + 5 then (7 : B64).getLsbD (k - 2) else (3 : B64).getLsbD k) := by
  repeat' (first | exact rfl | decide | apply And.intro | apply Exists.intro)
theorem witness_JumpsAndBranches : Reads base 5 7 base ∧ Reads base 6 3 base ∧ (∃ t, Writes base 1 (base.me.pc + 4) t) ∧
    ((7 : B64) + (1#12).signExtend 64).getLsbD 0 = false ∧ ((7 : B64) + (0#12).signExtend 64).getLsbD 0 = true ∧ base.hasHandler := by
  repeat' (first | exact rfl | decide | apply And.intro | apply Exists.intro)
theorem witness_IntegerFrame : intDest (.add 8 5 6) = some 8 ∧ base.hasHandler ∧ (∃ t, exec (.add 8 5 6) base = .next t) ∧
    ∃ t, exec (.add 8 31 6) (ported { kind := .readStream }) = .next t := by
  repeat' (first | exact rfl | decide | apply And.intro | apply Exists.intro)

/-- A machine whose context maps the page at 64 KiB of stack 0 to address 0, stack 0 and optical port 0 ready; two window pages
follow: window 7 of this device at 64 KiB, window 7 of device 5 at 128 KiB. -/
def mapped (t : Thread) : State :=
  { small t with
    mem := [(0x1000, 0x01), (0x1001, 0x20), (0x2000, 0x01), (0x2001, 0x30), (0x3000, 0x01), (0x3001, 0x40), (0x4000, 0x1F), (0x4002, 0x01),
            (0x4008, 0x33), (0x400A, 0x1C), (0x4010, 0x33), (0x4011, 0x50), (0x4012, 0x1C)]
    cores := ⟨[(0, { ctx := some 1, tvec := 0x20000, reserve := [3] })]⟩
    host := { ready := ⟨[(0x1400, 1), (0x1402, 1), (0x1404, 1)]⟩ } }
/-- The same with a home of location 0x10008 that is switched off and whose record of the line cannot take core 0. -/
def asleep : State :=
  let s := mapped { task with s := ⟨[(5, 7), (7, 8)]⟩ }
  s.setCore (homeCore 0x10008) { s.core (homeCore 0x10008) with
    off := true, isoff := true, dir := [{ line := 0x100, mode := .cores, who := [1, 2, 3, 4], ovf := some 0 }] }
/-- A far scratchpad's address: core 1's. -/
abbrev far : B64 := 0xFFF0000040040
theorem base_accessAt (n : Nat) (h : n = 1 ∨ n = 2 ∨ n = 4 ∨ n = 8) : AccessAt base base .read n here (spadLoc 0 0x40) ∧
    AccessAt base base .write n here (spadLoc 0 0x40) := by
  rcases h with rfl | rfl | rfl | rfl <;>
    exact ⟨⟨by decide, by decide, .inl (by decide), fun _ => by decide, fun _ => rfl⟩,
      ⟨by decide, by decide, .inl (by decide), (nomatch ·), fun _ => rfl⟩⟩
theorem witness_LoadResults : Reads base 7 here base ∧ AccessAt base base .read 8 (here + (0#12).signExtend 64) (spadLoc 0 0x40) ∧
    (∃ t, Writes ((base.translated (here + (0#12).signExtend 64)).loaded (spadLoc 0 0x40) 8).1 8 0 t) ∧
    (base.stores = [] ∧ base.upd = [] ∧ spillCore (spadLoc 0 0x40) 8 = none ∧ spillCore (spadLoc 0 0x30000) 8 = some 0 ∧
      (base.core base.curCore).l1.get? (spadLoc 0 0x30000 / 256) = none) ∧
    (let p : PStore := { ser := 0, tid := 0, loc := spadLoc 0 0x40, data := [1, 2] }
     let s := { base with stores := [p] }
     s.stores = [p] ∧ p.tid = s.cur ∧ p.dead = false ∧ p.comb = none) ∧
    (let s := small { task with s := ⟨[(7, far)]⟩ }
     Reads s 7 far s ∧ (far + (0#12).signExtend 64).toNat % 8 = 0 ∧
       s.route s.curCore s.me.ctx s.me.sysMode .read (far + (0#12).signExtend 64) = .loc (spadLoc 1 0x40) ∧
       s.isFar (spadLoc 1 0x40) = true ∧ (s.core s.curCore).ksq = [] ∧ s.me.phase = .idle) ∧
    (let s := small { task with st := .stalled .value, phase := .sent }
     (s.thread 0).st = .stalled .value ∧ (s.thread 0).phase = .sent) ∧
    (let s := asleep
     Reads s 5 7 s ∧ (8 + (0#12).signExtend 64 : B64).toNat % 8 = 0 ∧ Reads s 7 8 s ∧
       s.route s.curCore s.me.ctx s.me.sysMode .read (8 + (0#12).signExtend 64) = .loc 0x10008 ∧
       (s.core s.curCore).ksq = [] ∧ s.dirAsleep s.curCore 0x10008 = true) := by
  refine ⟨rfl, (base_accessAt 8 (by decide)).1, ⟨_, rfl⟩, ?_⟩
  repeat' (first | exact rfl | decide | apply And.intro | apply Exists.intro)
theorem witness_StoreResults : Reads base 7 here base ∧ Reads base 5 7 base ∧
    base.route base.curCore base.me.ctx base.me.sysMode .write (here + (0#12).signExtend 64) = .loc (spadLoc 0 0x40) ∧
    (base.core base.curCore).ksq = [] ∧ (here + (0#12).signExtend 64).toNat % 8 = 0 ∧ base.hasHandler ∧
    (here + (1#12).signExtend 64).toNat % 2 ≠ 0 ∧ (here + (2#12).signExtend 64).toNat % 4 ≠ 0 := by
  repeat' (first | exact rfl | decide | apply And.intro | apply Exists.intro)
theorem witness_StoreFrame : base.stores = [] ∧ Reads base 7 here base ∧ Reads base 5 7 base ∧
    base.route base.curCore base.me.ctx base.me.sysMode .write (here + (0#12).signExtend 64) = .loc (spadLoc 0 0x40) ∧
    (base.core base.curCore).ksq = [] ∧ (here + (0#12).signExtend 64).toNat % 8 = 0 ∧
    (let s := small { task with s := ⟨[(3, here)]⟩ }
     Reads s (cset 1) here s ∧ Reads s (cset 0) (valS s (cset 0)) s ∧ (here + ((0#5).setWidth 64 <<< 3)).toNat % 8 = 0) ∧
    (let p : PStore := { ser := 0, tid := 0, loc := spadLoc 0 0x40, data := [1, 2] }
     let s := { base with stores := [p] }
     s.stores[0]? = some p ∧ p.comb = none ∧ s.canPerform p = true ∧ s.upd = [] ∧ s.fleet.echo = {} ∧ p.grp = 0 ∧
       spillCore p.loc p.data.length = none) ∧
    (let p : PStore := { ser := 0, tid := 0, loc := spadLoc 0 0x40, data := [1, 2], grp := 3 }
     let q : PStore := { ser := 1, tid := 0, loc := spadLoc 0 0x44, data := [1], grp := 3 }
     let s := { base with stores := [p, q] }
     s.stores[0]? = some p ∧ p.grp ≠ 0 ∧ s.canPerform p = true ∧ s.upd = [] ∧ s.fleet.echo = {} ∧ q ∈ s.stores ∧ q.grp = p.grp) := by
  repeat' (first | exact rfl | decide | apply And.intro | apply Exists.intro)
theorem witness_AtomicResults : Reads base 7 here base ∧ Reads base 5 7 base ∧ Reads base 8 0 base ∧
    AccessAt base base .write 8 here (spadLoc 0 0x40) ∧ AccessAt base base .write 4 here (spadLoc 0 0x40) ∧
    (∃ t, Writes (((base.translated here).release 0 .d false).amoAt 0 (spadLoc 0 0x40) .add true 7 0).1 8
      (((base.translated here).release 0 .d false).amoAt 0 (spadLoc 0 0x40) .add true 7 0).2 t) ∧
    base.stores = [] ∧ base.upd = [] ∧ base.fleet.echo = {} ∧ spillCore (spadLoc 0 0x40) 8 = none ∧
    base.route base.curCore base.me.ctx base.me.sysMode .write here = .loc (spadLoc 0 0x40) ∧ (base.core base.curCore).ksq = [] := by
  refine ⟨rfl, rfl, rfl, (base_accessAt 8 (by decide)).2, (base_accessAt 4 (by decide)).2, ?_⟩
  repeat' (first | exact rfl | decide | apply And.intro | apply Exists.intro)
theorem witness_FenceResults : base.me.ackcnt = 0 ∧ (small { task with ackcnt := 1 }).me.ackcnt ≠ 0 ∧
    (∃ t, exec (.fence .rel .d) base = .next t) ∧
    (let s := baseCore { ksq := [{ op := 9, tid := 0, act := 0, d := 1, lanes := [], hashk := 0, base := 0, cnt := 1, tag := 0 }] }
     ∃ t, exec (.fence .rel .s) s = .next t) := ⟨rfl, by decide, ⟨_, rfl⟩, _, rfl⟩

theorem witness_FloatResults : Reads base 5 7 base ∧ Reads base 6 3 base ∧
    (∃ t, FpWrites base .f64 .rne 8 (addFV .rne (fpVal .f64 7) (fpVal .f64 3)) t) ∧
    (∃ t, FpWrites base .f32 .rtz 8 (FV.ofInt 7, 0) t) ∧ (∃ t, Writes (base.flagged base.me.gen flagNV) 8 0 t) := by
  repeat' (first | exact rfl | decide | apply And.intro | apply Exists.intro)
theorem witness_RoundingKeepsValues : 0x3F800000 < 2 ^ (precFmt .f32).width ∧ ((precFmt .f32).value 0x3F800000).isNan = false ∧
    2 ^ 64 - 2 ^ 52 < 2 ^ (precFmt .f64).width ∧ ((precFmt .f64).value (2 ^ 64 - 2 ^ 52)).isNan = false := by decide
theorem witness_Arithmetic : fmtF64 ∈ floatFormats ∧ fmtF4 ∈ floatFormats ∧ RMode.sto ≠ .dyn ∧ (FV.fin true 3 (-1)).Is (-3 / 2) ∧ (FV.fin false 9 (-2)).Is (9 / 4) ∧
    (FV.fin true 0 5).Is 0 ∧ (-3 / 2 : ℝ) ≠ 0 ∧ (0 : ℝ) < 9 / 4 ∧ (9 / 4 : ℝ) ≠ 0 ∧ (9 / 4 : ℝ) + -3 / 2 ≠ 0 ∧ (FV.fin false 0 0).isNan = false ∧
    0 < 1 ∧ 64 ≤ 64 ∧ 2 ^ fmtF4.width - 1 < 2 ^ fmtF4.width := by
  refine ⟨by decide, by decide, by decide, ⟨_, _, _, rfl, by norm_num⟩, ⟨_, _, _, rfl, by norm_num⟩, ⟨_, _, _, rfl, by norm_num⟩, by norm_num, by norm_num,
    by norm_num, by norm_num, rfl, by decide, le_rfl, by decide⟩
theorem witness_ControlRegisters :
    ((cregListed 0x008 = true ∧ cregPriv 0x008 = false ∧ base.me.pend = []) ∧ base.cregOpen 0x008) ∧
    cregWritable base.me.sysMode 0x00B = true ∧ cregRefuses 0x00B 0x0803 = false ∧ base.cregBusy base.cur 0x00B = none ∧
    cregWritable base.me.sysMode 0x000 = false ∧ (∃ t, Writes base 8 (base.cregRead base.cur 0x008) t) ∧ base.hasHandler ∧
    cregListed 0xFFF = false ∧ base.me.sysMode = false ∧ cregRefuses 0x00B 0 = true ∧
    cregWritable base.me.sysMode 0x009 = true ∧ 6 ≤ (6 : B64).toNat % 8 ∧ baseSys.hasHandler ∧
    cregWritable baseSys.me.sysMode 0x030 = true ∧ (0x10000 : B64).toNat % 2 ^ 16 = 0 := by
  refine ⟨⟨by decide, by decide, by decide, fun _ => rfl⟩, ?_⟩
  repeat' (first | exact rfl | decide | apply And.intro | apply Exists.intro)
theorem witness_TrapEntry : base.hasHandler ∧
    (let s := { base with cores := ⟨[(0, { ctx := some 1 })]⟩ }
     slotOf s.cur ≠ 4 ∧ tvecAddr (s.core s.curCore).tvec = 0 ∧ (∃ x, s.ctx? s.me.ctx = some x ∧ x.ended = false)) ∧
    (let s := small { task with tcause := 0x8002 }
     tcauseIN s.me.tcause = true ∧ ∃ x, s.ctx? s.me.ctx = some x ∧ x.ended = false) := by
  repeat' (first | exact rfl | decide | apply And.intro | apply Exists.intro)
theorem witness_TrapReturn : baseSys.me.sysMode = true ∧ baseSys.me.tpc.getLsbD 0 = false ∧
    (small { task with sysMode := true, tpc := 1 }).me.tpc.getLsbD 0 = true ∧ (small { task with sysMode := true, tpc := 1 }).hasHandler ∧
    base.me.sysMode = false ∧ base.hasHandler ∧ (15 < 16 ∧ (0xFFFFFFFFFFFFE : B64).getLsbD 0 = false ∧ (0xFFFFFFFFFFFFE : B64).toNat < 2 ^ 52) := by
  repeat' (first | exact rfl | decide | apply And.intro | apply Exists.intro)
/-- The same task run by the reeve, in the system slot. -/
def reeve : State := { base with cur := 4, threads := ⟨[(4, { task with sysMode := true })]⟩ }
theorem witness_SystemResults : reeve.me.sysMode = true ∧ slotOf reeve.cur = 4 ∧ baseSys.me.sysMode = true ∧ slotOf baseSys.cur ≠ 4 ∧
    (∃ t, Writes base 8 (BitVec.ofNat 64 (base.now / 2)) t) ∧ Reads base 7 here base ∧ inSpadWindow here = true ∧
    Reads (mapped task) 5 7 (mapped task) ∧ inSpadWindow 7 = false ∧
    (mapped task).route (mapped task).curCore (mapped task).me.ctx (mapped task).me.sysMode .read 7 = .loc 0x10007 := by
  repeat' (first | exact rfl | decide | apply And.intro | apply Exists.intro)
theorem witness_CompactResults : Reads base 7 here base ∧ (∃ t, Writes base 18 1 t) ∧
    (let s := small { task with s := ⟨[(3, here)]⟩ }
     Reads s (cset 1) here s ∧ AccessAt s s .read 8 (here + ((0#5).setWidth 64 <<< 3)) (spadLoc 0 0x40) ∧
       s.route s.curCore s.me.ctx s.me.sysMode .write (here + ((0#5).setWidth 64 <<< 3)) = .loc (spadLoc 0 0x40)) := by
  refine ⟨rfl, ⟨_, rfl⟩, rfl, ⟨by decide, by decide, .inl (by decide), fun _ => by decide, fun _ => rfl⟩, by decide⟩

/-- The destination word of a message to core 5, channel 3, class 2. -/
abbrev destWord : B64 := BitVec.ofNat 64 (5 + 3 * 2 ^ 17 + 2 * 2 ^ 21)
/-- A sender: the word in s5, a payload in s10 and s11. -/
def sender : State := small { task with v := ⟨[(1, 0x0102)]⟩, s := ⟨[(5, destWord), (10, 8), (11, 9)]⟩ }
theorem witness_SendResults : Reads sender 5 destWord sender ∧ ReadsRun sender 10 2 [8, 9] sender ∧ ReadsV base 1 0x0102 base ∧
    destWord.toNat % 2 ^ 17 < nCores ∧ destWord.toNat < 2 ^ 27 ∧
    sender.sendBlocked sender.cur (destWord.toNat % 2 ^ 17) (destWord.toNat / 2 ^ 17 % 16) = false ∧
    (let s := { sender with cores := ⟨[(0, { ctx := some 1, tvec := 0x20000, resend := [{ src := 0, pair := 0, ctx := 1, dest := 5, chan := 3, cls := 2, pay := [], no := 0 }] })]⟩ }
     Reads s 5 destWord s ∧ ReadsRun s 10 2 [8, 9] s ∧ ReadsV s 1 0x0102 s ∧ s.sendBlocked s.cur (destWord.toNat % 2 ^ 17) (destWord.toNat / 2 ^ 17 % 16) = true) ∧
    ReadsV sender 1 0x0102 sender ∧ nCores ≤ (0x1FFFF : B64).toNat % 2 ^ 17 ∧ 2 ^ 27 ≤ (0x8000000 : B64).toNat ∧ base.hasHandler := by
  repeat' (first | exact rfl | decide | apply And.intro | apply Exists.intro)
theorem witness_TaskResults : base.me.kc.get 0 3 ≤ (0 : BitVec 8).toNat ∧
    (∃ t, Writes (base.modThread base.cur (fun t => { t with ke := t.ke.put 3 false })) 8 0 t) ∧
    (0 : BitVec 8).toNat < (small { task with kc := ⟨[(3, 2)]⟩ }).me.kc.get 0 3 ∧
    base.depsMet base.cur = true ∧
    (let s := { small { task with launch := some 7 } with
       sq := { launches := [{ lid := 7, ctx := 1, q := 0, cores := [0], preds := [6], waits := [6] }] } }
     s.depsMet s.cur = false ∧ s.me.launch = some 7 ∧ s.me.trig = false) ∧
    base.me.launch = none ∧ Reads base 5 7 base ∧ (7 : B64).toNat < 2 ^ 32 ∧
    (small { task with phase := .answered 9 0 }).me.phase = .answered 9 0 ∧ base.me.phase = .idle ∧ (∃ t, Writes base 8 9 t) ∧
    (∀ i < 32, Nat.testBit 0 i = (Nat.testBit 7 i &&
      (if i < 16 then !((base.core base.curCore).waiting i).isEmpty else base.me.kc.get 0 (i - 16) == 0))) ∧
    (∀ i < 32, Nat.testBit 0x10000 i = (Nat.testBit 0x10000 i &&
      (if i < 16 then !((base.core base.curCore).waiting i).isEmpty else base.me.kc.get 0 (i - 16) == 0))) ∧
    (15 : B64).toNat < 16 ∧ (0x107 : B64) &&& 0x107#64 = 0x107 ∧ 16 ≤ (16 : B64).toNat ∧ base.hasHandler ∧
    (let u (v : Nat) : State := base.modCore base.curCore (fun c => { c with chSet := c.chSet.put 15 v })
     (u 0x107).chanHeld base.curCore 15 = true ∧ (u 0x007).chanHeld base.curCore 15 = false) := by
  repeat' (first | exact rfl | decide | apply And.intro | apply Exists.intro)
/-- A message to core 0 whose context has a class 2. -/
def note : Msg := { src := 3, pair := 24, ctx := 1, dest := 0, chan := 15, cls := 2, pay := [8, 9], no := 0 }
def receiver : State :=
  { base with
    threads := {}, drift := [note]
    ctxs := ⟨[(1, { prio := 0, sys := false, root := 0x1000, tvec := 0x20000, quota := 0, classes := ⟨[(2, ⟨0x100400, 0x5000⟩)]⟩ })]⟩ }
theorem witness_MessageStartsTask : receiver.freeSlot note.dest = some 0 ∧ receiver.holds note.dest note.ctx = true ∧
    (∃ c, receiver.ctx? note.ctx = some c ∧ c.classes.get ⟨0, 0⟩ note.cls = ⟨0x100400, 0x5000⟩ ∧ c.saved = false) ∧
    (0x100400 : B64) ≠ 0 ∧ (0x100400 : B64).getLsbD 0 = false ∧ note.launch = none ∧ note.chan < 16 ∧
    receiver.chanHeld note.dest note.chan = false ∧ (receiver.core note.dest).bounces = [] ∧
    receiver.drift[0]? = some note ∧ receiver.mayArrive 0 = true ∧
    (let s := { receiver with cores := ⟨[(0, { ctx := some 1, tvec := 0x20000 }), (3, { ctx := some 1, resend := [note] })]⟩ }
     (s.core 3).resend = [note]) := by
  repeat' (first | exact rfl | decide | apply And.intro | apply Exists.intro)
/-- The same core with its four slots taken. -/
def crowded (c : Core) : State := { receiver with
  threads := ⟨[(0, task), (1, task), (2, task), (3, task)]⟩, cores := ⟨[(0, { c with ctx := some 1, tvec := 0x20000 })]⟩ }
theorem witness_MessageStartsTask_waits :
    (let s := crowded {}
     s.drift[0]? = some note ∧ s.mayArrive 0 = true ∧ s.holds note.dest note.ctx = true ∧ note.launch = none ∧ (s.core note.dest).bounces = [] ∧
       (∃ c, s.ctx? note.ctx = some c ∧ (c.classes.get ⟨0, 0⟩ note.cls).entry ≠ 0) ∧ s.chanHeld note.dest note.chan = false ∧ s.freeSlot note.dest = none) ∧
    (let s := crowded { chSet := ⟨[(15, 0x100)]⟩, entries := ⟨[(15, List.replicate 7 note)]⟩ }
     s.mayArrive 0 = true ∧ s.chanHeld note.dest note.chan = true ∧ (s.core note.dest).spill.get [] 15 = [] ∧ ((s.core note.dest).entries.get [] 15).length < 8) ∧
    (let s := crowded { spill := ⟨[(15, List.replicate 16 note)]⟩ }
     s.mayArrive 0 = true ∧ 16 ≤ ((s.core note.dest).spill.get [] 15).length ∧ (s.core note.src).resend.length < 16) ∧
    (let t := crowded { spill := ⟨[(15, List.replicate 16 note)]⟩ }
     let s := { t with cores := t.cores.put 3 { resend := List.replicate 16 note } }
     s.mayArrive 0 = true ∧ 16 ≤ ((s.core note.dest).spill.get [] 15).length ∧ 16 ≤ (s.core note.src).resend.length) ∧
    (let s := { crowded {} with ctxs := base.ctxs, host := { almbase := 1 } }
     s.mayArrive 0 = true ∧ (∃ c, s.ctx? note.ctx = some c ∧ (c.classes.get ⟨0, 0⟩ note.cls).entry = 0) ∧ s.host.almbase.getLsbD 0 = true ∧
       s.almUsed ≠ 65536 ∧ s.upd = []) := by
  repeat' (first | exact rfl | decide | apply And.intro | apply Exists.intro)
theorem receiver_nothing_waits : ∀ ch, (receiver.core note.dest).waiting ch = [] := fun _ => rfl

/-- A member of kin set 5. -/
def member : State := small { task with s := ⟨[(5, 5)]⟩, kin := some 5 }
theorem witness_KinResults : Reads base 7 here base ∧ 4096 ≤ here.toNat ∧ base.hasHandler ∧
    (4095 : B64).toNat < 4096 ∧ Reads member 5 5 member ∧ member.me.kin = some (5 : B64).toNat ∧ base.me.kin = none ∧
    (small { task with kin := some 4 }).me.kin = some 4 ∧ member.me.phase = .idle ∧ base.me.phase = .idle ∧ (small { task with phase := .answered 9 0 }).me.phase = .answered 9 0 ∧
    (small { task with kin := some 5, phase := .answered 9 0 }).hasAnswer ∧ (∃ t, Writes base 8 9 t) ∧
    (let s : State := { base with kinOps := [⟨0, 0, 4101, .join⟩] }
     s.kinOps[0]? = some ⟨0, 0, 4101, .join⟩ ∧ s.kin.get (KinSet.mk [] [] [] [] 0) 4101 = ⟨[], [], [], [], 0⟩) ∧
    (let s : State := { base with kinOps := [⟨0, 0, 4101, .bar⟩], kin := ⟨[(4101, ⟨[0], [], [], [], 3⟩)]⟩ }
     s.kin.get (KinSet.mk [] [] [] [] 0) 4101 = ⟨[0], [], [], [], 3⟩ ∧ (0 : Nat) ∈ [0] ∧ ([] : List (Nat × Nat)).length + 1 = [0].length) ∧
    (let s := { small { task with phase := .sent } with kinRel := [(0, 0)], kinAns := [⟨0, 0, 9⟩] }
     s.kinRel[0]? = some (0, 0) ∧ s.kinAns[0]? = some ⟨0, 0, 9⟩ ∧ (s.thread 0).act = 0 ∧ (s.thread 0).phase = .sent) := by
  repeat' (first | exact rfl | decide | apply And.intro | apply Exists.intro)
/-- A filing of no lanes that waits in core 0's bin unit. -/
def filing : KsReq := { op := 9, tid := 0, act := 0, d := 1, lanes := [], hashk := 0, base := 0, cnt := 1, tag := 0 }
theorem witness_BinResults : ReadsV base 1 0x0102 base ∧ ReadsV base 2 0x0304 base ∧ ReadsM base 1 5 base ∧ plainM base 3 ∧
    (base.core base.curCore).binbase.toNat + 16 * ((base.core base.curCore).bincnt.toNat % 2 ^ 16) ≤ 0x30000 ∧
    0x30000 < ((baseCore { binbase := 0x30000, bincnt := 1 }).core 0).binbase.toNat +
      16 * (((baseCore { binbase := 0x30000, bincnt := 1 }).core 0).bincnt.toNat % 2 ^ 16) ∧ base.hasHandler ∧
    ((baseCore { ksq := [filing] }).core 0).ksq = [filing] ∧ ((baseCore { ksq := [filing] }).thread 0).act = filing.act ∧
    (baseCore { ksq := [filing] }).stretched 0 = false ∧
    { baseCore { ksq := [filing] } with terraces := ⟨[(0, { squall := .stretch 100 })]⟩ }.stretched 0 = true := by
  repeat' (first | exact rfl | decide | apply And.intro | apply Exists.intro)
/-- A bin whose header at `here` holds no record of the one it has room for, with its data 0x100 on. -/
def binned (held : Nat) : State :=
  { base with mem := writeBytes [] (spadLoc 0 0x40) (leBytes 4 held ++ leBytes 4 1 ++ leBytes 4 0x100 ++ leBytes 4 0) }
theorem witness_BinResults_file :
    (let r := { filing with base := 0x40, lanes := [(0, 5, 6)] }
     filing.lanes = [] ∧ filing.rest = [] ∧ filing.mask = 0 ∧ filing.ahead = [] ∧ r.lanes = [] ++ [(0, 5, 6)] ∧ r.rest = [] ∧ r.mask = 0 ∧ r.ahead = [] ∧ ({ r with cnt := 0 } : KsReq).cnt % 2 ^ 16 = 0 ∧ r.cnt % 2 ^ 16 ≠ 0 ∧
       r.base + 16 * (r.cnt % 2 ^ 16) ≤ 0x30000 ∧ (binned 0).stores = [] ∧ (binned 0).upd = [] ∧ (binned 0).fleet.echo = {} ∧
       binOf r.hashk r.cnt 5 = 0 ∧
       (let f (s : State) (k : Nat) : Nat := leNat (readBytes s.mem (spadLoc 0 (0x40 + 16 * 0) + 4 * k) 4)
        f (binned 0) 0 < f (binned 0) 1 ∧ f (binned 0) 2 + 16 * (f (binned 0) 0 + 1) ≤ 0x30000 ∧ ¬ f (binned 1) 0 < f (binned 1) 1)) ∧
    (baseCore { ksq := [filing] }).clockless 0 = false := by
  repeat' (first | exact rfl | decide | apply And.intro | apply Exists.intro)
/-- An indirect record of two elements, its index record 64 bytes on, and that record. -/
def indirectRec : List Byte :=
  leBytes 64 (here.toNat + 2 ^ 64 * (2 * 2 ^ 32 + 8) + 2 ^ (64 * 5) * 8 + 2 ^ (64 * 6) * (here.toNat + 0x40))
def indexRec : List Byte := leBytes 64 (here.toNat + 2 ^ 64 * (2 * 2 ^ 32 + 4) + 2 ^ (64 * 5) * 0x10)
/-- A stream record stands at `here`. -/
def withRecord (r : List Byte) : State := { base with mem := writeBytes [] (spadLoc 0 0x40) r }
theorem witness_PortResults : Reads (withRecord (record 4 0)) 7 here (withRecord (record 4 0)) ∧
    (withRecord (record 4 0)).me.ports.get? (PortReg.key ⟨false, 31⟩) = none ∧ ownSpad 0 here = some 0x40 ∧ 0x40 % 64 = 0 ∧
    mainOk (((withRecord (record 4 0)).prepRead 0 (spadLoc 0 0x40) 64).readFor 0 (spadLoc 0 0x40) 64) = true ∧
    streamIndirect (((withRecord (record 4 0)).prepRead 0 (spadLoc 0 0x40) 64).readFor 0 (spadLoc 0 0x40) 64) = false ∧
    mainOk indirectRec = true ∧ streamIndirect indirectRec = true ∧ ownSpad 0 (BitVec.ofNat 64 (dwordAt indirectRec 6)) = some 0x80 ∧
    indexOk indexRec = true ∧
    (base.core base.curCore).linkOwn.get? (Dir.code .n) = none ∧
    (let s := baseCore { linkOwn := ⟨[(Dir.code .n, 2)]⟩ }
     (s.core s.curCore).linkOwn.get? (Dir.code .n) = some 2 ∧ 2 ≠ s.cur ∧ s.me.ports.get? (PortReg.key ⟨true, 30⟩) = none ∧ s.hasHandler) ∧
    (let q : Port := { kind := .chan 3 }
     (ported q).me.ports.get? (PortReg.key ⟨true, 30⟩) = some q ∧ q.kind = .chan (3 : Fin 16).val ∧ (ported q).wordsHeld (ported q).cur 3 = false ∧ 32 ≤ PortReg.key ⟨true, 30⟩ ∧
       (small { task with ports := ⟨[(30, q)]⟩ }).me.ports.get? (PortReg.key ⟨false, 30⟩) = some q ∧ PortReg.key ⟨false, 30⟩ < 32 ∧
       ((ported q).core 0).waiting 3 = []) ∧
    (ported { kind := .readStream, recd := record 4 0 }).me.ports.get? (PortReg.key ⟨true, 30⟩) = some { kind := .readStream, recd := record 4 0 } ∧
    base.hasHandler ∧ Reads base 6 3 base ∧ 0 + (4 : B64).toNat ≤ streamTotal (record 4 0) ∧ streamTotal (record 4 0) < 0 + (5 : B64).toNat ∧
    (let q : Port := { kind := .writeStream, recd := record 4 1, entries := [{ n := 0, val := 9 }] }
     (ported q).me.ports.get? (PortReg.key ⟨true, 30⟩) = some q ∧ q.entries ≠ [] ∧
       ((ported q).thread 0).ports.get? 62 = some q ∧ ((ported q).core (coreOf 0)).orphans = [] ∧
       (ported q).streamLoc (coreOf 0) ((ported q).thread 0).ctx q.sys .write (portBytes 62) (streamAddr q.recd 0) = some (spadLoc 0 0x40) ∧
       (ported q).croftStopped (croftOf (coreOf 0)) = false ∧ (ported q).cartPick (croftOf (coreOf 0)) = some (coreOf 0) ∧
       portBytes 62 ≤ (ported q).cartBudget (coreOf 0) ∧ spillCore (spadLoc 0 0x40) (portBytes 62) = none) ∧
    (let q : Port := { kind := .readStream, recd := record 4 0 }
     q.part = none ∧ q.ahead = [] ∧ q.fetched < streamTotal q.recd ∧ (ported q).visibleUpTo 0 q.after = true ∧
       (ported q).streamLoc (coreOf 0) ((ported q).thread 0).ctx q.sys .read (portBytes 62) (streamAddr q.recd q.fetched) = some (spadLoc 0 0x40) ∧
       (ported q).croftStopped (croftOf (coreOf 0)) = false ∧ (ported q).cartPick (croftOf (coreOf 0)) = some (coreOf 0) ∧
       portBytes 62 ≤ (ported q).cartBudget (coreOf 0)) ∧
    (let s := ported { kind := .link .n false }
     s.me.skipped = 0 ∧ s.me.skipArg = none ∧ (small { task with skipArg := some 3 }).me.skipArg = some 3 ∧ (3 : B64).toNat ≤ ((baseCore { links := ⟨[(0, [1, 2, 3])]⟩ }).core 0 |>.links.get [] 0).length) := by
  repeat' (first | exact rfl | decide | apply And.intro | apply Exists.intro)

/-- An operation of the task on its way. -/
def operation (k : RKind) (q : Bool) : ROp :=
  { id := 9, tid := 0, act := 0, ctx := 1, kind := k, q := q, d := 8, addr := 0x10008, pc := 0, dev := 0, counted := true }
/-- A task that holds the address of an own and of an unreachable window. -/
def caller : State := mapped { task with s := ⟨[(5, 7), (6, 0x20008), (7, 0x10008), (8, 0x70000000010008), (10, 8), (11, 9)]⟩ }
/-- A lit path of the context: `mem` its members. -/
def pathTo (mem : List Nat) : Path := { ports := 1, dev := 5, ctx := 1, grant := 64, lit := true, mcast := !mem.isEmpty, mem := mem }
theorem caller_lateFree : LateFree caller [8] ∧ LateFree caller [8, 9] ∧ LateFree caller [] ∧ LateFree caller [0] := by
  unfold LateFree plainS; decide
theorem caller_ready : RemoteReady caller 0x10008 8 (0, 7, 8) ∧ RemoteReady caller 0x10008 4 (0, 7, 8) := by
  refine ⟨⟨by decide, by decide, by decide, .inl rfl⟩, ⟨by decide, by decide, by decide, .inl rfl⟩⟩
theorem caller_tokens : (∀ x ∈ toksOf caller .none, x ≠ 0 → (caller.tok (tokSlotOf x)).st ≠ .void) ∧
    ∀ x ∈ toksOf caller (.two 0 3), x ≠ 0 → (caller.tok (tokSlotOf x)).st ≠ .void := by
  refine ⟨fun x h => (List.not_mem_nil h).elim, fun x h => ?_⟩
  simp [toksOf] at h
  rcases h with rfl | rfl <;> decide
/-- The next number is 80 and number 9, of operation 9, has not been answered: its FLOOR lies 71 below. -/
def behind : State :=
  { caller with threads := ⟨[(0, { caller.me with seqs := ⟨[(0, 79)]⟩ })]⟩, sq := { ops := [{ operation .rst false with seq := some 9 }] } }
theorem witness_RemoteResults_floor : Reads behind 7 0x10008 behind ∧ Reads behind 5 7 behind ∧ RemoteReady behind 0x10008 8 (0, 7, 8) ∧
    behind.floorRoom behind.cur 0 = false ∧ LateFree behind [] := by
  refine ⟨rfl, rfl, ⟨by decide, by decide, by decide, .inl rfl⟩, by decide, fun _ h => (List.not_mem_nil h).elim⟩
theorem witness_RemoteResults : Reads caller 7 0x10008 caller ∧ Reads caller 5 7 caller ∧ NumberedReady caller 0x10008 8 (0, 7, 8) ∧
    NumberedReady caller 0x10008 4 (0, 7, 8) ∧
    (caller.core caller.curCore).reserve = [3] ∧ caller.me.phase = .idle ∧
    (let s := mapped { task with phase := .answered 9 0 }
     s.me.phase = .answered 9 0 ∧ ∃ u, Writes s 8 9 u ∧ ∃ v, Writes u 9 0 v) := by
  refine ⟨rfl, rfl, ⟨caller_ready.1, by decide⟩, ⟨caller_ready.2, by decide⟩, ?_⟩
  repeat' (first | exact rfl | decide | apply And.intro | apply Exists.intro)
theorem witness_RemoteResults_mcast :
    (let s := { caller with well := { paths := ⟨[(7, pathTo [5, 6])]⟩ } }
     Reads s 8 0x70000000010008 s ∧ ReadsRun s 10 2 [8, 9] s ∧ (0x70000000010008 : B64).toNat < 2 ^ 60 ∧
       ((0x70000000010008 : B64) &&& 0x000FFFFFFFFFFFFF#64).toNat % 8 = 0 ∧ s.remoteOut s.curCore < 64 ∧
       s.route s.curCore s.me.ctx s.me.sysMode .remote (0x70000000010008 &&& 0x000FFFFFFFFFFFFF#64) = .win 0 7 8 ∧
       s.path? ((0x70000000010008 : B64).toNat / 2 ^ 52 % 256) = some (pathTo [5, 6]) ∧ (pathTo [5, 6]).mcast = true ∧
       (pathTo [5, 6]).ctx = s.me.ctx ∧ (pathTo [5, 6]).grant ≠ 0) ∧
    (caller.route caller.curCore caller.me.ctx caller.me.sysMode .remote 0x20008 = .win 5 7 8 ∧ 5 ≠ caller.fleet.devId ∧
      caller.reachable caller.me.ctx 5 = false ∧ (∃ t, Writes caller.sweepTokens 8 8 t) ∧ caller.hasHandler) ∧
    caller.route caller.curCore caller.me.ctx caller.me.sysMode .remote 8 = .prot := by
  repeat' (first | exact rfl | decide | apply And.intro | apply Exists.intro)

/-- A packet of this device, and of another one. -/
def packet (op : PktOp) (dest : Nat) : Packet :=
  { id := 4, srcDev := 0, srcCore := 0, srcSlot := 0, dest := dest, members := [], seq := some 1, floor := 1, ordered := false, toks := [], wid := 7,
    off := 8, op := op, tag := 0 }
def outgoing (op : PktOp) (dest : Nat) (w : OutAt) : OutPkt := { pkt := packet op dest, op := 9, at_ := w }
/-- A machine with one operation and its packet on its way. -/
def flight (k : RKind) (q : Bool) (op : PktOp) (dest : Nat) (w : OutAt) (t : Thread) : State :=
  { mapped t with sq := { ops := [operation k q], out := [outgoing op dest w], replies := [⟨4, 0, [], 0⟩] } }
theorem witness_ReplyResults :
    (let s := flight .rst true (.write [1]) 0 .answered task
     let x := outgoing (.write [1]) 0 .answered
     s.outPkt? x.pkt.id = some x ∧ s.opOf x = some (operation .rst true) ∧ x.owed = [0] ∧ (operation .rst true).left = 1 ∧
       (operation .rst true).dead = false ∧ (operation .rst true).tok = 0 ∧ (s.thread 0).act = 0 ∧ s.sq.replies[0]? = some ⟨4, 0, [], 0⟩) ∧
    (let s := flight .rld true (.read 8) 5 (.sent 0 0) { task with phase := .sent }
     let x := outgoing (.read 8) 5 (.sent 0 0)
     s.outPkt? 4 = some x ∧ s.opOf x = some (operation .rld true) ∧ (s.thread 0).phase = .sent) ∧
    (let s := flight .rst false (.write [1]) 5 (.sent 0 0) task
     s.opOf (outgoing (.write [1]) 5 (.sent 0 0)) = some (operation .rst false) ∧ ∃ c, s.ctx? 1 = some c ∧ c.ended = false) ∧
    (let x := outgoing (.write [1]) 5 (.sent 0 0)
     let x := { x with pkt := { x.pkt with toks := [7] } }
     let s := { mapped task with sq := { ops := [operation .rst false], out := [x] } }
     s.outPkt? 4 = some x ∧ s.opOf x = some (operation .rst false) ∧ x.pkt.toks ≠ []) ∧
    (let s := flight (.ramo .cas true) false (.amo .cas true 1 2) 0 .answered task
     s.opOf (outgoing (.amo .cas true 1 2) 0 .answered) = some (operation (.ramo .cas true) false) ∧ (operation (.ramo .cas true) false).d ≠ 0) := by
  repeat' (first | exact rfl | decide | apply And.intro | apply Exists.intro)
/-- A well whose path 7 is `x` and whose port 0 is trained, at PAM8. -/
def lighted (x : Path) : Well := { paths := ⟨[(7, x)]⟩, ports := ⟨[(0, { order := 4 })]⟩ }
/-- The packet of an `rmcast` along path 7 to devices 5 and 6. -/
def outgoingMcast (at_ : OutAt) : OutPkt :=
  { pkt := { packet (.write [1]) 5 with members := [5, 6], seq := none }, op := 9, at_ := at_, mems := [0, 1], owed := [0, 1], path := some 7 }
theorem witness_PacketLeaves :
    (let s := flight .rst true (.write [1]) 5 .drift task
     let o := outgoing (.write [1]) 5 .drift
     s.outPkt? 4 = some o ∧ s.opOf o = some (operation .rst true) ∧ o.at_ = .drift ∧ o.path = none ∧
       5 ≠ s.fleet.devId ∧ s.eligible 1 5 = [] ∧ s.lighting 1 5 = false) ∧
    { flight .rst true (.write [1]) 5 .drift task with well := lighted (pathTo []) }.eligible 1 5 ≠ [] ∧
    { flight .rst true (.write [1]) 5 .drift task with well := lighted { pathTo [] with lit := false } }.eligible 1 5 = [] ∧
    { flight .rst true (.write [1]) 5 .drift task with well := lighted { pathTo [] with lit := false } }.lighting 1 5 = true ∧
    (let s := flight .rst true (.write [1]) 0 .drift task
     (outgoing (.write [1]) 0 .drift).pkt.dest = s.fleet.devId) ∧
    (let o := outgoingMcast .drift
     let s := { mapped task with well := lighted (pathTo [5, 6]), sq := { ops := [operation .mcast false], out := [o] } }
     s.outPkt? 4 = some o ∧ s.opOf o = some (operation .mcast false) ∧ o.at_ = .drift ∧ o.path = some 7 ∧ s.path? 7 = some (pathTo [5, 6]) ∧
       o.mems.length = o.pkt.members.length ∧ o.mems ≠ [] ∧ (∀ d ∈ o.pkt.members, d ∉ s.sq.retDown) ∧ s.eligiblePath 1 7 ≠ [] ∧
       1 * max 1 (pathTo [5, 6]).fan < o.mems.length) ∧
    (let o := { outgoingMcast .drift with mems := [0], owed := [0], pkt := { packet (.write [1]) 5 with members := [5] } }
     o.mems.length ≤ max 1 (pathTo [5]).fan) ∧
    (let s := flight .rst true (.write [1]) 5 (.queued 0 7) task
     let o := outgoing (.write [1]) 5 (.queued 0 7)
     s.outPkt? 4 = some o ∧ o.at_ = .queued 0 7 ∧ o.path = none ∧
       ({ s with well := { ports := ⟨[(0, { cipher := true })]⟩ } } : State).oport 0 = { cipher := true } ∧
       s.sq.out.find? (fun x => match x.at_ with | .queued r _ => r == 0 | _ => false) = some o) ∧
    (let o := { outgoingMcast (.queued 0 7) with fan := 1 }
     let s := { mapped task with well := lighted (pathTo [5, 6]), sq := { ops := [operation .mcast false], out := [o] } }
     s.outPkt? 4 = some o ∧ o.fan = s.pathFan 7) := by
  repeat' (first | exact rfl | decide | apply And.intro | apply Exists.intro)

/-- A received packet with its window, over the page at 64 KiB of stack 0. -/
def arrived (op : PktOp) (w : Option Window) (held : Bool) : State :=
  { mapped task with
    sq := { inp := [{ pkt := packet op 0, port := none, at_ := 0, due := 0, toks := [], order := held, table := false, pounded := held }]
            wins := match w with | some w => ⟨[(7, w)]⟩ | none => {} } }
def window : Window := { revoked := false, rights := 7, ctx := 1, base := 0, len := 0x10000 }
def inward (op : PktOp) (held : Bool) : InPkt :=
  { pkt := packet op 0, port := none, at_ := 0, due := 0, toks := [], order := held, table := false, pounded := held }
theorem witness_PacketApplied :
    (let s := flight .rst true (.write [1]) 0 .own task
     s.sq.seen.contains (0, 4) = false ∧ s.sq.order.cells.length < 4096 ∧ s.outPkt? 4 = some (outgoing (.write [1]) 0 .own) ∧
       (packet (.write [1]) 0).toks = [] ∧ (packet (.write [1]) 0).ordered = false) ∧
    ((base.oport 2).cipher = false ∧ (packet (.write [1]) 0).members = [] ∧ (packet (.write [1]) 0).dest = base.fleet.devId ∧
      base.fleet.devId ∈ { packet (.write [1]) 0 with members := [0, 5] }.members) ∧
    (spillCore 0x10008 2 = none ∧ spillCore 0x10008 8 = none) ∧
    (let s := arrived (.write [1, 2]) (some window) false
     s.sq.inp[0]? = some (inward (.write [1, 2]) false) ∧ s.mayApply 0 (inward (.write [1, 2]) false) = true ∧ s.sq.wins.get? 7 = some window ∧
       window.revoked = false ∧ (packet (.write [1, 2]) 0).srcDev = s.fleet.devId ∧ s.upd = [] ∧ s.fleet.echo = {} ∧ 8 + 2 ≤ window.len ∧
       window.rights.testBit 1 = true ∧ s.winLocs 1 .write (2 / 0x10000 + 2) (0 + 8) 2 = some [(0x10008, 2)]) ∧
    (let s := arrived (.read 8) (some window) false
     (inward (.read 8) false).ahead = [] ∧ 8 + 8 ≤ window.len ∧ window.rights.testBit 0 = true ∧ s.winLocs 1 .read 2 (0 + 8) 8 = some [(0x10008, 8)]) ∧
    (arrived (.read 8) none false).sq.wins.get? 7 = none ∧
    ({ window with revoked := true } : Window).revoked = true ∧ ({ window with len := 15 } : Window).len < 8 + 8 ∧
    ({ window with rights := 6 } : Window).rights.testBit 0 = false ∧
    (let s := arrived (.read 8) (some window) true
     s.sq.inp[0]? = some (inward (.read 8) true) ∧ (inward (.read 8) true).held = true ∧ (inward (.read 8) true).due ≤ s.now) ∧
    (let s := { base with sq := { order := ⟨[(pairKey 5 0 0, ⟨1, 0, 0⟩)]⟩ }, now := 2000000 }
     5 ≠ s.fleet.devId ∧ seqBelow 1 1 = false ∧ s.sq.order.get? (pairKey 5 0 0) = some ⟨1, 0, 0⟩ ∧ 0 + 2000000 ≤ s.now ∧ s.sq.inp = [] ∧
       s.sq.skips = []) := by
  repeat' (first | exact rfl | decide | apply And.intro | apply Exists.intro)
/-- A packet that carries a token, one `.of` packet numbered before its turn, and their arrivals. -/
def carrying (dev : Nat) : Packet := { packet (.write [1]) 0 with toks := [7], srcDev := dev, seq := none }
def early : Packet := { packet (.write [1]) 0 with ordered := true, seq := some 3, floor := 1, srcDev := 5 }
/-- Its pair of source and destination expects number 1. -/
def expecting : State := { base with sq := { order := ⟨[(pktPair early, ⟨1, 0, 0⟩)]⟩ } }
theorem carrying_arrives : Arrives base (carrying 5) (.outside (carrying 5) 2 none) :=
  ⟨by decide, .inl rfl, .inl ⟨2, none, rfl, by decide, .inl ⟨rfl, by decide⟩⟩⟩
theorem early_arrives : Arrives expecting early (.outside early 2 none) :=
  ⟨by decide, .inr (by decide), .inl ⟨2, none, rfl, by decide, .inl ⟨rfl, by decide⟩⟩⟩
theorem witness_PacketApplied_holds :
    ((carrying 5).toks ≠ [] ∧ (∀ x ∈ (carrying 5).toks, base.sq.cache.find? (fun n => n.tok == x && decide (base.now < n.till)) = none) ∧
      base.sq.inp.countP InPkt.held < 512 ∧ (carrying 5).seq = none) ∧
    (early.toks = [] ∧ early.ordered = true ∧ early.seq = some 3 ∧ expecting.sq.order.get? (pktPair early) = some ⟨1, 0, 0⟩ ∧ early.floor = 1 ∧
      3 ≠ 1 ∧ seqBelow 3 1 = false ∧ expecting.sq.inp = []) ∧
    (let n : Notice := { tok := 7, landed := false, till := 100 }
     let s := { base with sq := { cache := [n] } }
     s.sq.cache.find? (fun n => n.tok == 7 && decide (s.now < n.till)) = some n ∧ n.landed = false) ∧
    (let s := { base with well := { ports := ⟨[(2, { cipher := true })]⟩ }, fleet := { keys := ⟨[(1, [9])]⟩ } }
     (s.oport 2).cipher = true ∧ s.fleet.keys.get? ((0 : BitVec 96).toNat / 2 ^ 64) = none ∧
       s.fleet.keys.get? ((0x10000000000000000 : BitVec 96).toNat / 2 ^ 64) = some [9]) ∧
    (let s := arrived (.amo .cas true 1 0) (some window) false
     s.sq.inp[0]? = some (inward (.amo .cas true 1 0) false) ∧ s.mayApply 0 (inward (.amo .cas true 1 0) false) = true ∧ (packet (.amo .cas true 1 0) 0).cart = false ∧
       8 + 8 ≤ window.len ∧ window.rights.testBit 2 = true ∧ s.winLocs 1 .write 2 (0 + 8) 8 = some [(0x10008, 8)]) ∧
    (let i : InPkt := { inward (.write [1]) false with rest := some [(0x10008, [1])], pkt := { packet (.write [1]) 0 with srcDev := 5 } }
     let s := { mapped task with sq := { inp := [i] } }
     s.sq.inp[0]? = some i ∧ s.mayApply 0 i = true ∧ i.pkt.srcDev ≠ s.fleet.devId ∧ spillCore 0x10008 1 = none) :=
  ⟨⟨by simp [carrying], fun _ _ => rfl, by decide, rfl⟩, by decide, by decide, by decide, by decide, by decide⟩
/-- The tag of any packet under any key: a packet with it is one that the clause on ciphered ports takes. -/
theorem witness_PacketApplied_tag (key : List Byte) (nonce : BitVec 96) (h d : List Byte) :
    gcmTag key nonce h d = (Seal.mk nonce (gcmTag key nonce h d)).tag := rfl
/-- 128 packets of device 5 held. -/
def pounding : State := { base with sq := { inp := List.replicate 128 { inward (.write [1]) true with pkt := carrying 5 } } }
theorem witness_PacketApplied_full : 128 ≤ pounding.sq.inp.countP (fun x => x.held && x.pkt.srcDev == (carrying 5).srcDev) := by
  have h : ∀ x ∈ pounding.sq.inp, (x.held && x.pkt.srcDev == (carrying 5).srcDev) = true := by
    intro x hx; rw [List.eq_of_mem_replicate hx]; rfl
  rw [List.countP_eq_length.mpr h]; exact (List.length_replicate).ge
theorem arrived_not_saved : ∀ c, (arrived (.read 8) (some window) false).ctx? window.ctx = some c → c.saved = false := by
  intro c h; cases h; rfl

theorem witness_TokenResults :
    (let s := { small { task with d := ⟨[(1, mkToken 0 3 1), (2, mkToken 0 4 1)]⟩ } with
       cores := ⟨[(0, { ctx := some 1, tvec := 0x20000, reserve := [9] })]⟩, sq := { toks := ⟨[(3, { st := .pending, gen := 1 }), (4, { st := .pending, gen := 1 })]⟩ } }
     s.me.d.get 0 0 = 0 ∧ (s.tok (tokSlotOf (s.me.d.get 0 1))).st = .pending ∧ s.me.d.get 0 1 ≠ 0 ∧ s.me.d.get 0 2 ≠ 0 ∧
       s.me.d.get 0 1 ≠ s.me.d.get 0 2 ∧ (s.core s.curCore).reserve = [9] ∧ (∃ t, Writes s 8 0 t)) ∧
    (let s := { small { task with d := ⟨[(1, mkToken 0 3 1)]⟩ } with sq := { toks := ⟨[(3, { st := .void, gen := 1, status := 6 })]⟩ } }
     (s.tok (tokSlotOf (s.me.d.get 0 1))).st = .void ∧ ∃ t, Writes s 8 6 t) ∧
    (base.core base.curCore).reserve = [] ∧
    (let s := { base with sq := { tokReq := [0] } }
     0 ∈ s.sq.tokReq ∧ (s.core 0).reserve.length < 8 ∧ (s.tok 0).st = .free ∧ (s.tok 0).inRes = false) ∧
    (let s := { base with sq := { tokReq := [0], toks := ⟨[(0, { st := .pending }), (1, { inRes := true })]⟩ } }
     (s.tok 2).st = .free ∧ (s.tok 2).inRes = false ∧ ∀ m < 2, ¬((s.tok m).st = .free ∧ (s.tok m).inRes = false)) ∧
    (let e : TokDep := { dev := 5 }
     let s := { base with sq := { toks := ⟨[(3, { st := .landed, gen := 1, deps := [e] })]⟩ } }
     5 ≠ s.fleet.devId ∧ (s.tok 3).st = .landed ∧ (s.tok 3).deps = [e] ∧ e.pkts = 0 ∧ e.accepted = false ∧ e.sent = false ∧
       ({ e with sent := true, refused := true } : TokDep).retryAt ≤ s.now) ∧ base.cacheUse < 4096 := by
  repeat' (first | exact rfl | decide | apply And.intro | apply Exists.intro)

/-- Every token slot is in use. -/
def tokless : State := { base with sq := { tokReq := [0], toks := ⟨(List.range 16384).map (fun n => (n, { st := .pending }))⟩ } }
theorem witness_TokenResults_none : ∀ m < 16384, ¬((tokless.tok m).st = .free ∧ (tokless.tok m).inRes = false) := by
  rintro m hm ⟨h, -⟩
  have hf : ∃ c, tokless.sq.toks.cells.find? (fun c => c.1 == m) = some c := by
    rw [← Option.isSome_iff_exists, List.find?_isSome]
    exact ⟨(m, { st := .pending }), List.mem_map.mpr ⟨m, List.mem_range.mpr hm, rfl⟩, beq_self_eq_true m⟩
  obtain ⟨c, hc⟩ := hf
  obtain ⟨n, -, rfl⟩ := List.mem_map.mp (List.mem_of_find?_eq_some hc)
  rw [State.tok, SMap.get, hc] at h
  exact TokSt.noConfusion h
/-- A full notice cache. -/
def noticed : State := { base with sq := { cache := List.replicate 4096 { tok := mkToken 5 3 1, landed := true, till := 100 } } }
theorem witness_TokenResults_full : 4096 ≤ (noticed.sq.cache.filter (fun n => decide (noticed.now < n.till))).length ∧
    ∀ n ∈ noticed.sq.cache, n.tok = mkToken 5 4 1 → n.till ≤ noticed.now := by
  refine ⟨?_, fun n hn h => ?_⟩
  · have : ∀ n ∈ noticed.sq.cache, decide (noticed.now < n.till) = true := by
      intro n hn; rw [List.eq_of_mem_replicate hn]; rfl
    rw [List.filter_eq_self.mpr this]; exact (List.length_replicate).ge
  · rw [List.eq_of_mem_replicate hn] at h
    exact absurd h (by decide)

/-- A request at the Well for the dark path 7 of context 1, whose quota is 9,600. -/
def asking (kind : Nat) (arg : B64) (x : Path) : State :=
  { small { task with phase := .sent } with
    ctxs := ⟨[(1, { prio := 0, sys := false, root := 0x1000, tvec := 0x20000, quota := 9600 })]⟩
    host := { ready := ⟨[(0x1404, 1)]⟩ }
    well := { paths := ⟨[(7, x)]⟩, reqs := [{ tid := 0, act := 0, ctx := 1, kind := kind, p := 7, arg := arg }] } }
theorem witness_LightRequests : Reads base 7 here base ∧ Reads base 6 3 base ∧ 256 ≤ here.toNat ∧ 2 ^ 16 ≤ here.toNat ∧ (3 : B64).toNat < 256 ∧
    base.hasHandler ∧ base.me.phase = .idle ∧ (3 : B64).toNat < 2 ^ 16 ∧ baseSys.me.sysMode = true ∧
    (0x50100 : B64).getLsbD 8 = true ∧ (0x50100 : B64) &&& 0xFFFF0100#64 = 0x50100 ∧ ownSpad 0 here = some 0x40 ∧ here.toNat % 32 = 0 ∧
    (small { task with phase := .answered 9 0 }).me.phase = .answered 9 0 ∧ (∃ t, Writes base 8 9 t) ∧
    (let x : Path := { ports := 1, dev := 5, ctx := 1 }
     let s := asking 0 64 x
     s.well.reqs = [{ tid := 0, act := 0, ctx := 1, kind := 0, p := 7, arg := 64 }] ∧ s.path? 7 = some x ∧ (s.thread 0).phase = .sent ∧
       s.minOf 7 x ≤ 64 ∧ 1 < s.minOf 7 x ∧ 64 ≤ x.grant + min (9600 - s.held 1) (s.well.free + x.drain) ∧ 64 ≤ s.ceilOf x ∧
       ({ x with ctx := 2 } : Path).ctx ≠ 1) := by
  repeat' (first | exact rfl | decide | apply And.intro | apply Exists.intro)
/-- A path of ports 0 and 1 whose step was decided at time 0, from fan-out 2 to `goal`. -/
def stepping (ports : List Nat) (goal : Nat) : Path :=
  { ports := 3, dev := 5, ctx := 1, grant := 64, lit := true, step := some 0, toStep := ports, ords := ⟨[(0, 4), (1, 4)]⟩, fan := 2, fanTo := goal }
/-- A well with one path. -/
def welled (x : Path) : State := { base with well := { paths := ⟨[(7, x)]⟩ }, now := 48 }
theorem witness_LightSteps :
    (let s := welled (stepping [0, 1] 1)
     s.path? 7 = some (stepping [0, 1] 1) ∧ 0 + 48 ≤ s.now ∧ 0 ∈ [0, 1] ∧ s.sq.out = [] ∧ [0, 1].erase 0 ≠ [] ∧ 5 ∉ (stepping [0, 1] 1).toStep) ∧
    ((stepping [0] 2).fan ≤ (stepping [0] 2).fanTo ∧ (stepping [0] 2).toStep = [0] ∧ (stepping [0] 2).step = some 0) ∧
    (let o := { outgoingMcast .waiting with begun := true, fan := 2 }
     let s := { welled (stepping [0, 1] 1) with sq := { out := [o] } }
     (stepping [0, 1] 1).fanTo < (stepping [0, 1] 1).fan ∧ o ∈ s.sq.out ∧ o.begun = true ∧ o.path = some 7 ∧ o.at_ = .waiting) ∧
    (let x : Path := { ports := 1, dev := 5, ctx := 1, grant := 64, st := 3, till := 40 }
     (welled x).path? 7 = some x ∧ x.st = 3 ∧ x.grant ≠ 0 ∧ x.till ≤ (welled x).now ∧ x.step = none) ∧
    (∃ x, (welled { ports := 1, dev := 5, ctx := 1, dark := true }).path? 7 = some x ∧ x.dark = true) ∧
    (191 < 192 ∧ (base.lane 191).erased = false ∧ (base.lane 191).st ≠ 0) ∧
    (let s := { base with well := { lanes := ⟨[(0, { st := 0 }), (1, { st := 0, low := 15, trim := 8 })]⟩ } }
     (s.lane 0).erased = false ∧ (s.lane 0).st = 0 ∧ (s.lane 0).trim < s.well.reserve ∧ (s.lane 0).low < 15 ∧ (s.lane 1).st = 0 ∧
       s.well.reserve ≤ (s.lane 1).trim ∧ 15 ≤ (s.lane 1).low ∧ 0 < (s.lane 1).trim) ∧
    (let s := { base with well := { paths := ⟨[(7, { ports := 1, dev := 5, ctx := 1, grant := 64, lit := true })]⟩ } }
     s.lostOrder 0 = true ∧ (s.lane 0).erased = false) ∧
    (let s := { base with well := { lanes := ⟨[(0, { erased := true, good := true })]⟩, ports := ⟨[(0, { retrain := true })]⟩ } }
     (s.lane 0).erased = true ∧ (s.lane 0).failed = false ∧ (s.lane 0).good = true ∧ (s.oport (0 / 8)).retrain = true) ∧ 23 < 24 ∧
    (let o := outgoing (.write [1]) 5 (.sent 0 7)
     let s := { flight .rst true (.write [1]) 5 (.sent 0 7) task with
       well := { ports := ⟨[(0, { pairs := ⟨[(5, 2)]⟩, flits := [⟨4, 1, none, true⟩] })]⟩ } }
     s.outPkt? 4 = some o ∧ o.at_ = .sent 0 7 ∧ 2 ≤ (s.oport 0).pairs.get 0 5 ∧ (s.oport 0).suspect = false ∧
       (∃ f ∈ (s.oport 0).flits, f.pkt = 4 ∧ f.cw = 1 ∧ f.first = true) ∧
       (∀ f ∈ (s.oport 0).flits, ¬(f.pkt = 4 ∧ f.cw = 2 ∧ f.first = true))) := by
  repeat' (first | exact rfl | decide | apply And.intro | apply Exists.intro)

/-- Weave registers: w0 the point 6 of two 3-bit axes, w2 and w3 the corners of the box from (2, 1) to (5, 3). -/
def woven : State := boxTask 6
theorem woven_ok : (wOf woven 0).ok ∧ (wOf woven 2).ok ∧ (wOf woven 3).ok := by unfold WVal.ok; decide
theorem witness_WeaveResults :
    (let s := small { task with s := ⟨[(5, BitVec.ofNat 64 (8 + 256 * 8)), (6, BitVec.ofNat 64 (2 + 2 ^ 8 * 3 + 2 ^ 16 * 255)), (8, 9)]⟩ }
     Reads s 5 (BitVec.ofNat 64 (8 + 256 * 8)) s ∧ 8 * 8 ≤ 64 ∧ Reads s 6 (BitVec.ofNat 64 (2 + 2 ^ 8 * 3 + 2 ^ 16 * 255)) s ∧ 255 < 256) ∧
    Reads woven 0 0 woven ∧ (wOf woven 0).dims ≠ 0 ∧ (∃ t, Writes woven 8 (wOf woven 0).code t) ∧ (0 : B64).toNat < (wOf woven 0).dims ∧
    (wOf woven 0).ok ∧ 7 < 2 ^ ((wOf woven 0).dims * (wOf woven 0).bits) ∧
    (∀ k < 2, wAxis 2 3 7 k = if k = 0 then (3 : B64).toNat % 2 ^ 3 else wAxis 2 3 6 k) ∧ (wOf woven 0).sameShape (wOf woven 2) ∧
    (24 < 2 ^ (2 * 3) ∧ ∀ k < 2, (wAxis 2 3 24 k : Int) = ((wAxis 2 3 6 k : Int) + wAxis 2 3 6 k) % 2 ^ 3) ∧
    (∀ k < 2, (0 : Int) ≤ (wAxis 2 3 6 k : Int) + wAxis 2 3 6 k ∧ (wAxis 2 3 6 k : Int) + wAxis 2 3 6 k < 2 ^ 3) ∧
    (∃ k < 2, ¬((0 : Int) ≤ (wAxis 2 3 6 k : Int) - wAxis 2 3 27 k ∧ (wAxis 2 3 6 k : Int) - wAxis 2 3 27 k < 2 ^ 3)) ∧
    (wOf woven 5).dims = 0 ∧ woven.hasHandler := by
  refine ⟨⟨rfl, by decide, rfl, by decide⟩, rfl, by decide, ⟨_, rfl⟩, by decide, woven_ok.1, by decide, by decide, ⟨by decide, by decide⟩, by decide,
    by decide, by decide, by decide, ⟨by decide, by decide, by decide⟩⟩
/-- WSHAPE of two 3-bit axes; masked vectors of four points. -/
def weaver : State := small { task with wshape := 0x0302, v := ⟨[(1, lanesOf 32 [6, 27]), (2, lanesOf 32 [1, 27])]⟩ }
theorem witness_WeaveResults_vector : ReadsV weaver 1 (lanesOf 32 [6, 27]) weaver ∧ ReadsV weaver 2 (lanesOf 32 [1, 27]) weaver ∧
    ReadsM weaver 1 5 weaver ∧ weaver.me.wshape.toNat % 256 * (weaver.me.wshape.toNat / 256) ≤ Ty.s32.width ∧ DestFree weaver 1 3 ∧
    CopyLanes .s32 5 (fun j => (wSum false 2 3 (elemBits 32 j (lanesOf 32 [6, 27]) % 2 ^ 6) (elemBits 32 j (lanesOf 32 [1, 27]) % 2 ^ 6)).1) (oldOf weaver 3)
      (lanesOf 32 [7]) ∧ (∃ t, WritesV weaver 3 (lanesOf 32 [7]) t) ∧
    (∀ j < 32, (5#64).getLsbD j = true → (wSum false 2 3 (elemBits 32 j (lanesOf 32 [6, 27]) % 2 ^ 6) (elemBits 32 j (lanesOf 32 [1, 27]) % 2 ^ 6)).2 = 0) ∧
    (∃ t, WritesM weaver 3 1 t) ∧ (∀ j < 64, (1 : B64).getLsbD j = (decide (j < 16) && (5#64).getLsbD j &&
      inBox 2 3 (elemBits 32 0 (lanesOf 32 [1, 27]) % 2 ^ 6) (elemBits 32 1 (lanesOf 32 [1, 27]) % 2 ^ 6) (elemBits 32 j (lanesOf 32 [6, 27]) % 2 ^ 6))) ∧
    Ty.s32.width < (0x0802 : BitVec 16).toNat % 256 * ((0x1402 : BitVec 16).toNat / 256) ∧ weaver.hasHandler := by
  refine ⟨rfl, rfl, rfl, by decide, ⟨by decide, by decide⟩, by unfold CopyLanes; decide, ⟨_, rfl⟩, by decide, ⟨_, rfl⟩, ?_, by decide,
    ⟨by decide, by decide, by decide⟩⟩
  decide
theorem witness_WeaveBoxes : (wOf woven 2).ok ∧ (wOf woven 3).ok ∧ (wOf woven 2).sameShape (wOf woven (boxHi 2)) ∧ (wOf woven 0).ok ∧
    InsideBox (wOf woven 2) (wOf woven 3) 6 ∧ 6 < 2 ^ ((wOf woven 2).dims * (wOf woven 2).bits) ∧
    (∀ k, 6 ≤ k → k ≤ 7 → InsideBox (wOf woven 2) (wOf woven 3) k) ∧ ¬ InsideBox (wOf woven 2) (wOf woven 3) 8 ∧
    (∃ t, Writes woven 24 6 t ∧ ∃ u, Writes t (nextS 24) 7 u) ∧
    (∀ r < 2 ^ (2 * 3), 28 ≤ r → ¬ InsideBox (wOf woven 2) (wOf woven 3) r) ∧
    (let s := small { task with s := ⟨[(10, here), (21, 4)]⟩, w := ⟨[(2, ⟨6, 2, 3, 0⟩), (3, ⟨27, 2, 3, 0⟩)]⟩ }
     Reads s 21 4 s ∧ Reads s 10 here s ∧ here.toNat % 16 = 0 ∧ min (4 : B64).toNat 4096 ≠ 0 ∧ ownSpad 0 here = some 0x40 ∧ 0x40 + 16 * 4 ≤ 0x30000 ∧
       (∃ t, Writes (s.recorded (spadLoc 0 0x40) [(6, 7)]) 21 1 t) ∧ s.hasHandler) ∧
    ((here + 1).toNat % 16 ≠ 0 ∧ (0 : B64).toNat % 16 = 0 ∧ ownSpad 0 0 = none ∧ ownSpad 0 0xFFFFFFFFF0000 = some 0x30000 ∧
      ownSpad 0 0xFFFFFFFFEFFF0 = some 0x2FFF0 ∧ 0x30000 < 0x2FFF0 + 16 * 2) ∧
    (boxRanges 2 3 6 27 65 0).length = 4 ∧ 0 < 3 ∧ 3 < 4 := by
  refine ⟨woven_ok.2.1, woven_ok.2.2, ⟨rfl, rfl⟩, woven_ok.1, by unfold InsideBox; decide, by decide, ?_, by unfold InsideBox; decide, ⟨_, rfl, _, rfl⟩,
    by unfold InsideBox; decide, ⟨rfl, rfl, by decide, by decide, by decide, by decide, ⟨_, rfl⟩, by decide, by decide, by decide⟩, by decide, by decide,
    by decide, by decide⟩
  intro k h h'
  have : k = 6 ∨ k = 7 := by omega
  rcases this with rfl | rfl <;> (unfold InsideBox; decide)

theorem base_destFree : DestFree base 1 3 := ⟨by decide, by decide⟩
theorem witness_VectorMemory : DestFree base 1 3 ∧ Reads base 7 here base ∧ ReadsM base 1 5 base ∧ here.toNat % 64 = 0 ∧
    base.route 0 1 false .read here = .loc (spadLoc 0 0x40) ∧ base.isFar (spadLoc 0 0x40) = false ∧
    (∀ j < 8, base.isFar (spadLoc 0 0x40 + j * 8) = false ∧ base.dirAsleep 0 (spadLoc 0 0x40 + j * 8) = false ∧ spillCore (spadLoc 0 0x40 + j * 8) 8 = none) ∧
    (List.range 8).filter (fun j => (5#64).getLsbD j) ≠ [] ∧ (List.range 8).filter (fun j => (0#64).getLsbD j) = [] ∧ base.stores = [] ∧ base.upd = [] ∧ base.me.split = 0 ∧
    base.me.phase.got = [] ∧ CopyLanes .s64 5 (fun j => leNat (readBytes base.mem (spadLoc 0 0x40 + j * 8) 8)) (oldOf base 3) 0 ∧ (∃ t, WritesV base 3 0 t) ∧
    (∀ j < 8, (here + BitVec.ofNat 64 j * 8).toNat % 8 = 0 ∧ base.route 0 1 false .read (here + BitVec.ofNat 64 j * 8) = .loc (spadLoc 0 0x40 + j * 8) ∧
      base.route 0 1 false .write (here + BitVec.ofNat 64 j * 8) = .loc (spadLoc 0 0x40 + j * 8)) ∧
    base.route 0 1 false .write here = .loc (spadLoc 0 0x40) ∧ (base.core base.curCore).ksq = [] ∧
    (let y := lanesOf 64 [0, 8, 8]
     let s := small { task with v := ⟨[(1, 0x0102), (2, y)]⟩ }
     ReadsV s 2 y s ∧ ∀ j < 3, (here + BitVec.ofNat 64 (elemBits 64 j y)).toNat % 8 = 0 ∧
       s.route 0 1 false .read (here + BitVec.ofNat 64 (elemBits 64 j y)) = .loc (spadLoc 0 (0x40 + elemBits 64 j y))) := by
  refine ⟨base_destFree, rfl, rfl, by decide, by decide, by decide, by decide, by decide, by decide, rfl, rfl, rfl, rfl, by unfold CopyLanes; decide, ⟨_, rfl⟩, by decide, by decide, rfl,
    rfl, by decide⟩
theorem witness_VectorIntegers : Ty.s64.isFloat = false ∧ DestFree base 1 3 ∧ ReadsV base 1 0x0102 base ∧ ReadsV base 2 0x0304 base ∧
    ReadsM base 1 5 base ∧ ReadsV base 3 0 base ∧
    IntLanes .s64 8 5 (fun j => srcInt .s64 none 0x0102 j + srcInt .s64 none 0x0304 j) (oldOf base 3) 0x0406 ∧
    IntLanes .s64 8 5 (fun j => - srcInt .s64 none 0x0102 j) (oldOf base 3) 0xFFFFFFFFFFFFFEFE ∧
    IntLanes .s8 64 5 (fun j => if srcInt .s8 none 0x0304 j = 0 then -1 else (srcInt .s8 none 0x0102 j).tdiv (srcInt .s8 none 0x0304 j)) (oldOf base 3)
      0xFF0000 ∧ (∃ u, WritesV (base.flagged base.me.gen 0) 3 0x0406 u) := by
  refine ⟨rfl, base_destFree, rfl, rfl, rfl, rfl, by unfold IntLanes; decide, by unfold IntLanes; decide, by unfold IntLanes; decide, ⟨_, rfl⟩⟩
theorem witness_VectorFloats : Ty.f32.isFloat = true ∧ DestFree base 1 3 ∧ ReadsV base 1 0x0102 base ∧ ReadsV base 2 0x0304 base ∧
    ReadsM base 1 5 base ∧ ReadsV base 3 0 base ∧
    FltLanes .f32 5 (vrndMode base.me.vrnd) (fun j => addFV .rne (srcFlt .f32 none 0x0102 j) (srcFlt .f32 none 0x0304 j)) (oldOf base 3) 0x0406
      base.me.gen base.me.gen 0 ∧ (∃ u, WritesV (base.flagged base.me.gen 0) 3 0x0406 u) := by
  refine ⟨rfl, base_destFree, rfl, rfl, rfl, rfl, ⟨fun _ => base.me.gen, fun _ => 0, rfl, rfl, rfl, rfl, by decide⟩, ⟨_, rfl⟩⟩
/-- Eight requests of core 0 wait in its croft's unit. -/
def queued : State :=
  { base with crofts := ⟨[(0, { sfu := List.replicate 8 { op := 9, tid := 0, act := 0, d := 3, val := 1, wmask := 1, flags := 0 } })]⟩ }
theorem witness_SpecialFunctions_full : queued.me.ports.get? 3 = none ∧ queued.sfuRoom queued.curCore = false := by decide
theorem witness_SpecialFunctions : plainV base 3 ∧ base.sfuRoom base.curCore = true ∧ ReadsV base 1 0x0102 base ∧ ReadsM base 1 5 base ∧
    (let x := lanesOf 32 [0x3F800000]
     FltLanes .f32 1 .rne (fun j => divFV (.fin false 1 0) (srcFlt .f32 none x j)) 0 x base.me.gen base.me.gen 0) ∧
    (let q : SfuReq := { op := 9, tid := 0, act := 0, d := 3, val := 1, wmask := 1, flags := 0 }
     let s := { base with crofts := ⟨[(0, { sfu := [q] })]⟩ }
     s.stretched (0 * 8) = false ∧ (s.croft 0).sfu = [q] ∧ q.served = false ∧ (s.thread q.tid).act = q.act ∧
       ({ q with served := true } : SfuReq).served = true ∧ ({ q with act := 1 } : SfuReq).act ≠ (s.thread q.tid).act) := by
  refine ⟨⟨by decide, by decide⟩, by decide, rfl, rfl, ⟨fun _ => base.me.gen, fun _ => 0, rfl, rfl, rfl, rfl, by decide⟩, by decide⟩
theorem witness_VectorPermutes : DestFree base 1 3 ∧ ReadsV base 1 0x0102 base ∧ ReadsV base 2 0x0304 base ∧ ReadsM base 1 5 base ∧ Reads base 5 7 base ∧
    CopyLanes .s64 5 (fun j => elemBits 64 (elemBits 64 j 0x0304 % 8) 0x0102) (oldOf base 3) (lanesOf 64 [0, 0, 0x0102]) ∧
    CopyLanes .s64 5 (fun _ => (7 : B64).toNat % 2 ^ 64) (oldOf base 3) (lanesOf 64 [7, 0, 7]) ∧
    CopyLanes .s64 5 (fun j => if 0 ≤ (j : Int) + (-2) ∧ (j : Int) + (-2) < 8 then elemBits 64 ((j : Int) + (-2)).toNat 0x0102 else 0) (oldOf base 3)
      (lanesOf 64 [0, 0, 0x0102]) ∧
    (∃ u, Writes base 8 (BitVec.ofInt 64 (srcInt .s64 none 0x0102 (7 % 8))) u) ∧
    (∀ j < 8, elemBits 64 j (lanesOf 64 [0, 0, 0, 0, 0, 0, 0, 7]) = if j = 7 % 8 then (7 : B64).toNat % 2 ^ 64 else elemBits 64 j 0) ∧
    (∃ u, WritesV base 3 0 u) ∧ (∃ u, WritesM base 3 1 u) ∧ (∃ u, WritesM base 0 1 u) ∧
    (∀ j < 64, (4 : B64).getLsbD j = (decide (j < 8) && (5#64).getLsbD j && decide (srcInt .s64 none 0x0102 j - srcInt .s64 none 0x0304 j = 0))) ∧
    ((5 : B64) &&& 5 ≠ 0 ∧ 0 < 64 ∧ ((5 : B64) &&& 5).getLsbD 0 = true) := by
  refine ⟨base_destFree, rfl, rfl, rfl, rfl, by unfold CopyLanes; decide, by unfold CopyLanes; decide, by unfold CopyLanes; decide, ⟨_, rfl⟩, by decide,
    ⟨_, rfl⟩, ⟨_, rfl⟩, ⟨_, rfl⟩, by decide, by decide⟩
theorem witness_VectorReductions : ReadsV base 1 0x0102 base ∧ ReadsM base 1 5 base ∧ Ty.s64.isFloat = false ∧
    (let act := (List.range Ty.s64.lanes).filter (fun j => (5#64).getLsbD j)
     (∃ u, Writes base 8 (BitVec.ofInt 64 (act.map (srcInt .s64 none 0x0102)).sum) u) ∧ (∃ j ∈ act, (0x0102 : Int) = srcInt .s64 none 0x0102 j) ∧
       (∀ j ∈ act, srcInt .s64 none 0x0102 j ≤ 0x0102) ∧ (∃ j ∈ act, (0 : Int) = srcInt .s64 none 0x0102 j) ∧ (∀ j ∈ act, 0 ≤ srcInt .s64 none 0x0102 j) ∧
       IntLanes .s64 8 5 (fun j => ((act.filter (fun i => i ≤ j)).map (srcInt .s64 none 0x0102)).sum) (oldOf base 3) (lanesOf 64 [0x0102, 0, 0x0102])) ∧
    ((List.range Ty.s64.lanes).filter (fun j => (0#64).getLsbD j) = []) ∧ Ty.f32.isFloat = true ∧
    (let x := lanesOf 32 [0x3F800000, 0, 0x40000000]
     let act := (List.range 16).filter (fun j => (5#64).getLsbD j)
     (∀ j ∈ act, (srcFlt .f32 none x j).isNan = false) ∧ (∃ j ∈ act, srcFlt .f32 none x 2 = srcFlt .f32 none x j) ∧
       (∀ j ∈ act, cmpFV (srcFlt .f32 none x j) (srcFlt .f32 none x 2) = some (-1) ∨ srcFlt .f32 none x j = srcFlt .f32 none x 2) ∧
       (∀ j ∈ act, cmpFV (srcFlt .f32 none x 0) (srcFlt .f32 none x j) = some (-1) ∨ srcFlt .f32 none x j = srcFlt .f32 none x 0) ∧
       (treeFold (redFlt .sum .rne) (Nat.log2 16) (0, base.me.gen)
         ((List.range 16).map (fun j => if (5#64).getLsbD j then srcFlt .f32 none x j else .fin true 0 0))).2.length = 1) ∧
    (∃ j ∈ (List.range 16).filter (fun j => (5#64).getLsbD j), (srcFlt .f32 none (lanesOf 32 [0x7FC00000]) j).isNan = true) ∧
    (let x := lanesOf 32 [0x80000000]
     (srcFlt .f32 none x 0).isZero = true ∧ (srcFlt .f32 none x 2).isZero = true ∧ (∃ e, srcFlt .f32 none x 2 = .fin false 0 e) ∧
       ∃ e, srcFlt .f32 none x 0 = .fin true 0 e) ∧
    (∃ (ys : Nat → FV) (gs : Nat → B64) (fs : Nat → Flags), gs 0 = base.me.gen ∧ fs 0 = 0 ∧ ∀ j < 16,
      let x := lanesOf 32 [0x3F800000, 0, 0x40000000]
      let sum := if j = 0 then (srcFlt .f32 none x 0, 0) else addFV .rne (ys (j - 1)) (srcFlt .f32 none x j)
      let q := roundTo (tyFmt .f32) .rne false (gs j) sum.1
      if (5#64).getLsbD j = true then ys j = (tyFmt .f32).value q.bits ∧ elemBits 32 j (lanesOf 32 [0x3F800000, 0, 0x40400000]) = q.bits ∧ gs (j + 1) = q.gen ∧
        fs (j + 1) = fs j ||| sum.2 ||| q.flags
      else ys j = (if j = 0 then .fin true 0 0 else ys (j - 1)) ∧
        elemBits 32 j (lanesOf 32 [0x3F800000, 0, 0x40400000]) = elemBits 32 j (oldOf base 3) ∧ gs (j + 1) = gs j ∧ fs (j + 1) = fs j) := by
  refine ⟨rfl, rfl, rfl, ⟨⟨_, rfl⟩, by decide, by decide, by decide, by decide, by unfold IntLanes; decide⟩, by decide, rfl, ⟨by decide, by decide, by decide,
    by decide, by decide⟩, by decide, ⟨by decide, by decide, ⟨_, rfl⟩, _, rfl⟩,
    fun j => if j < 2 then fmtF32.value 0x3F800000 else fmtF32.value 0x40400000, fun _ => base.me.gen, fun _ => 0, rfl, rfl, by decide⟩
theorem witness_ConvertSelectDot : DestFree base 1 3 ∧ ReadsV base 1 0x0102 base ∧ ReadsV base 2 0x0304 base ∧ ReadsM base 1 5 base ∧ ReadsV base 3 0 base ∧
    IntLanes .s8 8 5 (fun j => clampInt 8 true (srcInt .s64 none 0x0102 j)) (oldOf base 3) 0x7F ∧
    RndLanes .f32 8 5 (fun j g => roundTo fmtF32 .rne false g (FV.ofInt (srcInt .s64 none 0x0102 j))) (fun _ => 0) (oldOf base 3) 0x43810000
      base.me.gen base.me.gen 0 ∧
    RndLanes .s32 16 5 (fun j g => roundToInt .rne 32 true g (srcFlt .f32 none (lanesOf 32 [0x43810000]) j)) (fun _ => 0) (oldOf base 3) 0x0102
      base.me.gen base.me.gen 0 ∧
    (∀ j < 8, elemBits 64 j 0x0102 = elemBits 64 j (if (5#64).getLsbD j then 0x0102 else 0x0304 : B512)) ∧
    IntLanes .s16 32 5 (fun j => srcInt .s16 none 0 j + intVal 8 true (elemBits 8 (2 * j) 0x0102) * intVal 8 true (elemBits 8 (2 * j) 0x0304) +
      intVal 8 true (elemBits 8 (2 * j + 1) 0x0102) * intVal 8 true (elemBits 8 (2 * j + 1) 0x0304)) 0 (0x0B : B512) ∧
    (∃ u, WritesV (base.flagged base.me.gen 0) 3 0 u) ∧ base.hasHandler ∧
    RndLanes .f32 16 5 (fun j g => roundTo fmtF32 .rne false g (srcFlt .f32 none (lanesOf 32 [0x43810000]) j)) (fun _ => 0) (oldOf base 3) 0x43810000
      base.me.gen base.me.gen 0 ∧
    (let p := small { task with ports := ⟨[(3, { kind := .writeStream, recd := record 4 1 })]⟩ }
     DestFree p 0 3 ∧ oldOf p 3 = 0) := by
  refine ⟨base_destFree, rfl, rfl, rfl, rfl, by unfold IntLanes; decide, ⟨fun _ => base.me.gen, fun _ => 0, rfl, rfl, rfl, rfl, by decide⟩,
    ⟨fun _ => base.me.gen, fun _ => 0, rfl, rfl, rfl, rfl, by decide⟩, by decide, by unfold IntLanes; decide, ⟨_, rfl⟩, base_hasHandler,
    ⟨fun _ => base.me.gen, fun _ => 0, rfl, rfl, rfl, rfl, by decide⟩, ⟨by decide, .inr rfl⟩, rfl⟩
theorem witness_ConvertSelectDotComplete : plainV base 3 ∧ plainV base 1 ∧ plainV base 2 ∧ plainM base 1 :=
  ⟨⟨by decide, by decide⟩, ⟨by decide, by decide⟩, ⟨by decide, by decide⟩, by unfold plainM; decide⟩
theorem witness_ViewResults :
    (let v : View := ⟨some ⟨.s4, 0⟩, none, some .s4, 1, .rne, true⟩
     viewPairs v .s8 = true ∧ Ty.s8.isFloat = false ∧ VFmt.s4.isFloat = false ∧
     IntLanes .s8 64 5 (fun j => srcInt .s8 (some ⟨.s4, 0⟩) 0x0102 j + srcInt .s8 none 0x0304 j) 0 (lanesOf 8 [6, 0, 1]) ∧
     (∃ u, WritesV (base.flagged base.me.gen 0) 3 0 u)) ∧
    (base.me.pend = [] ∧ base.me.ports.get? 3 = none) ∧
    (let v : View := ⟨none, none, none, 0, .rne, false⟩
     followBody v (.add 1 2 3) = none ∧ (followBody v (.vadd .s64 1 3 1 2)).isSome = true ∧ base.hasHandler) := by
  refine ⟨⟨by decide, rfl, rfl, by unfold IntLanes; decide, ⟨_, rfl⟩⟩, ⟨rfl, rfl⟩, rfl, rfl, base_hasHandler⟩
/-- A view and the addition after it, at the pc. -/
def viewed : State :=
  { mapped { task with sysMode := true, pc := 0 } with
    mem := (mapped task).mem.take 8 ++ [(0x10000, 0x37), (0x10004, 0x3B), (0x10006, 0x04), (0x10007, 0x78)] }
theorem viewed_follower : viewed.follower viewed.cur = .vadd .s64 1 0 0 2 := by decide
theorem witness_VectorFrame : vecDest (.vadd .s64 1 3 1 2) = some 3 ∧ base.hasHandler ∧ (∃ t, exec (.vadd .s64 1 3 1 2) base = .next t) ∧
    (¬ ((∃ ty m a, Instr.vadd .s64 1 3 1 2 = .vld ty m 3 a) ∨ (∃ ty m a b, Instr.vadd .s64 1 3 1 2 = .vlds ty m 3 a b) ∨
      ∃ ty m a b, Instr.vadd .s64 1 3 1 2 = .vgather ty m 3 a b)) ∧
    vecDest (.vld .s64 1 3 7) = some 3 ∧ (∃ t, exec (.vld .s64 1 3 7) base = .next t) ∧ (base.core base.curCore).ksq = [] ∧ base.fleet.echo.cells = [] ∧
    base.stores = [] ∧ base.upd = [] ∧ spillCore (spadLoc 0 0x80) 1 = none := by
  refine ⟨rfl, base_hasHandler, ⟨_, rfl⟩, by rintro (⟨_, _, _, h⟩ | ⟨_, _, _, _, h⟩ | ⟨_, _, _, _, h⟩) <;> exact Instr.noConfusion h, rfl, ⟨_, rfl⟩, rfl, rfl, rfl,
    rfl, by decide⟩

/-- A mill job of 32 rows of F32 at `here`, and a cart job with a block. -/
def millJob (op : MillOp) : MillJob :=
  { id := 1, tid := 0, act := 0, ctx := 1, op := op, tile := 0, k := 3, a := here, b := here, mfmt := 0x66, mkReg := 32, pitchA := 128, pitchB := 128,
    sca := 0, scb := 0, scn := 0, after := 0, abase := here, idx := List.range 32, work := List.replicate 1024 0 }
def milling (j : MillJob) : State := baseCore { millCur := some j }
theorem witness_MillResults : MillRoom base 3 ∧ Reads base 7 here base ∧ Reads base 5 7 base ∧ base.me.tilesOld = false ∧
    base.tileBusy base.cur 7 = false ∧ (∀ i < 16, elemBits 32 i 0 = (tileElem base.me 7 ((7 : B64).toNat % 64 / 2) ((7 : B64).toNat % 2 * 16 + i)).toNat) ∧
    (∃ t, WritesV base 3 0 t) ∧ ReadsV base 1 0x0102 base ∧ (∃ t, Writes base 8 1 t) ∧
    (let j : JobMem := { id := 7, done := true }
     let s := small { task with jobs := [j], s := ⟨[(5, 7)]⟩ }
     s.me.jobs.find? (fun m => m.id == (7 : B64).toNat) = some j) ∧ base.me.jobs.find? (fun m => m.id == (7 : B64).toNat) = none ∧
    (let s := baseCore { millQ := [millJob .zero] }
     (s.core 0).millQ.filter (fun j => j.tid == s.cur && j.act == s.me.act && ((0 : B64).toNat == 0 || j.id == (0 : B64).toNat)) = [millJob .zero]) := by
  refine ⟨⟨by decide, by decide, by decide⟩, rfl, rfl, rfl, by decide, by decide, ⟨_, rfl⟩, rfl, ⟨_, rfl⟩, rfl, rfl, rfl⟩
theorem witness_MillJobs :
    (let s := baseCore { millQ := [millJob .mma, millJob .ldacc] }
     s.stretched (0 * 8) = false ∧ s.millPick 0 = some (0, 1) ∧ (s.core (0 * 8 + 0)).millCur = none ∧
       (s.core (0 * 8 + 0)).millQ = [millJob .mma, millJob .ldacc]) ∧
    pairOk (millJob .mma).fa (millJob .mma).fb (millJob .mma).scl = true ∧ pairOk 15 6 0 = false ∧ ({ millJob .mma with mkReg := 0 } : MillJob).mkReg.toNat = 0 ∧
    (milling (millJob .ldacc)).millPick 0 = some (0, 1) ∧ ((milling (millJob .ldacc)).core 0).millCur = some (millJob .ldacc) ∧
    (millJob .ldacc).dead = false ∧ (millJob .ldacc).ahead = [] ∧ (millJob .ldacc).blocks < (millJob .ldacc).need ∧
    millPlace 0 here 4096 = .at (spadLoc 0 0x40) ∧
    (let j : MillJob := { millJob .stacc with blocks := 1 }
     j.need ≤ j.blocks ∧ ((milling j).thread j.tid).act = j.act ∧ ((milling j).thread j.tid).tilesOld = false ∧ j.status = 0 ∧ j.work.length = 1024 ∧
       (milling j).upd = [] ∧ (milling j).fleet.echo.cells = []) ∧
    (let j : MillJob := { millJob .mma with status := 5 }
     j.need ≤ j.blocks ∧ j.status ≠ 0) := by
  refine ⟨⟨by decide, by decide, rfl, rfl⟩, by decide, by decide, rfl, by decide, rfl, rfl, rfl, by decide, by decide,
    ⟨by decide, rfl, rfl, rfl, List.length_replicate, rfl, rfl⟩, by decide, by decide⟩
theorem witness_MillProduct :
    (let j := millJob .mma
     (milling j).stretched (0 * 8) = false ∧ (milling j).millPick 0 = some (0, 1) ∧ ((milling j).core (0 * 8 + 0)).millCur = some j ∧
       j.blocks < j.need ∧ j.ahead = [] ∧ j.fa ≠ 13 ∧ j.fb ≠ 13 ∧ j.scl = 0 ∧ (milling j).stores = [] ∧ (milling j).upd = [] ∧ j.work.length = 1024 ∧
       (∀ i < 32, millPlace (coreOf j.tid) (j.rowA i + BitVec.ofNat 64 (4 * millWidth j.fa * j.blocks)) ((32 * millWidth j.fa + 7) / 8) = .at (spadLoc 0 0x40 + 128 * i)) ∧
       (∀ k < 32, millPlace (coreOf j.tid) (j.rowB (32 * j.blocks + k)) (4 * millWidth j.fb) = .at (spadLoc 0 0x40 + 128 * k))) := by
  refine ⟨by decide, by decide, rfl, by decide, rfl, by decide, by decide, by decide, rfl, rfl, List.length_replicate, by decide, by decide⟩
/-- A block of one row of one byte, from and to `here`. -/
def cartJob (op : CartOp) (ctl : Nat) : CartJob :=
  { uid := 1, id := 1, tid := 0, act := 0, ctx := 1, sys := false, op := op, k := 3, xafter := false, loc := spadLoc 0 0x80, vrnd := 0, after := 0,
    blk := leBytes 56 (here.toNat + 2 ^ 64 * here.toNat + 2 ^ (64 * 2) * (2 ^ 32 + 1) + 2 ^ (64 * 4) * ctl) }
theorem witness_CartResults : base.me.kc.get 0 15 < 255 ∧ (base.core base.curCore).cartQ.length < 16 ∧ Reads base 7 here base ∧
    blockOff 0 here = some 0x40 ∧ blockOff 0 (here + 1) = none ∧ blockOff 0 0xFFFFFFFFEFFC0 = some 0x2FFC0 ∧ blockOff 0 0xFFFFFFFFF0000 = none ∧
    (∃ u, Writes base 8 (BitVec.ofNat 64 (2 ^ 18 + 1)) u) ∧
    (let s := baseCore { cartQ := [cartJob .copy 0] }
     s.stretched (0 * 8) = false ∧ s.cartPick 0 = some 0 ∧ (s.core 0).cartCur = none ∧ (s.core 0).cartNext = some (cartJob .copy 0)) ∧
    (cartJob .copy 0x2000).badShape = true ∧ (cartJob .copy 0x2000).code = 0 ∧
    (let j := cartJob .copy 0
     let s := baseCore { cartCur := some j }
     s.cartPick 0 = some 0 ∧ (s.core 0).cartCur = some j ∧ j.fin = false ∧ j.sfmt = 0 ∧ j.dfmt = 0 ∧ j.side = 0 ∧ j.segs = [] ∧ j.rivals = [] ∧ j.part = none ∧ j.resid = none ∧ j.ahead = [] ∧ j.buf = none ∧ j.owed = 0 ∧
       j.total = j.pos + 1 ∧ 1 ≤ (s.core 0).cw ∧ s.saves = [] ∧ s.stores = [] ∧ s.upd = [] ∧ s.fleet.echo.cells = [] ∧
       s.route j.core j.ctx j.sys .write (j.dstElem j.pos) = .loc (spadLoc 0 0x40) ∧
       s.route j.core j.ctx j.sys .read (j.srcRow (j.pos / j.count) + BitVec.ofNat 64 (j.pos % j.count)) = .loc (spadLoc 0 0x40) ∧
       spillCore (spadLoc 0 0x40) 1 = none) ∧
    spillCore (spadLoc 0 0x80 + 0x38 + 0) (8 - 0) = none ∧
    (let j := { cartJob .copy (2 ^ 59 + 3 * 2 ^ 55) with fin := true }
     let s := baseCore { cartCur := some j }
     s.stretched (0 / 8 * 8) = false ∧ (s.core 0).cartCur = some j ∧ j.fin = true ∧ j.part = none ∧ j.resid = none ∧ j.told = 0 ∧ j.owed = 0 ∧ j.reqs = [] ∧ (s.thread j.tid).act = j.act ∧ j.nen = true ∧ j.code ≠ 7 ∧ j.word % 256 = 0) ∧
    (cartJob .copy 0).nen = false ∧ ({ cartJob .copy 0 with code := 6 } : CartJob).word % 256 ≠ 0 := by
  refine ⟨by decide, by decide, rfl, by decide, by decide, by decide, by decide, ⟨_, rfl⟩, ⟨by decide, by decide, rfl, rfl⟩, by decide, rfl,
    ⟨by decide, rfl, rfl, by decide, by decide, rfl, rfl, rfl, rfl, rfl, rfl, rfl, rfl, by decide, by decide, rfl, rfl, rfl, rfl, by decide, by decide, by decide⟩, by decide,
    ⟨by decide, rfl, rfl, rfl, rfl, rfl, rfl, rfl, rfl, by decide, by decide, by decide⟩, by decide, by decide⟩

theorem witness_CartResults_drain :
    (let j : CartJob := { cartJob .remote 0 with fin := true, side := 1, reqs := [⟨4, 0, 1, some (some [9])⟩] }
     let s := baseCore { cartCur := some j }
     s.stretched (0 / 8 * 8) = false ∧ (s.core 0).cartCur = some j ∧ j.sfmt = 0 ∧ j.dfmt = 0 ∧ j.stopped = false ∧ j.part = none ∧ j.resid = none ∧ j.told = 0 ∧ j.owed = 0 ∧ j.op = .remote ∧ j.segs = [] ∧
       j.rivals = [] ∧ j.wrote = [] ∧ s.route j.core j.ctx j.sys .write (j.dstElem 0) = .loc (spadLoc 0 0x40) ∧ spillCore (spadLoc 0 0x40) 1 = none ∧
       spillCore (j.loc + 0x38) 8 = none ∧ s.stores = [] ∧ s.upd = [] ∧ s.fleet.echo.cells = []) := by
  repeat' (first | exact rfl | decide | apply And.intro | apply Exists.intro)
/-- No port of a thread without ports has an element to move. -/
theorem no_streams : ∀ tid key, (baseCore { cartCur := some (cartJob .copy 0) }).canWriteBack tid key = false ∧
    (baseCore { cartCur := some (cartJob .copy 0) }).canRefill tid key = false := by
  intro tid key
  have hp : ((baseCore { cartCur := some (cartJob .copy 0) }).thread tid).ports = {} := by
    by_cases h : tid = 0
    · subst h; rfl
    · have h' : ((0 : Nat) == tid) = false := by simpa using Ne.symm h
      simp only [State.thread, baseCore, base, small, SMap.get, List.find?, h', Option.map_none, Option.getD_none]
      unfold slotInit; split <;> rfl
  have ho : ((baseCore { cartCur := some (cartJob .copy 0) }).core (coreOf tid)).orphans = [] := by
    by_cases h : coreOf tid = 0
    · rw [h]; rfl
    · have h' : ((0 : Nat) == coreOf tid) = false := by simpa using Ne.symm h
      simp only [State.core, baseCore, base, small, SMap.get, List.find?, h', Option.map_none, Option.getD_none]
  simp only [State.canWriteBack, State.canRefill, hp, ho]
  exact ⟨rfl, rfl⟩

/-! ## Power, memory system, host -/

theorem witness_RationsAndSqualls :
    (let s := { base with now := 2000 }
     s.refillAt ≤ s.now ∧ ∃ c, s.cores.get? 0 = some c ∧ c.isoff = false) ∧
    (let s := { baseCore { isoff := true } with now := 2000 }
     ∃ c, s.cores.get? 0 = some c ∧ c.isoff = true) ∧ 6399 < 6400 ∧ 15 < 16 ∧ (base.terrace 6399).droop ≠ 0 ∧
    ((base.setTerrace 0 { droop := 0 }).terrace 0).droop = 0 := by
  repeat' (first | exact rfl | decide | apply And.intro | apply Exists.intro)
theorem witness_PowerAndErrors :
    ((base.ctxs.cells.map (·.1)).Nodup ∧ base.busyCtx 1 = true ∧ (∃ c, base.ctx? 1 = some c ∧ c.ended = false ∧ c.prio = 0)) ∧
    State.reset.ctxs.cells = [] ∧
    (let s := { base with fleet := { killNext := some (1, 20000) } }
     s.fleet.killNext = some (1, 20000) ∧ s.now < 20000 ∧ 20000 ≤ ({ s with now := 20000 } : State).now) ∧
    (base.now :: (base.core 0).sysTraps.filter (fun m => base.now < m + 2000000)).length < 4 ∧
    (let s := { baseCore { sysTraps := [100, 50, 10] } with now := 200 }
     4 ≤ (s.now :: (s.core 0).sysTraps.filter (fun m => s.now < m + 2000000)).length) ∧
    (let w : StewardWrite := ⟨0, 3, 9, 2000⟩
     let s := { base with fleet := { steward := [w] } }
     s.fleet.steward = [w] ∧ s.now < w.due ∧ w.due ≤ ({ s with now := 2000 } : State).now) ∧
    160 < (161 : B64).toNat % 256 ∧ (160 : B64).toNat % 256 ≤ 160 ∧
    (let s := { baseCore { div := 1 } with now := 2001 }
     ((s.core 0).clocked s.now).boundary s.now ≠ s.now ∧ (s.core 0).isoff = false) ∧
    (let s := { State.reset with cores := ⟨[(0, { off := true })]⟩ }
     s.mayOff 0 = true ∧ (s.core 0).isoff = false) ∧ base.mayOff 0 = false ∧ ((baseCore { isoff := true }).core 0).isoff = true := by
  repeat' (first | exact rfl | decide | apply And.intro | apply Exists.intro)
/-- A voltage change that every core's divider already meets (log entry 21: MINDIV is a free value of four bits). -/
theorem dividers_meet_minDiv : ∀ i < 16, ({ State.reset with cores := ⟨(List.range 16).map (fun n => (n, { div := 15 }))⟩ } : State).minDiv 0 160 ≤
    (({ State.reset with cores := ⟨(List.range 16).map (fun n => (n, { div := 15 }))⟩ } : State).core (16 * 0 + i)).divSet := by
  intro i h
  have d : (({ State.reset with cores := ⟨(List.range 16).map (fun n => (n, { div := 15 }))⟩ } : State).core (16 * 0 + i)).divSet = 15 := by
    have : ∀ i < 16, (({ State.reset with cores := ⟨(List.range 16).map (fun n => (n, { div := 15 }))⟩ } : State).core (16 * 0 + i)).divSet = 15 := by decide
    exact this i h
  rw [d]
  exact Nat.le_of_lt_succ (BitVec.isLt _)

theorem witness_MemoryAndLaunches :
    (0x10000 < 2 ^ 40 ∧ 5 < nCores ∧ (mapped task).stackOk 0x10000 = true ∧ (mapped task).upd = [] ∧
      ((mapped task).core (homeCore 0x10000)).dirQ.length < 16 ∧ ((mapped task).core (homeCore 0x10000)).dirWait = [] ∧
      ({ (mapped task).core 0 with dirWait := [(0x10000, 5, true)] } : Core).dirWait ≠ [] ∧ ((mapped task).core (homeCore 0x10000)).dir.find? (fun e => e.line == 0x10000 / 256) = none ∧
      ((mapped task).core (homeCore 0x10000)).dir.length < 4096) ∧
    (let s := { mapped task with cores := (mapped task).cores.put (homeCore 0x10000) { dir := [⟨256, .cores, [5], none⟩] } }
     (s.core (homeCore 0x10000)).dir.find? (fun e => e.line == 0x10000 / 256) = some ⟨256, .cores, [5], none⟩) ∧
    (let s := { mapped task with host := { (mapped task).host with ucie := ⟨[(3, true)]⟩ } }
     s.linkUp = true ∧ s.memUsable 0x10000 8 = true ∧ s.memUsable (2 ^ 40 - 8) 8 = false ∧ s.fleet.echo.cells = [] ∧ s.host.ucie.get false 3 = true) ∧
    (let l : Launch := { lid := 7, ctx := 1, q := 0, cores := [0], preds := [], waits := [], sers := [(0, 0)] }
     let s := { base with sq := { launches := [l], trigQ := [7] } }
     s.sq.launches.find? (fun l => l.lid == 7) = some l ∧ 7 ∈ s.sq.trigQ ∧ ∀ x ∈ l.sers, s.visibleUpTo x.1 x.2 = true) ∧
    (let l : Launch := { lid := 7, ctx := 1, q := 0, cores := [0], preds := [], waits := [], sers := [(0, 1)] }
     let s := { base with sq := { launches := [l], trigQ := [7] }, stores := [{ ser := 0, tid := 0, loc := 0, data := [1] }] }
     s.sq.launches.find? (fun l => l.lid == 7) = some l ∧ ∃ x ∈ l.sers, s.visibleUpTo x.1 x.2 = false) ∧
    ({ base with sq := { relNot := [(0, 8, 7)] } } : State).sq.relNot[0]? = some (0, 8, 7) := by
  repeat' (first | exact rfl | decide | apply And.intro | apply Exists.intro)
theorem witness_ResetAndTraining : 191 < 192 ∧ 23 < 24 ∧ 6399 < 6400 ∧ (base.terrace 6399).fallen = false ∧
    ((base.setTerrace 0 { fallen := true }).terrace 0).fallen = true ∧ 12799 < 12800 ∧ 15 < 16 ∧ 3 < 4 ∧
    ({ base with fleet := { idValid := true } } : State).portTrains 23 = true ∧ base.portTrains 23 = false := by decide

/-- A host with a link, the Almanac on at 0x0080_0000, and one accepted command. -/
def posted (cmds : List Cmd) : State :=
  let m := mapped task
  { m with host := { m.host with ucie := ⟨[(0, true)]⟩, almbase := 0x800001, head := 1, cmds := cmds } }
def block (d0 d1 d2 d3 : B64) : List B64 := [d0, d1, d2, d3, 0, 0, 0, 0]
def cmd (d0 d1 d2 d3 : B64) : Cmd := { q := 0, block := block d0 d1 d2 d3, st := 1 }
theorem witness_CommandPosting : CommandRow Instr.hostNop 0x01 ∧ CommandRow Instr.hostAbort 0x02 ∧ CommandRow Instr.ctxRestore 0x51 ∧ base.linkUp = false ∧
    (posted []).linkUp = true ∧ (posted []).credit ≠ 0 ∧ ({ posted [] with host := { (posted []).host with almbase := 0 } } : State).credit = 0 ∧
    rowOf (block 1 0 0 0) = 0x01 ∧ rowOf (block 2 0 0 0) = 0x02 ∧ (block 1 0 0 0).length = 8 ∧ fieldsOk (block 1 0 0 0) = true ∧
    fieldsOk (block 2 0 0 0) = true ∧ fieldsOk (block 1 1 0 0) = false := by
  refine ⟨.inl ⟨rfl, rfl⟩, .inr (.inl ⟨rfl, rfl⟩), ?_, by decide⟩
  unfold CommandRow
  repeat (first | exact ⟨rfl, rfl⟩ | exact .inl ⟨rfl, rfl⟩ | apply Or.inr)
/-- The host about to post a LAUNCH of context 1's image 1, whose default class is 2, on core 0. -/
def launchable (images : List (Nat × Option Nat)) : State :=
  let m := posted []
  { m with
    host := { m.host with ready := ⟨[(0, 1), (0x400, 1), (0xC00, 1), (0x1400, 1), (0x1402, 1)]⟩ }
    ctxs := ⟨[(1, { prio := 0, sys := false, root := 0x1000, tvec := 0x20000, quota := 0, classes := ⟨[(2, ⟨0x100400, 0⟩)]⟩, images := images })]⟩ }
/-- LAUNCH 7 of image 1 on core 0, with its class from the image, after launch `pred`. -/
def order (d0 d2 d3 pred d6 d7 : B64) : List B64 := [d0, 0x100000007, d2, d3, pred, 0, d6, d7]
abbrev plainOrder : List B64 := order 0x100000221 0 0 0 0 0
theorem witness_CommandPosting_launch :
    (let s := launchable [(1, some 2)]
     s.linkUp = true ∧ plainOrder.length = 8 ∧ s.credit ≠ 0 ∧ s.sq.left = [] ∧ rowOf plainOrder = 0x21 ∧ s.upd = [] ∧ fieldsOk plainOrder = true ∧ s.sq.launches = [] ∧
       s.host.cmds = [] ∧ (∃ c, s.ctx? 1 = some c ∧ c.ended = false ∧ c.images.find? (fun i => i.1 == 0x100000007 / 2 ^ 32) = some (1, some 2) ∧
         (c.classes.get ⟨0, 0⟩ 2).entry ≠ 0 ∧ (c.classes.get ⟨0, 0⟩ 5).entry = 0) ∧ rectCores 0 = [0] ∧
       (s.numbered plainOrder).hostWords 1 8 0 0 = some [] ∧ (s.core 0).ctx = some 1 ∧ s.coreReady 0 = true ∧ s.ctx? 9 = none ∧ rectCores 1 = [1] ∧
       (s.core 1).ctx ≠ some 1) ∧
    fieldsOk (order 0x100000221 0 0 0 0 9) = false ∧ (∀ i ∈ ([] : List (Nat × Option Nat)), i.1 ≠ 1) ∧
    (let s := { launchable [(1, none)] with sq := { launches := [{ lid := 7, ctx := 1, q := 0, cores := [0], preds := [], waits := [] }] } }
     ∃ l ∈ s.sq.launches, l.lid = 7) ∧
    (let s := { launchable [(1, some 2)] with sq := { launches := [{ lid := 6, ctx := 2, q := 0, cores := [0], preds := [], waits := [] }] } }
     fieldsOk (order 0x100000221 0 0 6 0 0) = true ∧ s.trackedCtx 6 = some 2) ∧
    (let b := order 0x100000221 0 0 0 0x200000 1
     fieldsOk b = true ∧ ((launchable [(1, some 2)]).numbered b).hostWords 1 8 1 0x200000 = none) ∧
    (let b := order 0x100000321 0x100 2 0 0 0
     fieldsOk b = true ∧ ((launchable [(1, some 2)]).numbered b).hostWords 1 4 2 0x100 = some [0, 0] ∧ ¬ [0, 0].Nodup) ∧
    (posted []).coreReady 0 = false := by
  repeat' (first | exact rfl | decide | apply And.intro | apply Exists.intro)
/-- A command of context 1. -/
def started (d0 d1 d2 d3 : B64) : State := posted [cmd d0 d1 d2 d3]
theorem witness_ContextCommands :
    (started 0x01 0 0 0).startable 0 0x01 = some (cmd 0x01 0 0 0) ∧ (started 0x02 0 0 0).startable 0 0x02 = some (cmd 0x02 0 0 0) ∧
    (let s := started 0x200000010 0x10000 0 5
     s.startable 0 0x10 = some (cmd 0x200000010 0x10000 0 5) ∧ s.ctx? 2 = none ∧ s.ctxs.cells.length < 1024 ∧ s.memUsable 0x10000 4096 = true) ∧
    (let s := started 0x100000010 0x10000 0 5
     s.startable 0 0x10 = some (cmd 0x100000010 0x10000 0 5) ∧ ∃ k, s.ctx? 1 = some k ∧ k.ended = false) ∧
    (let s := started 0x100000011 0 0 0
     s.startable 0 0x11 = some (cmd 0x100000011 0 0 0) ∧ rectCores 0 = [0]) ∧
    (let s := started 0x100000012 0 0 0
     s.startable 0 0x12 = some (cmd 0x100000012 0 0 0) ∧ s.host.ends = [] ∧ s.jobsLeft 1 = false) ∧
    (started 0x100000222 9 0 0).startable 0 0x22 = some (cmd 0x100000222 9 0 0) ∧
    (started 0x100000030 0 0 0).startable 0 0x30 = some (cmd 0x100000030 0 0 0) ∧
    (let s := started 0x100000731 0 0x10000 7
     s.startable 0 0x31 = some (cmd 0x100000731 0 0x10000 7) ∧ s.sq.wins.get? 7 = none ∧
       ((s.setCmd 0 2 0 0).hostLoc 1 (0 + 0x10000 * 0)).isSome = true ∧ (0x10000 + 0xFFFF) / 0x10000 = 1) ∧
    (started 0x732 0 0 0).startable 0 0x32 = some (cmd 0x732 0 0 0) := by
  repeat' (first | exact rfl | decide | apply And.intro | apply Exists.intro)
/-- An operation of context 1 is out to 0x10008, through a translation in core 0's first level. -/
def outUnder (s : State) : State :=
  { s with sq := { s.sq with ops := [operation .rst true] }, cores := s.cores.put 0 { s.core 0 with tlb := [⟨1, 0x10000, 16, 0⟩] } }
theorem witness_ContextCommands_fail :
    (let s := { started 0x200000010 0x10000 0 5 with host := { (started 0x200000010 0x10000 0 5).host with ready := {} } }
     s.startable 0 0x10 = some (cmd 0x200000010 0x10000 0 5) ∧ s.ctx? 2 = none ∧ s.ctxs.cells.length < 1024 ∧ s.memUsable 0x10000 4096 = false) ∧
    (let s := started 0x200000011 0 0 0
     s.startable 0 0x11 = some (cmd 0x200000011 0 0 0) ∧ s.ctx? 2 = none) ∧
    (let s := { started 0x100000011 0 0 0 with cores := ⟨[(0, { ctx := some 2 })]⟩ }
     (∃ k, s.ctx? 1 = some k) ∧ ∃ n ∈ rectCores 0, ∃ y, (s.core n).ctx = some y ∧ y ≠ 1) ∧
    (let s := started 0x100000011 0 0 0
     (∃ k, s.ctx? 1 = some k ∧ k.ended = false) ∧ (∀ n ∈ rectCores 0, (s.core n).ctx = none ∨ (s.core n).ctx = some 1) ∧ ∃ n ∈ rectCores 0, s.coreReady n = false) ∧
    (let s := started 0x200000012 0 0 0
     s.startable 0 0x12 = some (cmd 0x200000012 0 0 0) ∧ s.ctx? 2 = none) ∧
    (let t := started 0x100000012 0 0 0
     let s := { t with cores := ⟨[(0, { ctx := some 1, millCur := some (millJob .zero) })]⟩ }
     s.startable 0 0x12 = some (cmd 0x100000012 0 0 0) ∧ s.host.ends = [] ∧ s.jobsLeft 1 = true) ∧
    (started 0x200000222 9 0 0).startable 0 0x22 = some (cmd 0x200000222 9 0 0) ∧ (started 0x200000030 0 0 0).startable 0 0x30 = some (cmd 0x200000030 0 0 0) ∧
    (started 0x200000731 0 0x10000 7).startable 0 0x31 = some (cmd 0x200000731 0 0x10000 7) ∧
    (let s := { started 0x100000731 0 0x10000 7 with sq := { wins := ⟨[(7, window)]⟩ } }
     s.startable 0 0x31 = some (cmd 0x100000731 0 0x10000 7) ∧ s.sq.wins.get? 7 = some window ∧ window.revoked = false) ∧
    (let s := started 0x100000731 0x400000 0x10000 7
     s.startable 0 0x31 = some (cmd 0x100000731 0x400000 0x10000 7) ∧ s.sq.wins.get? 7 = none ∧ 0 < (0x10000 + 0xFFFF) / 0x10000 ∧
       (s.setCmd 0 2 0 0).hostLoc 1 (0x400000 + 0x10000 * 0) = none) ∧
    (let h : Shoot := ⟨0, 0, [9]⟩
     let s := { base with host := { shoots := [h] } }
     s.host.shoots = [h] ∧ s.sq.ops = [] ∧ (outUnder s).host.shoots = [h] ∧ 9 ∈ h.ops ∧ operation .rst true ∈ (outUnder s).sq.ops ∧ (operation .rst true).id = 9) := by
  repeat' (first | exact rfl | decide | apply And.intro | apply Exists.intro)
theorem witness_ContextCommands_out : OutUnder (outUnder (started 0x100000030 0 0 0)) 1 (fun e => e.ctx = 1) ∧ ¬ OutUnder (started 0x100000030 0 0 0) 1 (fun _ => True) :=
  ⟨⟨operation .rst true, by decide, rfl, ⟨1, 0x10000, 16, 0⟩, .inl ⟨_, List.mem_cons_self, by decide⟩, rfl, by decide⟩, fun ⟨_, h, _⟩ => (List.not_mem_nil h).elim⟩
/-- A copy job of context 1 whose packet to another device is being filled. -/
def filling (s : State) : State := s.setCore 0 { s.core 0 with cartCur := some { cartJob .copy 0 with buf := some ⟨5, 7, 8, 0, [1]⟩ } }
theorem witness_ContextCommands_filling : NoneFilling (started 0x100000030 0 0 0) 1 ∧ NoneFilling (started 0x100000020 0x10000 128 0) 1 ∧
    ¬ NoneFilling (filling (started 0x100000030 0 0 0)) 1 := by unfold NoneFilling; decide
theorem ready_rectangle :
    (let m := started 0x100000011 0 0 0
     let s := { m with host := { m.host with ready := ⟨[(0, 1), (0x400, 1), (0xC00, 1)]⟩ } }
     ∀ n ∈ rectCores 0, ((s.core n).ctx = none ∨ (s.core n).ctx = some 1) ∧ s.coreReady n = true) := by decide
/-- The header and the descriptors, of text and of a class table, of a file that keeps R235 and R236. -/
def imageHead : List Byte :=
  leBytes 4 0x1A494C49 ++ leBytes 2 1 ++ leBytes 2 128 ++ leBytes 2 2 ++ leBytes 6 0xFF ++ leBytes 8 128 ++ leBytes 8 30048 ++ leBytes 96 0 ++
  (leBytes 24 1 ++ leBytes 8 1 ++ leBytes 32 0) ++ (leBytes 16 5 ++ leBytes 8 1024 ++ leBytes 8 1024 ++ leBytes 32 0)
def image : List Byte := imageHead ++ List.replicate 29792 0
theorem image_length : image.length = 30048 := by rw [image, List.length_append, List.length_replicate]; decide
theorem image_nat {off n : Nat} (h : off + n ≤ 256) : fileNat image off n = fileNat imageHead off n := by
  have hl : imageHead.length = 256 := by decide
  rw [fileNat, fileNat, slice, slice, image, List.drop_append_of_le_length (by omega), List.take_append_of_le_length (by rw [List.length_drop]; omega)]
theorem image_desc {i k n : Nat} (hi : i < 2) (hk : k + n ≤ 64) : descNat image i k n = fileNat imageHead (128 + 64 * i + k) n := by
  rw [descNat, image_nat (off := 0x10) (n := 8) (by decide), show fileNat imageHead 0x10 8 = 128 by decide, image_nat (by omega)]
theorem witness_LaunchImageAttest_header : HeaderKeeps image := by
  unfold HeaderKeeps
  rw [image_length, image_nat (by decide), image_nat (by decide), image_nat (by decide), image_nat (by decide), image_nat (by decide), image_nat (by decide),
    image_nat (by decide), image_nat (by decide), image_nat (by decide)]
  decide
theorem witness_LaunchImageAttest_descs : DescsKeep image := by
  have hn : fileNat image 8 2 = 2 := by rw [image_nat (by decide)]; decide
  have two (i : Nat) (h : i < 2) : i = 0 ∨ i = 1 := by omega
  unfold DescsKeep
  rw [hn]
  refine ⟨fun i h => ?_, ⟨0, by decide, (image_desc (by decide) (by decide)).trans (by decide)⟩, ⟨1, by decide, (image_desc (by decide) (by decide)).trans (by decide)⟩,
    fun i hi j hj => ?_, fun i hi j hj => ?_⟩
  · unfold DescKeeps inMemory
    rcases two i h with rfl | rfl <;> simp (disch := decide) only [image_desc, image_length] <;> decide
  · rcases two i hi with rfl | rfl <;> rcases two j hj with rfl | rfl <;> simp (disch := decide) only [image_desc] <;> decide
  · unfold inMemory RangesMeet
    rcases two i hi with rfl | rfl <;> rcases two j hj with rfl | rfl <;> simp (disch := decide) only [image_desc] <;> decide
theorem witness_LaunchImageAttest_fail : ¬ HeaderKeeps [] ∧
    (let s := started 0x200000020 0x10000 128 0
     s.startable 0 0x20 = some (cmd 0x200000020 0x10000 128 0) ∧ s.ctx? 2 = none ∧ s.memUsable (2 ^ 40 - 64) 128 = false) ∧
    (started 0x200000040 0x10000 0 0).startable 0 0x40 = some (cmd 0x200000040 0x10000 0 0) ∧ (mapped task).memUsable (2 ^ 40 - 64) 30064 = false ∧
    (let s := mapped task
     (s.hostLoc 1 0).isSome = true ∧ s.hostLoc 1 0x400000 = none ∧ (∃ log2 e, s.walk 1 0 = .leaf log2 e)) ∧ RangesMeet 0 0x10000 0xFFFF 1 ∧
    ¬ RangesMeet 0 0x10000 0x10000 1 := by
  refine ⟨fun h => absurd h.1 (by decide), by decide, by decide, by decide, ⟨by decide, by decide, ⟨_, _, rfl⟩⟩, ?_, ?_⟩ <;> unfold RangesMeet <;> decide
theorem witness_LaunchImageAttest :
    (let c : Cmd := { q := 0, block := block 0x100000021 7 0 0, st := 1, cores := [0], args := [5], cls := 0 }
     (posted [c]).startable 0 0x21 = some c) ∧
    (let s := started 0x100000020 0x10000 128 0
     s.startable 0 0x20 = some (cmd 0x100000020 0x10000 128 0) ∧ s.memUsable 0x10000 128 = true ∧ s.upd = [] ∧ (∃ k, s.ctx? 1 = some k) ∧ s.ctx? 9 = none) ∧
    (let s := started 0x100000040 0x10000 0 0
     s.startable 0 0x40 = some (cmd 0x100000040 0x10000 0 0) ∧ s.memUsable 0x10000 30064 = true ∧ 0x10000 + 30064 ≤ s.almState 0) := by
  repeat' (first | exact rfl | decide | apply And.intro | apply Exists.intro)
theorem witness_SaveAndRestore :
    (let s := started 0x100010050 0x1000000 0x200000 5
     s.startable 0 0x50 = some (cmd 0x100010050 0x1000000 0x200000 5) ∧ (∃ k, s.ctx? 1 = some k ∧ k.ended = false ∧ k.saved = false) ∧ s.saves = [] ∧
       areaSize (s.holders 1).length ≤ 0x200000 ∧ s.memUsable 0x1000000 (areaSize (s.holders 1).length) = true) ∧
    (let v : Save := ⟨1, 0, 0x1000000, true, 2000⟩
     let s := { State.reset with saves := [v], ctxs := base.ctxs, now := 2000 }
     s.saves.find? (fun v => v.ctx == 1) = some v ∧ (∃ k, s.ctx? 1 = some k) ∧ v.till ≤ s.now ∧ s.drained v = true) ∧
    (let v : Save := ⟨1, 0, 0x1000000, false, 2000⟩
     let s := { base with saves := [v] }
     s.now < v.till ∧ s.drained v = false) ∧
    (let s := started 0x100000051 0x1000000 0x80000 0
     s.upd = [] ∧ s.startable 0 0x51 = some (cmd 0x100000051 0x1000000 0x80000 0) ∧ areaSize 0 ≤ 0x80000 ∧ s.memUsable 0x1000000 (areaSize 0) = true) := by
  repeat' (first | exact rfl | decide | apply And.intro | apply Exists.intro)
theorem witness_HostRegisters :
    ((posted []).host.almbase.getLsbD 0 = true ∧ base.host.almbase.getLsbD 0 = false ∧ (0x800000 : B64).getLsbD 0 = false ∧
      (mapped task).stackOk (((0x800001 : B64) &&& 0xFFFF800000#64).toNat) = true ∧ base.stackOk (((0x800001 : B64) &&& 0xFFFF800000#64).toNat) = false) ∧
    (15 < 16 ∧ 63 < 64 ∧ 23 < 24 ∧ 191 < 192 ∧ 6399 < 6400) ∧
    (let s := { base with well := { lanes := ⟨[(191, { st := 0, eol := 2000, biasMax := 50 })]⟩ } }
     (s.lane 191).st = 0 ∧ (s.lane 191).biasMax ≤ (50 : BitVec 32).toNat ∧ 2000 ≤ (s.lane 191).eol) ∧
    base.fleet.keyBusy = none ∧
    (let s := { base with fleet := { keyBusy := some 0 } }
     s.fleet.keyBusy = some 0 ∧ 0 ≠ s.fleet.newGen + 1) ∧ base.linkUp = false ∧ (posted []).linkUp = true ∧
    (let s := { base with host := { fleetPend := true, fleetAt := 0 } }
     s.host.fleetPend = true ∧ (0x100 : B64).getLsbD 8 = true ∧ s.host.fleetAt ≤ s.now ∧ base.host.fleetPend = false) ∧
    (let s := { base with fleet := { keyBusy := some 1 }, mem := [(1600, 1)] }
     s.upd = [] ∧ s.fleet.keyBusy = some 1 ∧ 1 = s.fleet.newGen + 1 ∧ s.oldFree = true ∧ leNat ((readBytes s.mem s.fleet.keyAddr.toNat 1604).drop 1600) = 1) ∧
    (let s := { base with fleet := { sens := ⟨[(0, { run := 7 }), (1, { run := 7 })]⟩ } }
     (s.fleet.sens.get (Sensor.mk 0 0 false 0) 0).run = 7 ∧ (s.fleet.sens.get (Sensor.mk 0 0 false 0) 1).run = 7 ∧ 2400 < (2401 : BitVec 16).toInt ∧ (1599 : BitVec 16).toInt < 1600) := by
  repeat' (first | exact rfl | decide | apply And.intro | apply Exists.intro)

/-! ## What comes first in a cycle -/

/-- R8: the read that clears comes before the events of its cycle; R343: a capture after the changes of lanes. -/
theorem test_read_first : ({ base with agenda := [.event .telsnapSnap, .event (.portRetrain 3), .event .fleetevRead] } : State).ordered =
    [.event .fleetevRead, .event .telsnapSnap, .event (.portRetrain 3)] := by decide
/-- R288: an issue of the core comes before a reply of its cycle; R289: a number too far above FLOOR waits. -/
theorem test_issue_before_reply :
    ({ flight .rst true (.write [1]) 0 .answered task with agenda := [.event (.replyArrival (.own 0)), .issue 0] } : State).ordered =
    [.issue 0, .event (.replyArrival (.own 0))] := by decide
theorem test_floor_waits : exec (.rst false 0 .none 0 7 5) behind = .next (behind.stallCur (.remoteFloor 0)) := by rfl

end Sys2Proof.Tests
end

section
/-! # Canonical memory: the rules for states and for the bodies of instructions -/
open Sys2Proof
namespace Sys2Proof.Machine

/-- A choice between two states. -/
theorem State.memWf.ite {c : Prop} [Decidable c] {a b : State} (ha : a.memWf) (hb : b.memWf) : (if c then a else b).memWf := by
  split
  · exact ha
  · exact hb
/-- Many updates, one after the other. -/
theorem State.memWf.foldl {α : Type} {s : State} {f : State → α → State} {l : List α} (hs : s.memWf)
    (h : ∀ t a, t.memWf → (f t a).memWf) : (l.foldl f s).memWf := foldl_holds (P := State.memWf) h l s hs
/-- A state of the same memory. -/
theorem State.memWf.same {s t : State} (h : s.memWf) (e : t.mem = s.mem) : t.memWf := memWf_of_mem e h
/-- A state in which bytes are written. -/
theorem State.memWf.write {s t : State} {a : Nat} {bs : List Byte} (h : s.memWf) (e : t.mem = writeBytes s.mem a bs) : t.memWf :=
  memWf_of_mem (s := { s with mem := writeBytes s.mem a bs }) e (memWf_write s a bs h)

/-! The lemmas of `Laws/Recall.lean` in dot form. -/

theorem State.memWf.count {s : State} {core slot src n : Nat} (h : s.memWf) : (s.count core slot src n).memWf :=
  memWf_of_mem (count_mem _ _ _ _ _) h
theorem State.memWf.mergeWhere {s : State} {p : UpdLine → Bool} (h : s.memWf) : (s.mergeWhere p).memWf := memWf_mergeWhere s p h
theorem State.memWf.echo {s : State} {loc src kind : Nat} {tag : BitVec 16} {dev : Nat} (h : s.memWf) :
    (s.echo loc src kind tag dev).memWf :=
  memWf_echo s _ _ _ _ _ h
theorem State.memWf.spillOut {s : State} {core : Nat} (h : s.memWf) : (s.spillOut core).memWf := memWf_spillOut s core h
theorem State.memWf.recall {s : State} {loc n : Nat} (h : s.memWf) : (s.recall loc n).memWf := memWf_recall s loc n h
theorem State.memWf.poke {s : State} {loc : Nat} {data : List Byte} (h : s.memWf) : (s.poke loc data).memWf :=
  memWf_poke s loc data h
theorem State.memWf.walked {s : State} {core ctx : Nat} {va : B64} (h : s.memWf) : (s.walked core ctx va).memWf :=
  memWf_walked s core ctx va h

/-! ## Bodies of instructions -/

/-- A stop leaves memory canonical: only `halt` carries a state. -/
def Stop.memWf : Stop → Prop
  | .halt s => s.memWf
  | _ => True
/-- However a body ends, it keeps memory canonical. -/
def Exec.Keeps {α : Type} (m : Exec α) : Prop :=
  ∀ s : State, s.memWf → match m.run s with | .ok r => r.2.memWf | .error e => e.memWf

theorem Exec.Keeps.pure {α : Type} {a : α} : Exec.Keeps (Pure.pure a) := fun _ h => h
theorem Exec.Keeps.set {t : State} (h : t.memWf) : Exec.Keeps (MonadStateOf.set t) := fun _ _ => h
theorem Exec.Keeps.modify {f : State → State} (h : ∀ s : State, s.memWf → (f s).memWf) : Exec.Keeps (modify f) := h
theorem Exec.Keeps.throw {α : Type} {e : Stop} (h : e.memWf) : Exec.Keeps (α := α) (MonadExcept.throw e) := fun _ _ => h
theorem Exec.Keeps.stall {α : Type} {w : Wait} : Exec.Keeps (α := α) (stall w) := fun _ _ => trivial
theorem Exec.Keeps.trap {α : Type} {c : Nat} {v : B64} : Exec.Keeps (α := α) (trap c v) := fun _ _ => trivial
theorem Exec.Keeps.halt {α : Type} {t : State} (h : t.memWf) : Exec.Keeps (α := α) (halt t) := fun _ _ => h
theorem Exec.Keeps.bind {α β : Type} {m : Exec α} {f : α → Exec β} (hm : m.Keeps) (hf : ∀ a, (f a).Keeps) :
    Exec.Keeps (m >>= f) := by
  intro s h
  have hs := hm s h
  cases hr : m.run s with
  | error e => rw [run_bind_error hr]; rwa [hr] at hs
  | ok r =>
    rw [hr] at hs
    rw [run_bind_ok (a := r.1) (t := r.2) hr]
    exact hf r.1 r.2 hs
/-- The state that a body asks for is one with canonical memory. -/
theorem Exec.Keeps.get {β : Type} {f : State → Exec β} (hf : ∀ s : State, s.memWf → (f s).Keeps) :
    Exec.Keeps (MonadState.get >>= f) := by
  intro s h
  rw [run_bind_ok (run_get s)]
  exact hf s h s h
theorem Exec.Keeps.ite {α : Type} {c : Prop} [Decidable c] {a b : Exec α} (ha : a.Keeps) (hb : b.Keeps) :
    Exec.Keeps (if c then a else b) := by
  split
  · exact ha
  · exact hb

end Sys2Proof.Machine
end

section
/-! # Memory, stores and the directory: what keeps memory canonical -/
open Sys2Proof
namespace Sys2Proof.Machine

/-! ## Machine/Base.lean -/

theorem State.memWf.countSq {s : State} {src unit n : Nat} (h : s.memWf) : (s.countSq src unit n).memWf :=
  .foldl h fun _ _ h1 => h1
theorem State.memWf.fleetIrq {s : State} (h : s.memWf) : s.fleetIrq.memWf := .ite h h
theorem State.memWf.fleetEv {s : State} {bit : Nat} (h : s.memWf) : (s.fleetEv bit).memWf := .fleetIrq h

/-! ## Machine/Xlate.lean -/

theorem State.memWf.setReady {s : State} {off n : Nat} {v : Bool} (h : s.memWf) : (s.setReady off n v).memWf := .ite h h

/-! ## Machine/Spill.lean -/

theorem State.memWf.spillSync {s : State} {loc n : Nat} (h : s.memWf) : (s.spillSync loc n).memWf := by
  unfold State.spillSync
  split
  · exact h.spillOut
  · exact h

/-! ## Machine/Stores.lean -/

theorem State.memWf.mergeAt {s : State} {loc n : Nat} (h : s.memWf) : (s.mergeAt loc n).memWf := h.mergeWhere
theorem State.memWf.l1Room {s : State} {core line : Nat} (h : s.memWf) : (s.l1Room core line).memWf := by
  unfold State.l1Room
  extract_lets ls
  split
  · exact h
  · split
    · exact h
    · exact .mergeWhere h
theorem State.memWf.combine {s : State} {tid ser loc : Nat} {op : UpdOp} {w64 : Bool} {b : B64} {tag : BitVec 16} (h : s.memWf) :
    (s.combine tid ser loc op w64 b tag).memWf := by
  unfold State.combine
  extract_lets core line idx s1 mine s2 elems
  have hs1 : State.memWf s1 := h.mergeWhere
  have hs2 : State.memWf s2 := hs1.l1Room
  exact .ite hs1 hs2
theorem State.memWf.portWrite {s : State} {src kind : Nat} {tag : BitVec 16} {dev loc : Nat} {data : List Byte} (h : s.memWf) :
    (s.portWrite src kind tag dev loc data).memWf :=
  h.recall.poke.echo
theorem State.memWf.homeWrite {s : State} {loc : Nat} {data : List Byte} (h : s.memWf) : (s.homeWrite loc data).memWf :=
  wf_writeBytes _ _ h.mergeAt
theorem State.memWf.perform {s : State} {p : PStore} (h : s.memWf) : (s.perform p).memWf := by
  unfold State.perform
  extract_lets s1 s2 old
  have hs1 : State.memWf s1 := .ite h.mergeWhere h
  have hs2 : State.memWf s2 := hs1.recall
  split
  · exact hs1.portWrite
  · exact .ite hs1.combine hs2.portWrite
theorem State.memWf.performAll {s : State} {ps : List PStore} (h : s.memWf) : (s.performAll ps).memWf :=
  .foldl h fun _ _ h1 => h1.perform
theorem State.memWf.force {s : State} {p : PStore} (h : s.memWf) : (s.force p).memWf := .ite h.performAll h
theorem State.memWf.observe {s : State} {tid : Nat} {w : Party} {loc n : Nat} (h : s.memWf) : (s.observe tid w loc n).memWf := by
  unfold State.observe
  split
  · exact h
  · exact .foldl h fun _ _ h1 => h1.force

/-! ## Machine/Reads.lean -/

theorem State.memWf.arrivals {s : State} {touches : PStore → Bool} (h : s.memWf) : (s.arrivals touches).memWf :=
  .ite h (.foldl h fun _ _ h1 => h1.force)
theorem State.memWf.portRead {s : State} {ahead : List (Nat × Byte)} {loc n : Nat} (h : s.memWf) :
    (s.portRead ahead loc n).1.memWf := by
  unfold State.portRead
  extract_lets s1 s' old new
  have hs1 : State.memWf s1 := h.recall
  have hs' : State.memWf s' := hs1.arrivals
  split
  · exact hs1
  · exact hs'
theorem State.memWf.byteRead {s : State} {tid : Nat} {w : Party} {ahead : List (Nat × Byte)} {loc n : Nat} (h : s.memWf) :
    (s.byteRead tid w ahead loc n).1.memWf :=
  h.observe.portRead
theorem State.memWf.readAhead {s : State} {loc n : Nat} (h : s.memWf) : (s.readAhead loc n).1.memWf := h.recall

/-! ## Machine/Filing.lean -/

theorem State.memWf.binTouch {s : State} {tid l n : Nat} (h : s.memWf) : (s.binTouch tid l n).memWf :=
  .observe (.foldl h fun _ _ h1 => h1.force)
theorem State.memWf.fileForm {s : State} {r : KsReq} {l : Nat × B64 × B64} (h : s.memWf) : (s.fileForm r l).1.memWf := by
  unfold State.fileForm
  extract_lets refused head h1 field held data
  have hh1 : State.memWf h1.1 := h.binTouch.byteRead
  split
  · exact .same h rfl
  · split <;> exact .same hh1 rfl
theorem State.memWf.filePut {s : State} {r : KsReq} {l : Nat} {data : List Byte} (h : s.memWf) : (s.filePut r l data).memWf :=
  h.binTouch.portWrite
theorem State.memWf.fileTake {s : State} {r : KsReq} {piece n : Nat} (h : s.memWf) : (s.fileTake r piece n).1.memWf := by
  unfold State.fileTake
  split
  · exact h
  · split
    · exact h
    · exact h.filePut
theorem State.memWf.fileRest {s : State} {r : KsReq} (h : s.memWf) : (s.fileRest r).1.memWf := .foldl h fun _ _ h1 => h1.filePut
theorem State.memWf.fileAll {s : State} {r : KsReq} (h : s.memWf) : (s.fileAll r).1.memWf := by
  unfold State.fileAll
  extract_lets a
  have ha : State.memWf a.1 := foldl_holds (P := fun x : State × KsReq => State.memWf x.1) (fun _ _ h1 => h1.fileForm.fileRest)
      _ _ h.fileRest
  exact ha
theorem State.memWf.fileBytes {s : State} {core piece n : Nat} (h : s.memWf) : (s.fileBytes core piece n).memWf := by
  unfold State.fileBytes
  split
  · exact h
  · split
    · exact h
    · extract_lets x y
      have hx : State.memWf x.1 := by
        unfold x
        split
        · exact h.fileForm
        · exact h
      have hy : State.memWf y.1 := hx.fileTake
      exact hy
theorem State.memWf.fileNext {s : State} {core : Nat} (h : s.memWf) : (s.fileNext core).memWf := by
  unfold State.fileNext
  split
  · exact h
  · exact .ite h.fileAll h.fileAll
theorem State.memWf.fileSome {n core : Nat} {s : State} (h : s.memWf) : (fileSome n core s).memWf := by
  induction n generalizing s with
  | zero => exact h
  | succ n ih => exact ih h.fileNext
theorem State.memWf.fileUpTo {s : State} {tid ser : Nat} (h : s.memWf) : (s.fileUpTo tid ser).memWf := h.fileSome

/-! ## Machine/Access.lean -/

theorem State.memWf.drainOver {s : State} {tid loc n : Nat} (h : s.memWf) : (s.drainOver tid loc n).memWf :=
  .foldl (.ite h.fileUpTo h) fun _ _ h1 => h1.force
theorem State.memWf.drainThread {s : State} {tid : Nat} (h : s.memWf) : (s.drainThread tid).memWf := h.performAll
theorem State.memWf.prepRead {s : State} {tid loc n : Nat} (h : s.memWf) : (s.prepRead tid loc n).memWf :=
  .ite (.ite h.observe.drainOver h.observe) (.recall (.ite h.observe.drainOver h.observe))
theorem State.memWf.pushStore {s : State} {p : PStore} (h : s.memWf) : (s.pushStore p).memWf := h.observe
theorem State.memWf.partyWrite {s : State} {tid : Nat} {w : Party} {kind : Nat} {tag : BitVec 16} {loc : Nat} {data : List Byte}
    (h : s.memWf) : (s.partyWrite tid w kind tag loc data).memWf :=
  h.observe.portWrite
theorem State.memWf.updLine {s : State} {tid loc : Nat} {op : UpdOp} {w64 : Bool} {b : B64} (h : s.memWf) :
    (s.updLine tid loc op w64 b).memWf :=
  h.observe.drainOver.combine
theorem State.memWf.flushBefore {s : State} {tid ser : Nat} (h : s.memWf) : (s.flushBefore tid ser).memWf :=
  h.fileUpTo.performAll.mergeWhere
theorem State.memWf.orderJobs {s : State} {tid : Nat} {sc : Scope} (h : s.memWf) : (s.orderJobs tid sc).memWf := .ite h h
theorem State.memWf.release {s : State} {tid : Nat} {sc : Scope} {eng : Bool} (h : s.memWf) : (s.release tid sc eng).memWf := by
  unfold State.release
  extract_lets wide s1 s2 s3 s4
  have hs1 : State.memWf s1 := h.fileUpTo
  have hs2 : State.memWf s2 := hs1
  have hs3 : State.memWf s3 := .ite hs1.drainThread (.ite (.ite hs2 (.foldl hs2 fun _ _ h1 => h1.force)) hs1)
  have hs4 : State.memWf s4 := .ite hs3.mergeWhere hs3
  exact .ite h (.ite hs4.orderJobs hs4)

/-! ## Machine/Walk.lean -/

theorem State.memWf.bumpWalk {s : State} {ctx : Nat} {va : B64} (h : s.memWf) : (s.bumpWalk ctx va).memWf := by
  unfold State.bumpWalk
  extract_lets src
  split
  · exact h
  · split <;> exact h

/-! ## Machine/Directory.lean -/

theorem State.memWf.dirRoom {s : State} {home line : Nat} (h : s.memWf) : (s.dirRoom home line).memWf := by
  unfold State.dirRoom
  extract_lets c
  split
  · exact h
  · split <;> exact h
theorem State.memWf.fillSector {s : State} {core pa : Nat} {st : L1St} (h : s.memWf) : (s.fillSector core pa st).memWf :=
  .ite h.l1Room (.count h.l1Room)
theorem State.memWf.serveRead {s : State} {e : DirEntry} {core pa : Nat} (h : s.memWf) : (s.serveRead e core pa).memWf :=
  .fillSector (.ite h h)
theorem State.memWf.serveWrite {s : State} {home core pa : Nat} (h : s.memWf) : (s.serveWrite home core pa).memWf := by
  unfold State.serveWrite
  extract_lets line s1
  have hs1 : State.memWf s1 := by
    unfold s1
    split <;> exact h
  exact .fillSector hs1
theorem State.memWf.dirNew {s : State} {home core pa : Nat} (h : s.memWf) : (s.dirNew home core pa).memWf := .serveRead h
theorem State.memWf.reeveServe {s : State} {home core pa : Nat} (h : s.memWf) : (s.reeveServe home core pa).memWf := by
  unfold State.reeveServe
  split
  · exact h.dirNew
  · exact .serveRead h
theorem State.memWf.wakeReeve {s : State} {core : Nat} (h : s.memWf) : (s.wakeReeve core).memWf := .ite h h
theorem State.memWf.wakeCore {s : State} {core : Nat} (h : s.memWf) : (s.wakeCore core).memWf := .ite h h
theorem State.memWf.dirRead {s : State} {home : Nat} {e : DirEntry} {core pa : Nat} (h : s.memWf) :
    (s.dirRead home e core pa).memWf :=
  .ite h.serveRead (.ite (.serveRead h) (.ite (.wakeCore h.count.wakeReeve) h.count.wakeReeve.reeveServe))
theorem State.memWf.dirReady {s : State} {pa : Nat} (h : s.memWf) : (s.dirReady pa).memWf := h.mergeAt.dirRoom
theorem State.memWf.dirServe {s : State} {pa core : Nat} {write : Bool} (h : s.memWf) : (s.dirServe pa core write).memWf := by
  unfold State.dirServe
  extract_lets home s1
  have hs1 : State.memWf s1 := h.dirReady
  split
  · exact hs1.serveWrite
  · split
    · exact hs1.dirRead
    · exact hs1.dirNew
theorem State.memWf.dirRequest {s : State} {pa core : Nat} {write : Bool} (h : s.memWf) : (s.dirRequest pa core write).memWf :=
  .ite h (.ite h h.dirServe)
theorem State.memWf.reeveAll {s : State} {home : Nat} (h : s.memWf) : (s.reeveAll home).memWf :=
  .foldl (.foldl h fun _ _ h1 => h1.dirReady.reeveServe) fun _ _ h1 => h1.dirServe

end Sys2Proof.Machine
end

section
/-! # Light, records, waiting accesses, the end of a task and of a context -/
open Sys2Proof
namespace Sys2Proof.Machine

/-! ## Machine/LightOps.lean -/

theorem State.memWf.share {s : State} {x : Path} (h : s.memWf) : (s.share x).memWf := .foldl h fun _ _ h1 => h1
theorem State.memWf.moveLanes {s : State} {x : Path} (h : s.memWf) : (s.moveLanes x).memWf := .foldl h fun _ _ h1 => .ite h1 h1
theorem State.memWf.enterHaze {s : State} {p : Nat} {rise : Bool} (h : s.memWf) : (s.enterHaze p rise).memWf := by
  unfold State.enterHaze
  split
  · exact h
  · exact h.moveLanes
theorem State.memWf.movePower {s : State} {p : Nat} (h : s.memWf) : (s.movePower p).memWf := by
  unfold State.movePower
  split
  · exact h
  · exact .ite h.enterHaze (.ite h.enterHaze h)
theorem State.memWf.planRise {s : State} {p : Nat} (h : s.memWf) : (s.planRise p).memWf := by
  unfold State.planRise
  split
  · exact h
  · exact .ite h (.ite (.ite h h) (.ite h h))
theorem State.memWf.acceptChange {s : State} {p : Nat} (h : s.memWf) : (s.acceptChange p).memWf := by
  unfold State.acceptChange
  split
  · exact h
  · exact .ite h h.movePower.planRise
theorem State.memWf.reevaluate {s : State} {p : Nat} (h : s.memWf) : (s.reevaluate p).memWf := by
  unfold State.reevaluate
  split
  · exact h
  · exact .ite h h.acceptChange
theorem State.memWf.telLanes {s : State} {ls : List Nat} {f : Nat → Lane → Lane} (h : s.memWf) : (s.telLanes ls f).memWf :=
  .ite (.fleetEv (.foldl h fun _ _ h1 => h1)) (.foldl h fun _ _ h1 => h1)
theorem State.memWf.darken {s : State} {p : Nat} (h : s.memWf) : (s.darken p).memWf := by
  unfold State.darken
  split
  · exact h
  · exact .ite h h
theorem State.memWf.goDark {s : State} {p : Nat} (h : s.memWf) : (s.goDark p).memWf := by
  unfold State.goDark
  split
  · exact h
  · exact .ite h (.foldl h.telLanes fun _ _ h1 => h1)
theorem State.memWf.setGrant {s : State} {p g : Nat} (h : s.memWf) : (s.setGrant p g).memWf := by
  unfold State.setGrant
  extract_lets s1 src
  have hs1 : State.memWf s1 := h.goDark
  split
  · exact hs1
  · exact .ite hs1 (.acceptChange (.share (.ite hs1 hs1)))

/-! ## Machine/Record.lean -/

theorem State.memWf.almRaise {s : State} (h : s.memWf) : s.almRaise.memWf := .ite h h
theorem State.memWf.almIrq {s : State} (h : s.memWf) : s.almIrq.memWf := .ite (.almRaise h) h
theorem State.memWf.setCmd {s : State} {q st status result : Nat} (h : s.memWf) : (s.setCmd q st status result).memWf :=
  .ite (.almIrq h.homeWrite) h.homeWrite
theorem State.memWf.errRecord {s : State} {kind ctx cause : Nat} {nested : Bool} {whr : Nat} {pc val : B64} (h : s.memWf) :
    (s.errRecord kind ctx cause nested whr pc val).memWf := by
  unfold State.errRecord
  exact .ite (.same h rfl) (.almIrq (.same h.homeWrite.homeWrite rfl))
theorem State.memWf.skipNotice {s : State} {p : Packet} {dev : Nat} (h : s.memWf) : (s.skipNotice p dev).memWf := by
  unfold State.skipNotice
  extract_lets src
  split
  · exact h
  · exact .ite h h
theorem State.memWf.sweepTokens {s : State} (h : s.memWf) : s.sweepTokens.memWf := .ite h h
theorem State.memWf.countCarried {s : State} {p : Packet} {f : Nat → Nat} (h : s.memWf) : (s.countCarried p f).memWf :=
  .foldl h fun _ _ h1 => .ite h1 h1
theorem State.memWf.uncarry {s : State} {p : Packet} (h : s.memWf) : (s.uncarry p).memWf := h.countCarried
theorem State.memWf.settleFrom {fuel : Nat} {l : List (Nat × Bool × BitVec 8)} {s : State} (h : s.memWf) :
    (settleFrom fuel l s).memWf := by
  induction fuel generalizing l s with
  | zero => cases l <;> exact h
  | succ fuel ih =>
    cases l with
    | nil => exact h
    | cons x rest => exact .ite (ih h) (.ite (ih (.foldl h fun _ _ h1 => h1)) (ih h))
theorem State.memWf.releaseHeld {s : State} (h : s.memWf) : s.releaseHeld.memWf := .foldl h fun _ _ h1 => h1.uncarry.skipNotice
theorem State.memWf.settleTok {s : State} {slot : Nat} {landed : Bool} {status : BitVec 8} (h : s.memWf) :
    (s.settleTok slot landed status).memWf :=
  h.settleFrom.releaseHeld.sweepTokens
theorem State.memWf.discardOut {s : State} {o : OutPkt} {tok : BitVec 32} (h : s.memWf) : (s.discardOut o tok).memWf :=
  .ite (.skipNotice (.uncarry h)) (.settleTok (.skipNotice (.uncarry h)))
theorem State.memWf.showSers {s : State} {l : List (Nat × Nat)} (h : s.memWf) : (s.showSers l).memWf :=
  .foldl h fun _ _ h1 => h1.flushBefore
theorem State.memWf.untrack {s : State} {l : Launch} (h : s.memWf) : (s.untrack l).memWf := .ite h (.ite (.showSers h) h)
theorem State.memWf.dropLaunches {s : State} (h : s.memWf) : s.dropLaunches.memWf := .ite h (.foldl h fun _ _ h1 => h1.untrack)
theorem State.memWf.launchEnded {s : State} {lid tid : Nat} (h : s.memWf) : (s.launchEnded lid tid).memWf := by
  unfold State.launchEnded
  extract_lets core src
  split
  · exact h
  · exact .ite (.dropLaunches (.setCmd h)) h
theorem State.memWf.launchTrig {s : State} {lid tid : Nat} (h : s.memWf) : (s.launchTrig lid tid).memWf := by
  unfold State.launchTrig
  extract_lets core src
  split <;> exact h

/-! ## Machine/Rivals.lean -/

theorem State.memWf.cartTell {s : State} {j : CartJob} (h : s.memWf) : (s.cartTell j).1.memWf := by
  unfold State.cartTell
  extract_lets hear
  split <;> exact h
theorem State.memWf.cartWritten {s : State} {core n : Nat} (h : s.memWf) : (s.cartWritten core n).memWf := .count h
theorem State.memWf.cartMix {s : State} {j : CartJob} {l : Nat} {data : List Byte} (h : s.memWf) :
    (s.cartMix j l data).1.memWf := by
  unfold State.cartMix
  split <;> exact h
theorem State.memWf.cartStore {s : State} {j : CartJob} {l : Nat} {data : List Byte} (h : s.memWf) :
    (s.cartStore j l data).1.memWf :=
  h.partyWrite.cartWritten
theorem State.memWf.cartPoke {s : State} {j : CartJob} {l : Nat} {data : List Byte} (h : s.memWf) :
    (s.cartPoke j l data).1.memWf :=
  h.cartMix.cartStore
theorem State.memWf.cartResidPart {s : State} {j : CartJob} {k : Nat} (h : s.memWf) : (s.cartResidPart j k).1.memWf := by
  unfold State.cartResidPart
  split
  · exact h
  · exact h.cartStore
theorem State.memWf.cartPart {s : State} {j : CartJob} {k : Nat} (h : s.memWf) : (s.cartPart j k).1.memWf := by
  unfold State.cartPart
  split
  · exact h
  · exact h.cartPoke
theorem State.memWf.streamPoke {s : State} {tid l : Nat} {data : List Byte} (h : s.memWf) : (s.streamPoke tid l data).memWf :=
  h.partyWrite.cartWritten
theorem State.memWf.finishElem {s : State} {tid : Nat} {p : Port} (h : s.memWf) : (s.finishElem tid p).1.memWf := by
  unfold State.finishElem
  split
  · exact h.streamPoke
  · exact h
theorem State.memWf.finishOrphan {s : State} {o : Orphan} (h : s.memWf) : (s.finishOrphan o).memWf := h.finishElem
theorem State.memWf.finishPort {s : State} {tid key : Nat} {p : Port} (h : s.memWf) : (s.finishPort tid key p).memWf :=
  h.finishElem
theorem State.memWf.finishCart {s : State} {j : CartJob} (h : s.memWf) : (s.finishCart j).memWf :=
  h.cartResidPart.cartPart.cartTell
theorem State.memWf.finishParts {s : State} {ctx : Nat} (h : s.memWf) : (s.finishParts ctx).memWf := by
  unfold State.finishParts
  extract_lets s1 s2
  have hs1 : State.memWf s1 := .foldl h fun _ _ h1 => h1.finishCart
  have hs2 : State.memWf s2 := .foldl hs1 fun _ _ h1 => h1.finishOrphan
  exact .foldl hs2 fun _ _ h1 => .foldl h1 fun _ _ h2 => h2.finishPort

/-! ## Machine/Ending.lean -/

theorem State.memWf.millVisit {s : State} {croft : Nat} (h : s.memWf) : (s.millVisit croft).memWf := .ite h h
theorem State.memWf.millIdle {s : State} {tid : Nat} (h : s.memWf) : (s.millIdle tid).memWf := .ite h h
theorem State.memWf.leftReady {s : State} {tid : Nat} (h : s.memWf) : (s.leftReady tid).memWf := .foldl h fun _ _ h1 => .ite h1 h1
theorem State.memWf.endTask {s : State} {tid : Nat} {byCtx : Bool} (h : s.memWf) : (s.endTask tid byCtx).memWf := by
  unfold State.endTask
  extract_lets t core writes orph busy s1 s2 s3 s4 well s5 s6 tiles s7 s8
  have h2 : s2.memWf := h
  clear_value s2
  have h3 : s3.memWf := by
    unfold s3
    rcases t.kin with _ | set
    · exact h2
    · exact h2
  clear_value s3
  have h5 : s5.memWf := h3
  clear_value s5
  have h6 : s6.memWf := h5.leftReady
  clear_value s6
  have h7 : s7.memWf := h6
  clear_value s7
  have h8 : s8.memWf := by
    unfold s8
    rcases t.launch with _ | lid
    · exact h7
    · cases byCtx
      · exact h7.launchEnded
      · exact h7
  exact h8.sweepTokens
theorem State.memWf.dropRemote {s : State} {ctx : Nat} (h : s.memWf) : (s.dropRemote ctx).memWf := by
  unfold State.dropRemote
  extract_lets mine unsent s' ops live src
  have hs' : State.memWf s' := by
    unfold s'
    refine State.memWf.foldl h fun t a h1 => ?_
    split
    · exact .ite h1.discardOut h1
    · exact h1
  exact hs'
theorem State.memWf.dropTracked {s : State} {ctx status : Nat} {slots : List Nat} {n : Nat → Nat} (h : s.memWf) :
    (s.dropTracked ctx status slots n).memWf :=
  .dropLaunches (.foldl (.foldl (.foldl h fun _ _ h1 => h1) fun _ _ h1 => h1.setCmd) fun _ _ h1 => h1.setCmd)
theorem State.memWf.endContext {s : State} {ctx cause : Nat} {nested : Bool} {whr : Nat} {pc val : B64} {shown : Option Nat}
    (h : s.memWf) :
    (s.endContext ctx cause nested whr pc val shown).memWf := by
  unfold State.endContext
  extract_lets status
  split
  · exact h
  · extract_lets s1 slots launches gone gone1 s2 s3 s4 s5 s6 s7 sq s8 well s9 s10 s11 s12
    have h2 : s2.memWf := h.finishParts
    clear_value s2
    have h3 : s3.memWf := .foldl h2 fun _ _ h => h.endTask
    clear_value s3
    have h4 : s4.memWf := .foldl h3 fun _ _ h => h.millVisit
    clear_value s4
    have h5 : s5.memWf := .sweepTokens (.foldl h4 fun _ _ h => h.millIdle)
    clear_value s5
    have h6 : s6.memWf := h5.dropRemote
    clear_value s6
    have h7 : s7.memWf := .foldl h6 fun _ _ h => h.darken
    clear_value s7
    have h9 : s9.memWf := h7
    clear_value s9
    have h10 : s10.memWf := h9.dropTracked
    clear_value s10
    have h11 : s11.memWf := .foldl h10 fun _ _ h => h.setCmd
    clear_value s11
    have h12 : s12.memWf := h11
    exact .ite h h12.errRecord
theorem State.memWf.endRefused {s : State} {ctx tid status : Nat} {k : RKind} {p : Packet} {pc va : B64} (h : s.memWf) :
    (s.endRefused ctx tid status k p pc va).memWf :=
  h.endContext

end Sys2Proof.Machine
end

section
/-! # Bodies of the scalar instructions -/
open Sys2Proof
namespace Sys2Proof.Machine

/-! ## Machine/Ops.lean -/

theorem Exec.Keeps.thr : Exec.Keeps thr := .get fun _ _ => .pure
theorem Exec.Keeps.modThr {f : Thread → Thread} : Exec.Keeps (modThr f) := .modify fun _ h => h
theorem Exec.Keeps.modCore {f : Core → Core} : Exec.Keeps (modCore f) := .modify fun _ h => h
theorem State.memWf.systemTrap {s : State} {core cause : Nat} {pc val : B64} (h : s.memWf) :
    (s.systemTrap core cause pc val).memWf :=
  .ite h.errRecord (.foldl (.setReady h.errRecord) fun _ _ h1 => h1.endContext)
theorem State.memWf.takeTrap {s : State} {cause : Nat} {val ret : B64} {compact : Bool} (h : s.memWf) :
    (s.takeTrap cause val ret compact).memWf := by
  unfold State.takeTrap
  extract_lets t s1
  have hs1 : State.memWf s1 := .ite h.walked.bumpWalk h
  exact .ite hs1.systemTrap (.ite hs1.endContext hs1)
theorem State.memWf.stallCur {s : State} {w : Wait} (h : s.memWf) : (s.stallCur w).memWf := .leftReady h
theorem State.memWf.stopped {s : State} {len : Nat} {x : Stop} (h : s.memWf) (hx : x.memWf) : (s.stopped len x).memWf := by
  cases x with
  | stall w => exact h.stallCur
  | trap cause val next clr =>
    refine .takeTrap ?_
    split <;> exact h
  | denied va => exact h.walked.takeTrap
  | halt t => exact hx
theorem State.memWf.runI {len : Nat} {body : Exec Unit} {s : State} (h : s.memWf) (hb : body.Keeps) :
    (runI len body s).memWf := by
  have hs := hb s h
  unfold Machine.runI
  split
  · next r hr => rw [hr] at hs; exact hs
  · next e hr => rw [hr] at hs; exact h.stopped hs
theorem State.memWf.runJ {len : Nat} {body : Exec B64} {s : State} (h : s.memWf) (hb : body.Keeps) : (runJ len body s).memWf := by
  have hs := hb s h
  unfold Machine.runJ
  split
  · next r hr => rw [hr] at hs; exact hs
  · next e hr => rw [hr] at hs; exact h.stopped hs
theorem Exec.Keeps.needSys {i : Instr} : Exec.Keeps (needSys i) := .bind .thr fun _ => .ite .pure .trap
theorem Exec.Keeps.aligned {n : Nat} {va : B64} : Exec.Keeps (aligned n va) := .ite .pure .trap
theorem Exec.Keeps.locOf {acc : Acc} {va : B64} : Exec.Keeps (locOf acc va) := by
  unfold Machine.locOf
  refine .get fun _ h => .bind (.set h.walked) fun _ => ?_
  split
  · exact .pure
  · exact .throw trivial
  · exact .trap
  · exact .throw trivial
theorem Exec.Keeps.filed {l : Nat} : Exec.Keeps (filed l) := .get fun _ _ => .ite .stall .pure
theorem Exec.Keeps.awaitValue {s0 : State} {isFar : Bool} (hs0 : s0.memWf) : Exec.Keeps (awaitValue s0 isFar) := by
  unfold Machine.awaitValue
  split
  · exact .pure
  · split
    · exact .pure
    · exact .ite .pure .stall
    · exact .stall
    · exact .halt (.stallCur hs0)
theorem Exec.Keeps.dirGate {s0 : State} {l : Nat} (hs0 : s0.memWf) : Exec.Keeps (dirGate s0 l) :=
  .ite (.halt (.stallCur hs0.dirRequest)) .pure
theorem Exec.Keeps.readLoc {l n : Nat} : Exec.Keeps (readLoc l n) :=
  .bind (.modify fun _ h => h.prepRead) fun _ => .get fun _ _ => .pure
theorem Exec.Keeps.storeLoc {l : Nat} {data : List Byte} {grp : optParam Nat 0} : Exec.Keeps (storeLoc l data grp) :=
  .modify fun _ h => h.pushStore
theorem Exec.Keeps.loadMem {s0 : State} {n : Nat} {va : B64} (hs0 : s0.memWf) : Exec.Keeps (loadMem s0 n va) := by
  unfold Machine.loadMem
  exact .bind .aligned fun _ => .bind .locOf fun _ => .bind .filed fun _ => .bind (.dirGate hs0) fun _ =>
      .bind (.awaitValue hs0) fun _ => .readLoc
theorem Exec.Keeps.storeMem {n : Nat} {va v : B64} : Exec.Keeps (storeMem n va v) :=
  .bind .aligned fun _ => .bind .locOf fun _ => .bind .filed fun _ => .storeLoc

/-! ## Machine/Operands.lean -/

theorem Exec.Keeps.portTrap {α : Type} {reason key addr : Nat} : Exec.Keeps (α := α) (portTrap reason key addr) := .trap
theorem Exec.Keeps.setPort {key : Nat} {p : Port} : Exec.Keeps (setPort key p) := .modThr
theorem Exec.Keeps.linkPush {w : Wait} {d : Dir} {v : B512} : Exec.Keeps (linkPush w d v) := .get fun _ h => .ite .stall (.set h)
theorem Exec.Keeps.popPort {key : Nat} {p : Port} : Exec.Keeps (popPort key p) := by
  unfold Machine.popPort
  split
  · exact .trap
  · split
    · split
      · exact .trap
      · split
        · exact .trap
        · exact .bind .setPort fun _ => .pure
    · exact .ite .trap .stall
  · refine .get fun _ h => ?_
    split
    · exact .stall
    · exact .bind .modCore fun _ => .ite (.bind .linkPush fun _ => .pure) .pure
  · refine .get fun _ h => .ite .stall (.ite ?_ ?_)
    · split
      · exact .stall
      · exact .bind (.set h) fun _ => .pure
    · split
      · exact .stall
      · exact .bind (.set h) fun _ => .pure
theorem Exec.Keeps.pushPort {key : Nat} {p : Port} {v : B512} : Exec.Keeps (pushPort key p v) := by
  unfold Machine.pushPort
  split
  · exact .trap
  · exact .trap
  · split
    · exact .throw trivial
    · exact .ite .trap (.ite .stall .setPort)
  · exact .linkPush
theorem Exec.Keeps.settled {c : RegCls} {n : Nat} : Exec.Keeps (settled c n) := .bind .thr fun _ => .ite .stall .pure
theorem Exec.Keeps.readS {r : SReg} : Exec.Keeps (readS r) := by
  unfold Machine.readS
  split
  · exact .pure
  · refine .bind .settled fun _ => .bind .thr fun _ => ?_
    split
    · exact .bind .popPort fun _ => .pure
    · exact .pure
theorem Exec.Keeps.writeS {r : SReg} {v : B64} : Exec.Keeps (writeS r v) := by
  unfold Machine.writeS
  split
  · exact .pure
  · refine .bind .settled fun _ => .bind .thr fun _ => ?_
    split
    · exact .pushPort
    · exact .modThr
theorem Exec.Keeps.readV {r : VReg} : Exec.Keeps (readV r) := by
  unfold Machine.readV
  refine .bind .settled fun _ => .bind .thr fun _ => ?_
  split
  · exact .popPort
  · exact .pure
theorem Exec.Keeps.writeV {r : VReg} {v : B512} : Exec.Keeps (writeV r v) := by
  unfold Machine.writeV
  refine .bind .settled fun _ => .bind .thr fun _ => ?_
  split
  · exact .pushPort
  · exact .modThr
theorem Exec.Keeps.readM {r : MReg} : Exec.Keeps (readM r) := .ite .pure (.bind .settled fun _ => .bind .thr fun _ => .pure)
theorem Exec.Keeps.writeM {r : MReg} {v : B64} : Exec.Keeps (writeM r v) := .ite .pure (.bind .settled fun _ => .modThr)
theorem Exec.Keeps.readD {r : DReg} : Exec.Keeps (readD r) := .bind .thr fun _ => .pure
theorem Exec.Keeps.writeD {r : DReg} {v : BitVec 32} : Exec.Keeps (writeD r v) :=
  .bind .modThr fun _ => .modify fun _ h => h.sweepTokens
theorem Exec.Keeps.readW {r : WReg} : Exec.Keeps (readW r) := .bind .thr fun _ => .pure
theorem Exec.Keeps.writeW {r : WReg} {v : WVal} : Exec.Keeps (writeW r v) := .modThr
theorem Exec.Keeps.notPort {key : Nat} : Exec.Keeps (notPort key) := .bind .thr fun _ => .ite .trap .pure

/-! ## Machine/Flags.lean -/

theorem Exec.Keeps.orFlags {f : Flags} : Exec.Keeps (orFlags f) := .modThr
theorem Exec.Keeps.modeOf {r : RMode} : Exec.Keeps (modeOf r) := .bind .thr fun _ => .pure
theorem Exec.Keeps.genOf : Exec.Keeps genOf := .bind .thr fun _ => .pure
theorem Exec.Keeps.setGen {g : B64} : Exec.Keeps (setGen g) := .modThr
theorem Exec.Keeps.keepRound {r : Rounded} : Exec.Keeps (keepRound r) := .bind .setGen fun _ => .bind .orFlags fun _ => .pure

/-! ## Machine/Int.lean -/

theorem Exec.Keeps.binary {f : B64 → B64 → B64} {d a b : SReg} : Exec.Keeps (binary f d a b) :=
  .bind .readS fun _ => .bind .readS fun _ => .writeS
theorem Exec.Keeps.unary {f : B64 → B64} {d a : SReg} : Exec.Keeps (unary f d a) := .bind .readS fun _ => .writeS
theorem Exec.Keeps.branch {len : Nat} {c : B64 → B64 → Bool} {off : B64} {a b : SReg} : Exec.Keeps (branch len c off a b) :=
  .bind .readS fun _ => .bind .readS fun _ => .bind .thr fun _ => .pure
theorem Exec.Keeps.jumpRel {len : Nat} {d : SReg} {off : B64} : Exec.Keeps (jumpRel len d off) :=
  .bind .thr fun _ => .bind .writeS fun _ => .pure

/-! ## Machine/Mem.lean -/

theorem Exec.Keeps.loadBody {n : Nat} {f : B64 → B64} {d a : SReg} {off : B64} : Exec.Keeps (loadBody n f d a off) :=
  .get fun _ h => .bind .readS fun _ => .bind (.loadMem h) fun _ => .writeS
theorem Exec.Keeps.storeBody {n : Nat} {a b : SReg} {off : B64} : Exec.Keeps (storeBody n a b off) :=
  .bind .readS fun _ => .bind .readS fun _ => .storeMem
theorem State.memWf.amoAt {s : State} {tid l : Nat} {op : AmoOp} {w64 : Bool} {v cmp : B64} (h : s.memWf) :
    (s.amoAt tid l op w64 v cmp).1.memWf := by
  unfold State.amoAt
  extract_lets n s1 s2 old
  have hs1 : State.memWf s1 := h.drainOver
  have hs2 : State.memWf s2 := hs1.observe.recall
  split
  · exact hs2.portWrite
  · exact hs2.echo
theorem Exec.Keeps.amoBody {op : AmoOp} {d a b : SReg} {q : AmoMods} : Exec.Keeps (amoBody op d a b q) := by
  unfold Machine.amoBody
  exact .get fun _ h => .ite (.bind .readS fun _ => .bind .readS fun _ => .bind .readS fun _ => .bind .aligned fun _ =>
      .bind .locOf fun _ => .bind .filed fun _ => .bind (.awaitValue h) fun _ => .ite (.bind (.modify fun _ h1 =>
      h1.release) fun _ => .get fun _ h1 => .bind (.set h1.amoAt) fun _ => .writeS) (.get fun _ h1 =>
      .bind (.set h1.amoAt) fun _ => .writeS)) (.bind .pure fun _ => .bind .readS fun _ => .bind .readS fun _ =>
      .bind .aligned fun _ => .bind .locOf fun _ => .bind .filed fun _ => .bind (.awaitValue h) fun _ =>
      .ite (.bind (.modify fun _ h1 => h1.release) fun _ => .get fun _ h1 => .bind (.set h1.amoAt) fun _ => .writeS)
      (.get fun _ h1 => .bind (.set h1.amoAt) fun _ => .writeS))
theorem Exec.Keeps.updBody {op : UpdOp} {a b : SReg} {q : AmoMods} : Exec.Keeps (updBody op a b q) := by
  unfold Machine.updBody
  exact .bind .readS fun _ => .bind .readS fun _ => .bind .aligned fun _ => .bind .locOf fun _ => .bind .filed fun _ =>
      .ite (.modify fun _ h => h.pushStore) (.modify fun _ h => h.updLine)
theorem Exec.Keeps.fenceBody {o : Order} {sc : Scope} {eng : Bool} : Exec.Keeps (fenceBody o sc eng) :=
  .ite (.modify fun _ h => h.release) .pure

/-! ## Machine/Fp.lean -/

theorem Exec.Keeps.fpWrite {p : Prec} {rm : RMode} {d : SReg} {r : FV × Flags} : Exec.Keeps (fpWrite p rm d r) :=
  .bind .genOf fun _ => .bind .keepRound fun _ => .bind .orFlags fun _ => .writeS
theorem Exec.Keeps.fpBinary {f : RMode → FV → FV → FV × Flags} {p : Prec} {r : RMode} {d a b : SReg} :
    Exec.Keeps (fpBinary f p r d a b) :=
  .bind .readS fun _ => .bind .readS fun _ => .bind .modeOf fun _ => .fpWrite
theorem Exec.Keeps.fpMinMax {mx : Bool} {p : Prec} {d a b : SReg} : Exec.Keeps (fpMinMax mx p d a b) :=
  .bind .readS fun _ => .bind .readS fun _ => .bind .orFlags fun _ => .writeS
theorem Exec.Keeps.fpCompare {c : Int → Bool} {p : Prec} {d a b : SReg} : Exec.Keeps (fpCompare c p d a b) :=
  .bind .readS fun _ => .bind .readS fun _ => .bind .orFlags fun _ => .writeS
theorem Exec.Keeps.fpFrom {v : B64 → FV} {p : Prec} {r : RMode} {d a : SReg} : Exec.Keeps (fpFrom v p r d a) :=
  .bind .readS fun _ => .bind .modeOf fun _ => .fpWrite
theorem Exec.Keeps.fpTo {signed : Bool} {p : Prec} {r : RMode} {d a : SReg} : Exec.Keeps (fpTo signed p r d a) :=
  .bind .readS fun _ => .bind .modeOf fun _ => .bind .genOf fun _ => .bind .keepRound fun _ => .writeS

/-! ## Machine/Creg.lean -/

theorem State.memWf.keepCounts {s : State} {core new : Nat} (h : s.memWf) : (s.keepCounts core new).memWf := .ite h h
theorem State.memWf.cregWrite {s : State} {tid n : Nat} {v : B64} (h : s.memWf) : (s.cregWrite tid n v).memWf := by
  unfold State.cregWrite
  extract_lets core onT onC
  split
  case h_1 => exact h.keepCounts
  case h_22 => exact .ite h (.ite h (.ite h h))
  all_goals exact h
theorem Exec.Keeps.cregCheck {n : Nat} : Exec.Keeps (cregCheck n) :=
  .bind .thr fun _ => .ite .trap (.ite .trap (.ite .settled .pure))
theorem Exec.Keeps.cregGet {n : Nat} : Exec.Keeps (cregGet n) := .bind .cregCheck fun _ => .get fun _ _ => .pure
theorem Exec.Keeps.cregPut {n : Nat} {v : B64} : Exec.Keeps (cregPut n v) := by
  unfold Machine.cregPut
  refine .get fun _ h => .ite .pure (.ite .trap ?_)
  split
  · exact .stall
  · exact .set h.cregWrite
theorem Exec.Keeps.cregBits {f : B64 → B64 → B64} {d : SReg} {c : BitVec 12} {a : SReg} : Exec.Keeps (cregBits f d c a) :=
  .bind .cregGet fun _ => .bind .readS fun _ => .bind .cregPut fun _ => .writeS

/-! ## Machine/Sys.lean -/

theorem Exec.Keeps.breakBody {c : B64} : Exec.Keeps (breakBody c) := .throw trivial
theorem State.memWf.flushLine {s : State} {l : Nat} (h : s.memWf) : (s.flushLine l).memWf := h.drainOver.mergeWhere
theorem State.memWf.cinvLine {s : State} {l : Nat} (h : s.memWf) : (s.cinvLine l).memWf := .foldl h fun _ _ h1 => h1.force

end Sys2Proof.Machine
end

section
/-! # Tasks, messages, kin sets and bound ports -/
open Sys2Proof
namespace Sys2Proof.Machine

/-! ## Machine/Task.lean -/

theorem State.memWf.refuse {s : State} {m : Msg} {reason cause : Nat} {pc : B64} (h : s.memWf) :
    (s.refuse m reason cause pc).memWf :=
  h.errRecord
theorem State.memWf.startTask {s : State} {tid : Nat} {m : Msg} (h : s.memWf) : (s.startTask tid m).memWf := by
  unfold State.startTask
  extract_lets t
  split
  · exact h.refuse
  · exact .ite h.refuse (.ite h.refuse h)
theorem State.memWf.fillSlots {fuel core : Nat} {s : State} (h : s.memWf) : (fillSlots fuel core s).memWf := by
  induction fuel generalizing s with
  | zero => exact h
  | succ fuel ih =>
    unfold Machine.fillSlots
    split
    · split
      · exact h
      · exact ih (.startTask (.same h rfl))
    · exact h
theorem State.memWf.startAll {s : State} {core : Nat} (h : s.memWf) : (s.startAll core).memWf := h.fillSlots
theorem State.memWf.accept {s : State} {m : Msg} (h : s.memWf) : (s.accept m).memWf :=
  .ite (.refuse h) (.ite h (.startAll (.wakeCore h)))
theorem State.memWf.deliver {s : State} {m : Msg} (h : s.memWf) : (s.deliver m).1.memWf := by
  unfold State.deliver
  extract_lets s1
  have hs1 : State.memWf s1 := by
    unfold s1
    split <;> exact h
  split
  · exact h.refuse
  · split
    · exact hs1
    · exact hs1.accept
theorem State.memWf.arrive {s : State} {n : Nat} (h : s.memWf) : (s.arrive n).memWf := by
  unfold State.arrive
  extract_lets s1
  have hs1 : State.memWf s1 := h
  split
  · exact h
  · split
    · exact h
    · exact .ite h (.ite hs1.deliver (.ite hs1.deliver hs1.deliver))
theorem State.memWf.resendAll {l : List Msg} {s : State} (h : s.memWf) : (resendAll l s).1.memWf := by
  induction l generalizing s with
  | nil => exact h
  | cons m ms ih =>
    unfold Machine.resendAll
    extract_lets held r q
    have hr : State.memWf r.1 := by
      unfold r
      split
      · exact h
      · exact h.deliver
    exact ih hr
theorem Exec.Keeps.readRun {b n : Nat} : Exec.Keeps (readRun b n) := by
  induction n generalizing b with
  | zero => exact .pure
  | succ n ih => exact .bind .readS fun _ => .bind ih fun _ => .pure
theorem Exec.Keeps.post {dw : B64} {pay : List B64} : Exec.Keeps (post dw pay) :=
  .ite .trap (.get fun _ h => .ite .stall (.set h))
theorem Exec.Keeps.doneBody : Exec.Keeps doneBody := .get fun _ h => .halt h.endTask.startAll
theorem Exec.Keeps.yieldBody : Exec.Keeps yieldBody := .modify fun _ h => h
theorem Exec.Keeps.waitkBody {k : KReg} {n : Nat} {a : SReg} : Exec.Keeps (waitkBody k n a) :=
  .bind .thr fun _ => .ite .stall (.ite .pure (.bind .modThr fun _ => .writeS))

/-! ## Machine/Kin.lean -/

theorem State.memWf.kinArrive {s : State} {n : Nat} (h : s.memWf) : (s.kinArrive n).memWf := by
  unfold State.kinArrive
  extract_lets s1
  have hs1 : State.memWf s1 := h
  split
  · exact h
  · extract_lets k r
    split
    · exact h
    · split <;> exact hs1
theorem State.memWf.answer {s : State} {tid act : Nat} {v v2 : B64} (h : s.memWf) : (s.answer tid act v v2).memWf := .ite h h
theorem Exec.Keeps.kinSet {a : SReg} : Exec.Keeps (kinSet a) := .bind .readS fun _ => .ite .trap .pure
theorem Exec.Keeps.kinSend {set : Nat} {k : KinOpK} : Exec.Keeps (kinSend set k) := .modify fun _ h => h
theorem Exec.Keeps.sentWait {w : Wait} : Exec.Keeps (sentWait w) := .get fun _ h => .halt (.stallCur h)
theorem Exec.Keeps.asking {α : Type} {w : Wait} {operands : Exec α} {send : α → Exec Unit} {use : B64 → B64 → Exec Unit}
    (ho : operands.Keeps) (hs : ∀ x, (send x).Keeps) (hu : ∀ x y, (use x y).Keeps) : Exec.Keeps (asking w operands send use) := by
  refine .get fun s0 h => .bind ho fun x => .get fun s1 _ => ?_
  generalize (s0.thread s0.cur).phase = ph
  cases ph with
  | answered v v2 => exact hu v v2
  | idle => exact .bind (.set h) fun _ => .bind (hs x) fun _ => .bind .modThr fun _ => .sentWait
  | _ => exact .stall

/-! ## Machine/Ports.lean -/

theorem Exec.Keeps.boundPort {key : Nat} : Exec.Keeps (boundPort key) := by
  unfold Machine.boundPort
  refine .bind .thr fun _ => ?_
  split
  · exact .pure
  · exact .trap
theorem Exec.Keeps.freePort {key : Nat} : Exec.Keeps (freePort key) := .bind .thr fun _ => .ite .trap .pure
theorem Exec.Keeps.readRecord {key : Nat} {va : B64} : Exec.Keeps (readRecord key va) := by
  unfold Machine.readRecord
  refine .get fun _ h => ?_
  split
  · exact .trap
  · exact .ite .trap (.bind .filed fun _ => .bind (.modify fun _ h1 => h1.prepRead) fun _ => .get fun _ h1 => .pure)
theorem Exec.Keeps.drainPort {key : Nat} {p : Port} : Exec.Keeps (drainPort key p) := by
  unfold Machine.drainPort
  split
  · split
    · exact .throw trivial
    · exact .ite .pure .stall
  · exact .pure
theorem State.memWf.discard {s : State} {key n : Nat} {x : PortKind} (h : s.memWf) : (s.discard key n x).2.memWf := by
  unfold State.discard
  split
  · exact h
  · extract_lets q r
    split <;> exact h
  · exact h
theorem State.memWf.noteWalk {s : State} {core ctx : Nat} {sys : Bool} {acc : Acc} {va : B64} (h : s.memWf) :
    (s.noteWalk core ctx sys acc va).memWf := by
  unfold State.noteWalk
  extract_lets w
  have hw : State.memWf w := h.walked
  split
  · exact hw.bumpWalk
  · exact hw
theorem State.memWf.elemAddr {s : State} {tid ctx : Nat} {p : Port} {n : Nat} (h : s.memWf) :
    (s.elemAddr tid ctx p n).1.memWf := by
  unfold State.elemAddr
  extract_lets size iva
  split
  · exact h
  · split
    · exact h
    · split
      · exact h.noteWalk
      · exact h.walked.byteRead
theorem State.memWf.refillPort {s : State} {tid key : Nat} (h : s.memWf) : (s.refillPort tid key).memWf := by
  unfold State.refillPort
  extract_lets t
  split
  · exact h
  · extract_lets put r
    have hr : State.memWf r.1 := h.elemAddr
    refine .ite h ?_
    split
    · exact hr
    · exact hr
    · split
      · exact hr.noteWalk
      · exact hr.walked.byteRead
theorem State.memWf.elemRest {s : State} {tid ctx key : Nat} {p : Port} {e : PEntry} (h : s.memWf) :
    (s.elemRest tid ctx key p e).1.memWf := by
  unfold State.elemRest
  extract_lets r
  have hr : State.memWf r.1 := h.elemAddr
  split
  · exact h
  · split
    · exact hr
    · exact hr
    · split
      · exact hr.noteWalk
      · exact hr.walked
theorem State.memWf.writeSome {s : State} {tid ctx key n : Nat} {p : Port} (h : s.memWf) :
    (s.writeSome tid ctx key n p).1.memWf := by
  unfold State.writeSome
  split
  · exact h
  · extract_lets r
    have hr : State.memWf r.1 := h.elemRest
    split
    · exact hr
    · exact hr.streamPoke
theorem State.memWf.writeBack {s : State} {tid key n : Nat} (h : s.memWf) : (s.writeBack tid key n).memWf := by
  unfold State.writeBack
  split
  · exact h.writeSome
  · split
    · exact h
    · exact .ite h h.writeSome

end Sys2Proof.Machine
end

section
/-! # Bodies of the vector and fleet-shape instructions -/
open Sys2Proof
namespace Sys2Proof.Machine

/-! ## Machine/Lanes.lean -/

theorem Exec.Keeps.elemMode {v : View} : Exec.Keeps (elemMode v) := by
  unfold Machine.elemMode
  split
  · exact .ite .modeOf .modeOf
  · exact .modeOf
theorem Exec.Keeps.destOk {v : View} {m : MReg} {d : VReg} : Exec.Keeps (destOk v m d) := .bind .thr fun _ => .ite .trap .pure
theorem Exec.Keeps.oldV {d : VReg} : Exec.Keeps (oldV d) := .bind .settled fun _ => .bind .thr fun _ => .pure
theorem Exec.Keeps.readAB {a : VReg} {b : Option VReg} : Exec.Keeps (readAB a b) := by
  unfold Machine.readAB
  refine .bind .readV fun _ => ?_
  split
  · exact .pure
  · exact .bind .readV fun _ => .pure
theorem Exec.Keeps.lanesOf {v : View} {n : Nat} {m : MReg} {d : VReg} {readsD : Bool} {a : VReg} {b : Option VReg}
    {f : RMode → B512 → B512 → B512 → Nat → LaneAcc → LaneAcc} : Exec.Keeps (lanesOf v n m d readsD a b f) := by
  unfold Machine.lanesOf
  exact .ite (.bind .readV fun _ => .bind .readAB fun _ => .bind .readM fun _ => .bind .elemMode fun _ => .bind .genOf fun _ =>
      .pure) (.bind .oldV fun _ => .bind .readAB fun _ => .bind .readM fun _ => .bind .elemMode fun _ => .bind .genOf fun _ =>
      .pure)
theorem Exec.Keeps.laneBody {v : View} {n : Nat} {m : MReg} {d : VReg} {readsD : Bool} {a : VReg} {b : Option VReg}
    {f : RMode → B512 → B512 → B512 → Nat → LaneAcc → LaneAcc} : Exec.Keeps (laneBody v n m d readsD a b f) :=
  .bind .destOk fun _ => .bind .lanesOf fun _ => .bind .setGen fun _ => .bind .orFlags fun _ => .writeV

/-! ## Machine/VecArith.lean -/

theorem Exec.Keeps.vBin {fi : IntOp} {ff : FltOp} {readsD : Bool} {v : View} {t : Ty} {m : MReg} {d a b : VReg} :
    Exec.Keeps (vBin fi ff readsD v t m d a b) :=
  .laneBody
theorem Exec.Keeps.vUn {fi : IntOp} {ff : FltOp} {v : View} {t : Ty} {m : MReg} {d a : VReg} : Exec.Keeps (vUn fi ff v t m d a) :=
  .laneBody
theorem Exec.Keeps.vaddBody {x : View} {x1 : Ty} {x2 : MReg} {x3 x4 x5 : VReg} : Exec.Keeps (vaddBody x x1 x2 x3 x4 x5) := .vBin
theorem Exec.Keeps.vsubBody {x : View} {x1 : Ty} {x2 : MReg} {x3 x4 x5 : VReg} : Exec.Keeps (vsubBody x x1 x2 x3 x4 x5) := .vBin
theorem Exec.Keeps.vmulBody {x : View} {x1 : Ty} {x2 : MReg} {x3 x4 x5 : VReg} : Exec.Keeps (vmulBody x x1 x2 x3 x4 x5) := .vBin
theorem Exec.Keeps.vmulhBody {x : View} {x1 : Ty} {x2 : MReg} {x3 x4 x5 : VReg} : Exec.Keeps (vmulhBody x x1 x2 x3 x4 x5) := .vBin
theorem Exec.Keeps.vmaBody {x : View} {x1 : Ty} {x2 : MReg} {x3 x4 x5 : VReg} : Exec.Keeps (vmaBody x x1 x2 x3 x4 x5) := .vBin
theorem Exec.Keeps.vmsBody {x : View} {x1 : Ty} {x2 : MReg} {x3 x4 x5 : VReg} : Exec.Keeps (vmsBody x x1 x2 x3 x4 x5) := .vBin
theorem Exec.Keeps.vminBody {x : View} {x1 : Ty} {x2 : MReg} {x3 x4 x5 : VReg} : Exec.Keeps (vminBody x x1 x2 x3 x4 x5) := .vBin
theorem Exec.Keeps.vmaxBody {x : View} {x1 : Ty} {x2 : MReg} {x3 x4 x5 : VReg} : Exec.Keeps (vmaxBody x x1 x2 x3 x4 x5) := .vBin
theorem Exec.Keeps.vabsBody {x : View} {x1 : Ty} {x2 : MReg} {x3 x4 : VReg} : Exec.Keeps (vabsBody x x1 x2 x3 x4) := .vUn
theorem Exec.Keeps.vnegBody {x : View} {x1 : Ty} {x2 : MReg} {x3 x4 : VReg} : Exec.Keeps (vnegBody x x1 x2 x3 x4) := .vUn
theorem Exec.Keeps.vandBody {x : View} {x1 : Ty} {x2 : MReg} {x3 x4 x5 : VReg} : Exec.Keeps (vandBody x x1 x2 x3 x4 x5) := .vBin
theorem Exec.Keeps.vorBody {x : View} {x1 : Ty} {x2 : MReg} {x3 x4 x5 : VReg} : Exec.Keeps (vorBody x x1 x2 x3 x4 x5) := .vBin
theorem Exec.Keeps.vxorBody {x : View} {x1 : Ty} {x2 : MReg} {x3 x4 x5 : VReg} : Exec.Keeps (vxorBody x x1 x2 x3 x4 x5) := .vBin
theorem Exec.Keeps.vsllBody {x : View} {x1 : Ty} {x2 : MReg} {x3 x4 x5 : VReg} : Exec.Keeps (vsllBody x x1 x2 x3 x4 x5) := .vBin
theorem Exec.Keeps.vsrlBody {x : View} {x1 : Ty} {x2 : MReg} {x3 x4 x5 : VReg} : Exec.Keeps (vsrlBody x x1 x2 x3 x4 x5) := .vBin
theorem Exec.Keeps.vsraBody {x : View} {x1 : Ty} {x2 : MReg} {x3 x4 x5 : VReg} : Exec.Keeps (vsraBody x x1 x2 x3 x4 x5) := .vBin
theorem Exec.Keeps.vdivBody {x : View} {x1 : Ty} {x2 : MReg} {x3 x4 x5 : VReg} : Exec.Keeps (vdivBody x x1 x2 x3 x4 x5) := .vBin
theorem Exec.Keeps.vsqrtBody {x : View} {x1 : Ty} {x2 : MReg} {x3 x4 : VReg} : Exec.Keeps (vsqrtBody x x1 x2 x3 x4) := .vUn

/-! ## Machine/VecMem.lean -/

theorem Exec.Keeps.lanePlaces {acc : Acc} {n : Nat} {l : List (Nat × B64)} : Exec.Keeps (lanePlaces acc n l) := by
  induction l with
  | nil => exact .pure
  | cons c cs ih => exact .bind .aligned fun _ => .bind .locOf fun _ => .bind ih fun _ => .pure
theorem Exec.Keeps.blockPlaces {acc : Acc} {n : Nat} {va : B64} {lanes : List Nat} : Exec.Keeps (blockPlaces acc n va lanes) :=
  .ite .pure (.bind .aligned fun _ => .bind .locOf fun _ => .pure)
theorem Exec.Keeps.allFiled {l : List (Nat × Nat)} : Exec.Keeps (allFiled l) := by
  induction l with
  | nil => exact .pure
  | cons c cs ih => exact .bind .filed fun _ => ih
theorem Exec.Keeps.readLanes {t : Ty} {part : Nat → Nat} {places : List (Nat × Nat)} {x : B512} :
    Exec.Keeps (readLanes t part places x) := by
  unfold Machine.readLanes
  exact .bind (.modify fun _ h => .foldl h fun _ _ h1 => h1.prepRead) fun _ => .get fun _ h =>
      .ite .pure (.bind (.set h.arrivals) fun _ => .pure)
theorem State.memWf.lanesEarly {s : State} {t : Ty} {places : List (Nat × Nat)} (h : s.memWf) : (s.lanesEarly t places).memWf :=
  .stallCur (.foldl h fun _ _ h1 => h1.prepRead)
theorem Exec.Keeps.loadLanes {s0 : State} {t : Ty} {d : VReg} {old : B512} {part : Nat → Nat} {places : List (Nat × Nat)}
    (hs0 : s0.memWf) : Exec.Keeps (loadLanes s0 t d old part places) := by
  unfold Machine.loadLanes
  refine .bind .allFiled fun _ => ?_
  split
  · exact .bind (.dirGate hs0) fun _ => .bind (.awaitValue hs0) fun _ => .ite (.halt hs0.lanesEarly) (.bind .readLanes fun _ =>
      .writeV)
  · exact .bind (.awaitValue hs0) fun _ => .ite (.halt hs0.lanesEarly) (.bind .readLanes fun _ => .writeV)
theorem Exec.Keeps.writeLanes {t : Ty} {data : B512} {grp : Nat} {l : List (Nat × Nat)} :
    Exec.Keeps (writeLanes t data grp l) := by
  induction l with
  | nil => exact .pure
  | cons c cs ih => exact .bind .storeLoc fun _ => ih
theorem Exec.Keeps.writePart {t : Ty} {data : B512} {places : List (Nat × Nat)} {k : Nat} :
    Exec.Keeps (writePart t data places k) := by
  unfold Machine.writePart
  extract_lets mine
  clear_value mine
  cases mine with
  | nil => exact .pure
  | cons c cs => exact .ite .storeLoc (.get fun _ _ => .writeLanes)
theorem Exec.Keeps.writeBlock {t : Ty} {data : B512} {places : List (Nat × Nat)} {l : List Nat} :
    Exec.Keeps (writeBlock t data places l) := by
  induction l with
  | nil => exact .pure
  | cons k ks ih => exact .bind .writePart fun _ => ih

/-! ## Machine/VecPerm.lean -/

theorem Exec.Keeps.vRed {op : RedOp} {v : View} {t : Ty} {m : MReg} {d : SReg} {a : VReg} : Exec.Keeps (vRed op v t m d a) := by
  unfold Machine.vRed
  exact .bind .readV fun _ => .bind .readM fun _ => .bind .modeOf fun _ => .bind .genOf fun _ => .ite (.bind .setGen fun _ =>
      .bind .orFlags fun _ => .writeS) .writeS
theorem Exec.Keeps.vScan {v : View} {t : Ty} {m : MReg} {d a : VReg} : Exec.Keeps (vScan v t m d a) := by
  unfold Machine.vScan
  exact .bind .destOk fun _ => .bind .oldV fun _ => .bind .readV fun _ => .bind .readM fun _ => .bind .modeOf fun _ =>
      .bind .elemMode fun _ => .bind .genOf fun _ => .bind .setGen fun _ => .bind .orFlags fun _ => .writeV
theorem Exec.Keeps.vCmp {v : View} {c : Cmp} {t : Ty} {m d : MReg} {a b : VReg} : Exec.Keeps (vCmp v c t m d a b) :=
  .bind .readAB fun _ => .bind .readM fun _ => .ite (.bind .orFlags fun _ => .writeM) .writeM
theorem Exec.Keeps.maskBin {f : B64 → B64 → B64} {d a b : MReg} : Exec.Keeps (maskBin f d a b) :=
  .bind .readM fun _ => .bind .readM fun _ => .writeM
theorem Exec.Keeps.maskCount {f : B64 → Nat} {m : MReg} {d : SReg} {a : MReg} : Exec.Keeps (maskCount f m d a) :=
  .bind .readM fun _ => .bind .readM fun _ => .writeS
theorem Exec.Keeps.vCvt {v : View} {t st : Ty} {m : MReg} {d a : VReg} : Exec.Keeps (vCvt v t st m d a) := .laneBody
theorem Exec.Keeps.vSel {v : View} {t : Ty} {m : MReg} {d a b : VReg} : Exec.Keeps (vSel v t m d a b) := by
  unfold Machine.vSel
  exact .bind .destOk fun _ => .bind .oldV fun _ => .bind .readAB fun _ => .bind .readM fun _ =>
      .ite .writeV (.bind .elemMode fun _ => .bind .genOf fun _ => .bind .setGen fun _ => .bind .orFlags fun _ => .writeV)
theorem Exec.Keeps.vDot {v : View} {t : Ty} {m : MReg} {d a b : VReg} : Exec.Keeps (vDot v t m d a b) := .laneBody

/-! ## Machine/VecSpec.lean -/

theorem Exec.Keeps.specBody {f : FV → FV × Flags} {v : View} {t : Ty} {m : MReg} {d a : VReg} :
    Exec.Keeps (specBody f v t m d a) := by
  unfold Machine.specBody
  exact .bind .notPort fun _ => .get fun _ h => .ite .stall (.bind .lanesOf fun _ => .bind .readM fun _ => .get fun _ h1 =>
      .bind (.set (.count h1)) fun _ => .modThr)
theorem Exec.Keeps.vrcpBody {x : View} {x1 : Ty} {x2 : MReg} {x3 x4 : VReg} : Exec.Keeps (vrcpBody x x1 x2 x3 x4) := .specBody
theorem Exec.Keeps.vrsqBody {x : View} {x1 : Ty} {x2 : MReg} {x3 x4 : VReg} : Exec.Keeps (vrsqBody x x1 x2 x3 x4) := .specBody
theorem Exec.Keeps.vexp2Body {x : View} {x1 : Ty} {x2 : MReg} {x3 x4 : VReg} : Exec.Keeps (vexp2Body x x1 x2 x3 x4) := .specBody
theorem Exec.Keeps.vlog2Body {x : View} {x1 : Ty} {x2 : MReg} {x3 x4 : VReg} : Exec.Keeps (vlog2Body x x1 x2 x3 x4) := .specBody
theorem Exec.Keeps.vsigBody {x : View} {x1 : Ty} {x2 : MReg} {x3 x4 : VReg} : Exec.Keeps (vsigBody x x1 x2 x3 x4) := .specBody
theorem Exec.Keeps.vtanhBody {x : View} {x1 : Ty} {x2 : MReg} {x3 x4 : VReg} : Exec.Keeps (vtanhBody x x1 x2 x3 x4) := .specBody

/-! ## Machine/Fetch.lean -/

theorem State.memWf.fetched {s : State} {tid : Nat} (h : s.memWf) : (s.fetched tid).memWf := by
  unfold State.fetched
  extract_lets t last
  refine State.memWf.foldl h fun t a h1 => ?_
  split
  · exact h1.walked.recall
  · exact h1
theorem Exec.Keeps.fitBin {v : View} {t : Ty} {x y : Exec Unit} (h : fitBin v t x = some y) (hx : x.Keeps) : y.Keeps := by
  unfold Machine.fitBin at h
  split at h
  · cases h; exact hx
  · cases h
theorem Exec.Keeps.fitUn {v : View} {t : Ty} {x y : Exec Unit} (h : fitUn v t x = some y) (hx : x.Keeps) : y.Keeps := by
  unfold Machine.fitUn at h
  split at h
  · cases h; exact hx
  · cases h
theorem Exec.Keeps.fitRed {v : View} {t : Ty} {x y : Exec Unit} (h : fitRed v t x = some y) (hx : x.Keeps) : y.Keeps := by
  unfold Machine.fitRed at h
  split at h
  · cases h; exact hx
  · cases h
theorem Exec.Keeps.followBody {v : View} {i : Instr} {x : Exec Unit} (h : followBody v i = some x) : x.Keeps := by
  unfold Machine.followBody at h
  split at h
  · exact .fitBin h .vaddBody
  · exact .fitBin h .vsubBody
  · exact .fitBin h .vmulBody
  · exact .fitBin h .vmulhBody
  · exact .fitBin h .vmaBody
  · exact .fitBin h .vmsBody
  · exact .fitBin h .vminBody
  · exact .fitBin h .vmaxBody
  · exact .fitUn h .vabsBody
  · exact .fitUn h .vnegBody
  · exact .fitBin h .vandBody
  · exact .fitBin h .vorBody
  · exact .fitBin h .vxorBody
  · exact .fitBin h .vsllBody
  · exact .fitBin h .vsrlBody
  · exact .fitBin h .vsraBody
  · exact .fitBin h .vdivBody
  · exact .fitUn h .vsqrtBody
  · exact .fitUn h .vrcpBody
  · exact .fitUn h .vrsqBody
  · exact .fitUn h .vexp2Body
  · exact .fitUn h .vlog2Body
  · exact .fitUn h .vsigBody
  · exact .fitUn h .vtanhBody
  · exact .fitRed h .vRed
  · exact .fitRed h .vRed
  · exact .fitRed h .vRed
  · exact .fitUn h .vScan
  · split at h
    · exact .fitBin h .vCmp
    · cases h
  · split at h
    · exact .fitUn h .vCvt
    · cases h
  · exact .fitBin h .vSel
  · split at h
    · exact .fitBin h .vDot
    · cases h
  · cases h
theorem Exec.Keeps.viewBody {v : View} : Exec.Keeps (viewBody v) := by
  refine .get fun s _ => ?_
  split
  · exact .trap
  · split
    · next x hx => exact .followBody hx
    · exact .trap

/-! ## Machine/Weave.lean -/

theorem Exec.Keeps.weaveTrap {α : Type} {reason lane axes : Nat} : Exec.Keeps (α := α) (weaveTrap reason lane axes) := .trap
theorem Exec.Keeps.shaped {r : WReg} : Exec.Keeps (shaped r) := .bind .readW fun _ => .ite .trap .pure
theorem Exec.Keeps.sameShape {x y : WVal} : Exec.Keeps (sameShape x y) := .ite .pure .trap
theorem Exec.Keeps.boxOf {x : Option WVal} {b : WReg} : Exec.Keeps (boxOf x b) := by
  unfold Machine.boxOf
  refine .bind .shaped fun _ => .bind .shaped fun _ => .bind .sameShape fun _ => ?_
  split
  · exact .bind .sameShape fun _ => .pure
  · exact .pure
theorem Exec.Keeps.weaveSum {sub t : Bool} {d a b : WReg} : Exec.Keeps (weaveSum sub t d a b) := by
  unfold Machine.weaveSum
  exact .bind .shaped fun _ => .bind .shaped fun _ => .bind .sameShape fun _ => .ite .trap (.bind .readW fun _ => .writeW)
theorem Exec.Keeps.dataArea {va : B64} {n : Nat} : Exec.Keeps (dataArea va n) := by
  unfold Machine.dataArea
  refine .get fun _ h => ?_
  split
  · exact .trap
  · exact .ite .trap (.ite .trap .pure)
theorem Exec.Keeps.writeRecords {l : Nat} {rs : List (Nat × Nat)} : Exec.Keeps (writeRecords l rs) := by
  induction rs generalizing l with
  | nil => exact .pure
  | cons r rs ih => exact .bind .storeLoc fun _ => .bind .storeLoc fun _ => ih
theorem Exec.Keeps.vecShape {t : Ty} : Exec.Keeps (vecShape t) := .bind .thr fun _ => .ite .trap .pure
theorem Exec.Keeps.vecAdd {tt : Bool} {t : Ty} {m : MReg} {d a b : VReg} : Exec.Keeps (vecAdd tt t m d a b) := by
  refine .bind .destOk fun _ => .bind .oldV fun _ => .bind .readAB fun _ => .bind .readM fun _ => .bind .vecShape fun _ => ?_
  dsimp only
  split
  · exact .weaveTrap
  · exact .writeV

end Sys2Proof.Machine
end

section
/-! # The mill, the Square, tokens and the cart -/
open Sys2Proof
namespace Sys2Proof.Machine

/-! ## Machine/Mill.lean -/

theorem State.memWf.jobDone {s : State} {tid act k status : Nat} (h : s.memWf) : (s.jobDone tid act k status).memWf :=
  .ite (.ite h h.count) (.ite h h.count)
theorem State.memWf.modJob {s : State} {tid act id : Nat} {f : JobMem → JobMem} (h : s.memWf) : (s.modJob tid act id f).memWf :=
  .ite h h
theorem State.memWf.millRetire {s : State} {j : MillJob} {status : Nat} (h : s.memWf) : (s.millRetire j status).memWf :=
  h.modJob.jobDone
theorem Exec.Keeps.oldJobsGone : Exec.Keeps oldJobsGone := .bind .thr fun _ => .ite .stall .pure
theorem Exec.Keeps.counterRoom {k : KReg} : Exec.Keeps (counterRoom k) := .bind .thr fun _ => .ite .stall .pure
theorem Exec.Keeps.readOpt {x : Option SReg} : Exec.Keeps (readOpt x) := by
  unfold Machine.readOpt
  split
  · exact .pure
  · exact .readS
theorem Exec.Keeps.millIssue {op : MillOp} {tile : AReg} {k : KReg} {d : SReg} {a b : Option SReg} :
    Exec.Keeps (millIssue op tile k d a b) := by
  unfold Machine.millIssue
  exact .bind .oldJobsGone fun _ => .bind .counterRoom fun _ => .get fun _ h => .ite .stall (.bind .readOpt fun _ =>
      .bind .readOpt fun _ => .bind .thr fun _ => .bind .writeS fun _ => .get fun _ h1 => .bind .modCore fun _ => .modThr)
theorem Exec.Keeps.tileFree {a : AReg} : Exec.Keeps (tileFree a) := .get fun _ _ => .ite .stall .pure
theorem State.memWf.millRead {s : State} {j : MillJob} {va : B64} {n : Nat} (h : s.memWf) : (s.millRead j va n).1.memWf := by
  unfold State.millRead
  split
  · exact h.byteRead
  · exact h
theorem State.memWf.millReads {s : State} {j : MillJob} {l : List (B64 × Nat)} (h : s.memWf) : (s.millReads j l).1.memWf := by
  induction l generalizing s with
  | nil => exact h
  | cons r rs ih => exact ih h.millRead
theorem State.memWf.thStatus {s : State} {j : MillJob} {hdr : B64} {offs : List Nat} {i n pos : Nat} (h : s.memWf) :
    (s.thStatus j hdr offs i n pos).1.memWf := by
  induction n generalizing s pos with
  | zero => exact h
  | succ n ih =>
    unfold State.thStatus
    extract_lets r x
    have hx : State.memWf x.1 := h.millRead
    split
    · exact ih hx
    · exact hx
theorem State.memWf.thStatuses {s : State} {j : MillJob} {hdr : B64} {offs : List Nat} (h : s.memWf) :
    (s.thStatuses j hdr offs).1.memWf :=
  foldl_holds (P := fun x : State × List Nat => State.memWf x.1) (fun _ _ h1 => h1.thStatus) _ _ h
theorem State.memWf.thHead {s : State} {j : MillJob} {code : Nat} {va : B64} (h : s.memWf) : (s.thHead j code va).1.memWf := by
  unfold State.thHead
  extract_lets h1
  have hh1 : State.memWf h1.1 := h.millRead
  split
  · exact h
  · exact hh1
theorem State.memWf.startMul {s : State} {j : MillJob} (h : s.memWf) : (s.startMul j).1.memWf := by
  unfold State.startMul
  extract_lets core fail gst g j1 ha hb j2 st ta tb th
  have hg : State.memWf g.1 := by
    unfold g
    split
    · exact h.millRead
    · exact h
  split
  · exact h
  split
  · exact h
  split
  · exact hg
  · exact hg.thHead.thHead.thStatuses.thStatuses
theorem State.memWf.startJob {s : State} {j : MillJob} (h : s.memWf) : (s.startJob j).1.memWf := by
  unfold State.startJob
  extract_lets s1 fail
  have h1 : s1.memWf := h.flushBefore.modJob
  split
  · exact .same h1 rfl
  · exact .same h1 rfl
  · exact .same h1 rfl
  · exact h1.startMul
theorem State.memWf.blockTh {s : State} {j : MillJob} {hdr : B64} {offs pos : List Nat} (h : s.memWf) :
    (s.blockTh j hdr offs pos).1.memWf :=
  h.millReads
theorem State.memWf.blockA {s : State} {j : MillJob} {b n : Nat} (h : s.memWf) : (s.blockA j b n).1.memWf := by
  unfold State.blockA
  extract_lets w r
  have hr : State.memWf r.1 := h.millReads
  split
  · exact h.blockTh
  · exact hr
theorem State.memWf.blockB {s : State} {j : MillJob} {b n : Nat} (h : s.memWf) : (s.blockB j b n).1.memWf := by
  unfold State.blockB
  extract_lets w r rows
  have hr : State.memWf r.1 := h.millReads
  split
  · exact h.blockTh
  · exact hr
theorem State.memWf.blockScales {s : State} {j : MillJob} {b : Nat} (h : s.memWf) : (s.blockScales j b).1.memWf := by
  unfold State.blockScales
  extract_lets x y val
  have hx : State.memWf x.1 := h.millReads
  have hy : State.memWf y.1 := hx.millReads
  split
  · exact h
  · exact hy
theorem State.memWf.thAgain {s : State} {j : MillJob} {code : Nat} {hdr : B64} {offs : List Nat} (h : s.memWf) :
    (s.thAgain j code hdr offs).1.memWf := by
  unfold State.thAgain
  extract_lets held x src
  have hx : State.memWf x.1 := h.millRead
  have hsrc : State.memWf src := hx
  split
  · exact h
  · split
    · exact hx
    · exact hsrc
theorem State.memWf.headers {s : State} {j : MillJob} (h : s.memWf) : (s.headers j).1.memWf := h.thAgain.thAgain
theorem State.memWf.mulBlock {s : State} {j : MillJob} (h : s.memWf) : (s.mulBlock j).1.memWf := by
  unfold State.mulBlock
  extract_lets b n h1 j1 x y z
  have hh1 : State.memWf h1.1 := h.headers
  have hx : State.memWf x.1 := hh1.blockA
  have hy : State.memWf y.1 := hx.blockB
  have hz : State.memWf z.1 := hy.blockScales
  split <;> exact hz
theorem State.memWf.runBlock {s : State} {j : MillJob} (h : s.memWf) : (s.runBlock j).1.memWf := by
  unfold State.runBlock
  extract_lets r
  have hr : State.memWf r.1 := h.millRead
  split
  · exact h
  · exact hr
  · exact h
  · exact h.mulBlock
theorem State.memWf.millWrite {s : State} {j : MillJob} (h : s.memWf) : (s.millWrite j).memWf := by
  unfold State.millWrite
  split
  · split
    · exact h.partyWrite
    · exact h
  · exact h

/-! ## Machine/Square.lean -/

theorem State.memWf.unowe {s : State} {o : OutPkt} (h : s.memWf) : (s.unowe o).memWf := by
  unfold State.unowe
  split <;> exact h
theorem State.memWf.carry {s : State} {p : Packet} (h : s.memWf) : (s.carry p).memWf := h.countCarried
theorem State.memWf.unreachable {s : State} {o : OutPkt} (h : s.memWf) : (s.unreachable o).memWf :=
  .ite (.skipNotice (.ite h.unowe.uncarry h.unowe)) (.ite h.unowe.uncarry h.unowe)
theorem State.memWf.cutLost {s : State} {o : OutPkt} (h : s.memWf) : (s.cutLost o).1.memWf := by
  unfold State.cutLost
  extract_lets down lost src lost1 src1 s1
  have hs1 : State.memWf s1 := h
  split
  · exact h
  · exact hs1
theorem State.memWf.spray {s : State} {ctx key : Nat} {c : State × Nat × Nat} (h : s.memWf) (e : s.spray ctx key = some c) :
    c.1.memWf := by
  unfold State.spray at e
  extract_lets el zero mine old vals at e
  split at e
  · cases e
  · cases e; exact h
theorem State.memWf.choosePort {s : State} {o : OutPkt} {last : Bool} (h : s.memWf) : (s.choosePort o last).memWf := by
  unfold State.choosePort
  split
  · exact h
  · extract_lets c s1 o1
    have h1 : s1.memWf := h.cutLost
    clear_value s1
    split
    · exact h1
    · split
      · next c hc => exact .ite (h1.spray hc) (h1.spray hc)
      · exact .ite h1 h1.unreachable
theorem State.memWf.resendPkt {s : State} {o : OutPkt} (h : s.memWf) : (s.resendPkt o).memWf :=
  .ite h.unreachable h.unowe.carry.choosePort
theorem State.memWf.lightChanged {s : State} (h : s.memWf) : s.lightChanged.memWf :=
  .foldl (.foldl h fun _ _ h1 => .ite h1 h1.unowe.choosePort) fun _ _ h1 => h1.choosePort
theorem State.memWf.replaceOut {s : State} {id : Nat} {cs : List OutPkt} (h : s.memWf) : (s.replaceOut id cs).memWf :=
  .foldl h fun _ _ h1 => h1.choosePort
theorem State.memWf.splitCopies {s : State} {o : OutPkt} {p : Nat} (h : s.memWf) : (s.splitCopies o p).memWf := .replaceOut h
theorem State.memWf.atSquare {s : State} {n : Nat} (h : s.memWf) : (s.atSquare n).memWf := by
  unfold State.atSquare
  split
  · exact h
  · split
    · exact h
    · split
      · exact h.splitCopies
      · exact .ite h.uncarry h.choosePort
theorem State.memWf.regroup {s : State} {o : OutPkt} {p : Nat} (h : s.memWf) : (s.regroup o p).memWf :=
  .replaceOut (.foldl h fun _ _ h1 => h1.unowe)
theorem State.memWf.stepClock {s : State} {p : Nat} (h : s.memWf) : (s.stepClock p).memWf := by
  unfold State.stepClock
  split
  · exact .ite h h
  · exact h
theorem State.memWf.depart {s : State} {n : Nat} (h : s.memWf) : (s.depart n).memWf := by
  unfold State.depart
  split
  · exact h
  · split
    · extract_lets first r o s1 s2 src s3 w
      have hr : State.memWf r.1 := h
      have hs1 : State.memWf s1 := hr.countSq.countSq.uncarry
      have hs2 : State.memWf s2 := hs1
      have hs3 : State.memWf s3 := hs2
      exact .ite h (.ite h.regroup (.ite hs3.stepClock hs3))
    · exact h
theorem State.memWf.releaseOrder {s : State} {key : Nat} (h : s.memWf) : (s.releaseOrder key).memWf := by
  unfold State.releaseOrder
  extract_lets src
  split <;> exact h
theorem State.memWf.settleSeq {s : State} {key : Nat} {seq : Option Nat} (h : s.memWf) : (s.settleSeq key seq).memWf := by
  unfold State.settleSeq
  extract_lets src
  split
  · exact .releaseOrder h
  · exact h
theorem State.memWf.replyTo {s : State} {p : Packet} {status : BitVec 8} {data : List Byte} (h : s.memWf) :
    (s.replyTo p status data).memWf :=
  .ite h h
theorem State.memWf.refusePkt {s : State} {p : Packet} {status : BitVec 8} (h : s.memWf) : (s.refusePkt p status).memWf :=
  h.settleSeq.replyTo
theorem State.memWf.touchPair {s t : State} {key f : Nat} (h : s.memWf) (e : s.touchPair key f = some t) : t.memWf := by
  unfold State.touchPair at e
  split at e
  · cases e; exact .releaseOrder h
  · split at e
    · cases e
    · cases e; exact h
theorem State.memWf.receive {s : State} {p : Packet} {port : Option Nat} (h : s.memWf) : (s.receive p port).memWf := by
  unfold State.receive
  split
  · exact h
  · extract_lets sq s1 ent s2 void toks i sq3 s3 s4 sq4
    have h1 : s1.memWf := h
    clear_value s1
    have h2 : s2.memWf := by
      unfold s2 ent
      split
      · exact h1
      · cases e : s1.touchPair (pktPair p) p.floor with
        | none => exact h1
        | some t => exact h1.touchPair e
    clear_value s2
    have h3 : s3.memWf := h2.countSq
    exact .ite h2.refusePkt (.ite h2 (.ite (.ite h3.replyTo h3.refusePkt) (.countSq h2)))
theorem State.memWf.fromOutside {s : State} {p : Packet} {port : Nat} {mark : Option Seal} (h : s.memWf) :
    (s.fromOutside p port mark).memWf := by
  unfold State.fromOutside
  extract_lets mine
  split
  · exact h
  · split
    · exact h.receive
    · split
      · exact h
      · split
        · exact h
        · split
          · exact h
          · exact h.receive
theorem State.memWf.fromSelf {s : State} {n : Nat} (h : s.memWf) : (s.fromSelf n).memWf := by
  unfold State.fromSelf
  split
  · exact h
  · exact .ite h (.receive h)
theorem State.memWf.skipIn {s : State} {k : SkipIn} (h : s.memWf) : (s.skipIn k).memWf := by
  unfold State.skipIn
  extract_lets key
  split
  · next t e => exact (h.touchPair e).settleSeq
  · exact h
theorem State.memWf.seatPairs {s : State} (h : s.memWf) : s.seatPairs.memWf := by
  unfold State.seatPairs
  extract_lets ks sq s1
  have h1 : s1.memWf := .foldl h fun _ _ h1 => h1.skipIn
  clear_value s1
  refine .foldl h1 fun t i ht => ?_
  split
  · exact ht
  · next u e =>
    have hu : u.memWf := ht.touchPair e
    exact hu
theorem State.memWf.expirePkt {s : State} {n : Nat} (h : s.memWf) : (s.expirePkt n).memWf := by
  unfold State.expirePkt
  extract_lets src
  split
  · exact h
  · exact .ite h (.refusePkt (.countSq h))
theorem State.memWf.freePair {s : State} {dev core slot : Nat} (h : s.memWf) : (s.freePair dev core slot).memWf := by
  unfold State.freePair
  extract_lets key src
  split
  · exact h
  · exact .ite h (.seatPairs h)
theorem State.memWf.pktObserve {s : State} {p : Packet} {l n : Nat} (h : s.memWf) : (s.pktObserve p l n).memWf := .ite h.observe h
theorem State.memWf.readEach {s : State} {p : Packet} {ahead : List (Nat × Byte)} {l : List (Nat × Nat)} (h : s.memWf) :
    (s.readEach p ahead l).1.memWf := by
  induction l generalizing s with
  | nil => exact h
  | cons r rs ih => exact ih h.pktObserve.portRead
theorem State.memWf.readPlaces {s : State} {p : Packet} {l : List (Nat × Nat)} (h : s.memWf) : (s.readPlaces p l).1.memWf := by
  induction l generalizing s with
  | nil => exact h
  | cons r rs ih => exact ih h.pktObserve.recall
theorem State.memWf.landBytes {s : State} {p : Packet} {l : Nat} {data : List Byte} (h : s.memWf) :
    (s.landBytes p l data).memWf := by
  unfold State.landBytes
  extract_lets s1
  have hs1 : State.memWf s1 := h.pktObserve
  split
  · exact hs1.portWrite
  · exact hs1.cartMix.portWrite.cartTell
theorem State.memWf.writePlaces {s : State} {p : Packet} {l : List (Nat × Nat)} {d : List Byte} (h : s.memWf) :
    (s.writePlaces p l d).memWf := by
  induction l generalizing s d with
  | nil => exact h
  | cons r rs ih => exact ih h.landBytes
theorem State.memWf.landSome {s : State} {p : Packet} {k : Nat} {l : List (Nat × List Byte)} (h : s.memWf) :
    (s.landSome p k l).1.memWf := by
  induction l generalizing s k with
  | nil => exact h
  | cons x xs ih =>
    unfold State.landSome
    split
    · exact h
    · split
      · exact h.landBytes
      · exact ih h.landBytes
theorem State.memWf.applyAt {s : State} {p : Packet} {ahead : List (Nat × Byte)} {ls : List (Nat × Nat)} (h : s.memWf) :
    (s.applyAt p ahead ls).1.memWf := by
  unfold State.applyAt
  extract_lets x old
  have hx : State.memWf x.1 := h.readPlaces
  split
  · exact h.readEach
  · exact h.writePlaces
  · split
    · exact hx.writePlaces
    · exact .foldl hx fun _ _ h1 => h1.echo
theorem State.memWf.applyPkt {s : State} {p : Packet} {ahead : optParam (List (Nat × Byte)) []} (h : s.memWf) :
    (s.applyPkt p ahead).memWf := by
  unfold State.applyPkt
  extract_lets st
  split
  · exact h.refusePkt
  · split
    · exact h
    · extract_lets va
      split
      · exact h.bumpWalk.refusePkt
      · exact h.applyAt.settleSeq.replyTo
theorem State.memWf.landRest {s : State} {p : Packet} {rest : List (Nat × List Byte)} (h : s.memWf) : (s.landRest p rest).memWf :=
  .replyTo (.settleSeq (.foldl h fun _ _ h1 => h1.landBytes))
theorem State.memWf.remoteApply {s : State} {n : Nat} (h : s.memWf) : (s.remoteApply n).memWf := by
  unfold State.remoteApply
  extract_lets src s1
  have hs1 : State.memWf s1 := h
  split
  · exact h
  · split
    · exact h
    · split
      · exact hs1.landRest
      · exact hs1.applyPkt
theorem State.memWf.applyBytes {s : State} {n k : Nat} (h : s.memWf) : (s.applyBytes n k).memWf := by
  unfold State.applyBytes
  split
  · exact h
  · split
    · exact h
    · split
      · exact h
      · exact h.landSome
theorem State.memWf.endApplies {s : State} {f : Packet → Bool} (h : s.memWf) : (s.endApplies f).memWf :=
  .foldl h fun _ _ h1 => h1.landRest

/-! ## Machine/Token.lean -/

theorem State.memWf.askTokens {s : State} {core : Nat} (h : s.memWf) : (s.askTokens core).memWf := .ite h h
theorem State.memWf.grantToks {s : State} {core : Nat} (h : s.memWf) : (s.grantToks core).memWf := by
  unfold State.grantToks
  extract_lets c
  split
  · exact h
  · split
    · exact h
    · exact .foldl h fun _ _ h1 => h1
theorem Exec.Keeps.newToken {s0 : State} {inA inB : BitVec 32} (hs0 : s0.memWf) : Exec.Keeps (newToken s0 inA inB) := by
  unfold Machine.newToken
  refine .get fun _ h => ?_
  split
  · exact .halt hs0.askTokens.stallCur
  · exact .bind (.set (.countSq (.ite (.askTokens h) h))) fun _ => .pure
theorem State.memWf.noticeActs {s : State} {tok : BitVec 32} {landed : Bool} (h : s.memWf) : (s.noticeActs tok landed).memWf :=
  .ite h (.foldl h fun _ _ h1 => h1.refusePkt)
theorem State.memWf.noticeIn {s : State} {tok : BitVec 32} {landed : Bool} (h : s.memWf) : (s.noticeIn tok landed).1.memWf := by
  unfold State.noticeIn
  extract_lets n old src
  split
  · exact h.countSq
  · exact .noticeActs h
theorem State.memWf.sendNotice {s : State} {slot dev : Nat} (h : s.memWf) : (s.sendNotice slot dev).memWf :=
  .ite (.ite (.sweepTokens (.noticeIn (.countSq h))) (.noticeIn (.countSq h))) (.countSq h)
theorem State.memWf.noticeRefused {s : State} {slot dev : Nat} (h : s.memWf) : (s.noticeRefused slot dev).memWf := .ite h h
theorem State.memWf.settleMerge {s : State} {tok : BitVec 32} {a b : TokSt} (h : s.memWf) : (s.settleMerge tok a b).memWf :=
  .ite h.settleTok (.ite h.settleTok h)

/-! ## Machine/Visit.lean -/

theorem State.memWf.serveStream {s : State} {x : Nat × Nat} (h : s.memWf) : (s.serveStream x).memWf :=
  .ite h.writeBack h.refillPort
theorem State.memWf.serveStreams {core fuel left most : Nat} {s : State} (h : s.memWf) :
    (serveStreams core fuel left most s).2.2.memWf := by
  induction fuel generalizing left most s with
  | zero => exact h
  | succ fuel ih =>
    unfold Machine.serveStreams
    split
    · exact h
    · next x _ =>
      extract_lets n
      split
      · exact ih h.serveStream
      · split
        · exact h.writeBack
        · exact h
theorem State.memWf.visitStream {s : State} {tid n : Nat} {run : State → State} (h : s.memWf) (hr : (run s).memWf) :
    (s.visitStream tid n run).memWf := .ite h (.ite h hr)
theorem State.memWf.streamBytes {s : State} {tid port n : Nat} (h : s.memWf) : (s.streamBytes tid port n).memWf :=
  .ite (h.visitStream h.writeBack) h
theorem State.memWf.restVisits {s : State} (h : s.memWf) : s.restVisits.memWf := .ite h h

/-! ## Machine/Cart.lean -/

theorem Exec.Keeps.cartIssue {op : CartOp} {x : Bool} {k : KReg} {d a : SReg} : Exec.Keeps (cartIssue op x k d a) := by
  unfold Machine.cartIssue
  refine .bind .counterRoom fun _ => .get fun _ h => .ite .stall (.bind .readS fun _ => .bind .thr fun _ => ?_)
  split
  · exact .bind .writeS fun _ => .bind .modThr fun _ => .modify fun _ h1 => h1.count
  · exact .bind .filed fun _ => .bind (.modify fun _ h1 => h1.prepRead) fun _ => .get fun _ h1 => .bind .writeS fun _ =>
      .get fun _ h2 => .bind (.set h2) fun _ => .bind .modCore fun _ => .modThr
theorem State.memWf.noteCart {s : State} {j : CartJob} {va : B64} {acc : Acc} (h : s.memWf) : (s.noteCart j va acc).memWf :=
  h.noteWalk
theorem State.memWf.cartWalk {s : State} {j : CartJob} {va : B64} (h : s.memWf) : (s.cartWalk j va).memWf := .ite h.walked h
theorem State.memWf.cartFlush {s : State} {j : CartJob} (h : s.memWf) : (s.cartFlush j).1.memWf := by
  unfold State.cartFlush
  split <;> exact h
theorem State.memWf.cartPut {s : State} {j : CartJob} {va : B64} {dev wid off : Nat} {data : List Byte} (h : s.memWf) :
    (s.cartPut j va dev wid off data).1.memWf := by
  unfold State.cartPut
  extract_lets own data1 s1 cut r b src
  have hs1 : State.memWf s1 := .cartWritten (.ite h h)
  have hr : State.memWf r.1 := by
    unfold r
    split
    · exact hs1.cartFlush
    · exact hs1
  exact hr
theorem State.memWf.cartWrite {s : State} {j : CartJob} {va : B64} {data : List Byte} (h : s.memWf) :
    (s.cartWrite j va data).1.memWf := by
  unfold State.cartWrite
  extract_lets remote
  split
  · exact h.noteCart
  · exact h.cartWalk.cartPut
  · exact h.cartWalk
theorem State.memWf.cartRead {s : State} {j : CartJob} {va : B64} (h : s.memWf) : (s.cartRead j va).1.memWf := by
  unfold State.cartRead
  split
  · exact h.cartWalk.byteRead
  · exact h.noteCart
  · exact h
theorem State.memWf.cartSrcRow {s : State} {j : CartJob} {r : Nat} (h : s.memWf) : (s.cartSrcRow j r).1.memWf := by
  unfold State.cartSrcRow
  split
  · exact h
  · split
    · exact h.byteRead
    · exact h
    · exact h
theorem State.memWf.cartResid {s : State} {j : CartJob} {x : Nat} (h : s.memWf) : (s.cartResid j x).1.memWf := by
  unfold State.cartResid
  extract_lets ra
  split
  · exact h
  · exact h
  · extract_lets r sum xv q diff res rival src
    have hr : State.memWf r.1 := h.byteRead
    split
    · exact hr
    · exact .ite hr hr
theorem State.memWf.cartColumn {s : State} {j : CartJob} {col n r : Nat} (h : s.memWf) : (s.cartColumn j col n r).1.memWf := by
  induction n generalizing s r with
  | zero => exact h
  | succ n ih =>
    unfold State.cartColumn
    extract_lets x y
    have hx : State.memWf x.1 := h.cartRead
    clear_value x
    have hy : State.memWf y.1 := ih hx
    clear_value y
    split
    · exact hx
    · split
      · exact hy
      · exact hy
theorem State.memWf.scanElem {s : State} {j : CartJob} {r col : Nat} (h : s.memWf) : (s.scanElem j r col).1.memWf := by
  unfold State.scanElem
  extract_lets x
  have hx : State.memWf x.1 := h.cartRead
  split <;> exact hx
theorem State.memWf.cartElem {s : State} {j : CartJob} (h : s.memWf) : (s.cartElem j).1.memWf := by
  unfold State.cartElem
  extract_lets r col x src row
  have hx : State.memWf x.1 := h.cartColumn
  have hsrc : State.memWf src := hx
  have hrow : State.memWf row.1 := h.cartSrcRow
  split
  · exact h
  · split
    · split
      · exact h.scanElem
      · split
        · exact hx
        · exact hsrc
    · split
      · exact hrow
      · extract_lets x1
        have hx1 : State.memWf x1.1 := hrow.cartRead
        split
        · exact hx1
        · extract_lets q
          have hq : State.memWf q.1 := hx1.cartResid
          split
          · exact hq
          · exact hx1
theorem State.memWf.cartStep {s : State} {j : CartJob} (h : s.memWf) : (s.cartStep j).1.memWf := by
  unfold State.cartStep
  extract_lets x
  have hx : State.memWf x.1 := h.cartElem
  split
  · exact hx
  · extract_lets w src
    have hw : State.memWf w.1 := hx.cartWrite
    split
    · exact hx
    · exact hw
theorem State.memWf.cartAsk {s : State} {j : CartJob} {left : Nat} (h : s.memWf) : (s.cartAsk j left).1.memWf := by
  unfold State.cartAsk
  extract_lets r col va n
  split
  · exact h.noteCart
  · exact h
  · exact h.cartWalk
theorem State.memWf.cartMove {fuel left : Nat} {s : State} {j : CartJob} (h : s.memWf) :
    (State.cartMove fuel left s j).1.memWf := by
  induction fuel generalizing left s j with
  | zero => exact h
  | succ fuel ih =>
    unfold State.cartMove
    split
    · split
      · exact h
      · exact ih h.cartResidPart
    · split
      · exact h
      · exact ih h.cartPart
    · split
      · exact h
      split
      · exact h.cartFlush
      split
      · exact h
      · refine ih ?_
        split
        · exact h.cartAsk
        · exact h.cartStep
theorem State.memWf.cartDrain {fuel left : Nat} {s : State} {j : CartJob} (h : s.memWf) :
    (State.cartDrain fuel left s j).1.memWf := by
  induction fuel generalizing left s j with
  | zero => exact h
  | succ fuel ih =>
    unfold State.cartDrain
    split
    · exact h
    split
    · exact ih h.cartPart
    · exact h
    · split
      · exact h
      · exact ih h
      · split
        · exact ih h
        · exact ih h.cartWrite
theorem State.memWf.cartStart {s : State} {j : CartJob} (h : s.memWf) : (s.cartStart j).1.memWf := by
  unfold State.cartStart
  extract_lets s1 j1
  have hs1 : State.memWf s1 := h.flushBefore
  split
  · exact hs1
  · split
    · exact hs1.noteCart
    · exact hs1
    · split
      · exact hs1
      · split <;> exact hs1
theorem State.memWf.cartServe {s : State} {core most : Nat} {stay : Bool} (h : s.memWf) : (s.cartServe core most stay).memWf := by
  unfold State.cartServe
  extract_lets b v c
  have hv : State.memWf v.2.2 := h.serveStreams
  split
  · exact hv
  · exact hv.cartMove.cartTell
theorem State.memWf.cartBytes {s : State} {croft n : Nat} (h : s.memWf) : (s.cartBytes croft n).memWf := by
  unfold State.cartBytes
  split
  · exact h
  · split
    · exact h
    · exact h.cartServe
theorem State.memWf.cartReply {s : State} {r : ROp} {pkt : Nat} {status : BitVec 8} {data : List Byte} {member : Nat}
    (h : s.memWf) : (s.cartReply r pkt status data member).memWf := by
  unfold State.cartReply
  split <;> exact h
theorem State.memWf.cartData {s : State} {core uid n : Nat} (h : s.memWf) : (s.cartData core uid n).memWf := by
  unfold State.cartData
  split
  · exact h
  · split
    · exact h
    · exact h.cartDrain.cartTell
theorem State.memWf.cartMessage {s : State} {j : CartJob} (h : s.memWf) : (s.cartMessage j).memWf := .ite h h
theorem State.memWf.cartWord {s : State} {j : CartJob} {n : Nat} (h : s.memWf) : (s.cartWord j n).1.memWf := by
  unfold State.cartWord
  extract_lets bs
  split
  · exact h
  · exact h.partyWrite.cartWritten
theorem State.memWf.cartFinish {s : State} {j : CartJob} (h : s.memWf) : (s.cartFinish j).memWf := h.cartWord.jobDone.cartMessage
theorem State.memWf.statusBytes {s : State} {core n k : Nat} (h : s.memWf) : (s.statusBytes core n k).memWf := by
  unfold State.statusBytes
  split
  · exact h
  · split
    · exact h
    · exact .ite h h.cartDrain.cartTell.cartWord

end Sys2Proof.Machine
end

section
/-! # Remote operations, the Well and the home of a line -/
open Sys2Proof
namespace Sys2Proof.Machine

/-! ## Machine/Remote.lean -/

theorem Exec.Keeps.lateOk {l : List SReg} : Exec.Keeps (lateOk l) := by
  induction l with
  | nil => exact .pure
  | cons r rs ih => exact .ite ih (.bind .notPort fun _ => .bind .settled fun _ => ih)
theorem Exec.Keeps.writeStatus {f : RForm} {status : B64} : Exec.Keeps (writeStatus f status) := by
  unfold Machine.writeStatus
  split
  · exact .bind .writeS fun _ => .writeS
  · exact .ite .writeS .pure
  · exact .pure
theorem Exec.Keeps.windowAt {va tval : B64} : Exec.Keeps (windowAt va tval) := by
  unfold Machine.windowAt
  refine .get fun _ h => .bind (.set h.walked) fun _ => ?_
  split
  · exact .pure
  · exact .trap
  · exact .throw trivial
theorem Exec.Keeps.mcastWindow {s0 : State} {va x : B64} (hs0 : s0.memWf) : Exec.Keeps (mcastWindow s0 va x) := by
  unfold Machine.mcastWindow
  refine .ite .windowAt ?_
  split
  · exact .windowAt
  · exact .halt hs0.walked.bumpWalk.takeTrap
  · exact .halt hs0.walked.takeTrap
theorem Exec.Keeps.remoteRoom : Exec.Keeps remoteRoom := .get fun _ _ => .ite .stall .pure
theorem State.memWf.recordDep {s : State} {t : BitVec 32} {dev : Nat} (h : s.memWf) : (s.recordDep t dev).1.memWf := by
  unfold State.recordDep
  extract_lets k
  split
  · exact h
  · split <;> exact h
theorem State.memWf.recordDeps {s : State} {dev : Nat} {l : List (BitVec 32)} (h : s.memWf) : (s.recordDeps dev l).1.memWf := by
  induction l generalizing s with
  | nil => exact h
  | cons t ts ih =>
    have hq := ih (s := (s.recordDep t dev).1) h.recordDep
    unfold State.recordDeps
    extract_lets r q
    split
    · exact hq
    · exact hq
theorem State.memWf.voidNew {s : State} {tok : BitVec 32} {status : BitVec 8} (h : s.memWf) : (s.voidNew tok status).memWf :=
  .ite h h.settleTok
theorem Exec.Keeps.refuseVoid {f : RForm} {va : B64} {p : Packet} {tok : BitVec 32} : Exec.Keeps (refuseVoid f va p tok) := by
  unfold Machine.refuseVoid
  exact .bind (.modify fun _ h => h.skipNotice.voidNew.sweepTokens) fun _ => .ite .writeStatus (.get fun _ h =>
      .halt h.endRefused.startAll)
theorem Exec.Keeps.remoteIssue {s0 : State} {f : RForm} {va : B64} (h0 : s0.memWf) : Exec.Keeps (remoteIssue s0 f va) := by
  unfold Machine.remoteIssue
  refine .bind .aligned fun _ => .bind .windowAt fun w => .bind .remoteRoom fun _ => .get fun s h => .ite .trap (.ite .stall ?_)
  rcases f.newTok with _ | n
  · refine .bind .pure fun tok => .bind .pure fun _ => .ite (.bind (.modify fun _ h => .sweepTokens h.voidNew) fun _ =>
      .writeStatus) ?_
    refine .get fun s h => .ite (.bind .modThr fun _ => .refuseVoid) ?_
    exact .set (.sweepTokens (.recordDeps h))
  · refine .bind (.newToken h0) fun tok => .bind .modThr fun _ => .ite (.bind (.modify fun _ h => .sweepTokens h.voidNew) fun _ =>
      .writeStatus) ?_
    refine .get fun s h => .ite (.bind .modThr fun _ => .refuseVoid) ?_
    exact .set (.sweepTokens (.recordDeps h))
theorem Exec.Keeps.rldBody {q : Bool} {d a : SReg} : Exec.Keeps (rldBody q d a) := by
  unfold Machine.rldBody
  extract_lets f
  refine .bind .thr fun t => ?_
  generalize t.phase = ph
  cases ph with
  | answered v st => exact .bind .writeS fun _ => .ite .writeS .pure
  | idle =>
    refine .bind .lateOk fun _ => .bind .readS fun _ => .bind .aligned fun _ => .bind .windowAt fun _ =>
        .bind .remoteRoom fun _ => .get fun _ h => ?_
    exact .ite (.bind (.set h) fun _ => .sentWait) (.ite .writeStatus .trap)
  | _ => exact .stall
theorem Exec.Keeps.readToks {x : Toks} : Exec.Keeps (readToks x) := by
  unfold Machine.readToks
  split
  · exact .pure
  · exact .bind .readD fun _ => .pure
  · exact .bind .readD fun _ => .bind .readD fun _ => .pure
theorem State.memWf.settleOp {s : State} {r : ROp} {status : B64} {data : List Byte} (h : s.memWf) :
    (s.settleOp r status data).memWf :=
  .ite h h
theorem State.memWf.refusedPlain {s : State} {r : ROp} {status : Nat} {p : Packet} (h : s.memWf) :
    (s.refusedPlain r status p).memWf :=
  h.endRefused.startAll
theorem State.memWf.answerOp {s : State} {r : ROp} {last : Bool} {p : Packet} {status : BitVec 8} {data : List Byte}
    {member : Nat} (h : s.memWf) : (s.answerOp r last p status data member).memWf := by
  unfold State.answerOp
  extract_lets pkt code s1 s2
  have hs1 : State.memWf s1 := .ite h.settleOp h
  have hs2 : State.memWf s2 := h.settleOp
  split
  · exact h.cartReply
  · exact .ite h.refusedPlain h.answer
  · exact .ite hs1.refusedPlain hs1
  · exact .ite hs2.refusedPlain hs2
theorem State.memWf.replyIn {s : State} {p : Reply} (h : s.memWf) : (s.replyIn p).memWf := by
  unfold State.replyIn
  split
  · exact h
  · extract_lets s1 o src s2 src1
    have hs1 : State.memWf s1 := by
      unfold s1
      split
      · exact .ite h h
      · exact h
    have hs2 : State.memWf s2 := .ite hs1 hs1
    split
    · exact h
    · exact .ite h (.ite (.ite hs2 (.settleTok hs2)) (.answerOp (.ite hs2 (.settleTok hs2))))

/-! ## Machine/Light.lean -/

theorem State.memWf.serveGrant {s : State} {ctx p g : Nat} (h : s.memWf) : (s.serveGrant ctx p g).1.memWf := by
  unfold State.serveGrant
  extract_lets ans quota room
  split
  · exact h
  · extract_lets lo pool avail new st
    split
    · exact h
    · split
      · exact h.darken.lightChanged
      · split
        · exact h
        · split
          · exact h
          · exact h.setGrant.lightChanged
theorem State.memWf.writePath {s : State} {p : Nat} {r : List Byte} (h : s.memWf) : (s.writePath p r).memWf :=
  .lightChanged h.darken
theorem State.memWf.serve {s : State} {q : WellReq} (h : s.memWf) : (s.serve q).1.memWf := by
  unfold State.serve
  split
  · exact h.serveGrant
  · exact h
  · split
    · exact h
    · exact h.writePath
  · split <;> exact h
theorem Exec.Keeps.askWell {kind p : Nat} {arg : B64} {recd : List Byte} : Exec.Keeps (askWell kind p arg recd) :=
  .modify fun _ h => h
theorem Exec.Keeps.readPathRec {va : B64} : Exec.Keeps (readPathRec va) := by
  unfold Machine.readPathRec
  refine .get fun _ h => .ite .trap ?_
  split
  · exact .trap
  · exact .bind .filed fun _ => .bind (.modify fun _ h1 => h1.prepRead) fun _ => .get fun _ h1 => .pure
theorem State.memWf.stepped {s : State} {p : Nat} {x : Path} (h : s.memWf) : (s.stepped p x).memWf :=
  .ite (.movePower h) (.ite h.telLanes h)
theorem State.memWf.stepPort {s : State} {p port : Nat} {x : Path} (h : s.memWf) : (s.stepPort p port x).memWf :=
  .ite (.stepped h) h
theorem State.memWf.reshare {s : State} {p : Nat} (h : s.memWf) : (s.reshare p).memWf := by
  unfold State.reshare
  split
  · exact h
  · exact .ite h (.ite h.darken (.acceptChange (.share h)))
theorem State.memWf.resharePort {s : State} {q : Nat} (h : s.memWf) : (s.resharePort q).memWf := by
  unfold State.resharePort
  split
  · exact h.reshare
  · exact h
theorem State.memWf.failPort {s : State} {q : Nat} (h : s.memWf) : (s.failPort q).memWf := by
  unfold State.failPort
  extract_lets s1 ls s2 src
  have hs1 : State.memWf s1 := h.setReady.fleetEv
  have hs2 : State.memWf s2 := hs1.telLanes
  exact hs2
theorem State.memWf.resendLost {s : State} {lost : OutPkt → Bool} (h : s.memWf) : (s.resendLost lost).memWf :=
  .foldl h fun _ _ h1 => h1.resendPkt
theorem State.memWf.resendFree {s : State} {q : Nat} (h : s.memWf) : (s.resendFree q).memWf := .resendLost h
theorem State.memWf.eraseLane {s : State} {n : Nat} {laser : Bool} (h : s.memWf) : (s.eraseLane n laser).memWf := by
  unfold State.eraseLane
  extract_lets q s1 s2 k src s3 s4
  have hs1 : State.memWf s1 := h.telLanes
  have hs2 : State.memWf s2 := .fleetEv hs1
  have hs3 : State.memWf s3 := .ite (.fleetEv hs2) (.ite hs2.failPort hs2)
  have hs4 : State.memWf s4 := hs3.resharePort.lightChanged
  exact .ite hs4.resendFree hs4
theorem State.memWf.judge {s : State} {p : Nat} (h : s.memWf) : (s.judge p).memWf := by
  unfold State.judge
  split
  · exact h
  · exact .ite h (.reevaluate (.foldl h fun _ _ h1 => .ite h1.eraseLane h1))
theorem State.memWf.judgePort {s : State} {q : Nat} (h : s.memWf) : (s.judgePort q).memWf := by
  unfold State.judgePort
  split
  · exact h.judge
  · exact h
theorem State.memWf.returnLost {s : State} {dev : Nat} {lost : List Nat} (h : s.memWf) : (s.returnLost dev lost).memWf :=
  .ite h (.resendLost (.lightChanged h))
theorem State.memWf.returnTrained {s : State} {dev : Nat} (h : s.memWf) : (s.returnTrained dev).memWf := .ite (.lightChanged h) h
theorem State.memWf.undecodable {s : State} {port dev pkt cw : Nat} (h : s.memWf) : (s.undecodable port dev pkt cw).memWf :=
  .countSq h

/-! ## Machine/Home.lean -/

theorem State.memWf.valueBack {s : State} {tid : Nat} (h : s.memWf) : (s.valueBack tid).memWf := by
  unfold State.valueBack
  extract_lets t
  split
  · split
    · exact h
    · exact h.answer
  · exact h
theorem State.memWf.storeArrives {s : State} {n : Nat} (h : s.memWf) : (s.storeArrives n).memWf := by
  unfold State.storeArrives
  split
  · exact h
  · exact .ite h.performAll h
theorem State.memWf.dropCopies {s : State} {pa : Nat} (h : s.memWf) : (s.dropCopies pa).memWf := by
  unfold State.dropCopies
  extract_lets home
  split <;> exact h
theorem State.memWf.cxl {s : State} {a : CxlAcc} (h : s.memWf) : (s.cxl a).memWf := by
  unfold State.cxl
  extract_lets src v
  split
  · exact h
  · split
    · exact .ite h h.recall
    · exact .ite h (.portWrite (.foldl h fun _ _ h1 => h1.dropCopies))

end Sys2Proof.Machine
end

section
/-! # Power, the fleet, the host and saved contexts -/
open Sys2Proof
namespace Sys2Proof.Machine

/-! ## Machine/Power.lean -/

theorem State.memWf.refill {s : State} (h : s.memWf) : s.refill.memWf := .foldl h fun _ _ h1 => h1
theorem State.memWf.squallCore {s : State} {core : Nat} (h : s.memWf) : (s.squallCore core).memWf := .count h
theorem State.memWf.squallAt {s : State} {t : Nat} (h : s.memWf) : (s.squallAt t).memWf := by
  unfold State.squallAt
  split
  · exact h
  · extract_lets s1
    have h1 : s1.memWf := .foldl h fun _ _ h => h.squallCore
    clear_value s1
    exact h1
theorem State.memWf.errRecordFree {s : State} {kind ctx cause : Nat} (h : s.memWf) : (s.errRecordFree kind ctx cause).memWf :=
  h.errRecord
theorem State.memWf.endOutside {s : State} {ctx cause : Nat} (h : s.memWf) : (s.endOutside ctx cause).memWf := h.endContext
theorem State.memWf.spoilArea {s : State} {v : Save} (h : s.memWf) : (s.spoilArea v).memWf := h.homeWrite
theorem State.memWf.killCtx {s : State} {ctx : Nat} (h : s.memWf) : (s.killCtx ctx).memWf :=
  .endOutside (.foldl h fun _ _ h1 => h1.spoilArea)
theorem State.memWf.killFrom {s : State} {lo : Nat} (h : s.memWf) : (s.killFrom lo).memWf := by
  unfold State.killFrom
  extract_lets busy fl p s1 s2 fl2
  have h1 : s1.memWf := h.errRecordFree
  clear_value s1
  have h2 : s2.memWf := .foldl h1 fun _ _ h => h.killCtx
  clear_value s2
  clear_value busy
  cases busy with
  | nil => exact h
  | cons c cs => exact h2
theorem State.memWf.spoilSave {s : State} {ctx : Nat} (h : s.memWf) : (s.spoilSave ctx).memWf := .foldl h fun _ _ h1 => h1.setCmd
theorem State.memWf.uncorrected {s : State} (h : s.memWf) : s.uncorrected.memWf := .fleetEv h
theorem State.memWf.setDiv {s : State} {core d : Nat} (h : s.memWf) : (s.setDiv core d).memWf := .ite h (.ite h h)
theorem State.memWf.raiseDivs {s : State} {t : Nat} (h : s.memWf) : (s.raiseDivs t).memWf :=
  .foldl h fun _ _ h1 => .ite h1.setDiv h1
theorem State.memWf.powerOn {s : State} {core : Nat} (h : s.memWf) : (s.powerOn core).memWf := .ite h (.startAll (.reeveAll h))
theorem State.memWf.stewardApply {s : State} {w : StewardWrite} (h : s.memWf) : (s.stewardApply w).memWf := by
  unfold State.stewardApply
  extract_lets v src vid m worse d s1 s2
  have hs1 : State.memWf s1 := .ite h h.setDiv
  have hs2 : State.memWf s2 := hs1
  split
  · exact h
  · exact .ite h h
  · exact .ite hs2 hs2.wakeCore
theorem State.memWf.stewardNotice {s : State} {core : Nat} (h : s.memWf) : (s.stewardNotice core).memWf :=
  .ite h.wakeReeve.wakeCore h
theorem State.memWf.steward {s : State} (h : s.memWf) : s.steward.memWf := .foldl h fun _ _ h1 => h1.stewardApply

/-! ## Machine/Fleet.lean -/

theorem State.memWf.resetWith {s : State} {b : Boot} : (s.resetWith b).memWf := wf_nil
theorem State.memWf.trained {s : State} {f : Func} (h : s.memWf) : (s.trained f).memWf := by
  unfold State.trained
  extract_lets src
  split
  · exact .ite h.setReady h
  · exact .ite h.setReady h
  · exact .ite h.setReady h
  · exact .ite (.setReady h) h
  · exact .ite h.setReady.lightChanged h
  · exact .ite h.setReady h
  · exact .ite h.setReady h
theorem State.memWf.sampleLane {s : State} {n bias : Nat} (h : s.memWf) : (s.sampleLane n bias).memWf :=
  .ite h (.ite (.fleetEv h) h)
theorem State.memWf.laneTemp {s : State} {n : Nat} {t : BitVec 16} (h : s.memWf) : (s.laneTemp n t).memWf := .ite h h
theorem State.memWf.keyDone {s : State} (h : s.memWf) : s.keyDone.memWf := by
  unfold State.keyDone
  extract_lets f s1 blob
  have hs1 : State.memWf s1 := h.mergeAt
  split
  · exact h
  · exact .fleetEv hs1
theorem State.memWf.keySwitch {s : State} {v : B64} (h : s.memWf) : (s.keySwitch v).memWf := .fleetEv h
theorem State.memWf.noteDoubt {s : State} {n : Nat} (h : s.memWf) : (s.noteDoubt n).memWf := h.errRecord.fleetEv
theorem State.memWf.readSensors {s : State} {rs : List (Nat × BitVec 16)} (h : s.memWf) : (s.readSensors rs).memWf := by
  unfold State.readSensors
  extract_lets rs1 newRaw ns r s1
  have hr : State.memWf r.1 := by
    refine foldl_holds (P := fun x : State × List Nat => x.1.memWf) (fun a n h => ?_) ns (s, []) h
    exact h
  clear_value r
  have h1 : s1.memWf := .foldl hr fun _ _ h => h.noteDoubt
  exact .foldl h1 fun _ _ h => h.raiseDivs
theorem State.memWf.wellcfg {s : State} {v : B64} (h : s.memWf) : (s.wellcfg v).memWf :=
  .ite h (.ite h (.foldl h fun _ _ h1 => h1.judge))
theorem State.memWf.almbaseSet {s : State} {v : B64} (h : s.memWf) : (s.almbaseSet v).memWf := .ite h (.ite h h)
theorem State.memWf.almtailSet {s : State} {v : B64} (h : s.memWf) : (s.almtailSet v).memWf := .ite h (.ite h h)
theorem State.memWf.regWrite {s : State} {off : Nat} {v : B64} (h : s.memWf) : (s.regWrite off v).memWf := by
  unfold State.regWrite
  extract_lets unit at_ src src1 src2 b
  exact .ite h (.ite h (.ite h (.ite h (.ite h (.ite h (.ite h (.ite h (.ite h (.ite (.fleetIrq h) (.ite (.ite h h) h))))))))))

/-! ## Machine/Host.lean -/

theorem State.memWf.hostMiss {s : State} {ctx : Nat} {vas : List Nat} (h : s.memWf) : (s.hostMiss ctx vas).memWf := by
  unfold State.hostMiss
  split
  · exact h.bumpWalk
  · exact h
theorem State.memWf.finish {s : State} {c : Cmd} {status result : Nat} (h : s.memWf) : (s.finish c status result).memWf :=
  h.setCmd
theorem State.memWf.abort {s : State} {q : Nat} (h : s.memWf) : (s.abort q).memWf :=
  .setCmd (.dropLaunches (.foldl h fun _ _ h1 => h1.setCmd))
theorem State.memWf.recallLeft {s : State} {ids : List Nat} (h : s.memWf) : (s.recallLeft ids).memWf :=
  .foldl h fun _ _ h1 => h1.showSers
theorem State.memWf.accepted {s : State} {b : List B64} (h : s.memWf) : (s.accepted b).memWf := by
  unfold State.accepted
  extract_lets q s1 s2 src s3 s4 s5 src1 src2
  have hs1 : State.memWf s1 := h.homeWrite
  have hs2 : State.memWf s2 := hs1.homeWrite
  have hs3 : State.memWf s3 := .countSq (.same hs2 rfl)
  have hs4 : State.memWf s4 := hs3.mergeWhere
  have hs5 : State.memWf s5 := hs4.recallLeft
  split
  · split
    · exact .setCmd (.ite hs4.hostMiss.hostMiss hs4)
    · exact .same hs5 rfl
  · exact .ite hs3.setCmd (.ite hs3.abort (.same hs3 rfl))
theorem State.memWf.post {s : State} {whole : Bool} {b : List B64} (h : s.memWf) : (s.post whole b).memWf :=
  .ite h (.ite h h.accepted)
theorem State.memWf.command {s : State} {row : Nat} {a : HostArg} {run : State → Cmd → State} (h : s.memWf)
    (hr : ∀ (t : State) (c : Cmd), t.memWf → (run t c).memWf) : (s.command row a run).memWf := by
  unfold State.command
  split
  · exact .ite h.post h
  · split
    · exact h
    · exact hr _ _ h.setCmd
theorem State.memWf.createCtx {s : State} {c : Cmd} (h : s.memWf) : (s.createCtx c).memWf :=
  .ite h.finish (.ite h.finish (.finish h))
theorem State.memWf.loadCore {s : State} {x : Nat} {k : Ctx} {core : Nat} (h : s.memWf) : (s.loadCore x k core).memWf :=
  h.keepCounts
theorem State.memWf.placeCtx {s : State} {c : Cmd} (h : s.memWf) : (s.placeCtx c).memWf := by
  unfold State.placeCtx
  extract_lets x cores new
  split
  · exact h.finish
  · exact .ite h.finish (.ite h.finish (.finish (.foldl (.ite h h) fun _ _ h1 => h1.loadCore)))
theorem State.memWf.finishEnds {s : State} (h : s.memWf) : s.finishEnds.memWf := .ite h (.foldl h fun _ _ h1 => .setCmd h1)
theorem State.memWf.endCtx {s : State} {c : Cmd} (h : s.memWf) : (s.endCtx c).memWf := by
  unfold State.endCtx
  extract_lets x
  split
  · exact h.finish
  · exact .finishEnds (.ite h h.endOutside)
theorem State.memWf.classData {s : State} {c : Cmd} (h : s.memWf) : (s.classData c).memWf := by
  unfold State.classData
  extract_lets x n
  split
  · exact h.finish
  · exact .finish h
theorem State.memWf.startLaunch {s : State} {c : Cmd} (h : s.memWf) : (s.startLaunch c).memWf := .foldl h fun _ _ h1 => h1
theorem State.memWf.trigger {s : State} {lid : Nat} (h : s.memWf) : (s.trigger lid).memWf := by
  unfold State.trigger
  extract_lets deps nots src src1
  split
  · exact h
  · exact .ite h (.dropLaunches h)
theorem State.memWf.flushBufs {s : State} {x : Nat} (h : s.memWf) : (s.flushBufs x).memWf := .foldl h fun _ _ h1 => h1.cartFlush
theorem State.memWf.drainCtx {s : State} {x : Nat} (h : s.memWf) : (s.drainCtx x).memWf :=
  .mergeWhere (.performAll (.foldl h.finishParts.flushBufs.endApplies fun _ _ h1 => h1.fileUpTo))
theorem State.memWf.finishAfter {s : State} {c : Cmd} {result : Nat} {ops : List Nat} (h : s.memWf) :
    (s.finishAfter c result ops).memWf :=
  .ite h.finish h
theorem State.memWf.finishShoots {s : State} (h : s.memWf) : s.finishShoots.memWf := .ite h (.foldl h fun _ _ h1 => h1.setCmd)
theorem State.memWf.shootdown {s : State} {c : Cmd} (h : s.memWf) : (s.shootdown c).memWf :=
  .ite h.finish (.finishAfter (.drainCtx h))
theorem State.memWf.winSet {s : State} {c : Cmd} (h : s.memWf) : (s.winSet c).memWf :=
  .ite h.finish (.ite h.finish (.ite h.hostMiss.finish (.finish h)))
theorem State.memWf.winRevoke {s : State} {c : Cmd} (h : s.memWf) : (s.winRevoke c).memWf := .finish h.endApplies
theorem State.memWf.attest {s : State} {c : Cmd} (h : s.memWf) : (s.attest c).memWf := by
  unfold State.attest
  extract_lets x
  split
  · exact h.finish
  · exact .ite h.finish h.homeWrite.finish

/-! ## Machine/Image.lean -/

theorem State.memWf.squareWrite {s : State} {l : Nat} {data : List Byte} (h : s.memWf) : (s.squareWrite l data).memWf :=
  h.recall.poke
theorem State.memWf.writeVirt {s : State} {x : Nat} {l : List Nat} {data : List Byte} (h : s.memWf) :
    (s.writeVirt x l data).memWf := by
  induction l generalizing s data with
  | nil => exact h
  | cons va vas ih =>
    unfold State.writeVirt
    split
    · exact h
    · exact ih h.squareWrite
theorem State.memWf.placeSeg {s : State} {x : Nat} {f : List Byte} {d : B64} {i : Nat} (h : s.memWf) :
    (s.placeSeg x f d i).memWf :=
  .ite h.writeVirt (.ite (.foldl h fun _ _ h1 => h1.squareWrite) h)
theorem State.memWf.sealPage {s : State} {x root va : Nat} (h : s.memWf) : (s.sealPage x root va).memWf := by
  unfold State.sealPage
  split
  · exact h
  · exact h.squareWrite
theorem State.memWf.placeImage {s : State} {x : Nat} {k : Ctx} {f : List Byte} {d : B64} (h : s.memWf) :
    (s.placeImage x k f d).memWf := by
  unfold State.placeImage
  extract_lets gs is measured s1 text s2 table dflt k1 s3
  have h1 : s1.memWf := .foldl h fun _ _ h => h.placeSeg
  clear_value s1
  have h2 : s2.memWf := .drainCtx (.foldl h1 fun _ _ h => h.sealPage)
  clear_value s2
  exact h2
theorem State.memWf.imgLoad {s : State} {c : Cmd} (h : s.memWf) : (s.imgLoad c).memWf := by
  unfold State.imgLoad
  extract_lets b x d s1 f pages text
  have hs1 : State.memWf s1 := h.mergeWhere
  split
  · exact h.finish
  · extract_lets s'
    have hs' : State.memWf s' := hs1.placeImage
    split
    · exact h.finish
    · split
      · exact hs1.finish
      · split
        · exact .finish (.ite hs1.hostMiss hs1)
        · exact hs'.finishAfter
/-- Bytes laid over memory one by one, none stored for the value that memory does not list. -/
theorem wf_layBytes {α : Type} {at_ : α → Nat} {val : α → Byte} (l : List α) {m : List Host.Cell} (h : Memory.wf m = true) :
    Memory.wf (l.foldl (fun m x => if val x = unlisted then m else writeByte m (at_ x) (val x)) m) = true := by
  refine foldl_holds (P := fun m => Memory.wf m = true) (fun m x hm => ?_) l m h
  split
  · exact hm
  · exact wf_writeByte _ _ hm

/-! ## Machine/Save.lean -/

theorem State.memWf.writeArea {s : State} {a n : Nat} {l : List Chunk} (h : s.memWf) : (s.writeArea a n l).memWf :=
  foldl_holds (P := fun m => Memory.wf m = true) (fun _ c hm => wf_layBytes (at_ := fun b : Byte × Nat => a + c.1 + b.2)
      (val := fun b : Byte × Nat => b.1) _ hm) _ _
    (wf_filter _ h)
theorem State.memWf.startSave {s : State} {c : Cmd} (h : s.memWf) : (s.startSave c).memWf := by
  unfold State.startSave
  extract_lets b x need drain
  split
  · exact h.finish
  · exact .ite h.finish (.ite h.finish h)
theorem State.memWf.clearCore {s : State} {core : Nat} (h : s.memWf) : (s.clearCore core).memWf := by
  unfold State.clearCore
  extract_lets s1 w s2
  have h1 : s1.memWf := .foldl h fun _ _ h => h
  clear_value s1
  have h2 : s2.memWf := wf_filter _ h1
  clear_value s2
  exact h2
theorem State.memWf.saveDone {s : State} {v : Save} {k : Ctx} (h : s.memWf) : (s.saveDone v k).memWf := by
  unfold State.saveDone
  extract_lets cores n chunks slots tasks kept toks skips faults s1 digest s2 s3 s4 s5
  have h1 : s1.memWf := h.recall.writeArea
  clear_value s1
  have h2 : s2.memWf := h1.homeWrite
  clear_value s2
  have h3 : s3.memWf := h2
  clear_value s3
  have h4 : s4.memWf := .foldl h3 fun _ _ h => h.clearCore
  clear_value s4
  have h5 : s5.memWf := h4
  clear_value s5
  exact .setCmd h5
theorem State.memWf.coreFrom {s : State} {x : Nat} {k : Ctx} {core a : Nat} (h : s.memWf) : (s.coreFrom x k core a).memWf := by
  unfold State.coreFrom
  extract_lets b msgs spill counts links entries threads owns data s1 s2 bare mem s3
  clear_value threads data
  have h1 : s1.memWf := .loadCore h
  clear_value s1
  have h3 : s3.memWf := wf_layBytes (at_ := fun c : Nat × Byte => spadLoc core c.1) (val := fun c => c.2) data (wf_filter _ h1)
  clear_value s3
  exact .foldl h3 fun _ _ h => h
theorem State.memWf.recallBounces {s : State} {core : Nat} (h : s.memWf) : (s.recallBounces core).memWf :=
  .foldl h fun _ _ h1 => h1
theorem State.memWf.kinFrom {s : State} {x a : Nat} {cores : List Nat} (h : s.memWf) : (s.kinFrom x a cores).memWf := by
  unfold State.kinFrom
  exact .same h rfl
theorem State.memWf.restoreFrom {s : State} {x : Nat} {k : Ctx} {a : Nat} {cores : List Nat} (h : s.memWf) :
    (s.restoreFrom x k a cores).memWf := by
  unfold State.restoreFrom
  extract_lets s1 s2 s3
  have h1 : s1.memWf := .foldl h fun _ _ h => h.coreFrom
  clear_value s1
  have h2 : s2.memWf := .kinFrom (.foldl h1 fun _ _ h => h.recallBounces)
  clear_value s2
  exact .foldl (s := s3) h2 fun _ _ h => h.startAll
theorem State.memWf.restore {s : State} {c : Cmd} (h : s.memWf) : (s.restore c).memWf := by
  unfold State.restore
  extract_lets x a s1 n cores
  have hs1 : State.memWf s1 := h.mergeAt
  split
  · exact hs1.finish
  · split
    · exact hs1.finish
    · split
      · exact hs1.finish
      · split
        · exact hs1.finish
        · split
          · exact hs1.finish
          · exact .ite hs1.finish (.ite hs1.finish hs1.restoreFrom.finish)

/-! ## Machine/Bar.lean -/

theorem State.memWf.barRead {s : State} {off : Nat} (h : s.memWf) : (s.barRead off).memWf := .ite h (.ite h (.ite h h))

end Sys2Proof.Machine
end

section
/-! # Caches and issue -/
open Sys2Proof
namespace Sys2Proof.Machine

/-! ## Machine/Caches.lean -/

theorem State.memWf.tlbFill {s : State} {core : Nat} {va : B64} (h : s.memWf) : (s.tlbFill core va).memWf := by
  unfold State.tlbFill
  extract_lets v l1
  have hl (e : TlbEntry) {t : State} (ht : t.memWf) : (l1 e t).memWf := ht
  clear_value l1 v
  rcases (s.core core).ctx with _ | x
  · exact h
  refine .ite h ?_
  split
  · exact hl _ h
  · extract_lets s1
    have h1 : s1.memWf := h.walked
    clear_value s1
    split
    · exact h1.bumpWalk
    · exact hl _ h1
theorem State.memWf.tlbEvict {s : State} {core : Nat} {second : Bool} {n : Nat} (h : s.memWf) :
    (s.tlbEvict core second n).memWf :=
  .ite h h
theorem State.memWf.icacheRoom {s : State} {core line : Nat} (h : s.memWf) : (s.icacheRoom core line).memWf := by
  unfold State.icacheRoom
  extract_lets ls
  split
  · exact h
  · split <;> exact h
theorem State.memWf.icacheFill {s : State} {core line : Nat} (h : s.memWf) : (s.icacheFill core line).memWf :=
  .ite h h.recall.icacheRoom
theorem State.memWf.updEvict {s : State} {core line : Nat} (h : s.memWf) : (s.updEvict core line).memWf := h.mergeWhere
theorem State.memWf.corrected {s : State} {port : Option Nat} {hbm : Bool} {n : Nat} (h : s.memWf) :
    (s.corrected port hbm n).memWf := by
  unfold State.corrected
  extract_lets src s1
  have hs1 : State.memWf s1 := h
  split
  · exact .ite (.countSq h) h
  · exact .ite hs1.countSq hs1
theorem State.memWf.engineRecord {s : State} {ctx tid : Nat} (h : s.memWf) : (s.engineRecord ctx tid).memWf := h.errRecord
theorem State.memWf.engineError {s : State} {core : Nat} {cart : Bool} (h : s.memWf) : (s.engineError core cart).memWf := by
  unfold State.engineError
  extract_lets c
  split
  · split
    · exact .ite h (.engineRecord (.uncorrected h))
    · exact h
  · split
    · exact .ite h (.engineRecord (.uncorrected h))
    · exact h
theorem State.memWf.applyError {s : State} {n : Nat} (h : s.memWf) : (s.applyError n).memWf := by
  unfold State.applyError
  extract_lets src
  split
  · exact h
  · exact .ite (.refusePkt (.uncorrected h)) h
theorem State.memWf.earlyRead {s : State} {r : Reader} {loc n : Nat} (h : s.memWf) : (s.earlyRead r loc n).memWf := by
  unfold State.earlyRead
  split
  · split
    · exact h
    · exact .ite h h.observe.readAhead
  · split
    · exact h
    · exact .ite h h.observe.readAhead
  · extract_lets x
    have hx : State.memWf x.1 := h.observe.readAhead
    split
    · exact h
    · split
      · exact hx
      · exact hx
      · exact h
  · split
    · exact h
    · exact .ite h h.pktObserve.readAhead
  · split
    · exact h
    · exact .ite h h.binTouch.readAhead
theorem State.memWf.llcCount {s : State} {hits misses : Nat} (h : s.memWf) : (s.llcCount hits misses).memWf := h.countSq.countSq

/-! ## Machine/Issue.lean -/

theorem State.memWf.running {s : State} {tid : Nat} (h : s.memWf) : (s.running tid).memWf := by
  unfold State.running
  extract_lets core c step s1 s2 s3
  have h1 : s1.memWf := .foldl h fun _ _ h => .ite h h
  clear_value s1
  have h2 : s2.memWf := h1.leftReady
  clear_value s2
  exact h2
theorem State.memWf.fallAsleep {s : State} {tid : Nat} (h : s.memWf) : (s.fallAsleep tid).memWf := by
  unfold State.fallAsleep
  exact .leftReady h
theorem State.memWf.issued {s : State} {tid : Nat} {i : Instr} (h : s.memWf) : (s.issued tid i).memWf := by
  unfold State.issued
  extract_lets core s1 cost s2 s3 s4
  have h1 : s1.memWf := .fetched h
  clear_value s1
  have h2 : s2.memWf := h1.running
  clear_value s2
  exact .count h2
theorem State.memWf.settled {s : State} (h : s.memWf) : s.settled.memWf := .finishShoots (.finishEnds h.restVisits)

end Sys2Proof.Machine
end

section
/-! # Canonical memory: instructions, steps of the part, and the plan -/
open Sys2Proof
namespace Sys2Proof.Machine

/-- A step that goes on does so with canonical memory. -/
def Kept (o : Host.Outcome State Fault Refusal) : Prop := ∀ t, o = .next t → t.memWf

theorem Kept.next {t : State} (h : t.memWf) : Kept (.next t) := by
  intro u hu
  cases hu
  exact h
theorem Kept.runI {s : State} {len : Nat} {body : Exec Unit} (h : s.memWf) (hb : body.Keeps) : Kept (.next (runI len body s)) :=
  .next (.runI h hb)
theorem Kept.runJ {s : State} {len : Nat} {body : Exec B64} (h : s.memWf) (hb : body.Keeps) : Kept (.next (runJ len body s)) :=
  .next (.runJ h hb)
theorem Kept.ite {c : Prop} [Decidable c] {a b : Host.Outcome State Fault Refusal} (ha : Kept a) (hb : Kept b) :
    Kept (if c then a else b) := by
  split
  · exact ha
  · exact hb

section
variable {s : State} (h : s.memWf)
include h

theorem Kept.execCinv {a : SReg} : Kept (execCinv a s) := by
  refine .runI h (.bind .readS fun x => .get fun s h => .bind (.set (.walked h)) fun _ => .ite .pure (.ite .trap ?_))
  split
  · exact .trap
  · exact .ite (.throw trivial) (.ite .pure (.modify fun _ h => h.cinvLine))
theorem Kept.execBouncedMessageResend {core : Option Nat} : Kept (execBouncedMessageResend core s) := by
  rcases core with _ | c
  · exact .next (.same h.resendAll rfl)
  · exact .next (.same h.resendAll rfl)
theorem Kept.execTrig : Kept (execTrig s) := by
  refine .runI h (.get fun s h => ?_)
  dsimp only
  split
  · exact .ite .pure (.set (.same h.launchTrig rfl))
  · exact .pure
theorem Kept.execWaitev {d a : SReg} : Kept (execWaitev d a s) := by
  refine .runI h (.bind .readS fun m => .ite .trap (.get fun s _ => ?_))
  split
  · exact .writeS
  · exact .ite .stall .writeS
theorem Kept.execKinReleaseArrival {n : Nat} : Kept (execKinReleaseArrival n s) := by
  unfold Machine.execKinReleaseArrival
  split
  · exact .next h
  · exact .next (.answer h)
theorem Kept.execKcountAnswer {n : Nat} : Kept (execKcountAnswer n s) := by
  unfold Machine.execKcountAnswer
  split
  · exact .next h
  · exact .next (.answer h)
theorem Kept.execKjoin {a : SReg} : Kept (execKjoin a s) := by
  refine .runI h (.bind .kinSet fun x => .bind .thr fun t => .ite .pure ?_)
  extract_lets join
  have hj (u : Unit) : (join u).Keeps := .bind .kinSend fun _ => .modThr
  rcases t.kin with _ | old
  · exact hj ()
  · exact .bind .kinSend hj
theorem Kept.execKbar {a : SReg} : Kept (execKbar a s) := by
  refine .runI h (.bind .thr fun t => ?_)
  generalize t.phase = ph
  cases ph with
  | answered v v2 => exact .modThr
  | idle =>
    refine .bind .kinSet fun x => .ite .trap (.bind (.modify fun _ h => .release h) fun _ => .bind .kinSend fun _ =>
        .bind .modThr fun _ => ?_)
    exact .sentWait
  | _ => exact .stall
theorem Kept.execBindLink {p : PortReg} {r : Dir} {f : Bool} : Kept (execBindLink p r f s) := by
  refine .runI h (.bind .freePort fun _ => .get fun s _ => ?_)
  split
  · exact .ite .portTrap .setPort
  · exact .bind .modCore fun _ => .setPort
theorem Kept.execUnbind {p : PortReg} : Kept (execUnbind p s) := by
  refine .runI h (.bind .boundPort fun q => .bind .drainPort fun _ => .bind .modThr fun _ => ?_)
  split
  · exact .bind .thr fun t => .ite .pure .modCore
  · exact .pure
theorem Kept.execSkipPort {p : PortReg} {a : SReg} : Kept (execSkipPort p a s) := by
  refine .runI h (.bind .thr fun t => .bind .boundPort fun q0 => .ite .portTrap ?_)
  extract_lets next
  have hn (x : B64) : (next x).Keeps := by
    refine .bind .boundPort fun q => .get fun s h => ?_
    split
    · exact .portTrap
    · exact .ite .portTrap .setPort
    · extract_lets want held r
      have hr : State.memWf r.2 := by
        unfold r
        split
        · exact h
        · exact h.discard
      clear_value r
      exact .ite (.halt (.stallCur hr)) (.set hr)
  rcases t.skipArg with _ | x
  · exact .bind .readS hn
  · exact .bind .pure hn
theorem Kept.execSfuRequestService {croft : Nat} : Kept (execSfuRequestService croft s) := by
  refine .ite (.next h) ?_
  split
  · exact .next h
  · exact .next h
theorem Kept.execSfuResultWrite {croft : Nat} : Kept (execSfuResultWrite croft s) := by
  refine .ite (.next h) ?_
  split
  · exact .next h
  · exact .ite (.next h) (.ite (.next h) (.next h))
theorem Kept.execMillJobStart {croft : Nat} : Kept (execMillJobStart croft s) := by
  refine .ite (.next h) ?_
  split
  · exact .next h
  · extract_lets core c
    split
    · extract_lets s1 r
      have h1 : s1.memWf := h
      clear_value s1
      have hr : State.memWf r.1 := h1.startJob
      exact .next hr
    · exact .next h
theorem Kept.execMillBlockEnd {croft : Nat} : Kept (execMillBlockEnd croft s) := by
  refine .ite (.next h) ?_
  split
  · exact .next h
  · dsimp only
    split
    · exact .next h
    · exact .ite (.next h) (.next (.ite (.count h.runBlock) h.runBlock))
theorem Kept.execMillJobComplete {core : Nat} : Kept (execMillJobComplete core s) := by
  refine .ite (.next h) ?_
  split
  · exact .next h
  · exact .ite (.next h) (.next (.millIdle (.ite (.millVisit h) (.ite (.millRetire (.millVisit h))
      (.millRetire (.millWrite (.millVisit h)))))))
theorem Kept.execPacketArrival {a : Arrive} : Kept (execPacketArrival a s) := by
  cases a with
  | outside p port m => exact .next h.fromOutside
  | own n => exact .next h.fromSelf
theorem Kept.execSkipNoticeArrival {dev core slot seq floor : Nat} : Kept (execSkipNoticeArrival dev core slot seq floor s) :=
  .ite (.ite (.next (.skipIn h)) (.next h)) (.next h.skipIn)
theorem Kept.execNoticeArrival {tok : BitVec 32} {landed : Bool} : Kept (execNoticeArrival tok landed s) := .next h.noticeIn
theorem Kept.execTkwait {d : SReg} {a : DReg} : Kept (execTkwait d a s) := by
  refine .runI h (.bind .readD fun t => .get fun s _ => .ite .writeS ?_)
  split
  · exact .stall
  · exact .writeS
  · exact .writeS
theorem Kept.execCartJobStart {croft : Nat} : Kept (execCartJobStart croft s) := by
  refine .ite (.next h) ?_
  split
  · exact .next h
  · extract_lets c
    split
    · extract_lets s1 r
      have h1 : s1.memWf := h
      clear_value s1
      have hr : State.memWf r.1 := h1.cartStart
      exact .next hr
    · exact .next h
theorem Kept.execCartVisitEnd {croft : Nat} : Kept (execCartVisitEnd croft s) := by
  refine .ite (.next h) ?_
  split
  · exact .next h
  · exact .next h.cartServe
theorem Kept.execCartJobComplete {core n : Nat} : Kept (execCartJobComplete core n s) := by
  refine .ite (.next h) ?_
  split
  · exact .next h
  · exact .ite (.next h) (.next (.cartFinish (.cartTell h.cartDrain)))
theorem Kept.execRmcast {q : Bool} {n : Fin 8} {d a b : SReg} : Kept (execRmcast q n d a b s) := by
  refine .runI h (.get fun s0 h0 => .bind .lateOk fun _ => .bind .readS fun x => .bind .readRun fun ws =>
      .ite .trap (.ite .trap ?_))
  refine .bind (.mcastWindow h0) fun w => .bind .remoteRoom fun _ => .get fun s h => ?_
  dsimp only
  split
  · exact .ite .writeStatus .trap
  · exact .ite (.ite .writeStatus .trap) (.ite (.ite .writeStatus .trap) (.set h))
theorem Kept.execReplyArrival {r : ReplyIn} : Kept (execReplyArrival r s) := by
  unfold Machine.execReplyArrival
  split
  · split
    · exact .next h
    · exact .next (.ite h.replyIn h)
  · split
    · exact .next h
    · exact .next (.replyIn h)
theorem Kept.execWellRequestServed : Kept (execWellRequestServed s) := by
  unfold Machine.execWellRequestServed
  split
  · exact .next h
  · exact .next (.answer (.serve h))
theorem Kept.execOrderStepPoint {a : StepAt} : Kept (execOrderStepPoint a s) := by
  unfold Machine.execOrderStepPoint
  split
  · exact .next h
  · split
    · exact .next h
    · exact .ite (.next h) (.next h.stepPort.lightChanged)
theorem Kept.execHazeEnd {p : Nat} : Kept (execHazeEnd p s) := by
  unfold Machine.execHazeEnd
  split
  · exact .next h
  · next x _ =>
    have h1 : (s.returnDrains p x).memWf := h
    dsimp only
    split
    · exact .next h1
    · exact .ite (.next h1) (.next h1)
theorem Kept.execPathDark {p : Nat} : Kept (execPathDark p s) := by
  unfold Machine.execPathDark
  split
  · exact .next h
  · exact .ite (.next h) (.next h.goDark.lightChanged)
theorem Kept.execLaneErase {lane : Nat} {cause : EraseCause} : Kept (execLaneErase lane cause s) :=
  .ite (.next h) (.ite (.next (.ite h.telLanes h)) (.ite (.next h) (.next h.eraseLane)))
theorem Kept.execTrimWindow {lane : Nat} {w : TrimWin} : Kept (execTrimWindow lane w s) := by
  refine .ite (.next h) (.ite (.next (.ite h h)) (.ite (.next h) ?_))
  cases w with
  | above => exact .ite (.next (.judgePort h)) (.next (.fleetEv h))
  | between => exact .next h
  | below => exact .ite (.next h) (.ite (.next h) (.next (.judgePort h)))
theorem Kept.execLaneRetrainLive {lane : Nat} : Kept (execLaneRetrainLive lane s) :=
  .ite (.next h) (.next (.lightChanged (.resharePort h.telLanes)))
theorem Kept.execStrayNoticeArrival {pkt : Nat} : Kept (execStrayNoticeArrival pkt s) := by
  unfold Machine.execStrayNoticeArrival
  split
  · exact .next h
  · split
    · extract_lets p n s1 s2 o s3
      have h1 : s1.memWf := h
      clear_value s1
      have h2 : s2.memWf := .countSq h1
      clear_value s2
      have h3 : s3.memWf := .ite (.fleetEv (.setReady h2)) h2
      clear_value s3
      exact .next h3.lightChanged.resendPkt
    · exact .next h
theorem Kept.execUncorrectableReport {pkt : Nat} {cw : Option Nat} : Kept (execUncorrectableReport pkt cw s) := by
  unfold Machine.execUncorrectableReport
  split
  · exact .next h
  · split
    · extract_lets s1
      have h1 : s1.memWf := .countSq h
      clear_value s1
      split
      · exact .next (.resendPkt h1)
      · exact .ite (.next (.countSq (.countSq h1))) (.next (.resendPkt h1))
    · exact .next h
theorem Kept.execStretchEnd {terrace : Nat} : Kept (execStretchEnd terrace s) := by
  unfold Machine.execStretchEnd
  split
  · exact .next (.ite h h)
  · exact .next h
theorem Kept.execHalvingEnd {terrace : Nat} : Kept (execHalvingEnd terrace s) := by
  unfold Machine.execHalvingEnd
  split
  · exact .next (.ite h h)
  · exact .next h
theorem Kept.execPowerRemeasure {still : Bool} : Kept (execPowerRemeasure still s) := by
  unfold Machine.execPowerRemeasure
  split
  · exact .next h
  · exact .next (.ite h (.ite h.killFrom h))
theorem Kept.execContextEnd {ctx core slot : Nat} {pc val : B64} : Kept (execContextEnd ctx core slot pc val s) :=
  .next (.endContext h.uncorrected.spoilSave)
theorem Kept.execPortRetrain {p : Nat} : Kept (execPortRetrain p s) := .next (.ite h h)
theorem Kept.execReleaseNoticeArrival {n : Nat} : Kept (execReleaseNoticeArrival n s) := by
  unfold Machine.execReleaseNoticeArrival
  split
  · exact .next h
  · exact .next h
theorem Kept.execSaveDrainLimit {ctx : Nat} : Kept (execSaveDrainLimit ctx s) := by
  unfold Machine.execSaveDrainLimit
  split
  · exact .next (.ite h h)
  · exact .next h
theorem Kept.execSaveDrainDone {ctx : Nat} : Kept (execSaveDrainDone ctx s) := by
  unfold Machine.execSaveDrainDone
  split
  · exact .next (.ite h.saveDone h)
  · exact .next h

theorem Kept.execJalr {d a : SReg} {i : BitVec 12} : Kept (execJalr d a i s) :=
  .runJ h (.bind .readS fun _ => .bind .thr fun _ => .ite .trap (.bind .writeS fun _ => .pure))
theorem Kept.execFma {p : Prec} {r : RMode} {d a b : SReg} : Kept (execFma p r d a b s) :=
  .runI h (.bind .readS fun _ => .bind .readS fun _ => .bind .readS fun _ => .bind .modeOf fun _ => .fpWrite)
theorem Kept.execCflush {a : SReg} : Kept (execCflush a s) :=
  .runI h (.bind .readS fun _ => .ite .pure (.bind .locOf fun _ => .modify fun _ h1 => h1.flushLine))
theorem Kept.execTlbinv {a : SReg} : Kept (execTlbinv a s) :=
  .runI h (.bind .needSys fun _ => .bind .readS fun _ => .bind .thr fun _ => .modify fun _ h1 => h1)
theorem Kept.execChbind {a b : SReg} : Kept (execChbind a b s) :=
  .runI h (.bind .readS fun _ => .bind .readS fun _ => .ite .trap (.ite .trap (.bind .modCore fun _ => .get fun _ _ =>
      .ite .modCore .pure)))
theorem Kept.execKleave {a : SReg} : Kept (execKleave a s) :=
  .runI h (.bind .kinSet fun _ => .bind .thr fun _ => .ite .pure (.bind .kinSend fun _ => .modThr))
theorem Kept.execKsend {t : Ty} {m : MReg} {d : MReg} {a b : VReg} : Kept (execKsend t m d a b s) :=
  .runI h (.bind .readV fun _ => .bind .readV fun _ => .bind .readM fun _ => .ite (.get fun _ _ =>
      .ite .trap (.bind (.modify fun _ h2 => h2) fun _ => .bind .modCore fun _ => .ite .pure .modThr)) (.bind .settled fun _ =>
      .get fun _ _ => .ite .trap (.bind (.modify fun _ h2 => h2) fun _ => .bind .modCore fun _ => .ite .pure .modThr)))
theorem Kept.execBindStream {p : PortReg} {a : SReg} : Kept (execBindStream p a s) :=
  .runI h (.bind .readS fun _ => .bind .freePort fun _ => .bind .readRecord fun _ =>
      .ite .portTrap (.ite (.bind .readRecord fun _ => .ite .portTrap (.get fun _ _ => .setPort)) (.bind .pure fun _ =>
      .ite .portTrap (.get fun _ _ => .setPort))))
theorem Kept.execRst {q o : Bool} {t : Toks} {d a b : SReg} : Kept (execRst q o t d a b s) :=
  .runI h (.get fun _ h1 => .bind .lateOk fun _ => .bind .readS fun _ => .bind .readS fun _ => .bind .readToks fun _ =>
      .remoteIssue h1)
theorem Kept.execRamo {op : AmoOp} {w q o : Bool} {d a b : SReg} : Kept (execRamo op w q o d a b s) :=
  .runI h (.get fun _ h1 => .bind .lateOk fun _ => .ite (.bind .readS fun _ => .bind .readS fun _ => .bind .readS fun _ =>
      .remoteIssue h1) (.bind .pure fun _ => .bind .readS fun _ => .bind .readS fun _ => .remoteIssue h1))
theorem Kept.execRstc {q o : Bool} {t : Option DReg} {n : DReg} {d a b : SReg} : Kept (execRstc q o t n d a b s) :=
  .runI h (.get fun _ h1 => .bind .lateOk fun _ => .bind .readS fun _ => .bind .readS fun _ => .bind .readToks fun _ =>
      .remoteIssue h1)
theorem Kept.execTkmerge {d a b : DReg} : Kept (execTkmerge d a b s) :=
  .runI h (.get fun _ h1 => .bind .readD fun _ => .bind .readD fun _ => .ite .writeD (.ite .writeD (.bind (.newToken h1) fun _ =>
      .bind .modThr fun _ => .modify fun _ h2 => h2.settleMerge.sweepTokens)))
theorem Kept.execGrant {d a b : SReg} : Kept (execGrant d a b s) :=
  .runI h (.asking (.bind .readS fun _ => .bind .readS fun _ => .ite .trap (.ite .trap .pure)) (fun _ => .askWell) (fun _ _ =>
      .writeS))
theorem Kept.execGrq {d a b : SReg} : Kept (execGrq d a b s) :=
  .runI h (.asking (.bind .readS fun _ => .bind .readS fun _ => .ite .trap .pure) (fun _ => .askWell) (fun _ _ => .writeS))
theorem Kept.execPathset {d a b : SReg} : Kept (execPathset d a b s) :=
  .runI h (.asking (.bind .needSys fun _ => .bind .readS fun _ => .bind .readS fun _ =>
      .ite .trap (.ite (.bind .readPathRec fun _ => .pure) .pure)) (fun _ => .askWell) (fun _ _ => .writeS))
theorem Kept.execWvSet {d : WReg} {a b : SReg} : Kept (execWvSet d a b s) :=
  .runI h (.bind .readS fun _ => .bind .readS fun _ => .bind .shaped fun _ => .ite .weaveTrap .writeW)
theorem Kept.execWvRlist {d a : SReg} {b : WReg} : Kept (execWvRlist d a b s) :=
  .runI h (.bind .readS fun _ => .bind .readS fun _ => .bind .boxOf fun _ => .bind .aligned fun _ => .get fun _ _ =>
      .ite .writeS (.bind .dataArea fun _ => .bind .filed fun _ => .bind .writeRecords fun _ => .writeS))
theorem Kept.execMmMova {t : AReg} {d : VReg} {a : SReg} : Kept (execMmMova t d a s) :=
  .runI h (.bind .oldJobsGone fun _ => .bind .tileFree fun _ => .bind .readS fun _ => .bind .thr fun _ => .writeV)
theorem Kept.execMmMovv {t : AReg} {a : SReg} {b : VReg} : Kept (execMmMovv t a b s) :=
  .runI h (.bind .oldJobsGone fun _ => .bind .tileFree fun _ => .bind .readS fun _ => .bind .readV fun _ => .modThr)
theorem Kept.execMmCancel {d a : SReg} : Kept (execMmCancel d a s) :=
  .runI h (.bind .oldJobsGone fun _ => .bind .readS fun _ => .get fun _ h1 => .bind (.set (.foldl (.millVisit h1) fun _ _ h2 =>
      h2.millRetire)) fun _ => .writeS)
theorem Kept.execVld {t : Ty} {m : MReg} {d : VReg} {a : SReg} : Kept (execVld t m d a s) :=
  .runI h (.get fun _ h1 => .bind .destOk fun _ => .bind .oldV fun _ => .bind .readS fun _ => .bind .readM fun _ =>
      .bind .blockPlaces fun _ => .loadLanes h1)
theorem Kept.execVst {t : Ty} {m : MReg} {a : SReg} {b : VReg} : Kept (execVst t m a b s) :=
  .runI h (.bind .readS fun _ => .bind .readV fun _ => .bind .readM fun _ => .bind .blockPlaces fun _ => .bind .allFiled fun _ =>
      .writeBlock)
theorem Kept.execVlds {t : Ty} {m : MReg} {d : VReg} {a b : SReg} : Kept (execVlds t m d a b s) :=
  .runI h (.get fun _ h1 => .bind .destOk fun _ => .bind .oldV fun _ => .bind .readS fun _ => .bind .readS fun _ =>
      .bind .readM fun _ => .bind .lanePlaces fun _ => .loadLanes h1)
theorem Kept.execVsts {t : Ty} {m : MReg} {d : VReg} {a b : SReg} : Kept (execVsts t m d a b s) :=
  .runI h (.bind .readV fun _ => .bind .readS fun _ => .bind .readS fun _ => .bind .readM fun _ => .bind .lanePlaces fun _ =>
      .bind .allFiled fun _ => .writeLanes)
theorem Kept.execVgather {t : Ty} {m : MReg} {d : VReg} {a : SReg} {b : VReg} : Kept (execVgather t m d a b s) :=
  .runI h (.get fun _ h1 => .bind .destOk fun _ => .bind .oldV fun _ => .bind .readS fun _ => .bind .readV fun _ =>
      .bind .readM fun _ => .bind .lanePlaces fun _ => .loadLanes h1)
theorem Kept.execVscatter {t : Ty} {m : MReg} {d : VReg} {a : SReg} {b : VReg} : Kept (execVscatter t m d a b s) :=
  .runI h (.bind .readV fun _ => .bind .readS fun _ => .bind .readV fun _ => .bind .readM fun _ => .bind .lanePlaces fun _ =>
      .bind .allFiled fun _ => .writeLanes)
theorem Kept.execVshuf {t : Ty} {m : MReg} {d a b : VReg} : Kept (execVshuf t m d a b s) :=
  .runI h (.bind .destOk fun _ => .bind .oldV fun _ => .bind .readV fun _ => .bind .readV fun _ => .bind .readM fun _ => .writeV)
theorem Kept.execVbcast {t : Ty} {m : MReg} {d : VReg} {a : SReg} : Kept (execVbcast t m d a s) :=
  .runI h (.bind .destOk fun _ => .bind .oldV fun _ => .bind .readS fun _ => .bind .readM fun _ => .writeV)
theorem Kept.execVslide {t : Ty} {m : MReg} {d a : VReg} {b : SReg} : Kept (execVslide t m d a b s) :=
  .runI h (.bind .destOk fun _ => .bind .oldV fun _ => .bind .readV fun _ => .bind .readS fun _ => .bind .readM fun _ => .writeV)

end

/-- Every instruction and every step of the part keeps memory canonical. -/
theorem Kept.exec {s : State} (h : s.memWf) : ∀ i : Instr, Kept (exec i s)
  | .add .. | .sub .. | .and .. | .or .. | .xor .. | .andn .. | .sll .. | .srl .. | .sra .. | .rotl .. | .mul ..
  | .mulh .. | .mulhn .. | .div .. | .divn .. | .rem .. | .remn .. | .min .. | .max .. | .minn .. | .maxn .. | .slt ..
  | .sltn .. | .cAdd .. | .cSub .. => .runI h .binary
  | .clz .. | .ctz .. | .popc .. | .bswap .. | .addi .. | .andi .. | .ori .. | .xori .. | .slti .. | .sltni ..
  | .slli .. | .srli .. | .srai .. | .bfx .. | .bfxn .. | .cLi .. | .cAddi .. | .cMv .. | .cNop | .cSlli .. | .cAndi .. =>
    .runI h .unary
  | .csel .. => .runI h (.bind .readS fun _ => .bind .readS fun _ => .bind .readS fun _ => .writeS)
  | .lui .. => .runI h .writeS
  | .auipc .. => .runI h (.bind .thr fun _ => .writeS)
  | .jal .. | .cJ .. => .runJ h .jumpRel
  | .jalr .. => .execJalr h
  | .beq .. | .bne .. | .blt .. | .bge .. | .bltn .. | .bgen .. | .cBeqz .. | .cBnez .. => .runJ h .branch
  | .ldS8 .. | .ldN8 .. | .ldS16 .. | .ldN16 .. | .ldS32 .. | .ldN32 .. | .ld64 .. | .cLd .. => .runI h .loadBody
  | .st8 .. | .st16 .. | .st32 .. | .st64 .. | .cSt .. => .runI h .storeBody
  | .amoSwap .. | .amoAdd .. | .amoAnd .. | .amoOr .. | .amoXor .. | .amoMin .. | .amoMax .. | .amoMinn ..
  | .amoMaxn .. | .amoCas .. | .amoFadd .. => .runI h .amoBody
  | .updAdd .. | .updFadd .. | .updMin .. | .updMax .. | .updOr .. => .runI h .updBody
  | .fence .. | .fenceEng .. => .runI h .fenceBody
  | .fenceAck => .runI h (.bind .thr fun _ => .ite .pure .stall)
  | .fadd .. | .fsub .. | .fmul .. | .fdiv .. => .runI h .fpBinary
  | .fsqrt .. => .runI h (.bind .readS fun _ => .bind .modeOf fun _ => .fpWrite)
  | .fma .. => .execFma h
  | .fmin .. | .fmax .. => .runI h .fpMinMax
  | .feq .. | .flt .. | .fle .. => .runI h .fpCompare
  | .fclass .. => .runI h (.bind .readS fun _ => .bind .orFlags fun _ => .writeS)
  | .fcvtFromS64 .. | .fcvtFromN64 .. | .fcvtFromOther .. => .runI h .fpFrom
  | .fcvtToS64 .. | .fcvtToN64 .. => .runI h .fpTo
  | .crr .. => .runI h (.bind .cregGet fun _ => .writeS)
  | .crw .. => .runI h (.bind .cregCheck fun _ => .bind .readS fun _ => .cregPut)
  | .crs .. | .crc .. => .runI h .cregBits
  | .bfi .. => .runI h (.bind .readS fun _ => .bind .readS fun _ => .writeS)
  | .trap .. => .runI h (.throw trivial)
  | .brk .. | .cBreak => .runI h .breakBody
  | .rett => .runI h (.bind .needSys fun _ => .get fun _ h1 => .ite .trap (.halt h1))
  | .idle => .runI h (.bind .needSys fun _ => .get fun _ h1 => .ite .modThr (.set h1))
  | .tstamp .. => .runI h (.get fun _ _ => .writeS)
  | .cflush .. => .execCflush h
  | .cinv .. => .execCinv h
  | .tlbinv .. => .execTlbinv h
  | .send .. => .runI h (.bind .readS fun _ => .bind .readRun fun _ => .post)
  | .sendv .. => .runI h (.bind .readS fun _ => .bind .readV fun _ => .post)
  | .taskDone | .cDone => .runI h .doneBody
  | .yield | .cYield => .runI h .yieldBody
  | .waitk .. | .cWaitk .. => .runI h .waitkBody
  | .waitdep => .runI h (.get fun _ _ => .ite .pure .stall)
  | .trig => .execTrig h
  | .waitev .. => .execWaitev h
  | .chbind .. => .execChbind h
  | .kjoin .. => .execKjoin h
  | .kleave .. => .execKleave h
  | .kbar .. => .execKbar h
  | .kcount .. => .runI h (.asking .kinSet (fun _ => .kinSend) (fun _ _ => .writeS))
  | .ksend .. => .execKsend h
  | .bindStream .. => .execBindStream h
  | .bindLink .. => .execBindLink h
  | .bindChan .. => .runI h (.bind .freePort fun _ => .bind .setPort fun _ => .modCore)
  | .unbind .. => .execUnbind h
  | .skipPort .. => .execSkipPort h
  | .sdrain .. => .runI h (.bind .boundPort fun _ => .drainPort)
  | .rld .. => .runI h .rldBody
  | .rst .. => .execRst h
  | .ramo .. => .execRamo h
  | .rstc .. => .execRstc h
  | .rmcast .. => .execRmcast h
  | .tkwait .. => .execTkwait h
  | .tkdrop .. => .runI h .writeD
  | .tkmerge .. => .execTkmerge h
  | .grant .. => .execGrant h
  | .grq .. => .execGrq h
  | .pathset .. => .execPathset h
  | .wvShape .. => .runI h (.bind .readS fun _ => .ite .weaveTrap .writeW)
  | .wvPack .. => .runI h (.bind .readS fun _ => .bind .readS fun _ => .ite .weaveTrap .writeW)
  | .wvUnpk .. => .runI h (.bind .readS fun _ => .bind .shaped fun _ => .writeS)
  | .wvSet .. => .execWvSet h
  | .wvGet .. => .runI h (.bind .readS fun _ => .bind .shaped fun _ => .ite .weaveTrap .writeS)
  | .wvAdd .. | .wvSub .. => .runI h .weaveSum
  | .wvCmp .. => .runI h (.bind .shaped fun _ => .bind .shaped fun _ => .bind .sameShape fun _ => .writeS)
  | .wvInbox .. => .runI h (.bind .shaped fun _ => .bind .boxOf fun _ => .writeS)
  | .wvNext .. | .wvCut .. => .runI h (.bind .shaped fun _ => .bind .boxOf fun _ => .bind .writeS fun _ => .writeS)
  | .wvRlist .. => .execWvRlist h
  | .wvClrf .. => .runI h (.bind .readW fun _ => .writeW)
  | .mmMma .. | .mmMmag .. | .mmZero .. | .mmLdacc .. | .mmStacc .. => .runI h .millIssue
  | .mmMova .. => .execMmMova h
  | .mmMovv .. => .execMmMovv h
  | .mmQuery .. => .runI h (.bind .oldJobsGone fun _ => .bind .readS fun _ => .bind .thr fun _ => .writeS)
  | .mmCancel .. => .execMmCancel h
  | .cpCopy .. | .cpGather .. | .cpFill .. | .cpRemote .. | .cpMcast .. | .cpRsend .. | .cpReduce .. => .runI h .cartIssue
  | .view .. => .runI h .viewBody
  | .vld .. => .execVld h
  | .vst .. => .execVst h
  | .vlds .. => .execVlds h
  | .vsts .. => .execVsts h
  | .vgather .. => .execVgather h
  | .vscatter .. => .execVscatter h
  | .vadd .. => .runI h .vaddBody
  | .vsub .. => .runI h .vsubBody
  | .vmul .. => .runI h .vmulBody
  | .vmulh .. => .runI h .vmulhBody
  | .vma .. => .runI h .vmaBody
  | .vms .. => .runI h .vmsBody
  | .vmin .. => .runI h .vminBody
  | .vmax .. => .runI h .vmaxBody
  | .vabs .. => .runI h .vabsBody
  | .vneg .. => .runI h .vnegBody
  | .vand .. => .runI h .vandBody
  | .vor .. => .runI h .vorBody
  | .vxor .. => .runI h .vxorBody
  | .vsll .. => .runI h .vsllBody
  | .vsrl .. => .runI h .vsrlBody
  | .vsra .. => .runI h .vsraBody
  | .vdiv .. => .runI h .vdivBody
  | .vsqrt .. => .runI h .vsqrtBody
  | .vrcp .. => .runI h .vrcpBody
  | .vrsq .. => .runI h .vrsqBody
  | .vexp2 .. => .runI h .vexp2Body
  | .vlog2 .. => .runI h .vlog2Body
  | .vsig .. => .runI h .vsigBody
  | .vtanh .. => .runI h .vtanhBody
  | .vshuf .. => .execVshuf h
  | .vbcast .. => .execVbcast h
  | .vextr .. => .runI h (.bind .readV fun _ => .bind .readS fun _ => .writeS)
  | .vins .. => .runI h (.bind .readV fun _ => .bind .readS fun _ => .bind .readS fun _ => .writeV)
  | .vslide .. => .execVslide h
  | .vredsum .. | .vredmax .. | .vredmin .. => .runI h .vRed
  | .vscan .. => .runI h .vScan
  | .vcmp .. => .runI h .vCmp
  | .mand .. | .mor .. | .mxor .. => .runI h .maskBin
  | .mnot .. => .runI h (.bind .readM fun _ => .writeM)
  | .mpop .. | .mfirst .. => .runI h .maskCount
  | .vcvt .. => .runI h .vCvt
  | .vsel .. => .runI h .vSel
  | .vdot .. => .runI h (.ite .vDot .trap)
  | .vwadd .. | .vwaddT .. => .runI h .vecAdd
  | .vwinbox .. => .runI h (.bind .readAB fun _ => .bind .readM fun _ => .bind .vecShape fun _ => .writeM)
  | .illegalEncoding .. => .runI h .trap
  | .instructionFetchFault .. => .runI h (.ite (.throw trivial) .trap)
  | .messageArrival .. => .next h.arrive
  | .spilledMessageStart .. => .next h.startAll
  | .bouncedMessageResend .. => .execBouncedMessageResend h
  | .contextEnd .. => .execContextEnd h
  | .systemSlotTrap .. => .next h.systemTrap
  | .millJobStart .. => .execMillJobStart h
  | .millJobComplete .. => .execMillJobComplete h
  | .cartJobStart .. => .execCartJobStart h
  | .cartJobComplete .. => .execCartJobComplete h
  | .streamRefill .. => .next (.ite (h.visitStream h.refillPort) h)
  | .streamWriteback .. => .next (.ite (h.visitStream h.writeBack) h)
  | .sfuRequestService .. => .execSfuRequestService h
  | .sfuResultWrite .. => .execSfuResultWrite h
  | .ksendFilingDone .. => .next (.ite h h.fileNext)
  | .packetAtSquare .. => .next h.atSquare
  | .packetArrival .. => .execPacketArrival h
  | .remoteApply .. => .next h.remoteApply
  | .replyArrival .. => .execReplyArrival h
  | .noticeSend .. | .noticeResend .. => .next (.ite h.sendNotice h)
  | .noticeArrival .. => .execNoticeArrival h
  | .noticeAckArrival .. => .next (.ite (.sweepTokens h) h)
  | .noticeCacheExpiry .. | .ucieModuleFail .. | .telsnapSnap | .keyInstall .. | .fleetevRead | .poundstatRead => .next h
  | .skipNoticeArrival .. => .execSkipNoticeArrival h
  | .poundExpiry .. => .next h.expirePkt
  | .orderEntryFree .. => .next h.freePair
  | .strayNoticeArrival .. => .execStrayNoticeArrival h
  | .uncorrectableReport .. => .execUncorrectableReport h
  | .portFail .. => .ite (.next h) (.next h.failPort.resharePort.lightChanged.resendLost)
  | .laneErase .. => .execLaneErase h
  | .laneRetrainLive .. => .execLaneRetrainLive h
  | .wellRequestServed => .execWellRequestServed h
  | .orderStepPoint .. => .execOrderStepPoint h
  | .hazeEnd .. => .execHazeEnd h
  | .pathDark .. => .execPathDark h
  | .trimWindow .. => .execTrimWindow h
  | .rationRefill => .next (.ite h.refill h)
  | .squall .. => .next h.squallAt
  | .stretchEnd .. => .execStretchEnd h
  | .halvingEnd .. => .execHalvingEnd h
  | .overCurrentKill => .next h.killFrom
  | .powerRemeasure .. => .execPowerRemeasure h
  | .kinOpAtKeeper .. => .next h.kinArrive
  | .kinReleaseArrival .. => .execKinReleaseArrival h
  | .kcountAnswer .. => .execKcountAnswer h
  | .launchTriggered .. => .next h.trigger
  | .releaseNoticeArrival .. => .execReleaseNoticeArrival h
  | .directoryRequest .. => .next h.dirRequest
  | .memoryPortArrival .. => .next h.storeArrives
  | .cxlMemAccess .. => .next h.cxl
  | .deviceReset .. => .next .resetWith
  | .functionTrained .. => .next h.trained
  | .tokenReserveGrant .. => .next h.grantToks
  | .sensorRead .. => .next h.readSensors
  | .laserHourlySample .. => .next h.sampleLane
  | .stewardControlApply => .next h.steward
  | .corePowerOff .. | .suspectClear .. | .sensDoubtClear .. | .echoctlWrite .. | .sqevcntWrite .. => .next (.ite h h)
  | .corePowerOn .. => .next h.powerOn
  | .saveDrainLimit .. => .execSaveDrainLimit h
  | .saveDrainDone .. => .execSaveDrainDone h
  | .hostNop .. => .next (.command h fun _ _ h => h.finish)
  | .hostAbort .. => .next (.command h fun _ _ h => h.abort)
  | .ctxCreate .. => .next (.command h fun _ _ h => h.createCtx)
  | .ctxPlace .. => .next (.command h fun _ _ h => h.placeCtx)
  | .ctxEnd .. => .next (.command h fun _ _ h => h.endCtx)
  | .imgLoad .. => .next (.command h fun _ _ h => h.imgLoad)
  | .launch .. => .next (.command h fun _ _ h => h.startLaunch)
  | .classData .. => .next (.command h fun _ _ h => h.classData)
  | .shootdown .. => .next (.command h fun _ _ h => h.shootdown)
  | .winSet .. => .next (.command h fun _ _ h => h.winSet)
  | .winRevoke .. => .next (.command h fun _ _ h => h.winRevoke)
  | .attest .. => .next (.command h fun _ _ h => h.attest)
  | .ctxSave .. => .next (.command h fun _ _ h => h.startSave)
  | .ctxRestore .. => .next (.command h fun _ _ h => h.restore)
  | .almbaseWrite .. => .next h.almbaseSet
  | .almtailWrite .. => .next h.almtailSet
  | .portRetrain .. => .execPortRetrain h
  | .keySwitch .. => .next h.keySwitch
  | .wellcfgWrite .. => .next h.wellcfg
  | .registerWrite .. => .next h.regWrite
  | .loadValueReturn .. => .next h.valueBack
  | .packetDeparture .. => .next h.depart
  | .millBlockEnd .. => .execMillBlockEnd h
  | .cartVisitEnd .. => .execCartVisitEnd h
  | .keyInstallDone => .next h.keyDone

end Sys2Proof.Machine
end

section
open Sys2Proof
namespace Sys2Proof.Machine

/-! ## The plan of a step -/

/-- A plan goes on from a state with canonical memory. -/
def Plan.memWf : Plan → Prop
  | .go s => s.memWf
  | .run s _ => s.memWf

theorem Plan.memWf.ite {c : Prop} [Decidable c] {a b : Plan} (ha : a.memWf) (hb : b.memWf) : (if c then a else b).memWf := by
  split
  · exact ha
  · exact hb
theorem State.memWf.planIssue {s : State} {core : Nat} (h : s.memWf) : (s.planIssue core).memWf := by
  unfold State.planIssue
  split
  · exact h
  · exact .ite h.fallAsleep h.issued
theorem State.memWf.planCore {s rest : State} {core : Nat} (h : s.memWf) (hr : rest.memWf) : (s.planCore rest core).memWf :=
  .ite h hr.planIssue
theorem State.memWf.planDefault {s : State} (h : s.memWf) : s.planDefault.memWf := by
  unfold State.planDefault
  split
  · exact h.planCore h
  · exact h
theorem State.memWf.mandatory {s : State} {p : Plan} (h : s.memWf) (e : s.mandatory = some p) : p.memWf := by
  unfold State.mandatory at e
  split at e
  · cases e; exact h
  split at e
  · cases e; exact h
  split at e
  · cases e; exact h.powerOn
  · cases e; exact h.expirePkt
  · split at e
    · cases e; exact h.almRaise
    · split at e
      · cases e; exact h.fleetIrq
      · cases e
theorem State.memWf.planHead {s : State} {l : List Stimulus} (h : s.memWf) : (s.planHead l).memWf := by
  rcases l with _ | ⟨x, r⟩
  · exact h.planDefault
  have ha : State.memWf { s with agenda := r } := h
  cases x with
  | event i => exact .ite ha ha
  | issue core => exact h.planCore ha
  | advance d => exact .ite h h
  | tlbFill => exact ha.tlbFill
  | tlbEvict => exact ha.tlbEvict
  | icacheFill => exact ha.icacheFill
  | icacheEvict => exact ha
  | l1Evict => exact ha
  | updEvict => exact ha.updEvict
  | barRead => exact ha.barRead
  | corrected => exact ha.corrected
  | llc => exact ha.llcCount
  | engineError => exact ha.engineError
  | applyError => exact ha.applyError
  | cartBytes => exact ha.cartBytes
  | cartData => exact ha.cartData
  | streamBytes => exact ha.streamBytes
  | applyBytes => exact ha.applyBytes
  | fileBytes => exact ha.fileBytes
  | statusBytes => exact ha.statusBytes
  | earlyRead => exact ha.earlyRead
  | laneReads => exact ha
  | laneTemp => exact ha.laneTemp
  | returnLost => exact ha.returnLost
  | returnTrained => exact ha.returnTrained
  | undecodable => exact ha.undecodable
  | stewardNotice => exact ha.stewardNotice
  | keeper => exact ha.kinArrive
  | message => exact ha.arrive
  | noticeRefused => exact ha.noticeRefused
theorem State.memWf.planCycle {s : State} {l : List Stimulus} {core : Nat} (h : s.memWf) : (s.planCycle l core).memWf :=
  .ite h.planHead (.ite h h)
theorem State.memWf.planFrom {s : State} (h : s.memWf) : s.planFrom.memWf := by
  unfold State.planFrom
  split
  · next p e => exact h.mandatory e
  · split
    · exact h.planCycle
    · exact h.planHead
theorem State.memWf.plan {s : State} (h : s.memWf) : s.plan.memWf := h.settled.planFrom

/-- Settles O2, by one lemma for each of the model's functions that writes memory or passes it on: what a plan goes on from
keeps memory canonical, and so does every instruction and every step of the part. -/
theorem memoryStaysCanonical : Obligations.MemoryStaysCanonical := by
  unfold Obligations.MemoryStaysCanonical
  intro s t h e
  have hp : s.plan.memWf := State.memWf.plan h
  unfold step at e
  split at e
  · next s' hs =>
    cases e
    rw [hs] at hp
    exact hp
  · next s' i hs =>
    rw [hs] at hp
    exact Kept.exec hp i t e

end Sys2Proof.Machine
end

section
/-! # A step runs what the current slot fetches -/
open Sys2Proof
namespace Sys2Proof.Machine

/-- What issues from an address whose halfwords make a 32-bit word with a meaning. -/
theorem State.instrAt_decode32 {s : State} {tid h w : Nat} {va : B64} {i : Instr} (hh : s.fetchHalf tid va = .ok h)
    (hodd : h % 2 = 1) (hw : s.fetchHalf tid (va + 2) = .ok w) (hi : decode32 (h + 65536 * w) = some i) :
    s.instrAt tid va = i := by
  have hne : ¬ h % 2 = 0 := by omega
  simp only [State.instrAt, State.codeAt, hh, if_neg hne, hw, hi, Option.getD_some]
/-- What issues from an address whose first halfword is a compact instruction. -/
theorem State.instrAt_decode16 {s : State} {tid h : Nat} {va : B64} {i : Instr} (hh : s.fetchHalf tid va = .ok h)
    (heven : h % 2 = 0) (hi : decode16 h = some i) : s.instrAt tid va = i := by
  simp only [State.instrAt, State.codeAt, hh, if_pos heven, hi, Option.getD_some]
/-- A chosen slot with its rations in store issues. -/
theorem State.planIssue_run {s : State} {core tid : Nat} {i : Instr} (hp : s.pick core = some tid)
    (hi : s.instrAt tid (s.thread tid).pc = i) (hc : s.charge tid i ≤ (s.core core).bal.toNat) :
    s.planIssue core = .run (s.issued tid i) i := by
  subst hi
  simp only [State.planIssue, hp, if_neg (Nat.not_lt.mpr hc)]
/-- With nothing on the agenda and nothing due, a step is the instruction of the slot chosen on the current core. -/
theorem step_runs {s : State} {tid : Nat} {i : Instr} (ha : s.settled.agenda = []) (hm : s.settled.mandatory = none)
    (hp : s.settled.pick s.settled.curCore = some tid)
    (hr : s.settled.refillDue (max s.settled.now (s.settled.core s.settled.curCore).nextIss) = false)
    (hi : s.settled.instrAt tid (s.settled.thread tid).pc = i)
    (hc : s.settled.charge tid i ≤ (s.settled.core s.settled.curCore).bal.toNat) :
    step s = exec i (s.settled.issued tid i) := by
  have hd : s.settled.planDefault = .run (s.settled.issued tid i) i := by
    simp only [State.planDefault, hp, State.planCore, State.issueTime, hr, Bool.false_eq_true, if_false]
    exact State.planIssue_run hp hi hc
  have hplan : s.plan = .run (s.settled.issued tid i) i := by
    simp only [State.plan, State.planFrom, hm, ha, State.ordered, State.planHead, hd]
  simp only [step, hplan]

/-- Settles O4: both forms are `step_runs`, of what the decoder finds at the slot's pc. -/
theorem stepRunsDecoded : Obligations.StepRunsDecoded := by
  unfold Obligations.StepRunsDecoded
  refine ⟨fun s tid h w i ha hm hp hr hh hodd hw hi hc => ?_, fun s tid h i ha hm hp hr hh heven hi hc => ?_⟩
  · exact step_runs ha hm hp hr (State.instrAt_decode32 hh hodd hw hi) hc
  · exact step_runs ha hm hp hr (State.instrAt_decode16 hh heven hi) hc

end Sys2Proof.Machine
end

section
/-! # Reads and writes of registers -/
open Sys2Proof
namespace Sys2Proof.Machine

theorem reads_plain {s : State} {r : SReg} (h : plainS s r) : Reads s r (valS s r) s := by
  obtain ⟨hb, hp⟩ := h
  by_cases h0 : r = 0
  · subst h0; exact readS_zero s
  · rw [valS, if_neg h0]; exact readS_plain h0 hp hb
theorem writes_plain {s : State} {r : SReg} (v : B64) (h : plainS s r) : Writes s r v (withS s r v) := by
  obtain ⟨hb, hp⟩ := h
  by_cases h0 : r = 0
  · subst h0; exact writeS_zero v s
  · rw [withS, if_neg h0]; exact writeS_plain h0 hp hb
theorem readsM_plain {s : State} {r : MReg} (h : plainM s r) : ReadsM s r (valM s r) s := by
  by_cases h0 : r = 0
  · subst h0; exact readM_zero s
  · rw [valM, if_neg h0]; exact readM_plain h0 h
theorem writesM_plain {s : State} {r : MReg} (v : B64) (h : plainM s r) : WritesM s r v (withM s r v) := by
  by_cases h0 : r = 0
  · subst h0; exact writeM_zero v s
  · rw [withM, if_neg h0]; exact writeM_plain h0 h
/-- A read stream gives its next element. -/
theorem popPort_readStream {key : Nat} {p : Port} {e : PEntry} {es : List PEntry} (s : State) (hk : p.kind = .readStream)
    (he : p.entries = e :: es) (hpast : e.past = false) (hf : e.fault = none) :
    (popPort key p).run s = .ok (e.val, s.modThread s.cur (fun t =>
      { t with ports := t.ports.put key { p with entries := es, next := p.next + 1 } })) := by
  simp only [popPort, hk, he, hpast, hf, Bool.false_eq_true, if_false]
  rfl
/-- A write stream with room takes a value. -/
theorem pushPort_writeStream {key : Nat} {p : Port} {v : B512} (s : State) (hk : p.kind = .writeStream) (hf : p.fault = none)
    (hn : p.next < streamTotal p.recd) (hroom : p.entries.length < 8) :
    (pushPort key p v).run s = .ok ((), s.modThread s.cur (fun t =>
      { t with ports := t.ports.put key { p with entries := p.entries ++ [{ n := p.next, val := v }], next := p.next + 1 } })) := by
  simp only [pushPort, hk, hf, if_neg (Nat.not_le.mpr hn), if_neg (Nat.not_le.mpr hroom)]
  rfl
/-- A channel bound to a vector register gives its oldest waiting message. -/
theorem popPort_chan {key ch : Nat} {p : Port} {m : Msg} {ms : List Msg} {s : State} (hkey : key < 32) (hk : p.kind = .chan ch)
    (hw : (s.core s.curCore).waiting ch = m :: ms) (hh : s.wordsHeld s.cur ch = false) :
    (popPort key p).run s = .ok (packLanes m.pay, s.setCore s.curCore ((s.core s.curCore).setWaiting ch ms)) := by
  simp only [popPort, hk]
  rw [run_bind_ok (run_get s)]
  simp only [hh, Bool.false_eq_true, if_false, if_pos hkey, hw]
  rfl
/-- A vector register bound to a port pops it. -/
theorem readV_port {r : VReg} {s t : State} {p : Port} {v : B512} (hp : s.me.pend.any (fun p => p.cls == .v && p.num == r.val) = false)
    (hb : s.me.ports.get? r.val = some p) (hv : (popPort r.val p).run s = .ok (v, t)) : ReadsV s r v t := by
  unfold ReadsV readV
  rw [run_bind_ok (settled_free hp), run_bind_ok (run_thr s)]
  rw [State.me] at hb
  simpa only [hb] using hv

/-- Settles O5, by the rule of each kind of register. -/
theorem operands : Obligations.Operands := by
  unfold Obligations.Operands
  refine ⟨⟨fun s v => ⟨readS_zero s, writeS_zero v s⟩, fun s r v h => ⟨reads_plain h, writes_plain v h⟩,
    fun s r v h0 h => ⟨readS_pending h0 h, writeS_pending h0 h⟩, ?_, ?_⟩,
    fun s r v h => ⟨readV_plain h.2 h.1, writeV_plain h.2 h.1⟩, fun s v => ⟨readM_zero s, writeM_zero v s⟩,
    fun s r v h => ⟨readsM_plain h, writesM_plain v h⟩, ?_⟩
  · intro s r p e es h0 hp hb hk he hpast hf
    exact readS_port h0 hp hb (popPort_readStream s hk he hpast hf)
  · intro s r p v h0 hp hb hk hf hn hroom
    exact writeS_port h0 hp hb (pushPort_writeStream s hk hf hn hroom)
  · intro s r p ch m ms hp hb hk hw hh
    exact readV_port hp hb (popPort_chan r.isLt hk hw hh)

end Sys2Proof.Machine
end

section
/-! # Bytes: lengths, prefixes, disjoint writes -/
open Sys2Proof
namespace Sys2Proof.Machine

@[simp] theorem length_leBytes (n v : Nat) : (leBytes n v).length = n := by
  induction n generalizing v with
  | zero => rfl
  | succ n ih => rw [leBytes, List.length_cons, ih]
/-- The low `n` bytes of a number depend on it modulo 256 to the power `n`. -/
theorem leBytes_mod (n v : Nat) : leBytes n (v % 256 ^ n) = leBytes n v := by
  induction n generalizing v with
  | zero => rfl
  | succ n ih =>
    have hb : BitVec.ofNat 8 (v % 256 ^ (n + 1)) = BitVec.ofNat 8 v := by
      apply BitVec.eq_of_toNat_eq
      simp only [BitVec.toNat_ofNat]
      exact Nat.mod_mod_of_dvd v (Dvd.intro_left (256 ^ n) rfl)
    rw [leBytes, leBytes, hb, Nat.pow_succ, Nat.mul_comm, Nat.mod_mul_right_div_self, ih]
theorem leBytes_toNat_ofNat (v : Nat) : leBytes 8 (BitVec.ofNat 64 v).toNat = leBytes 8 v := by
  rw [BitVec.toNat_ofNat]
  exact leBytes_mod 8 v
theorem readBytes_congr {m m' : List Host.Cell} {a n : Nat} (h : ∀ x, a ≤ x → x < a + n → readByte m' x = readByte m x) :
    readBytes m' a n = readBytes m a n := by
  induction n generalizing a with
  | zero => rfl
  | succ n ih =>
    rw [readBytes, readBytes, h a (Nat.le_refl a) (by omega), ih fun x h1 h2 => h x (by omega) (by omega)]
/-- A write elsewhere leaves a range of bytes. -/
theorem readBytes_writeBytes_out {m : List Host.Cell} {bs : List Byte} {a b n : Nat} (h : a + n ≤ b ∨ b + bs.length ≤ a) :
    readBytes (writeBytes m b bs) a n = readBytes m a n :=
  readBytes_congr fun x h1 h2 => readByte_writeBytes_out bs m b x (by omega)
/-- A range of bytes begins a longer one. -/
theorem readBytes_prefix (m : List Host.Cell) (a n k : Nat) : readBytes m a n = (readBytes m a (n + k)).take n := by
  induction n generalizing a with
  | zero => rfl
  | succ n ih => rw [Nat.succ_add, readBytes, readBytes, List.take_succ_cons, ← ih]
theorem readBytes_writeBytes_prefix {m : List Host.Cell} {a n : Nat} {bs cs : List Byte} (h : bs.length = n) :
    readBytes (writeBytes m a (bs ++ cs)) a n = bs := by
  rw [← h, readBytes_prefix _ _ _ cs.length, ← List.length_append, readBytes_writeBytes_self, List.take_left]

end Sys2Proof.Machine
end

section
/-! # Messages: registers at task start, free slots, waiting messages -/
open Sys2Proof
namespace Sys2Proof.Machine

/-- The cells of a payload laid from register `n` on: register `n + j` holds the dword `j`. -/
theorem find?_mapIdx_add {α : Type} (n j : Nat) (l : List α) :
    (l.mapIdx (fun i v => (n + i, v))).find? (fun c => c.1 == n + j) = l[j]?.map (fun v => (n + j, v)) := by
  induction l generalizing n j with
  | nil => rfl
  | cons v l ih =>
    rw [List.mapIdx_cons]
    cases j with
    | zero => simp
    | succ j =>
      rw [List.find?_cons_of_neg (by simp)]
      have h := ih (n + 1) j
      simpa only [Nat.add_assoc, Nat.add_comm 1, List.getElem?_cons_succ] using h
theorem startRegs_payload (slot : Nat) (data hdr : B64) (pay : List B64) (i : Nat) :
    (startRegs slot data hdr pay).get? (10 + i) = pay[i]? := by
  simp only [startRegs, SMap.get?, List.find?_append]
  rw [List.find?_eq_none.mpr (by simp; omega), Option.none_or, find?_mapIdx_add]
  cases pay[i]? <;> rfl
theorem startRegs_stack (slot : Nat) (data hdr : B64) (pay : List B64) :
    (startRegs slot data hdr pay).get 0 2 = BitVec.ofNat 64 (0xFFFFFFFFF9000 + slot * 0x1000) := rfl
theorem startRegs_data (slot : Nat) (data hdr : B64) (pay : List B64) : (startRegs slot data hdr pay).get 0 3 = data := rfl
theorem startRegs_header (slot : Nat) (data hdr : B64) (pay : List B64) : (startRegs slot data hdr pay).get 0 9 = hdr := rfl
theorem startRegs_dword (slot : Nat) (data hdr : B64) (pay : List B64) {i : Nat} (h : i < pay.length) :
    (startRegs slot data hdr pay).get 0 (10 + i) = pay[i] := by
  rw [SMap.get_eq_get?, startRegs_payload, List.getElem?_eq_getElem h]
  rfl
theorem startRegs_other (slot : Nat) (data hdr : B64) (pay : List B64) {r : Nat} (h2 : r ≠ 2) (h3 : r ≠ 3) (h9 : r ≠ 9)
    (h : r < 10 ∨ 10 + pay.length ≤ r) : (startRegs slot data hdr pay).get 0 r = 0 := by
  rw [SMap.get_eq_get?]
  suffices (startRegs slot data hdr pay).get? r = none by rw [this]; rfl
  rcases h with h | h
  · simp only [startRegs, SMap.get?, List.find?_append]
    rw [List.find?_eq_none.mpr (by simp; omega), List.find?_eq_none.mpr (by simp [List.mem_mapIdx]; omega)]
    rfl
  · obtain ⟨j, rfl⟩ := Nat.exists_eq_add_of_le (Nat.le_trans (Nat.le_add_right 10 pay.length) h)
    rw [startRegs_payload, List.getElem?_eq_none (by omega)]

/-! ## What a write at home and an error record leave -/

theorem rest_homeWrite (s : State) (loc : Nat) (data : List Byte) : (s.homeWrite loc data).rest = s.rest :=
  rest_mergeWhere s _
theorem State.almIrq_keeps {β : Type} {f : State → β} (hf : ∀ (s : State) (h : HostIf), f { s with host := h } = f s) (s : State) :
    f s.almIrq = f s := by
  have hr (u : State) : f u.almRaise = f u := by
    unfold State.almRaise
    split
    · exact hf u _
    · rfl
  unfold State.almIrq
  split
  · exact (hr _).trans (hf s _)
  · rfl
/-- An error record changes the host's registers, and what a write at home changes. -/
theorem State.errRecord_keeps {β : Type} {f : State → β} (hf : ∀ (s : State) (h : HostIf), f { s with host := h } = f s)
    (hr : ∀ s : State, f s.rest = f s) (s : State) (kind ctx cause : Nat) (nested : Bool) (whr : Nat) (pc val : B64) :
    f (s.errRecord kind ctx cause nested whr pc val) = f s := by
  have hw (u : State) (l : Nat) (d : List Byte) : f (u.homeWrite l d) = f u := by
    rw [← hr (u.homeWrite l d), rest_homeWrite, hr]
  unfold State.errRecord
  dsimp only
  split
  · exact hf s _
  · rw [State.almIrq_keeps hf, hf, hw, hw]
theorem State.refuse_threads (s : State) (m : Msg) (reason cause : Nat) (pc : B64) : (s.refuse m reason cause pc).threads = s.threads :=
  State.errRecord_keeps (f := State.threads) (fun _ _ => rfl) (fun _ => rfl) s _ _ _ _ _ _ _
theorem State.refuse_cores (s : State) (m : Msg) (reason cause : Nat) (pc : B64) : (s.refuse m reason cause pc).cores = s.cores :=
  State.errRecord_keeps (f := State.cores) (fun _ _ => rfl) (fun _ => rfl) s _ _ _ _ _ _ _
theorem State.refuse_drift (s : State) (m : Msg) (reason cause : Nat) (pc : B64) : (s.refuse m reason cause pc).drift = s.drift :=
  State.errRecord_keeps (f := State.drift) (fun _ _ => rfl) (fun _ => rfl) s _ _ _ _ _ _ _
theorem State.core_startTask (s : State) (tid : Nat) (m : Msg) (k : Nat) : (s.startTask tid m).core k = s.core k := by
  unfold State.startTask
  split
  · rw [State.core, State.refuse_cores, State.core]
  · dsimp only
    split
    · rw [State.core, State.refuse_cores, State.core]
    · split
      · rw [State.core, State.refuse_cores, State.core]
      · rfl

/-! ## Starting -/

/-- The slot of a core that is free next depends on the threads, the contexts and what the core holds. -/
theorem State.freeSlot_congr {s t : State} {core : Nat} (hth : t.threads = s.threads) (hcx : t.ctxs = s.ctxs)
    (hc : (t.core core).ctx = (s.core core).ctx) (ho : (t.core core).isoff = (s.core core).isoff) :
    t.freeSlot core = s.freeSlot core := by
  have h1 : t.thread = s.thread := by funext k; rw [State.thread, State.thread, hth]
  have h2 : t.ctx? = s.ctx? := by funext k; rw [State.ctx?, State.ctx?, hcx]
  rw [State.freeSlot, State.freeSlot, h1, h2, hc, ho]
theorem State.chanHeld_congr {s t : State} {core ch : Nat} (hth : t.threads = s.threads)
    (hc : (t.core core).chSet = (s.core core).chSet) : t.chanHeld core ch = s.chanHeld core ch := by
  simp only [State.chanHeld, State.thread, hth, hc]
theorem State.startAll_of_no_slot {s : State} {core : Nat} (h : s.freeSlot core = none) : s.startAll core = s := by
  simp only [State.startAll, fillSlots, h]
/-- A core on which no message waits starts nothing. -/
theorem State.nextChan_none {s : State} {core : Nat} (h : ∀ ch, (s.core core).waiting ch = []) : s.nextChan core = none := by
  simp [State.nextChan, h]
theorem fillSlots_none {s : State} {core fuel : Nat} (h : ∀ ch, (s.core core).waiting ch = []) : fillSlots fuel core s = s := by
  cases fuel with
  | zero => rfl
  | succ fuel =>
    rw [fillSlots, State.nextChan_none h]
    cases s.freeSlot core <;> rfl
/-- The one channel on which a message waits is next. -/
theorem State.nextChan_one {s : State} {core ch : Nat} (h16 : ch < 16) (hh : s.chanHeld core ch = false)
    (hw : (s.core core).waiting ch ≠ []) (ho : ∀ c, c ≠ ch → (s.core core).waiting c = []) : s.nextChan core = some ch := by
  have hf : (List.range 16).filter (fun c => !s.chanHeld core c && !((s.core core).waiting c).isEmpty) = [ch] := by
    rw [List.filter_congr (q := fun c => c == ch)]
    · rw [List.filter_beq, List.count_eq_one_of_mem (List.nodup_range) (List.mem_range.mpr h16)]
      rfl
    · intro c _
      by_cases hc : c = ch
      · subst hc; simp [hh, hw]
      · simp [ho c hc, hc]
  simp only [State.nextChan, hf, List.foldl_cons, List.foldl_nil]
/-- A single waiting message starts its task in a free slot, and nothing else starts. -/
theorem State.startAll_one {s : State} {core tid : Nat} {m : Msg} (hs : s.freeSlot core = some tid) (h16 : m.chan < 16)
    (hh : s.chanHeld core m.chan = false) (he : (s.core core).entries.get [] m.chan = [])
    (hp : (s.core core).spill.get [] m.chan = [m]) (ho : ∀ c, c ≠ m.chan → (s.core core).waiting c = []) :
    s.startAll core = (s.modCore core (fun c => c.takeFirst m.chan)).startTask tid m := by
  have hw : (s.core core).waiting m.chan = [m] := by rw [Core.waiting, he, hp]; rfl
  have hn : s.nextChan core = some m.chan := State.nextChan_one h16 hh (by simp [hw]) ho
  have hr (ch : Nat) : (((s.modCore core (fun c => c.takeFirst m.chan)).startTask tid m).core core).waiting ch = [] := by
    rw [State.core_startTask, State.core_modCore_self, Core.takeFirst, he]
    by_cases hc : ch = m.chan
    · subst hc
      simp [Core.waiting, he, hp, SMap.get_put_self]
    · have h := ho ch hc
      rw [Core.waiting] at h ⊢
      simpa only [SMap.get_put_ne _ _ _ hc] using h
  rw [State.startAll, fillSlots, hs, hn]
  simp only [hw]
  exact fillSlots_none hr

/-- What thread `tid` is as a message starts its task there (R18); `s` is the state before. -/
def State.Starts (s : State) (tid : Nat) (m : Msg) (c : Ctx) (e : ClassEntry) (t : State) : Prop :=
  let x := t.thread tid
  x.st = .ready ∧ x.ctx = m.ctx ∧ x.sysMode = c.sys ∧ x.pc = e.entry ∧ x.act = (s.thread tid).act ∧
  x.prio = (s.core m.dest).chSet.get 0 m.chan % 8 ∧ x.s.get 0 2 = BitVec.ofNat 64 (0xFFFFFFFFF9000 + slotOf tid * 0x1000) ∧
  x.s.get 0 3 = e.data ∧
  x.s.get 0 9 = BitVec.ofNat 64 (m.src + 2 ^ 17 * s.fleet.devId + 2 ^ 27 * m.cls + 2 ^ 33 * m.pay.length) ∧
  (∀ i (h : i < m.pay.length), x.s.get 0 (10 + i) = m.pay[i]) ∧
  (∀ r, r ≠ 2 → r ≠ 3 → r ≠ 9 → (r < 10 ∨ 10 + m.pay.length ≤ r) → x.s.get 0 r = 0) ∧
  x.v = {} ∧ x.m = {} ∧ x.kc = {} ∧ x.ke = {} ∧ x.w = {} ∧ x.d = {} ∧ x.ports = {} ∧
  x.tilesOld = (s.thread tid).tilesOld ∧ x.tiles = (if (s.thread tid).tilesOld then (s.thread tid).tiles else {}) ∧
  x.fflags = 0 ∧ x.vrnd = 0 ∧ x.srseed = 0 ∧
  x.gen = 0x9E3779B97F4A7C15#64 ∧ x.wshape = 0x2002#16 ∧ x.mfmt = 0x66#10 ∧ x.mkReg = 32 ∧ x.mpitcha = 128 ∧ x.mpitchb = 128 ∧
  x.msca = 0 ∧ x.mscb = 0 ∧ x.mscn = 0 ∧ x.hashk = 0 ∧ x.ackcnt = 0 ∧ x.tcause = 0 ∧ x.tval = 0 ∧ x.tpc = 0 ∧ x.kin = none

/-- A message of a valid class starts its task, in a state that agrees with `s` on what R18 reads. -/
theorem State.startTask_starts {s u : State} {tid : Nat} {m : Msg} {c : Ctx} {e : ClassEntry} (hc : u.ctx? m.ctx = some c)
    (he : c.classes.get ⟨0, 0⟩ m.cls = e) (h0 : e.entry ≠ 0) (heven : e.entry.getLsbD 0 = false)
    (hth : u.thread tid = s.thread tid) (hset : (u.core m.dest).chSet = (s.core m.dest).chSet) (hf : u.fleet = s.fleet) :
    s.Starts tid m c e (u.startTask tid m) := by
  have hr : u.startTask tid m = u.setThread tid
      { act := (s.thread tid).act, msgNo := (s.thread tid).msgNo, seqs := (s.thread tid).seqs, lastIss := (s.thread tid).lastIss,
        tiles := if (s.thread tid).tilesOld then (s.thread tid).tiles else {}, tilesOld := (s.thread tid).tilesOld,
        st := .ready, ctx := m.ctx, sysMode := c.sys, pc := e.entry,
        s := startRegs (slotOf tid) e.data (headerOf s.fleet.devId m) m.pay,
        prio := (s.core m.dest).chSet.get 0 m.chan % 8, launch := m.launch.map (·.lid), readyAt := u.issueCycle m.dest } := by
    simp only [State.startTask, hc, he, if_neg h0, heven, Bool.false_eq_true, if_false, hth, hset, hf]
  rw [hr, State.Starts, State.thread_setThread_self]
  exact ⟨rfl, rfl, rfl, rfl, rfl, rfl, rfl, rfl, rfl, fun i h => startRegs_dword _ _ _ _ h,
    fun r h2 h3 h9 h => startRegs_other _ _ _ _ h2 h3 h9 h,
    rfl, rfl, rfl, rfl, rfl, rfl, rfl, rfl, rfl, rfl, rfl, rfl, rfl, rfl, rfl, rfl, rfl, rfl, rfl, rfl, rfl, rfl, rfl, rfl, rfl, rfl, rfl⟩

/-! ## The error record's bytes -/

/-- With no Update-only copies about, a write at home changes memory only. -/
theorem State.homeWrite_of_no_upd {s : State} (h : s.upd = []) (l : Nat) (d : List Byte) :
    s.homeWrite l d = { s with mem := writeBytes s.mem l d } := by
  simp only [State.homeWrite, State.mergeAt, State.mergeWhere, h, List.length_nil, mergeUpTo]
theorem State.almIrq_head (s : State) : s.almIrq.host.head = s.host.head := by
  unfold State.almIrq State.almRaise
  split
  · split <;> rfl
  · rfl
/-- An entry of the Almanac lies below its state words. -/
theorem State.almEntry_below (s t : State) (h : t.host.almbase = s.host.almbase) (q k : Nat) : s.almEntry q + 64 ≤ t.almState k := by
  have hq := Nat.mod_lt q (show 0 < 65536 by omega)
  simp only [State.almEntry, State.almState, h]
  omega
theorem State.almState_mem (s : State) (m : List Host.Cell) (q : Nat) : ({ s with mem := m } : State).almState q = s.almState q := rfl
/-- A record that has room stands in the Almanac's next entry, its first words as R329 lists them. -/
theorem State.errRecord_written {s : State} {kind ctx cause whr : Nat} {pc val : B64} (hb : s.host.almbase.getLsbD 0 = true)
    (hu : s.almUsed ≠ 65536) (hupd : s.upd = []) :
    (s.errRecord kind ctx cause false whr pc val).host.head = (s.host.head + 1) % 2 ^ 32 ∧
    readBytes (s.errRecord kind ctx cause false whr pc val).mem (s.almEntry s.host.head) 32 =
      leBytes 8 (0x5F + 2 ^ 8 * kind + 2 ^ 32 * (ctx % 2 ^ 16) + 2 ^ 48 * cause) ++ leBytes 8 whr ++ leBytes 8 pc.toNat ++
        leBytes 8 val.toNat := by
  have hc : (!s.host.almbase.getLsbD 0 || s.almUsed == 65536) = false := by simp [hb, hu]
  unfold State.errRecord
  dsimp only
  rw [if_neg (Bool.eq_false_iff.mp hc)]
  rw [State.homeWrite_of_no_upd hupd]
  rw [State.homeWrite_of_no_upd (by exact hupd)]
  refine ⟨State.almIrq_head _, ?_⟩
  rw [State.almIrq_keeps (f := State.mem) (fun _ _ => rfl)]
  dsimp only
  have hbelow := State.almEntry_below s s rfl s.host.head s.host.head
  have hnested : 2 ^ 56 * State.errRecord.bitv false = 0 := rfl
  rw [State.almState_mem, readBytes_writeBytes_out (.inl (by omega)), hnested, Nat.add_zero, List.append_assoc]
  exact readBytes_writeBytes_prefix (by simp)

/-! ## Delivery -/

theorem State.core_drift (s : State) (l : List Msg) (k : Nat) : ({ s with drift := l } : State).core k = s.core k := rfl

/-- A core forgets that it bounced a message. -/
def State.unbounced (s : State) (m : Msg) : State :=
  s.modCore m.dest (fun c => { c with bounces := c.bounces.filter (fun b => !(b.pair == m.pair && b.chan == m.chan && b.no == m.no)) })

theorem State.bounces_of_no_record {s : State} {m : Msg} (h : (s.core m.dest).bounces = []) :
    s.bounces m = decide (16 ≤ ((s.core m.dest).spill.get [] m.chan).length) := by
  simp [State.bounces, h]
theorem State.deliver_accepts {s : State} {m : Msg} (hh : s.holds m.dest m.ctx = true) (hl : m.launch = none) (hb : s.bounces m = false) :
    s.deliver m = (s.accept m, true) := by
  simp [State.deliver, hh, hl, hb]
theorem State.deliver_bounces {s : State} {m : Msg} (hh : s.holds m.dest m.ctx = true) (hl : m.launch = none) (hb : s.bounces m = true) :
    s.deliver m = (s.modCore m.dest (fun c => c.recordBounce m), false) := by
  simp [State.deliver, hh, hl, hb]
/-- A message that its destination takes leaves Drift and is accepted. -/
theorem State.arrive_accepts {s : State} {n : Nat} {m : Msg} (hm : s.drift[n]? = some m) (ha : s.mayArrive n = true)
    (hh : s.holds m.dest m.ctx = true) (hl : m.launch = none) (hb : s.bounces m = false) :
    s.arrive n = ({ s with drift := s.drift.eraseIdx n } : State).accept m := by
  have hd := State.deliver_accepts (s := { s with drift := s.drift.eraseIdx n }) hh hl hb
  simp [State.arrive, ha, hm, State.noReturn, hb, hd]
/-- One that is bounced goes to its source's resend buffer. -/
theorem State.arrive_bounces {s : State} {n : Nat} {m : Msg} (hm : s.drift[n]? = some m) (ha : s.mayArrive n = true)
    (hh : s.holds m.dest m.ctx = true) (hl : m.launch = none) (hb : s.bounces m = true) (hr : (s.core m.src).resend.length < 16) :
    s.arrive n = (({ s with drift := s.drift.eraseIdx n } : State).modCore m.dest (fun c => c.recordBounce m)).modCore m.src
      (fun c => { c with resend := c.resend ++ [m] }) := by
  have hd := State.deliver_bounces (s := { s with drift := s.drift.eraseIdx n }) hh hl hb
  simp [State.arrive, ha, hm, State.noReturn, hl, Nat.not_le.mpr hr, hd]
/-- Without room there it stays on its way. -/
theorem State.arrive_stays {s : State} {n : Nat} {m : Msg} (hm : s.drift[n]? = some m) (ha : s.mayArrive n = true)
    (hh : s.holds m.dest m.ctx = true) (hl : m.launch = none) (hb : s.bounces m = true) (hr : 16 ≤ (s.core m.src).resend.length) :
    s.arrive n = s := by
  simp [State.arrive, ha, hm, State.noReturn, hl, hh, hb, hr]

theorem State.hasClass_of_ctx {s : State} {m : Msg} {c : Ctx} (hc : s.ctx? m.ctx = some c) :
    s.hasClass m = ((c.classes.get ⟨0, 0⟩ m.cls).entry != 0) := by
  simp [State.hasClass, hc]
theorem State.hasClass_of_valid (s : State) {m : Msg} {c : Ctx} (hc : s.ctx? m.ctx = some c) (h0 : (c.classes.get ⟨0, 0⟩ m.cls).entry ≠ 0) :
    s.hasClass m = true := by
  rw [State.hasClass_of_ctx hc]
  simpa using h0
theorem State.accept_refuses {s : State} {m : Msg} (hc : s.hasClass m = false) : s.accept m = (s.unbounced m).refuse m 1 0 0 := by
  have h : (s.unbounced m).hasClass m = false := hc
  simp only [State.accept]
  rw [← State.unbounced, h]
  rfl
/-- On a held channel with nothing spilled a message takes a free entry. -/
theorem State.accept_enters {s : State} {m : Msg} (hc : s.hasClass m = true) (hh : s.chanHeld m.dest m.chan = true)
    (hs : (s.core m.dest).spill.get [] m.chan = []) (hl : ((s.core m.dest).entries.get [] m.chan).length < 8) :
    s.accept m = (s.unbounced m).modCore m.dest (fun c =>
      { c with entries := c.entries.put m.chan ((s.core m.dest).entries.get [] m.chan ++ [m]) }) := by
  have h1 : (s.unbounced m).hasClass m = true := hc
  have h2 : (s.unbounced m).chanHeld m.dest m.chan = true :=
    (State.chanHeld_congr (s := s) (t := s.unbounced m) rfl (by simp [State.unbounced])).trans hh
  have h3 : ((s.unbounced m).core m.dest).spill = (s.core m.dest).spill := by simp [State.unbounced]
  have h4 : ((s.unbounced m).core m.dest).entries = (s.core m.dest).entries := by simp [State.unbounced]
  simp only [State.accept]
  rw [← State.unbounced, h1, h2, h3, h4, hs]
  simp [hl]
/-- The state in which a message has joined its channel's spill queue. -/
def State.spilled (s : State) (m : Msg) : State :=
  ((s.unbounced m).modCore m.dest (fun c =>
    { c with spill := c.spill.put m.chan ((s.core m.dest).spill.get [] m.chan ++ [m]) })).wakeCore m.dest
/-- Else it joins the spill queue, and what can start starts. -/
theorem State.accept_spills {s : State} {m : Msg} (hc : s.hasClass m = true)
    (h : s.chanHeld m.dest m.chan = false ∨ (s.core m.dest).spill.get [] m.chan ≠ [] ∨ 8 ≤ ((s.core m.dest).entries.get [] m.chan).length) :
    s.accept m = (s.spilled m).startAll m.dest := by
  have h1 : (s.unbounced m).hasClass m = true := hc
  have h2 : (s.unbounced m).chanHeld m.dest m.chan = s.chanHeld m.dest m.chan := State.chanHeld_congr rfl (by simp [State.unbounced])
  have h3 : ((s.unbounced m).core m.dest).spill = (s.core m.dest).spill := by simp [State.unbounced]
  have h4 : ((s.unbounced m).core m.dest).entries = (s.core m.dest).entries := by simp [State.unbounced]
  have hn : (s.chanHeld m.dest m.chan && decide (((s.core m.dest).entries.get [] m.chan).length < 8) &&
      ((s.core m.dest).spill.get [] m.chan).isEmpty) = false := by
    rcases h with h | h | h
    · simp [h]
    · simp [h]
    · simp [Nat.not_lt.mpr h]
  simp only [State.accept]
  rw [← State.unbounced, h1, h2, h3, h4, hn]
  rfl

/-! What joining the spill queue leaves. -/

theorem State.wakeCore_threads (s : State) (k : Nat) : (s.wakeCore k).threads = s.threads := by
  unfold State.wakeCore; split <;> rfl
theorem State.wakeCore_ctxs (s : State) (k : Nat) : (s.wakeCore k).ctxs = s.ctxs := by
  unfold State.wakeCore; split <;> rfl
theorem State.wakeCore_fleet (s : State) (k : Nat) : (s.wakeCore k).fleet = s.fleet := by
  unfold State.wakeCore; split <;> rfl
theorem State.wakeCore_drift (s : State) (k : Nat) : (s.wakeCore k).drift = s.drift := by
  unfold State.wakeCore; split <;> rfl
theorem State.core_wakeCore {β : Type} {f : Core → β} (hf : ∀ (c : Core) (w : Option Nat), f { c with wakeBy := w } = f c) (s : State)
    (k : Nat) : f ((s.wakeCore k).core k) = f (s.core k) := by
  unfold State.wakeCore
  split
  · rw [State.core_modCore_self]; exact hf _ _
  · rfl

section
variable (s : State) (m : Msg)

theorem State.spilled_threads : (s.spilled m).threads = s.threads := State.wakeCore_threads _ _
theorem State.spilled_ctxs : (s.spilled m).ctxs = s.ctxs := State.wakeCore_ctxs _ _
theorem State.spilled_fleet : (s.spilled m).fleet = s.fleet := State.wakeCore_fleet _ _
theorem State.spilled_drift : (s.spilled m).drift = s.drift := State.wakeCore_drift _ _
theorem State.spilled_ctx : ((s.spilled m).core m.dest).ctx = (s.core m.dest).ctx := by
  rw [State.spilled, State.core_wakeCore (f := Core.ctx) (fun _ _ => rfl)]
  simp [State.unbounced]
theorem State.spilled_isoff : ((s.spilled m).core m.dest).isoff = (s.core m.dest).isoff := by
  rw [State.spilled, State.core_wakeCore (f := Core.isoff) (fun _ _ => rfl)]
  simp [State.unbounced]
theorem State.spilled_chSet : ((s.spilled m).core m.dest).chSet = (s.core m.dest).chSet := by
  rw [State.spilled, State.core_wakeCore (f := Core.chSet) (fun _ _ => rfl)]
  simp [State.unbounced]
theorem State.spilled_entries : ((s.spilled m).core m.dest).entries = (s.core m.dest).entries := by
  rw [State.spilled, State.core_wakeCore (f := Core.entries) (fun _ _ => rfl)]
  simp [State.unbounced]
theorem State.spilled_spill :
    ((s.spilled m).core m.dest).spill = (s.core m.dest).spill.put m.chan ((s.core m.dest).spill.get [] m.chan ++ [m]) := by
  rw [State.spilled, State.core_wakeCore (f := Core.spill) (fun _ _ => rfl)]
  simp [State.unbounced]
theorem State.spilled_freeSlot : (s.spilled m).freeSlot m.dest = s.freeSlot m.dest :=
  State.freeSlot_congr (s.spilled_threads m) (s.spilled_ctxs m) (s.spilled_ctx m) (s.spilled_isoff m)

end

/-! ## A task starts -/

/-- The core's free slot, contexts and threads are those of `s`, and one message waits there. -/
structure State.OneWaits (s u : State) (m : Msg) : Prop where
  threads : u.threads = s.threads
  ctxs : u.ctxs = s.ctxs
  fleet : u.fleet = s.fleet
  ctx : (u.core m.dest).ctx = (s.core m.dest).ctx
  isoff : (u.core m.dest).isoff = (s.core m.dest).isoff
  chSet : (u.core m.dest).chSet = (s.core m.dest).chSet
  entries : (u.core m.dest).entries.get [] m.chan = []
  spill : (u.core m.dest).spill.get [] m.chan = [m]
  others : ∀ ch, ch ≠ m.chan → (u.core m.dest).waiting ch = []

theorem State.OneWaits.startAll {s u : State} {m : Msg} {tid : Nat} (h : s.OneWaits u m) (hs : s.freeSlot m.dest = some tid)
    (h16 : m.chan < 16) (hh : s.chanHeld m.dest m.chan = false) :
    u.startAll m.dest = (u.modCore m.dest (fun c => c.takeFirst m.chan)).startTask tid m :=
  State.startAll_one ((State.freeSlot_congr h.threads h.ctxs h.ctx h.isoff).trans hs) h16
    ((State.chanHeld_congr h.threads h.chSet).trans hh) h.entries h.spill h.others
theorem Core.takeFirst_chSet (c : Core) (ch : Nat) : (c.takeFirst ch).chSet = c.chSet := by
  unfold Core.takeFirst
  split <;> rfl
/-- The message that waits starts its task. -/
theorem State.OneWaits.starts {s u : State} {m : Msg} {tid : Nat} {c : Ctx} {e : ClassEntry} (h : s.OneWaits u m)
    (hs : s.freeSlot m.dest = some tid) (h16 : m.chan < 16) (hh : s.chanHeld m.dest m.chan = false) (hc : s.ctx? m.ctx = some c)
    (he : c.classes.get ⟨0, 0⟩ m.cls = e) (h0 : e.entry ≠ 0) (heven : e.entry.getLsbD 0 = false) :
    s.Starts tid m c e (u.startAll m.dest) := by
  rw [h.startAll hs h16 hh]
  refine State.startTask_starts ?_ he h0 heven ?_ ?_ h.fleet
  · rw [State.ctx?] at hc ⊢
    rw [State.modCore_ctxs, h.ctxs]
    exact hc
  · rw [State.thread, State.modCore_threads, h.threads]
    rfl
  · rw [State.core_modCore_self, Core.takeFirst_chSet, h.chSet]
theorem State.startTask_drift (s : State) (tid : Nat) (m : Msg) : (s.startTask tid m).drift = s.drift := by
  unfold State.startTask
  split
  · exact State.refuse_drift _ _ _ _ _
  · dsimp only
    split
    · exact State.refuse_drift _ _ _ _ _
    · split
      · exact State.refuse_drift _ _ _ _ _
      · rfl

section
variable {s : State} {tid : Nat} {m : Msg} {c : Ctx} {e : ClassEntry} (hs : s.freeSlot m.dest = some tid)
  (hh : s.holds m.dest m.ctx = true) (hc : s.ctx? m.ctx = some c) (he : c.classes.get ⟨0, 0⟩ m.cls = e) (h0 : e.entry ≠ 0)
  (heven : e.entry.getLsbD 0 = false) (hl : m.launch = none) (h16 : m.chan < 16) (hheld : s.chanHeld m.dest m.chan = false)
  (hw : ∀ ch, (s.core m.dest).waiting ch = []) (hb : (s.core m.dest).bounces = [])
include hw

theorem State.nothing_waits (ch : Nat) : (s.core m.dest).entries.get [] ch = [] ∧ (s.core m.dest).spill.get [] ch = [] :=
  List.append_eq_nil_iff.mp (hw ch)
theorem State.oneWaits_spilled : s.OneWaits (s.spilled m) m where
  threads := s.spilled_threads m
  ctxs := s.spilled_ctxs m
  fleet := s.spilled_fleet m
  ctx := s.spilled_ctx m
  isoff := s.spilled_isoff m
  chSet := s.spilled_chSet m
  entries := by rw [s.spilled_entries m]; exact (State.nothing_waits hw m.chan).1
  spill := by rw [s.spilled_spill m, SMap.get_put_self, (State.nothing_waits hw m.chan).2]; rfl
  others := fun ch hne => by
    rw [Core.waiting, s.spilled_entries m, s.spilled_spill m, SMap.get_put_ne _ _ _ hne]
    exact hw ch
theorem State.oneWaits_put : s.OneWaits (s.modCore m.dest (fun k => { k with spill := k.spill.put m.chan [m] })) m where
  threads := rfl
  ctxs := rfl
  fleet := rfl
  ctx := by simp
  isoff := by simp
  chSet := by simp
  entries := by simpa using (State.nothing_waits hw m.chan).1
  spill := by simp [SMap.get_put_self]
  others := fun ch hne => by
    rw [State.core_modCore_self, Core.waiting, SMap.get_put_ne _ _ _ hne]
    exact hw ch
omit hw
include hc he h0 hheld
/-- With a free slot and nothing waiting, a message that is accepted goes through the spill queue to the slot. -/
theorem State.accept_oneWaits : s.accept m = (s.spilled m).startAll m.dest :=
  State.accept_spills (s.hasClass_of_valid hc (by rwa [he])) (.inl hheld)
include hs h16 hw
include heven in
theorem State.accept_starts : s.Starts tid m c e (s.accept m) := by
  rw [State.accept_oneWaits hc he h0 hheld]
  exact (State.oneWaits_spilled hw).starts hs h16 hheld hc he h0 heven
theorem State.accept_starts_drift : (s.accept m).drift = s.drift := by
  rw [State.accept_oneWaits hc he h0 hheld, (State.oneWaits_spilled hw).startAll hs h16 hheld, State.startTask_drift]
  exact s.spilled_drift m
end

/-- The first clause of R18 and R246 for each of the three ways a message comes to its core. -/
theorem message_starts_task (s : State) (tid : Nat) (m : Msg) (c : Ctx) (e : ClassEntry) (hs : s.freeSlot m.dest = some tid)
    (hh : s.holds m.dest m.ctx = true) (hc : s.ctx? m.ctx = some c) (he : c.classes.get ⟨0, 0⟩ m.cls = e) (h0 : e.entry ≠ 0)
    (heven : e.entry.getLsbD 0 = false) (hl : m.launch = none) (h16 : m.chan < 16) (hheld : s.chanHeld m.dest m.chan = false)
    (hw : ∀ ch, (s.core m.dest).waiting ch = []) (hb : (s.core m.dest).bounces = []) :
    (∀ n, s.drift[n]? = some m → s.mayArrive n = true →
      ∃ t, exec (.messageArrival n) s = .next t ∧ s.Starts tid m c e t ∧ t.drift = s.drift.eraseIdx n) ∧
    (∃ t, exec (.spilledMessageStart m.dest)
        (s.modCore m.dest (fun k => { k with spill := k.spill.put m.chan [m] })) = .next t ∧ s.Starts tid m c e t) ∧
    (∀ src, c.saved = false → (s.core src).resend = [m] →
      ∃ t, exec (.bouncedMessageResend (some src)) s = .next t ∧ s.Starts tid m c e t ∧ (t.core src).resend = []) := by
  have hnb : s.bounces m = false := by
    rw [State.bounces_of_no_record hb, (State.nothing_waits hw m.chan).2]
    rfl
  refine ⟨fun n hm ha => ⟨s.arrive n, rfl, ?_⟩, ⟨_, rfl, ?_⟩, fun src hsv hr => ?_⟩
  · rw [State.arrive_accepts hm ha hh hl hnb]
    exact ⟨State.accept_starts (s := { s with drift := s.drift.eraseIdx n }) hs hc he h0 heven h16 hheld hw,
      State.accept_starts_drift (s := { s with drift := s.drift.eraseIdx n }) hs hc he h0 h16 hheld hw⟩
  · exact (State.oneWaits_put hw).starts hs h16 hheld hc he h0 heven
  · have hra : resendAll (s.core src).resend s = (s.accept m, []) := by
      simp [hr, resendAll, hc, hsv, State.deliver_accepts hh hl hnb]
    refine ⟨(s.accept m).modCore src (fun k => { k with resend := [] }), ?_, ?_, ?_⟩
    · show Host.Outcome.next ((resendAll (s.core src).resend s).1.modCore src
        (fun k => { k with resend := (resendAll (s.core src).resend s).2 })) = _
      rw [hra]
    · exact State.accept_starts hs hc he h0 heven h16 hheld hw
    · rw [State.core_modCore_self]

/-! ## Where no slot starts it -/

section
variable {s : State} {n : Nat} {m : Msg} {c : Ctx} (hm : s.drift[n]? = some m) (ha : s.mayArrive n = true)
  (hh : s.holds m.dest m.ctx = true) (hc : s.ctx? m.ctx = some c) (hl : m.launch = none) (hb : (s.core m.dest).bounces = [])
include hm ha hh hl hb

theorem State.arrive_with_room (hr : ((s.core m.dest).spill.get [] m.chan).length < 16) :
    s.arrive n = ({ s with drift := s.drift.eraseIdx n } : State).accept m :=
  State.arrive_accepts hm ha hh hl (by rw [State.bounces_of_no_record hb]; simpa using hr)
include hc
theorem message_takes_entry (h0 : (c.classes.get ⟨0, 0⟩ m.cls).entry ≠ 0) (hr : ((s.core m.dest).spill.get [] m.chan).length < 16)
    (hheld : s.chanHeld m.dest m.chan = true) (hsp : (s.core m.dest).spill.get [] m.chan = [])
    (he : ((s.core m.dest).entries.get [] m.chan).length < 8) :
    ∃ t, (exec (.messageArrival n) s = .next t ∧ t.drift = s.drift.eraseIdx n ∧ t.threads = s.threads) ∧
      (t.core m.dest).entries.get [] m.chan = (s.core m.dest).entries.get [] m.chan ++ [m] ∧
      (t.core m.dest).spill = (s.core m.dest).spill := by
  let u : State := { s with drift := s.drift.eraseIdx n }
  have hu : s.arrive n = (u.unbounced m).modCore m.dest (fun c =>
      { c with entries := c.entries.put m.chan ((s.core m.dest).entries.get [] m.chan ++ [m]) }) :=
    (State.arrive_with_room hm ha hh hl hb hr).trans (State.accept_enters (s := u) (u.hasClass_of_valid hc h0) hheld hsp he)
  refine ⟨s.arrive n, ⟨rfl, ?_⟩, ?_⟩ <;> rw [hu]
  · exact ⟨rfl, rfl⟩
  · rw [State.core_modCore_self]
    refine ⟨SMap.get_put_self _ _ _ _, ?_⟩
    have hk : u.core m.dest = s.core m.dest := rfl
    simp [State.unbounced, hk]
theorem message_spills (h0 : (c.classes.get ⟨0, 0⟩ m.cls).entry ≠ 0) (hr : ((s.core m.dest).spill.get [] m.chan).length < 16)
    (hw : s.chanHeld m.dest m.chan = false ∨ (s.core m.dest).spill.get [] m.chan ≠ [] ∨ 8 ≤ ((s.core m.dest).entries.get [] m.chan).length)
    (hs : s.freeSlot m.dest = none) :
    ∃ t, (exec (.messageArrival n) s = .next t ∧ t.drift = s.drift.eraseIdx n ∧ t.threads = s.threads) ∧
      (t.core m.dest).entries = (s.core m.dest).entries ∧
      (t.core m.dest).spill.get [] m.chan = (s.core m.dest).spill.get [] m.chan ++ [m] := by
  let u : State := { s with drift := s.drift.eraseIdx n }
  have hu : s.arrive n = u.spilled m := by
    rw [State.arrive_with_room hm ha hh hl hb hr]
    exact (State.accept_spills (s := u) (u.hasClass_of_valid hc h0) hw).trans
      (State.startAll_of_no_slot ((State.spilled_freeSlot u m).trans hs))
  refine ⟨u.spilled m, ⟨?_, State.spilled_drift u m, State.spilled_threads u m⟩, State.spilled_entries u m, ?_⟩
  · rw [← hu]; rfl
  · rw [State.spilled_spill u m]
    exact SMap.get_put_self _ _ _ _
omit hc
theorem message_bounces (hsp : 16 ≤ ((s.core m.dest).spill.get [] m.chan).length) :
    ((s.core m.src).resend.length < 16 →
      ∃ t, (exec (.messageArrival n) s = .next t ∧ t.drift = s.drift.eraseIdx n ∧ t.threads = s.threads) ∧
        (t.core m.src).resend = (s.core m.src).resend ++ [m] ∧
        (⟨m.pair, m.chan, m.no⟩ : Bounce) ∈ (t.core m.dest).bounces ∧ (t.core m.dest).spill = (s.core m.dest).spill) ∧
    (16 ≤ (s.core m.src).resend.length → exec (.messageArrival n) s = .next s) := by
  have hbn : s.bounces m = true := by
    rw [State.bounces_of_no_record hb]
    simpa using hsp
  have hrec : (s.core m.dest).recordBounce m = { s.core m.dest with bounces := [⟨m.pair, m.chan, m.no⟩] } := by
    simp [Core.recordBounce, hb]
  constructor
  · intro hr
    refine ⟨s.arrive n, ⟨rfl, ?_⟩, ?_⟩ <;> rw [State.arrive_bounces hm ha hh hl hbn hr]
    · exact ⟨rfl, rfl⟩
    · by_cases hsd : m.src = m.dest
      · rw [hsd]
        simp [State.core_drift, hrec]
      · rw [State.core_modCore_self, State.core_modCore_ne _ _ (Ne.symm hsd), State.core_modCore_ne _ _ hsd, State.core_modCore_self]
        simp [State.core_drift, hrec]
  · intro hr
    show Host.Outcome.next (s.arrive n) = _
    rw [State.arrive_stays hm ha hh hl hbn hr]
include hc
theorem message_refused (h0 : (c.classes.get ⟨0, 0⟩ m.cls).entry = 0) (hr : ((s.core m.dest).spill.get [] m.chan).length < 16) :
    ∃ t, (exec (.messageArrival n) s = .next t ∧ t.drift = s.drift.eraseIdx n ∧ t.threads = s.threads) ∧
      (t.core m.dest).entries = (s.core m.dest).entries ∧ (t.core m.dest).spill = (s.core m.dest).spill ∧
      (s.host.almbase.getLsbD 0 = true → s.almUsed ≠ 65536 → s.upd = [] → t.host.head = (s.host.head + 1) % 2 ^ 32 ∧
        readBytes t.mem (s.almEntry s.host.head) 32 = leBytes 8 (0x5F + 2 ^ 8 * 2 + 2 ^ 32 * (m.ctx % 2 ^ 16)) ++ leBytes 8 m.dest ++
          leBytes 8 0 ++ leBytes 8 (m.cls + 2 ^ 6 + 2 ^ 8 * m.src + 2 ^ 25 * s.fleet.devId)) := by
  let u : State := { s with drift := s.drift.eraseIdx n }
  have hu : s.arrive n = (u.unbounced m).refuse m 1 0 0 := by
    rw [State.arrive_with_room hm ha hh hl hb hr]
    exact State.accept_refuses ((State.hasClass_of_ctx (s := u) hc).trans (by rw [h0]; rfl))
  have hcore : ((u.unbounced m).refuse m 1 0 0).core m.dest = (u.unbounced m).core m.dest := by
    rw [State.core, State.refuse_cores, State.core]
  have hk : u.core m.dest = s.core m.dest := rfl
  have hstep : exec (.messageArrival n) s = .next ((u.unbounced m).refuse m 1 0 0) := by rw [← hu]; rfl
  refine ⟨(u.unbounced m).refuse m 1 0 0, ⟨hstep, State.refuse_drift _ _ _ _ _, State.refuse_threads _ _ _ _ _⟩, ?_, ?_, ?_⟩
  · rw [hcore]; simp [State.unbounced, hk]
  · rw [hcore]; simp [State.unbounced, hk]
  · intro hb hn hupd
    have h := State.errRecord_written (s := u.unbounced m) (kind := 2) (ctx := m.ctx) (cause := 0) (whr := m.dest) (pc := 0)
      (val := BitVec.ofNat 64 (m.cls + 2 ^ 6 * 1 + 2 ^ 8 * m.src + 2 ^ 25 * s.fleet.devId)) hb hn hupd
    rw [leBytes_toNat_ofNat] at h
    exact h
end

/-- Settles O24, by what `deliver` and `accept` do in each case, and by the one waiting message that `startAll` finds. -/
theorem messageStartsTask : Obligations.MessageStartsTask := by
  unfold Obligations.MessageStartsTask
  refine ⟨fun s tid m c e hs hh hc he h0 heven hl h16 hheld hw hb =>
    message_starts_task s tid m c e hs hh hc he h0 heven hl h16 hheld hw hb, fun s n m c hm ha hh hc hl hb => ⟨fun h0 hr => ⟨?_, ?_⟩, ?_, ?_⟩⟩
  · exact fun hheld hsp he => message_takes_entry hm ha hh hc hl hb h0 hr hheld hsp he
  · exact fun hw hs => message_spills hm ha hh hc hl hb h0 hr hw hs
  · exact fun hsp => message_bounces hm ha hh hl hb hsp
  · exact fun h0 hr => message_refused hm ha hh hc hl hb h0 hr

end Sys2Proof.Machine
end

section
/-!
# Reset and training

What a readiness bit reads after it is set, that a change of eligible ports leaves the host link's registers, and
the reset values of the control registers in a state with nothing listed.
-/
open Sys2Proof
namespace Sys2Proof.Machine

/-! ## The readiness map -/

/-- Setting a bit of the readiness map makes it 1 (R316). -/
theorem State.readyBit_setReady_true (s : State) (off n : Nat) : (s.setReady off n true).readyBit off n = true := by
  unfold State.setReady
  split
  · next h => exact h
  · next h =>
    have hb : (s.host.ready.get 0 (off + n / 8)).testBit (n % 8) = false := Bool.eq_false_of_not_eq_true h
    show ((s.host.ready.put (off + n / 8) _).get 0 (off + n / 8)).testBit (n % 8) = true
    rw [SMap.get_put_self, if_pos rfl, Nat.add_comm, Nat.testBit_two_pow_add_eq, hb]
    rfl
theorem State.ucie_setReady (s : State) (off n : Nat) (v : Bool) : (s.setReady off n v).host.ucie = s.host.ucie := by
  unfold State.setReady
  split <;> rfl

/-! ## A change of eligible ports leaves the host link -/

theorem State.host_unowe (s : State) (o : OutPkt) : (s.unowe o).host = s.host := by
  unfold State.unowe
  split <;> rfl
theorem State.host_uncarry (s : State) (p : Packet) : (s.uncarry p).host = s.host :=
  foldl_keeps (p := State.host) (fun s t => by extract_lets; split <;> rfl) _ s
theorem State.host_skipNotice (s : State) (p : Packet) (dev : Nat) : (s.skipNotice p dev).host = s.host := by
  unfold State.skipNotice
  split
  · rfl
  · split <;> rfl
theorem State.host_unreachable (s : State) (o : OutPkt) : (s.unreachable o).host = s.host := by
  have h1 (u : State) (h : u.host = s.host) : (if o.at_.unsent then u.uncarry o.pkt else u).host = s.host := by
    split
    · rw [State.host_uncarry, h]
    · exact h
  have h2 (u : State) (h : u.host = s.host) : (if o.sends = 0 then u.skipNotice o.pkt o.pkt.dest else u).host = s.host := by
    split
    · rw [State.host_skipNotice, h]
    · exact h
  exact h2 _ (h1 _ (s.host_unowe o))
theorem State.host_cutLost (s : State) (o : OutPkt) : (s.cutLost o).1.host = s.host := by
  unfold State.cutLost
  extract_lets
  split <;> rfl
theorem State.host_spray {s : State} {ctx key : Nat} {c : State × Nat × Nat} (e : s.spray ctx key = some c) :
    c.1.host = s.host := by
  unfold State.spray at e
  extract_lets el zero mine old vals at e
  split at e
  · cases e
  · cases e; rfl
theorem State.host_choosePort (s : State) (o : OutPkt) (last : Bool) : (s.choosePort o last).host = s.host := by
  unfold State.choosePort
  split
  · rfl
  · extract_lets c s1 o1
    have h1 : s1.host = s.host := s.host_cutLost o
    clear_value s1
    split
    · exact h1
    · split
      · next c hc =>
        have h2 : c.1.host = s.host := (State.host_spray hc).trans h1
        extract_lets
        split <;> exact h2
      · split
        · exact h1
        · rw [State.host_unreachable, h1]
theorem State.host_lightChanged (s : State) : s.lightChanged.host = s.host := by
  unfold State.lightChanged
  extract_lets s1 wait s2
  have h2 : s2.host = s.host := foldl_keeps (p := State.host) (fun s o => by
    split
    · rfl
    · rw [State.host_choosePort, State.host_unowe]) _ _
  rw [foldl_keeps (p := State.host) (fun s o => s.host_choosePort o true) wait s2, h2]

/-! ## Reset values -/

theorem slotInit_eq (k : Nat) : slotInit k = { sysMode := decide (slotOf k = 4) } := by
  unfold slotInit
  split <;> simp [*]
theorem resetValue_of_counter {n : Nat} (h40 : 0x40 ≤ n) : resetValue n = 0 := by
  unfold resetValue
  simp only [show n ≠ 0xB by omega, show n ≠ 0x10 by omega, show n ≠ 0x11 by omega, show n ≠ 0x12 by omega,
    show n ≠ 0x13 by omega, show n ≠ 0x30 by omega, if_false, or_self]
/-- With no slot, core, croft, path or context listed, every control register reads its reset value (R24, R27). -/
theorem State.ResetRegs.of_empty {s : State} (ht : s.threads = {}) (hc : s.cores = {}) (hf : s.crofts = {})
    (hw : s.well.paths = {}) (hp : s.poundto = 200) : s.ResetRegs := by
  have thread (k : Nat) : s.thread k = { sysMode := decide (slotOf k = 4) } := by
    rw [State.thread, ht]; exact slotInit_eq k
  have core (k : Nat) : s.core k = {} := by rw [State.core, hc]; rfl
  have croft (k : Nat) : s.croft k = {} := by rw [State.croft, hf]; rfl
  have path (k : Nat) : s.path? k = none := by rw [State.path?, hw]; rfl
  have ev (k n : Nat) : s.evRead k n = 0 := by rw [State.evRead, croft]; rfl
  intro tid n
  refine ⟨fun hl h8 => ?_, by simp only [State.cregRead, core]; rfl⟩
  simp only [State.cregRead, thread, core, hp]
  split
  case h_26 =>
    have h40 : 0x40 ≤ n := by
      simp only [cregListed, Bool.or_eq_true, Bool.and_eq_true, decide_eq_true_eq, beq_iff_eq] at hl
      simp only [imp_false] at *
      omega
    rw [resetValue_of_counter h40, croft, ev, path]
    split
    · rfl
    · split <;> rfl
  case h_1 | h_2 | h_3 | h_4 | h_5 => exact absurd h8 (by decide)
  all_goals rfl

theorem State.reset_resetRegs : State.reset.ResetRegs := .of_empty rfl rfl rfl rfl rfl
theorem State.resetWith_resetRegs (s : State) (b : Boot) : (s.resetWith b).ResetRegs := .of_empty rfl rfl rfl rfl rfl
theorem State.NothingReady.of_empty {s : State} (hr : s.host.ready = {}) (hg : s.host.mapGen = 0) : s.NothingReady :=
  ⟨fun off n => by rw [State.readyBit, hr]; exact Nat.zero_testBit _, hg⟩
theorem State.reset_nothingReady : State.reset.NothingReady := .of_empty rfl rfl

/-- A key of a map built from a range reads the value built for it. -/
theorem SMap.get_range {α : Type} (d : α) (f : Nat → α) (m n : Nat) (h : n < m) :
    (SMap.mk ((List.range m).map fun k => (k, f k))).get d n = f n := by
  have hn : (List.range m).find? (fun k => k == n) = some n := by
    rw [List.find?_range_eq_some]
    refine ⟨by simp, List.mem_range.2 h, fun j hj => ?_⟩
    simp [Nat.ne_of_lt hj]
  simp only [SMap.get, List.find?_map]
  rw [show ((fun c : Nat × α => c.1 == n) ∘ fun k => (k, f k)) = fun k => k == n from rfl, hn]
  rfl

/-! ## What training raises -/

theorem State.erasedCount_eq (s : State) (n : Nat) :
    s.erasedCount n = (List.range 8).countP (fun i => (s.lane (8 * n + i)).erased) :=
  List.countP_eq_length_filter.symm
/-- When a port may be ready (R318, R344, R346, R347). -/
theorem State.portTrains_iff (s : State) (n : Nat) : s.portTrains n = true ↔
    n < 24 ∧ s.fleet.idValid = true ∧ (s.oport n).suspect = false ∧
      (List.range 8).countP (fun i => (s.lane (8 * n + i)).erased) ≤ 2 ∧ ((s.oport n).cipher = true → 1 ≤ s.fleet.newGen) := by
  simp only [State.portTrains, ← s.erasedCount_eq, Bool.and_eq_true, Bool.or_eq_true, Bool.not_eq_true', decide_eq_true_eq,
    and_assoc, ← Bool.not_eq_true (s.oport n).cipher, imp_iff_not_or]
theorem State.portReady_lightChanged (s : State) (p : Nat) : s.lightChanged.portReady p = s.portReady p := by
  simp only [State.portReady, State.readyBit, s.host_lightChanged]
theorem State.linkUp_of_module {s : State} {n : Nat} (hn : n < 4) (h : s.host.ucie.get false n = true) : s.linkUp = true :=
  List.any_eq_true.2 ⟨n, List.mem_range.2 hn, h⟩
theorem exec_functionTrained (f : Func) (s : State) : exec (.functionTrained f) s = .next (s.trained f) := rfl
theorem State.trained_terrace {s : State} {n : Nat} (hn : n < 6400) (hf : (s.terrace n).fallen = false) :
    s.trained (.terrace n) = s.setReady 0 n true := by
  simp only [State.trained, hn, hf, decide_true, Bool.not_false, Bool.and_self, if_true]
theorem State.trained_fallen {s : State} {n : Nat} (hf : (s.terrace n).fallen = true) : s.trained (.terrace n) = s := by
  simp only [State.trained, hf, Bool.not_true, Bool.and_false, Bool.false_eq_true, if_false]
/-- A module of the host link that has trained is ready and in use (R310, R316). -/
theorem State.trained_ucie (s : State) {n : Nat} (hn : n < 4) :
    (s.trained (.ucie n)).readyBit 0x1400 (56 + n) = true ∧ (s.trained (.ucie n)).linkUp = true := by
  rw [State.trained, if_pos hn]
  refine ⟨State.readyBit_setReady_true _ _ _, State.linkUp_of_module hn ?_⟩
  rw [State.ucie_setReady]
  show (s.host.ucie.put n true).get false n = true
  rw [SMap.get_put_self]
theorem State.trained_port {s : State} {n : Nat} (h : s.portTrains n = true) : (s.trained (.port n)).portReady n = true := by
  rw [State.trained, if_pos h, State.portReady_lightChanged]
  exact State.readyBit_setReady_true _ _ _

/-- Settles O53: device reset lists nothing, so every register reads its reset value and no function is ready; a
function that trains sets its bit of the readiness map. -/
theorem resetAndTraining : Obligations.ResetAndTraining := by
  refine ⟨⟨rfl, rfl, rfl, rfl, rfl, rfl, rfl, rfl, rfl, State.reset_nothingReady, fun p => ?_, State.reset_resetRegs,
    fun tid => ?_, fun c => ⟨rfl, rfl, rfl, rfl, rfl, rfl⟩⟩, fun s b => ?_, fun s n => ?_⟩
  · rw [State.stackOk, State.reset_nothingReady.1, Bool.false_and]
  · rw [State.thread_reset, slotInit_eq]
    exact ⟨rfl, rfl, rfl, rfl, rfl⟩
  · refine ⟨s.resetWith b, rfl, rfl, rfl, rfl, rfl, rfl, rfl, rfl, fun n hn => ?_, fun p hp => ?_, .of_empty rfl rfl,
      s.resetWith_resetRegs b, rfl⟩
    · rw [State.lane, State.resetWith, SMap.get_range _ _ _ _ hn]
      exact ⟨rfl, rfl, rfl⟩
    · rw [State.oport, State.resetWith, SMap.get_range _ _ _ _ hp]
  · refine ⟨fun hn hf => ⟨_, rfl, ?_⟩, fun hf => ?_, fun hn => ⟨_, rfl, ?_⟩, fun hn => ⟨_, rfl, ?_⟩,
      fun hn => ⟨⟨_, rfl, ?_⟩, _, rfl, ?_⟩, fun hn => ⟨_, rfl, s.trained_ucie hn⟩, s.portTrains_iff n,
      fun h => ⟨_, rfl, State.trained_port h⟩, fun h => ?_⟩
    · rw [State.trained_terrace hn hf]; exact State.readyBit_setReady_true _ _ _
    · rw [exec_functionTrained, State.trained_fallen hf]
    · rw [State.trained, if_pos hn]; exact State.readyBit_setReady_true _ _ _
    · rw [State.trained, if_pos hn]; exact State.readyBit_setReady_true _ _ _
    · rw [State.trained, if_pos hn]; exact State.readyBit_setReady_true _ _ _
    · rw [State.trained, if_pos hn]; exact State.readyBit_setReady_true _ _ _
    · rw [exec_functionTrained, State.trained, h, if_neg Bool.false_ne_true]

end Sys2Proof.Machine
end

section
/-!
# Pending stores

What a store that becomes pending leaves unchanged, and what the performance of a pending store can change: the threads
never, the cores and the other bytes not where no spill queue stands.
-/
open Sys2Proof
namespace Sys2Proof.Machine

/-! ## A store becomes pending -/

theorem State.observe_of_no_store {s : State} (h : s.stores = []) (tid : Nat) (w : Party) (loc n : Nat) :
    s.observe tid w loc n = s := by
  rw [State.observe, h]; rfl
/-- With nothing pending, a store of the current thread adds one pending store and changes nothing else (R209). -/
theorem State.stored_of_no_store {s : State} (h : s.stores = []) (l : Nat) (data : List Byte) :
    s.stored l data = { s with
      stores := [{ ser := s.nextSer, tid := s.cur, loc := l, data := data, tag := s.tag }]
      nextSer := s.nextSer + 1 } := by
  rw [State.stored, State.pushStore, State.observe_of_no_store h, h]; rfl
theorem State.retire_frame (s : State) (len k : Nat) :
    SameOthers (s.thread k) ((s.retire len).thread k) ∧ ((s.retire len).thread k).s = (s.thread k).s ∧
      SameTrap (s.thread k) ((s.retire len).thread k) := by
  unfold State.retire
  by_cases h : k = s.cur
  · subst h
    rw [State.thread_modThread_self]
    simp [SameOthers, SameTrap]
  · rw [State.thread_modThread_ne _ _ h]
    simp [SameOthers, SameTrap]
/-- A retired store changes no byte, no core, no Update-only line and no register of a thread, and is pending. -/
theorem State.stored_frame {s2 : State} (hs : s2.stores = []) (va : B64) (l len : Nat) (data : List Byte) :
    ∃ p, (((s2.translated va).stored l data).retire len).stores = [p] ∧ p.loc = l ∧ p.data = data ∧ p.tid = s2.cur ∧
      SameMem (s2.translated va) (((s2.translated va).stored l data).retire len) ∧
      (((s2.translated va).stored l data).retire len).cores = (s2.translated va).cores ∧
      (((s2.translated va).stored l data).retire len).upd = (s2.translated va).upd ∧
      (∀ k, SameOthers (s2.thread k) ((((s2.translated va).stored l data).retire len).thread k) ∧
        ((((s2.translated va).stored l data).retire len).thread k).s = (s2.thread k).s ∧
        SameTrap (s2.thread k) ((((s2.translated va).stored l data).retire len).thread k)) := by
  have hp : (s2.translated va).stores = [] := (s2.walked_stores _ _ va).trans hs
  have hc : (s2.translated va).cur = s2.cur := s2.walked_cur _ _ va
  have ht (k : Nat) : (s2.translated va).thread k = s2.thread k := by
    rw [State.thread, State.thread, show (s2.translated va).threads = s2.threads from s2.walked_threads _ _ va]
  rw [State.stored_of_no_store hp]
  refine ⟨_, rfl, rfl, rfl, hc, fun a => rfl, rfl, rfl, fun k => ?_⟩
  rw [← ht]
  exact State.retire_frame { s2.translated va with stores := _, nextSer := _ } len k

/-! ## What the performance of a pending store keeps -/

theorem threads_of_rest {s t : State} (h : t.rest = s.rest) : t.threads = s.threads :=
  show t.rest.threads = s.rest.threads by rw [h]
theorem State.threads_poke (s : State) (loc : Nat) (data : List Byte) : (s.poke loc data).threads = s.threads := by
  unfold State.poke
  split <;> rfl
theorem State.threads_portWrite (s : State) (src kind : Nat) (tag : BitVec 16) (dev loc : Nat) (data : List Byte) :
    (s.portWrite src kind tag dev loc data).threads = s.threads := by
  rw [State.portWrite, threads_of_rest (rest_echo _ _ _ _ _ _), State.threads_poke, threads_of_rest (rest_recall _ _ _)]
theorem State.threads_l1Room (s : State) (core line : Nat) : (s.l1Room core line).threads = s.threads := by
  unfold State.l1Room
  extract_lets ls
  split
  · rfl
  · split
    · rfl
    · next x _ =>
      have h : (s.freshCtr.mergeWhere (fun u => u.core == core && u.line == x)).threads = s.freshCtr.threads :=
        threads_of_rest (rest_mergeWhere _ _)
      exact h
theorem State.threads_combine (s : State) (tid ser loc : Nat) (op : UpdOp) (w64 : Bool) (b : B64) (tag : BitVec 16) :
    (s.combine tid ser loc op w64 b tag).threads = s.threads := by
  unfold State.combine
  extract_lets core line idx s1 mine s2 elems
  have h1 : s1.threads = s.threads := threads_of_rest (rest_mergeWhere _ _)
  have h2 : s2.threads = s1.threads := State.threads_l1Room s1 core line
  split
  · exact h1
  · exact h2.trans h1
theorem State.threads_perform (s : State) (p : PStore) : (s.perform p).threads = s.threads := by
  unfold State.perform
  extract_lets s1 s2
  have h1 : s1.threads = s.threads := by
    unfold s1
    split
    · exact threads_of_rest (rest_mergeWhere _ _)
    · rfl
  have h2 : s2.threads = s1.threads := threads_of_rest (rest_recall _ _ _)
  clear_value s1 s2
  split
  · rw [State.threads_portWrite, h1]
  · split
    · rw [State.threads_combine, h1]
    · rw [State.threads_portWrite, h2, h1]
theorem State.threads_performAll (s : State) (ps : List PStore) : (s.performAll ps).threads = s.threads :=
  foldl_keeps (p := State.threads) State.threads_perform ps s

theorem mem_groupOf_self {stores : List PStore} {p : PStore} (h : p ∈ stores) : p ∈ groupOf stores p := by
  unfold groupOf
  split
  · exact List.mem_singleton_self p
  · exact List.mem_filter.2 ⟨h, by simp⟩
theorem mem_groupOf {stores : List PStore} {p q : PStore} (hg : p.grp ≠ 0) (h : q ∈ stores) (ht : q.tid = p.tid)
    (hq : q.grp = p.grp) : q ∈ groupOf stores p := by
  rw [groupOf, if_neg hg]
  exact List.mem_filter.2 ⟨h, by simp [ht, hq]⟩
theorem State.mem_stores_performAll {s : State} {ps : List PStore} {q : PStore} :
    q ∈ (s.performAll ps).stores ↔ q ∈ s.stores ∧ ∀ p ∈ ps, p.ser ≠ q.ser := by
  show q ∈ s.stores.filter _ ↔ _
  simp

/-! ## The bytes of one plain store -/

theorem State.mergeWhere_of_no_upd {s : State} (h : s.upd = []) (p : UpdLine → Bool) : s.mergeWhere p = s := by
  rw [State.mergeWhere, h]; rfl
theorem State.echo_of_none {s : State} (h : s.fleet.echo = {}) (loc src kind : Nat) (tag : BitVec 16) (dev : Nat) :
    s.echo loc src kind tag dev = s := by
  rw [State.echo, State.echoBy, h]; rfl
theorem State.recall_of_quiet {s : State} {loc n : Nat} (hu : s.upd = []) (hq : spillCore loc n = none) : s.recall loc n = s := by
  rw [State.recall, State.mergeAt, State.mergeWhere_of_no_upd hu, State.spillSync, hq]
/-- A store that no Update-only copy, spill queue or Echo unit concerns puts its bytes in memory and does nothing else
(R40). -/
theorem State.perform_plain {s : State} {p : PStore} (hu : s.upd = []) (he : s.fleet.echo = {}) (hc : p.comb = none)
    (hq : spillCore p.loc p.data.length = none) : s.perform p = { s with mem := writeBytes s.mem p.loc p.data } := by
  rw [State.perform, State.mergeWhere_of_no_upd hu, ite_self]
  simp only [hc]
  rw [State.portWrite, State.recall_of_quiet hu hq, State.poke, hq]
  exact State.echo_of_none (s := { s with mem := writeBytes s.mem p.loc p.data }) he _ _ _ _ _
theorem State.storeArrives_ready {s : State} {n : Nat} {p : PStore} (h : s.stores[n]? = some p) (hc : s.canPerform p = true) :
    s.storeArrives n = s.performAll (groupOf s.stores p) := by
  rw [State.storeArrives, h]
  exact if_pos hc

/-- Settles O12: with nothing pending a store of any width only becomes pending; one that is performed writes its own
bytes and leaves with its group. -/
theorem storeFrame : Obligations.StoreFrame := by
  refine ⟨fun s s1 s2 a b r e i o x y l hs => ?_, fun s n p hn hp hu he => ?_⟩
  · extract_lets frame
    have run {a b : SReg} {off : B64} (n len : Nat) (ins : Instr)
        (hx : exec ins s = .next (runI len (storeBody n a b off) s)) (h1 : Reads s a x s1) (h2 : Reads s1 b y s2) :
        frame ins n (x + off) := fun hr hk hl =>
      let ⟨p, h⟩ := State.stored_frame hs (x + off) l len (leBytes n y.toNat)
      ⟨_, p, hx.trans (congrArg _ (storeBody_runs h1 h2 hl hr hk)), h⟩
    exact ⟨fun h1 h2 => ⟨run 1 4 _ rfl h1 h2, run 2 4 _ rfl h1 h2, run 4 4 _ rfl h1 h2, run 8 4 _ rfl h1 h2⟩,
      fun h1 h2 => run 8 2 _ rfl h1 h2⟩
  · have hmem : p ∈ s.stores := List.mem_of_getElem? hn
    refine ⟨s.storeArrives n, rfl, ?_⟩
    rw [State.storeArrives_ready hn hp]
    refine ⟨State.threads_performAll s _, fun q hq => ?_, fun hg q hq ht hq' => ?_, fun hg hc hq => ?_⟩
    · obtain ⟨hqs, hser⟩ := State.mem_stores_performAll.1 hq
      exact ⟨hqs, (hser p (mem_groupOf_self hmem)).symm⟩
    · obtain ⟨hqs, hser⟩ := State.mem_stores_performAll.1 hq
      exact hser q (mem_groupOf hg hqs ht hq') rfl
    · rw [groupOf, if_pos hg, State.performAll, List.foldl_cons, List.foldl_nil, State.perform_plain hu he hc hq]
      exact ⟨rfl, fun i h => readByte_writeBytes_in _ _ _ _ h, fun z hz => readByte_writeBytes_out _ _ _ _ hz⟩

end Sys2Proof.Machine
end

section
/-!
# What the memory system leaves alone

Recalls, merges, performed stores and filed `ksend`s change memory, pending stores, Update-only lines, Echo units, event
counts, a core's spill queues, directory, L1 and queue of `ksend`s, and the mask and pending marks of a slot. A view of
the state that sees none of these is the same after them; this is proved once here, for every such view.
-/
open Sys2Proof
namespace Sys2Proof.Machine

/-- A core but for its spill queues, directory entries, L1 and queue of `ksend`s. -/
def Core.apart (c : Core) : Core := { c with spill := {}, dir := [], l1 := {}, ksq := [] }
/-- A slot but for its masks and the registers still to be written. -/
def Thread.apart (t : Thread) : Thread := { t with m := {}, pend := [] }

/-- The view `f` of the state sees nothing of what the memory system changes. -/
structure Unseen {β : Type} (f : State → β) : Prop where
  mem : ∀ s m, f { s with mem := m } = f s
  stores : ∀ s l, f { s with stores := l } = f s
  upd : ∀ s l, f { s with upd := l } = f s
  ctr : ∀ s n, f { s with freeCtr := n } = f s
  echo : ∀ s e, f { s with fleet := { s.fleet with echo := e } } = f s
  evcnt : ∀ s k m, f (s.setCroft k { s.croft k with evcnt := m }) = f s
  core : ∀ s k (g : Core → Core), (∀ c, (g c).apart = c.apart) → f (s.modCore k g) = f s
  slot : ∀ s k x, x.apart = (s.thread k).apart → f (s.setThread k x) = f s

variable {β : Type} {f : State → β}

namespace Unseen

/-! ## Accesses at a memory port -/

theorem count (h : Unseen f) (s : State) (core slot src n : Nat) : f (s.count core slot src n) = f s := by
  unfold State.count
  extract_lets cr hit cnt
  split
  · exact h.evcnt s _ cnt
  · rfl
theorem echoOne (h : Unseen f) {home : State → Nat → Nat → State} (hh : ∀ s a n, f (home s a n) = f s) (loc src kind : Nat)
    (tag : BitVec 16) (dev : Nat) (s : State) (c : Nat × Echo) : f (echoOne home loc src kind tag dev s c) = f s := by
  unfold Machine.echoOne
  extract_lets ctl on slot s1 addr d0 d1
  have h1 : f s1 = f s := hh _ _ _
  split
  · rfl
  · let s2 : State := { s1 with mem := writeBytes s1.mem (slot s1) (leBytes 8 d0 ++ leBytes 8 d1) }
    have h2 : f s2 = f s1 := h.mem s1 _
    exact (h.echo s2 _).trans (h2.trans h1)
theorem echoBy (h : Unseen f) {home : State → Nat → Nat → State} (hh : ∀ s a n, f (home s a n) = f s) (s : State)
    (loc src kind : Nat) (tag : BitVec 16) (dev : Nat) : f (s.echoBy home loc src kind tag dev) = f s :=
  foldl_keeps (h.echoOne hh loc src kind tag dev) _ _
theorem mergeElem (h : Unseen f) {home : State → Nat → Nat → State} (hh : ∀ s a n, f (home s a n) = f s) (u : UpdLine)
    (s : State) (c : Nat × B64) : f (mergeElem home u s c) = f s :=
  (h.echoBy hh _ _ _ _ _ _).trans (h.mem s _)
theorem mergeLine (h : Unseen f) {home : State → Nat → Nat → State} (hh : ∀ s a n, f (home s a n) = f s) (s : State)
    (u : UpdLine) : f (mergeLine home s u) = f s :=
  (h.count _ _ _ _ _).trans (foldl_keeps (h.mergeElem hh u) _ _)
theorem mergeUpTo (h : Unseen f) (n : Nat) : ∀ (p : UpdLine → Bool) (s : State), f (mergeUpTo n p s) = f s := by
  induction n with
  | zero => exact fun _ _ => rfl
  | succ n ih =>
    intro p s
    unfold Machine.mergeUpTo
    split
    · rfl
    · exact ((ih _ _).trans (h.mergeLine (fun _ _ _ => ih _ _) _ _)).trans (h.upd s _)
theorem mergeWhere (h : Unseen f) (s : State) (p : UpdLine → Bool) : f (s.mergeWhere p) = f s := h.mergeUpTo _ _ _
theorem echoes (h : Unseen f) (s : State) (loc src kind : Nat) (tag : BitVec 16) (dev : Nat) :
    f (s.echo loc src kind tag dev) = f s :=
  h.echoBy (fun s _ _ => h.mergeWhere s _) _ _ _ _ _ _
theorem spillOut (h : Unseen f) (s : State) (core : Nat) : f (s.spillOut core) = f s := by
  unfold State.spillOut
  extract_lets s1
  exact (h.mem s1 _).trans (h.mem s _)
theorem spillIn (h : Unseen f) (s : State) (core : Nat) : f (s.spillIn core) = f s := by
  unfold State.spillIn State.reserveIn
  extract_lets queue taken
  refine (h.core _ _ _ ?_).trans (h.core _ _ _ ?_) <;> exact fun _ => rfl
theorem spillSync (h : Unseen f) (s : State) (loc n : Nat) : f (s.spillSync loc n) = f s := by
  unfold State.spillSync
  split
  · exact h.spillOut s _
  · rfl
theorem recalled (h : Unseen f) (s : State) (loc n : Nat) : f (s.recall loc n) = f s :=
  (h.spillSync _ _ _).trans (h.mergeWhere s _)
theorem poke (h : Unseen f) (s : State) (loc : Nat) (data : List Byte) : f (s.poke loc data) = f s := by
  unfold State.poke
  split
  · exact h.mem s _
  · extract_lets s1
    exact ((h.spillIn _ _).trans (h.mem s1 _)).trans (h.spillOut s _)
theorem portWrite (h : Unseen f) (s : State) (src kind : Nat) (tag : BitVec 16) (dev loc : Nat) (data : List Byte) :
    f (s.portWrite src kind tag dev loc data) = f s :=
  ((h.echoes _ _ _ _ _ _).trans (h.poke _ _ _)).trans (h.recalled _ _ _)
theorem homeWrite (h : Unseen f) (s : State) (loc : Nat) (data : List Byte) : f (s.homeWrite loc data) = f s := by
  unfold State.homeWrite
  extract_lets s1
  exact (h.mem s1 _).trans (h.mergeWhere s _)

/-! ## Pending stores -/

theorem freshCtr (h : Unseen f) (s : State) : f s.freshCtr = f s := h.ctr s _
theorem l1Room (h : Unseen f) (s : State) (core line : Nat) : f (s.l1Room core line) = f s := by
  unfold State.l1Room
  extract_lets ls
  split
  · rfl
  · split
    · rfl
    · refine ((h.core _ _ _ ?_).trans (h.mergeWhere _ _)).trans (h.freshCtr s)
      exact fun _ => rfl
theorem combine (h : Unseen f) (s : State) (tid ser loc : Nat) (op : UpdOp) (w64 : Bool) (b : B64) (tag : BitVec 16) :
    f (s.combine tid ser loc op w64 b tag) = f s := by
  unfold State.combine
  extract_lets core line idx s1 mine s2 elems
  have h1 : f s1 = f s := h.mergeWhere s _
  have h2 : f s2 = f s := by
    refine ((h.core _ _ _ ?_).trans (h.l1Room s1 core line)).trans h1
    exact fun _ => rfl
  clear_value s1 s2
  split
  · exact (h.upd s1 _).trans h1
  · exact (h.upd s2 _).trans h2
theorem perform (h : Unseen f) (s : State) (p : PStore) : f (s.perform p) = f s := by
  unfold State.perform
  extract_lets s1 s2
  have h1 : f s1 = f s := by
    unfold s1
    split
    · exact h.mergeWhere s _
    · rfl
  have h2 : f s2 = f s := (h.recalled s1 _ _).trans h1
  clear_value s1 s2
  split
  · exact (h.portWrite s1 _ _ _ _ _ _).trans h1
  · split
    · exact (h.combine s1 _ _ _ _ _ _ _).trans h1
    · exact (h.portWrite s2 _ _ _ _ _ _).trans h2
theorem performAll (h : Unseen f) (s : State) (ps : List PStore) : f (s.performAll ps) = f s :=
  (h.stores (ps.foldl State.perform s) _).trans (foldl_keeps h.perform ps s)
theorem force (h : Unseen f) (s : State) (p : PStore) : f (s.force p) = f s := by
  unfold State.force
  split
  · exact h.performAll s _
  · rfl
theorem observe (h : Unseen f) (s : State) (tid : Nat) (w : Party) (loc n : Nat) : f (s.observe tid w loc n) = f s := by
  unfold State.observe
  split
  · rfl
  · exact foldl_keeps h.force _ s
theorem partyWrite (h : Unseen f) (s : State) (tid : Nat) (w : Party) (kind : Nat) (tag : BitVec 16) (loc : Nat)
    (data : List Byte) : f (s.partyWrite tid w kind tag loc data) = f s :=
  (h.portWrite _ _ _ _ _ _ _).trans (h.observe s _ _ _ _)
theorem arrivals (h : Unseen f) (s : State) (p : PStore → Bool) : f (s.arrivals p) = f s := by
  unfold State.arrivals
  extract_lets cand v
  split
  · rfl
  · exact (foldl_keeps h.force _ s.freshCtr).trans (h.freshCtr s)
theorem portRead (h : Unseen f) (s : State) (ahead : List (Nat × Byte)) (loc n : Nat) :
    f (s.portRead ahead loc n).1 = f s := by
  unfold State.portRead
  extract_lets s1 s2 old new
  have h1 : f s1 = f s := h.recalled s _ _
  have h2 : f s2 = f s := (h.arrivals s1 _).trans h1
  clear_value s1 s2
  split
  · exact h1
  · exact (h.ctr s2 _).trans h2
theorem byteRead (h : Unseen f) (s : State) (tid : Nat) (w : Party) (ahead : List (Nat × Byte)) (loc n : Nat) :
    f (s.byteRead tid w ahead loc n).1 = f s :=
  (h.portRead _ _ _ _).trans (h.observe s _ _ _ _)

/-! ## The bin unit -/

theorem binTouch (h : Unseen f) (s : State) (tid l n : Nat) : f (s.binTouch tid l n) = f s :=
  (h.observe _ _ _ _ _).trans (foldl_keeps h.force _ s)
theorem fileForm (h : Unseen f) (s : State) (r : KsReq) (l : Nat × B64 × B64) : f (s.fileForm r l).1 = f s := by
  unfold State.fileForm
  extract_lets refused head h1 field held data
  have hr : f h1.1 = f s := (h.byteRead _ _ _ _ _ _).trans (h.binTouch s _ _ _)
  split
  · rfl
  · split <;> exact hr
theorem filePut (h : Unseen f) (s : State) (r : KsReq) (l : Nat) (data : List Byte) : f (s.filePut r l data) = f s :=
  (h.portWrite _ _ _ _ _ _ _).trans (h.binTouch s _ _ _)
theorem fileRest (h : Unseen f) (s : State) (r : KsReq) : f (s.fileRest r).1 = f s :=
  foldl_keeps (fun s (p : Nat × List Byte) => h.filePut s r p.1 p.2) _ s
theorem fileAll (h : Unseen f) (s : State) (r : KsReq) : f (s.fileAll r).1 = f s := by
  unfold State.fileAll
  extract_lets a
  exact (foldl_keeps (p := fun x : State × KsReq => f x.1)
    (fun x l => (h.fileRest _ _).trans (h.fileForm x.1 x.2 l)) _ _).trans (h.fileRest s r)
theorem fileNext (h : Unseen f) (s : State) (core : Nat) : f (s.fileNext core) = f s := by
  unfold State.fileNext
  split
  · rfl
  · extract_lets x s1 t
    have h1 : f s1 = f s := by
      refine (h.core _ _ _ ?_).trans (h.fileAll s _)
      exact fun _ => rfl
    split
    · refine (h.slot s1 _ _ ?_).trans h1
      rfl
    · exact h1
theorem fileSome (h : Unseen f) (n core : Nat) (s : State) : f (fileSome n core s) = f s := by
  induction n generalizing s with
  | zero => rfl
  | succ n ih => exact (ih _).trans (h.fileNext s core)
theorem fileUpTo (h : Unseen f) (s : State) (tid ser : Nat) : f (s.fileUpTo tid ser) = f s := h.fileSome _ _ _
theorem flushBefore (h : Unseen f) (s : State) (tid ser : Nat) : f (s.flushBefore tid ser) = f s :=
  ((h.mergeWhere _ _).trans (h.performAll _ _)).trans (h.fileUpTo s _ _)

end Unseen

/-! ## Views -/

theorem Unseen.sq : Unseen State.sq := ⟨fun _ _ => rfl, fun _ _ => rfl, fun _ _ => rfl, fun _ _ => rfl, fun _ _ => rfl,
  fun _ _ _ => rfl, fun _ _ _ _ => rfl, fun _ _ _ _ => rfl⟩
theorem Unseen.coreApart (k : Nat) : Unseen fun s => (s.core k).apart :=
  ⟨fun _ _ => rfl, fun _ _ => rfl, fun _ _ => rfl, fun _ _ => rfl, fun _ _ => rfl, fun _ _ _ => rfl, fun s j g hg => by
    by_cases h : k = j
    · subst h; rw [State.core_modCore_self]; exact hg _
    · rw [State.core_modCore_ne _ _ h], fun _ _ _ _ => rfl⟩
theorem Unseen.threadApart (k : Nat) : Unseen fun s => (s.thread k).apart :=
  ⟨fun _ _ => rfl, fun _ _ => rfl, fun _ _ => rfl, fun _ _ => rfl, fun _ _ => rfl, fun _ _ _ => rfl, fun _ _ _ _ => rfl,
  fun s j x hx => by
    by_cases h : k = j
    · subst h; rw [State.thread_setThread_self]; exact hx
    · rw [State.thread_setThread_ne _ _ h]⟩

end Sys2Proof.Machine
end

section
/-!
# The directory, the host link and triggered launches

What a line that enters an L1 leaves in the directory and the other cores, what an access of the host does to memory, and
what the end of a launch's tracking leaves of the Square.
-/
open Sys2Proof
namespace Sys2Proof.Machine

/-! ## Cores under a count and under a map -/

theorem State.core_count (s : State) (core slot src n k : Nat) : (s.count core slot src n).core k = s.core k := by
  unfold State.count
  extract_lets
  split <;> rfl
theorem SMap.get?_map {α : Type} (g : Nat → α → α) (m : SMap α) (k : Nat) : (m.map g).get? k = (m.get? k).map (g k) := by
  simp only [SMap.get?, SMap.map, List.find?_map, Option.map_map]
  cases h : m.cells.find? (fun c => c.1 == k) with
  | none => simpa [Function.comp_def] using h
  | some c =>
    have hk : c.1 = k := by simpa using List.find?_some h
    simp [Function.comp_def, h, hk]

/-! ## A line enters an L1 -/

/-- Between the two states, with no Update-only copies, memory and every slice stand as before, and only the L1 of core
`core` has changed. -/
structure FillsL1 (s t : State) (core : Nat) : Prop where
  mem : t.mem = s.mem
  dir : ∀ k, (t.core k).dir = (s.core k).dir
  l1 : ∀ k, k ≠ core → (t.core k).l1 = (s.core k).l1

theorem FillsL1.trans {s t u : State} {core : Nat} (h1 : FillsL1 s t core) (h2 : FillsL1 t u core) : FillsL1 s u core :=
  ⟨h2.mem.trans h1.mem, fun k => (h2.dir k).trans (h1.dir k), fun k hk => (h2.l1 k hk).trans (h1.l1 k hk)⟩
theorem FillsL1.modCore (s : State) (core : Nat) (f : SMap L1Line → SMap L1Line) :
    FillsL1 s (s.modCore core (fun c => { c with l1 := f c.l1 })) core := by
  refine ⟨rfl, fun k => ?_, fun k hk => by rw [State.core_modCore_ne _ _ hk]⟩
  by_cases h : k = core
  · subst h; rw [State.core_modCore_self]
  · rw [State.core_modCore_ne _ _ h]
theorem FillsL1.count (s : State) (core slot src n : Nat) : FillsL1 s (s.count core slot src n) core :=
  ⟨count_mem _ _ _ _ _, fun k => by rw [State.core_count], fun k _ => by rw [State.core_count]⟩
theorem FillsL1.l1Room {s : State} (hu : s.upd = []) (core line : Nat) : FillsL1 s (s.l1Room core line) core := by
  unfold State.l1Room
  extract_lets ls
  split
  · exact ⟨rfl, fun _ => rfl, fun _ _ => rfl⟩
  · split
    · exact ⟨rfl, fun _ => rfl, fun _ _ => rfl⟩
    · next x _ =>
      rw [State.mergeWhere_of_no_upd (s := s.freshCtr) hu]
      exact FillsL1.trans (t := s.freshCtr) ⟨rfl, fun _ => rfl, fun _ _ => rfl⟩ (.modCore s.freshCtr core (fun m => m.erase x))
theorem FillsL1.fillSector {s : State} (hu : s.upd = []) (core pa : Nat) (st : L1St) :
    FillsL1 s (s.fillSector core pa st) core := by
  unfold State.fillSector
  extract_lets s1 old hi s2
  have h1 : FillsL1 s s1 core := .l1Room hu core (pa / 256)
  have h2 : FillsL1 s s2 core :=
    h1.trans (.modCore s1 core (fun m => m.put (pa / 256) ⟨st, old.lo || !hi, old.hi || hi⟩))
  clear_value s2
  cases (if hi then old.hi else old.lo) with
  | true => exact h2
  | false => exact h2.trans (.count s2 core 0 9 1)
/-- The line is there in its state, with the sector of the location filled (R35; log entry 48). -/
theorem State.fillSector_line (s : State) (core pa : Nat) (st : L1St) :
    ∃ x, ((s.fillSector core pa st).core core).l1.get? (pa / 256) = some x ∧ x.st = st ∧
      (if pa % 256 < 128 then x.lo = true else x.hi = true) := by
  unfold State.fillSector
  extract_lets s1 old hi s2
  refine ⟨⟨st, old.lo || !hi, old.hi || hi⟩, ?_, rfl, ?_⟩
  · have h2 : (s2.core core).l1.get? (pa / 256) = some ⟨st, old.lo || !hi, old.hi || hi⟩ := by
      unfold s2
      rw [State.core_modCore_self, SMap.get?_put_self]
    clear_value s2
    cases (if hi then old.hi else old.lo) with
    | true => exact h2
    | false => rw [if_neg Bool.false_ne_true, State.core_count]; exact h2
  · split
    · next h => simp [hi, Nat.not_le.2 h]
    · next h => simp [hi, Nat.not_lt.1 h]

/-! ## The slice serves a request (R37) -/

theorem Core.mem_putDir (c : Core) (e : DirEntry) : e ∈ (c.putDir e).dir := List.mem_append_right _ (List.mem_singleton_self e)
/-- With no Update-only copy and an entry or room for the line, a slice is ready at once. -/
theorem State.dirReady_eq {s : State} (hu : s.upd = []) {pa : Nat}
    (h : (s.core (homeCore pa)).dir.any (fun e => e.line == pa / 256) = true ∨ (s.core (homeCore pa)).dir.length < 4096) :
    s.dirReady pa = s := by
  rw [State.dirReady, State.mergeAt, State.mergeWhere_of_no_upd hu, State.dirRoom]
  exact if_pos (by simpa using h)
theorem State.request_taken {s : State} {pa c : Nat} (hpa : pa < 2 ^ 40) (hc : c < nCores) (hs : s.stackOk pa = true) :
    ¬(decide (2 ^ 40 ≤ pa) || decide (nCores ≤ c) || !s.stackOk pa) = true := by
  rw [decide_eq_false (Nat.not_le.2 hpa), decide_eq_false (Nat.not_le.2 hc), hs]
  exact Bool.false_ne_true
theorem State.dirRequest_serves {s : State} {pa c : Nat} (w : Bool) (hpa : pa < 2 ^ 40) (hc : c < nCores) (hs : s.stackOk pa = true)
    (hq : (s.core (homeCore pa)).dirQ.length < 16) (hw : (s.core (homeCore pa)).dirWait = []) :
    s.dirRequest pa c w = s.dirServe pa c w := by
  rw [State.dirRequest, if_neg (State.request_taken hpa hc hs), if_neg (by simp [Nat.not_le.2 hq, hw])]
/-- Behind a full queue a request waits, in order of arrival. -/
theorem State.dirRequest_waits {s : State} {pa c : Nat} (w : Bool) (hpa : pa < 2 ^ 40) (hc : c < nCores) (hs : s.stackOk pa = true)
    (h : 16 ≤ (s.core (homeCore pa)).dirQ.length ∨ (s.core (homeCore pa)).dirWait ≠ []) :
    s.dirRequest pa c w = s.modCore (homeCore pa) (fun k => { k with dirWait := k.dirWait ++ [(pa, c, w)] }) := by
  rw [State.dirRequest, if_neg (State.request_taken hpa hc hs), if_pos (by simpa using h)]
/-- The core alone holds the line: its entry names it, its L1 has the line in state `st` with the location's sector. -/
def HoldsLine (t : State) (pa c : Nat) (st : L1St) : Prop :=
  ∃ x, (⟨pa / 256, .cores, [c], none⟩ : DirEntry) ∈ (t.core (homeCore pa)).dir ∧ (t.core c).l1.get? (pa / 256) = some x ∧
    x.st = st ∧ (if pa % 256 < 128 then x.lo = true else x.hi = true)
/-- An entry is put and the line filled. -/
theorem State.putDir_fillSector {s : State} (hu : s.upd = []) (pa c : Nat) (st : L1St) :
    HoldsLine ((s.modCore (homeCore pa) (fun k => k.putDir ⟨pa / 256, .cores, [c], none⟩)).fillSector c pa st) pa c st := by
  obtain ⟨x, hx, hst, hsec⟩ :=
    (s.modCore (homeCore pa) (fun k => k.putDir ⟨pa / 256, .cores, [c], none⟩)).fillSector_line c pa st
  have hf := FillsL1.fillSector (s := s.modCore (homeCore pa) (fun k => k.putDir ⟨pa / 256, .cores, [c], none⟩)) hu c pa st
  refine ⟨x, ?_, hx, hst, hsec⟩
  rw [hf.dir, State.core_modCore_self]
  exact Core.mem_putDir _ _
theorem State.l1_putDir (s : State) (home k : Nat) (e : DirEntry) : ((s.modCore home (fun c => c.putDir e)).core k).l1 = (s.core k).l1 := by
  by_cases h : k = home
  · subst h; rw [State.core_modCore_self]; rfl
  · rw [State.core_modCore_ne _ _ h]
/-- A read of a line new to the slice by a core that does not hold it Modified. -/
theorem State.dirNew_eq {s : State} {home core pa : Nat} (h : ∀ x, (s.core core).l1.get? (pa / 256) = some x → x.st ≠ .modified) :
    s.dirNew home core pa = (s.modCore home (fun c => c.putDir ⟨pa / 256, .cores, [core], none⟩)).fillSector core pa .exclusive := by
  unfold State.dirNew State.serveRead
  extract_lets e alone s1 modified
  have ha : alone = true := by simp [alone, e]
  have hs : s1 = s.modCore home (fun c => c.putDir e) := by simp [s1, ha]
  have hm : modified = false := by
    unfold modified
    rw [hs, State.l1_putDir]
    cases hx : (s.core core).l1.get? e.line with
    | none => rfl
    | some x => exact beq_eq_false_iff_ne.2 (h x hx)
  rw [ha, hm, hs]
  rfl

/-- An entry's other sharers lose the line. -/
theorem State.l1_invalidate (s : State) (e : DirEntry) {keep : Option Nat} {k : Nat} (hk : keep ≠ some k) (he : e.names k = true) :
    ((s.invalidate e keep).core k).l1.get? e.line = none := by
  have hc : (s.invalidate e keep).core k =
      ((s.cores.get? k).map fun c => { c with l1 := c.l1.erase e.line }).getD {} := by
    show (SMap.map _ s.cores).get {} k = _
    rw [SMap.get_eq_get?, SMap.get?_map]
    simp only [he, bne_iff_ne.2 hk, Bool.and_self, if_true]
  rw [hc]
  cases s.cores.get? k with
  | none => rfl
  | some c => exact SMap.get?_erase_self c.l1 e.line

/-- A write: the requester alone holds the line, Modified (R37). -/
theorem State.serveWrite_holds {s : State} (hu : s.upd = []) (pa c : Nat) :
    HoldsLine (s.serveWrite (homeCore pa) c pa) pa c .modified := by
  unfold State.serveWrite
  extract_lets line s1
  have h1 : s1.upd = [] := by
    unfold s1
    split <;> exact hu
  exact State.putDir_fillSector h1 pa c .modified
theorem State.mem_serveWrite {s : State} (hu : s.upd = []) (home c pa : Nat) : (s.serveWrite home c pa).mem = s.mem := by
  unfold State.serveWrite
  extract_lets line s1
  have h1 : s1.upd = [] ∧ s1.mem = s.mem := by
    unfold s1
    split <;> exact ⟨hu, rfl⟩
  exact (FillsL1.fillSector (s := s1.modCore home _) h1.1 c pa .modified).mem.trans h1.2
/-- Every other core that the entry names has lost the line. -/
theorem State.serveWrite_others {s : State} (hu : s.upd = []) {home c pa k : Nat} {e : DirEntry}
    (he : (s.core home).dir.find? (fun e => e.line == pa / 256) = some e) (hk : k ≠ c) (hn : e.names k = true) :
    ((s.serveWrite home c pa).core k).l1.get? (pa / 256) = none := by
  have hl : e.line = pa / 256 := by simpa using List.find?_some he
  rw [State.serveWrite, he]
  show ((((s.invalidate e (some c)).modCore home _).fillSector c pa .modified).core k).l1.get? (pa / 256) = none
  rw [(FillsL1.fillSector (s := (s.invalidate e (some c)).modCore home _) hu c pa .modified).l1 k hk, State.l1_putDir, ← hl]
  exact s.l1_invalidate e (by simpa using hk.symm) hn

/-! ## The host's accesses (R310, R316) -/

/-- No spill queue or overflow record lies in device memory. -/
theorem spillCore_of_memory {loc n : Nat} (h : loc + n ≤ 2 ^ 40) : spillCore loc n = none := by
  unfold spillCore spadCore
  by_cases hl : spadBase ≤ loc
  · rw [if_pos hl]
    have hc : (loc - spadBase) / 0x40000 = 0 := by rw [spadBase] at *; omega
    simp only [hc, spadLoc]
    rw [if_neg]
    rw [spadBase] at *
    omega
  · rw [if_neg hl]
theorem State.memUsable_bound {s : State} {pa n : Nat} (h : s.memUsable pa n = true) : pa + n ≤ 2 ^ 40 := by
  simp only [State.memUsable, Bool.and_eq_true, decide_eq_true_eq] at h
  exact h.1.1
theorem State.cxl_read {s : State} {pa n : Nat} (hl : s.linkUp = true) (hm : s.memUsable pa n = true) (hu : s.upd = []) :
    s.cxl (.read pa n) = { s with host := { s.host with poison := false, rdData := readBytes s.mem pa n } } := by
  simp only [State.cxl, hl, hm, Bool.not_true, Bool.false_eq_true, if_false]
  rw [State.recall_of_quiet hu (spillCore_of_memory (State.memUsable_bound hm))]
theorem State.cxl_read_poison {s : State} {pa n : Nat} (hl : s.linkUp = true) (hm : s.memUsable pa n = false) :
    s.cxl (.read pa n) = { s with host := { s.host with poison := true, rdData := [] } } := by
  simp only [State.cxl, hl, hm, Bool.not_true, Bool.not_false, Bool.false_eq_true, if_false, if_true]
theorem State.cxl_write_poison {s : State} {pa : Nat} {data : List Byte} (hl : s.linkUp = true)
    (hm : s.memUsable pa data.length = false) : s.cxl (.write pa data) = { s with host := { s.host with poison := true } } := by
  simp only [State.cxl, hl, hm, Bool.not_true, Bool.not_false, Bool.false_eq_true, if_false, if_true]
/-- The state but for its cores, as the loss of L1 copies leaves it. -/
def State.coreless (s : State) : State := { s with cores := {} }
theorem State.coreless_dropCopies (s : State) (pa : Nat) : (s.dropCopies pa).coreless = s.coreless := by
  unfold State.dropCopies
  extract_lets home
  split <;> rfl
/-- A write that no Update-only copy, spill queue or Echo unit concerns puts its bytes in memory and does nothing else. -/
theorem State.portWrite_plain {s : State} {loc : Nat} {data : List Byte} (hu : s.upd = []) (he : s.fleet.echo.cells = [])
    (hq : spillCore loc data.length = none) (src kind : Nat) (tag : BitVec 16) (dev : Nat) :
    s.portWrite src kind tag dev loc data = { s with mem := writeBytes s.mem loc data } := by
  rw [State.portWrite, State.recall_of_quiet hu hq, State.poke, hq]
  exact State.echo_of_none (s := { s with mem := writeBytes s.mem loc data }) (by cases h : s.fleet.echo; simp_all) _ _ _ _ _
/-- A write of the host to usable memory (R310). -/
theorem State.cxl_write {s : State} {pa : Nat} {data : List Byte} (hl : s.linkUp = true)
    (hm : s.memUsable pa data.length = true) (hu : s.upd = []) (he : s.fleet.echo.cells = []) :
    (s.cxl (.write pa data)).mem = writeBytes s.mem pa data ∧ (s.cxl (.write pa data)).host.poison = false := by
  simp only [State.cxl, hl, hm, Bool.not_true, Bool.false_eq_true, if_false]
  have hc := foldl_keeps (p := State.coreless) (fun s i => s.coreless_dropCopies (pa + 256 * i))
    (List.range ((pa % 256 + data.length + 255) / 256)) s.freshCtr
  generalize (List.range ((pa % 256 + data.length + 255) / 256)).foldl (fun s i => s.dropCopies (pa + 256 * i)) s.freshCtr = t at hc
  have hmem : t.mem = s.mem := show t.coreless.mem = s.freshCtr.coreless.mem by rw [hc]
  have hupd : t.upd = [] := show t.coreless.upd = [] by rw [hc]; exact hu
  have hecho : t.fleet.echo.cells = [] := show t.coreless.fleet.echo.cells = [] by rw [hc]; exact he
  rw [State.portWrite_plain (s := { t with host := { t.host with poison := false } }) hupd hecho
    (spillCore_of_memory (State.memUsable_bound hm)), ← hmem]
  exact ⟨rfl, rfl⟩

/-! ## Launches (R244, R245) -/

theorem State.sq_flushBefore (s : State) (tid ser : Nat) : (s.flushBefore tid ser).sq = s.sq := Unseen.sq.flushBefore s tid ser
theorem State.sq_showSers (s : State) (l : List (Nat × Nat)) : (s.showSers l).sq = s.sq := by
  unfold State.showSers
  induction l generalizing s with
  | nil => rfl
  | cons x l ih => rw [List.foldl_cons, ih, State.sq_flushBefore]
/-- What an untracked launch leaves of the release notices, the tracked launches and those to be triggered. -/
theorem State.sq_untrack (s : State) (l : Launch) :
    (s.untrack l).sq.relNot = s.sq.relNot ∧ (s.untrack l).sq.launches = s.sq.launches ∧
      (s.untrack l).sq.trigQ = s.sq.trigQ.filter (fun q => q != l.lid) := by
  let u : State := { s with sq := { s.sq with trigQ := s.sq.trigQ.filter (fun q => q != l.lid) } }
  have h : (u.showSers l.sers).sq = u.sq := u.sq_showSers l.sers
  unfold State.untrack
  dsimp only
  split
  · exact ⟨rfl, rfl, rfl⟩
  · split
    · show (u.showSers l.sers).sq.relNot = s.sq.relNot ∧ (u.showSers l.sers).sq.launches = s.sq.launches ∧
        (u.showSers l.sers).sq.trigQ = u.sq.trigQ
      rw [h]
      exact ⟨rfl, rfl, rfl⟩
    · exact ⟨rfl, rfl, rfl⟩
theorem State.sq_untracks (ls : List Launch) (s : State) : (ls.foldl State.untrack s).sq.relNot = s.sq.relNot ∧
    (ls.foldl State.untrack s).sq.launches = s.sq.launches ∧
    ∀ q ∈ (ls.foldl State.untrack s).sq.trigQ, q ∈ s.sq.trigQ := by
  induction ls generalizing s with
  | nil => exact ⟨rfl, rfl, fun _ h => h⟩
  | cons l ls ih =>
    obtain ⟨hr, hl, hq⟩ := s.sq_untrack l
    obtain ⟨hr', hl', hq'⟩ := ih (s.untrack l)
    exact ⟨hr'.trans hr, hl'.trans hl, fun q h => (List.mem_filter.1 (hq ▸ hq' q h)).1⟩
theorem mem_of_mem_dropLaunchesFrom {l : Launch} (n : Nat) {ls : List Launch} (h : l ∈ dropLaunchesFrom n ls) : l ∈ ls := by
  induction n generalizing ls with
  | zero => exact h
  | succ n ih => exact (List.mem_filter.1 (ih h)).1
/-- Launches that leave tracking take no release notice with them, and none comes. -/
theorem State.sq_dropLaunches (s : State) : s.dropLaunches.sq.relNot = s.sq.relNot ∧
    (∀ l ∈ s.dropLaunches.sq.launches, l ∈ s.sq.launches) ∧ ∀ q ∈ s.dropLaunches.sq.trigQ, q ∈ s.sq.trigQ := by
  unfold State.dropLaunches
  extract_lets ls
  split
  · exact ⟨rfl, fun _ h => h, fun _ h => h⟩
  · obtain ⟨hr, hl, hq⟩ := State.sq_untracks (s.sq.launches.filter (fun l => !ls.any (fun m => m.lid == l.lid)))
      { s with sq := { s.sq with launches := ls } }
    exact ⟨hr, fun l h => mem_of_mem_dropLaunchesFrom _ (hl ▸ h), hq⟩
/-- The state in which launch `lid` has been triggered, before completed launches leave tracking. -/
def State.triggered (s : State) (lid : Nat) : State :=
  { s with
    host := { s.host with cmds := s.host.cmds.map (fun (c : Cmd) => { c with waits := c.waits.filter (fun p => p != lid) }) }
    sq :=
      { s.sq with
        launches := s.sq.launches.map (fun (m : Launch) => if m.lid = lid then { m with isTrig := true } else m)
        trigQ := s.sq.trigQ.filter (fun q => q != lid)
        relNot := s.sq.relNot ++ (s.sq.launches.filter (fun m => !m.done && m.waits.contains lid)).flatMap
          (fun m => m.cores.map (fun n => (n, m.lid, lid))) } }
theorem State.trigger_eq {s : State} {lid : Nat} {l : Launch} (h : s.sq.launches.find? (fun l => l.lid == lid) = some l)
    (hq : lid ∈ s.sq.trigQ) (hv : ∀ x ∈ l.sers, s.visibleUpTo x.1 x.2 = true) : s.trigger lid = (s.triggered lid).dropLaunches := by
  have hc : ¬(!s.sq.trigQ.contains lid || !l.sers.all (fun x => s.visibleUpTo x.1 x.2)) = true := by
    rw [List.contains_iff_mem.2 hq, List.all_eq_true.2 hv]
    exact Bool.false_ne_true
  simp only [State.trigger, h]
  rw [if_neg hc]
  rfl
/-- What is not visible yet keeps a launch from being triggered. -/
theorem State.trigger_waits {s : State} {lid : Nat} {l : Launch} (h : s.sq.launches.find? (fun l => l.lid == lid) = some l)
    (hv : ∃ x ∈ l.sers, s.visibleUpTo x.1 x.2 = false) : s.trigger lid = s := by
  have hc : (!s.sq.trigQ.contains lid || !l.sers.all (fun x => s.visibleUpTo x.1 x.2)) = true := by
    rw [List.all_eq_false.2 (by simpa using hv)]
    exact Bool.or_true _
  simp only [State.trigger, h]
  rw [if_pos hc]
theorem State.releases {s : State} {n c : Nat} {r : Nat × Nat} (h : s.sq.relNot[n]? = some (c, r)) :
    execReleaseNoticeArrival n s = .next (({ s with sq := { s.sq with relNot := s.sq.relNot.eraseIdx n } } : State).modCore c
      (fun k => { k with rel := if k.rel.contains r then k.rel else k.rel ++ [r] })) := by
  rw [execReleaseNoticeArrival, h]

theorem State.linkUp_after_fail {s : State} {n m : Nat} (hm : m < 4) (hn : m ≠ n) (h : s.host.ucie.get false m = true) :
    ({ s with host := { s.host with ucie := s.host.ucie.put n false } } : State).linkUp = true :=
  List.any_eq_true.2 ⟨m, List.mem_range.2 hm, by rw [SMap.get_put_ne _ _ _ hn, h]⟩

/-- What the two writes of the obligation leave: the line alone with its writer. -/
theorem State.dirServe_write {s : State} (hu : s.upd = []) {pa c : Nat} (h : s.dirReady pa = s) :
    HoldsLine (s.dirServe pa c true) pa c .modified ∧ (s.dirServe pa c true).mem = s.mem := by
  rw [State.dirServe, h]
  exact ⟨State.serveWrite_holds hu pa c, State.mem_serveWrite hu _ c pa⟩

/-- Settles O52: a served line is put in its entry and filled in the requester's L1; accesses of the host to usable memory
are plain; a triggered launch adds its release notices. -/
theorem memoryAndLaunches : Obligations.MemoryAndLaunches := by
  refine ⟨fun s pa c hpa hc hs hu hq hw => ?_, fun s pa c w hpa hc hs h => ?_, fun s pa n data hl => ?_, fun s n m => ?_,
    fun s lid l h hq hv => ?_, fun s lid l h hv => ?_, fun s n c r h => ?_⟩
  · refine ⟨fun hf hr hm => ?_, fun e he => ?_, fun hf hr => ?_⟩
    · have hd : s.dirServe pa c false =
          (s.modCore (homeCore pa) (fun k => k.putDir ⟨pa / 256, .cores, [c], none⟩)).fillSector c pa .exclusive := by
        rw [State.dirServe, State.dirReady_eq hu (.inr hr)]
        simp only [Bool.false_eq_true, if_false, hf]
        exact State.dirNew_eq hm
      obtain ⟨x, h⟩ := State.putDir_fillSector hu pa c .exclusive
      refine ⟨_, x, rfl, ?_⟩
      rw [State.dirRequest_serves false hpa hc hs hq hw, hd]
      exact ⟨h.1, h.2.1, h.2.2.1, h.2.2.2, (FillsL1.fillSector (s := s.modCore _ _) hu c pa .exclusive).mem⟩
    · have hready : s.dirReady pa = s := State.dirReady_eq hu (.inl (List.any_eq_true.2 ⟨e, List.mem_of_find?_eq_some he,
        List.find?_some (p := fun e : DirEntry => e.line == pa / 256) he⟩))
      obtain ⟨⟨x, h1, h2, h3, h4⟩, hmem⟩ := State.dirServe_write hu (c := c) hready
      refine ⟨_, x, rfl, ?_⟩
      rw [State.dirRequest_serves true hpa hc hs hq hw]
      refine ⟨h1, h2, h3, h4, fun k hk hn => ?_, hmem⟩
      rw [State.dirServe, hready]
      exact State.serveWrite_others hu he hk hn
    · obtain ⟨⟨x, h1, h2, h3, h4⟩, hmem⟩ := State.dirServe_write hu (c := c) (State.dirReady_eq hu (.inr hr))
      refine ⟨_, x, rfl, ?_⟩
      rw [State.dirRequest_serves true hpa hc hs hq hw]
      exact ⟨h1, h2, h3, h4, hmem⟩
  · refine ⟨_, rfl, ?_⟩
    rw [State.dirRequest_waits w hpa hc hs h, State.core_modCore_self]
    exact ⟨rfl, rfl⟩
  · refine ⟨fun hm hu => congrArg _ (State.cxl_read hl hm hu), fun hm hu he => ⟨_, rfl, State.cxl_write hl hm hu he⟩,
      fun hm => ⟨_, rfl, ?_⟩, fun hm => ⟨_, rfl, ?_⟩⟩
    · rw [State.cxl_read_poison hl hm]; exact ⟨rfl, rfl⟩
    · rw [State.cxl_write_poison hl hm]; exact ⟨rfl, rfl⟩
  · exact ⟨_, rfl, SMap.get_put_self _ _ _ _, fun hm hn h => State.linkUp_after_fail hm hn h⟩
  · refine ⟨s.trigger lid, rfl, ?_⟩
    rw [State.trigger_eq h hq hv]
    obtain ⟨hr, hls, htq⟩ := (s.triggered lid).sq_dropLaunches
    refine ⟨fun hmem => ?_, fun r hmem => ?_, fun m hm hd hw c hc => ?_, fun m hm hlid => ?_⟩
    · simpa using (List.mem_filter.1 (htq lid hmem)).2
    · rw [hr]; exact List.mem_append_left _ hmem
    · rw [hr]
      refine List.mem_append_right _ (List.mem_flatMap.2 ⟨m, List.mem_filter.2 ⟨hm, ?_⟩, List.mem_map.2 ⟨c, hc, rfl⟩⟩)
      simp [hd, hw]
    · obtain ⟨m', _, rfl⟩ := List.mem_map.1 (hls m hm)
      by_cases hm' : m'.lid = lid
      · rw [if_pos hm']
      · rw [if_neg hm'] at hlid; exact absurd hlid hm'
  · exact congrArg _ (State.trigger_waits h hv)
  · refine ⟨_, State.releases h, ?_, rfl⟩
    rw [State.core_modCore_self]
    show r ∈ (if _ then _ else _)
    split
    · next hc => exact List.contains_iff_mem.1 hc
    · exact List.mem_append_right _ (List.mem_singleton_self r)

end Sys2Proof.Machine
end

section
/-!
# Contexts end, the reeve traps, cores are clocked and switched

What the end of a context leaves of the machine: which contexts are ended and which slots are free afterwards, and what
of the fleet's registers, the readiness map and a core's trap times every part of it keeps.
-/
open Sys2Proof
namespace Sys2Proof.Machine

/-! ## What the end of a context keeps -/

/-- From `s` to `t` the time, the readiness map, the fleet's registers and the reeves' trap times stand, and a slot keeps its state
and context or is Free. -/
structure Bides (s t : State) : Prop where
  now : t.now = s.now
  ready : t.host.ready = s.host.ready
  fleet : { t.fleet with echo := {} } = { s.fleet with echo := {} }
  core : ∀ k, (t.core k).sysTraps = (s.core k).sysTraps
  slot : ∀ n, (t.thread n).st = (s.thread n).st ∧ (t.thread n).ctx = (s.thread n).ctx ∨ (t.thread n).st = .free
/-- And the contexts stand too. -/
structure Lasts (s t : State) : Prop extends Bides s t where
  ctxs : t.ctxs = s.ctxs

theorem Bides.trans {s t u : State} (h1 : Bides s t) (h2 : Bides t u) : Bides s u := by
  refine ⟨h2.now.trans h1.now, h2.ready.trans h1.ready, h2.fleet.trans h1.fleet, fun k => (h2.core k).trans (h1.core k), fun n => ?_⟩
  rcases h2.slot n with ⟨hs, hc⟩ | hf
  · rcases h1.slot n with ⟨hs', hc'⟩ | hf'
    · exact .inl ⟨hs.trans hs', hc.trans hc'⟩
    · exact .inr (hs.trans hf')
  · exact .inr hf
theorem Bides.free {s t : State} (h : Bides s t) {n : Nat} (hn : (s.thread n).st = .free) : (t.thread n).st = .free :=
  (h.slot n).elim (fun h => h.1.trans hn) id

namespace Lasts

theorem trans {s t u : State} (h1 : Lasts s t) (h2 : Lasts t u) : Lasts s u :=
  ⟨h1.toBides.trans h2.toBides, h2.ctxs.trans h1.ctxs⟩
theorem plain {s t : State} (hn : t.now = s.now) (hh : t.host.ready = s.host.ready) (hf : t.fleet = s.fleet) (hc : t.cores = s.cores)
    (ht : t.threads = s.threads) (hx : t.ctxs = s.ctxs) : Lasts s t :=
  ⟨⟨hn, hh, by rw [hf], fun k => by rw [State.core, hc]; rfl, fun n => .inl (by rw [State.thread, ht]; exact ⟨rfl, rfl⟩)⟩, hx⟩
theorem refl (s : State) : Lasts s s := .plain rfl rfl rfl rfl rfl rfl
theorem ite {s t u : State} {c : Prop} [Decidable c] (h1 : Lasts s t) (h2 : Lasts s u) : Lasts s (if c then t else u) := by
  split
  · exact h1
  · exact h2
theorem foldl {α : Type} {f : State → α → State} (h : ∀ s a, Lasts s (f s a)) (l : List α) (s : State) : Lasts s (l.foldl f s) := by
  induction l generalizing s with
  | nil => exact .refl s
  | cons a l ih => exact (h s a).trans (ih _)
/-- What no such view sees, as memory operations, lasts. -/
theorem of_unseen {s t : State} (h : ∀ {β : Type} {f : State → β}, Unseen f → f t = f s) : Lasts s t := by
  refine ⟨⟨?_, ?_, ?_, fun k => ?_, fun n => .inl ?_⟩, ?_⟩
  · exact h (f := State.now) ⟨fun _ _ => rfl, fun _ _ => rfl, fun _ _ => rfl, fun _ _ => rfl, fun _ _ => rfl,
      fun _ _ _ => rfl, fun _ _ _ _ => rfl, fun _ _ _ _ => rfl⟩
  · exact h (f := fun s => s.host.ready) ⟨fun _ _ => rfl, fun _ _ => rfl, fun _ _ => rfl, fun _ _ => rfl, fun _ _ => rfl,
      fun _ _ _ => rfl, fun _ _ _ _ => rfl, fun _ _ _ _ => rfl⟩
  · exact h (f := fun s => { s.fleet with echo := {} }) ⟨fun _ _ => rfl, fun _ _ => rfl, fun _ _ => rfl, fun _ _ => rfl,
      fun _ _ => rfl, fun _ _ _ => rfl, fun _ _ _ _ => rfl, fun _ _ _ _ => rfl⟩
  · have hc : (t.core k).apart = (s.core k).apart := h (Unseen.coreApart k)
    exact (congrArg Core.sysTraps hc :)
  · have ht : (t.thread n).apart = (s.thread n).apart := h (Unseen.threadApart n)
    exact ⟨(congrArg Thread.st ht :), (congrArg Thread.ctx ht :)⟩
  · exact h (f := State.ctxs) ⟨fun _ _ => rfl, fun _ _ => rfl, fun _ _ => rfl, fun _ _ => rfl, fun _ _ => rfl,
      fun _ _ _ => rfl, fun _ _ _ _ => rfl, fun _ _ _ _ => rfl⟩
theorem modCore (s : State) (k : Nat) {g : Core → Core} (hg : ∀ c, (g c).sysTraps = c.sysTraps) : Lasts s (s.modCore k g) := by
  refine ⟨⟨rfl, rfl, rfl, fun j => ?_, fun _ => .inl ⟨rfl, rfl⟩⟩, rfl⟩
  by_cases h : j = k
  · subst h; rw [State.core_modCore_self, hg]
  · rw [State.core_modCore_ne _ _ h]
theorem mapCores (s : State) {g : Nat → Core → Core} (hg : ∀ k c, (g k c).sysTraps = c.sysTraps) :
    Lasts s { s with cores := s.cores.map g } := by
  refine ⟨⟨rfl, rfl, rfl, fun j => ?_, fun _ => .inl ⟨rfl, rfl⟩⟩, rfl⟩
  show ((s.cores.map g).get {} j).sysTraps = (s.cores.get {} j).sysTraps
  rw [SMap.get_eq_get?, SMap.get?_map, SMap.get_eq_get?]
  cases s.cores.get? j with
  | none => rfl
  | some c => exact hg j c
theorem setThread (s : State) (k : Nat) {x : Thread} (hx : x.st = (s.thread k).st ∧ x.ctx = (s.thread k).ctx ∨ x.st = .free) :
    Lasts s (s.setThread k x) := by
  refine ⟨⟨rfl, rfl, rfl, fun _ => rfl, fun n => ?_⟩, rfl⟩
  by_cases h : n = k
  · subst h; rw [State.thread_setThread_self]; exact hx
  · rw [State.thread_setThread_ne _ _ h]; exact .inl ⟨rfl, rfl⟩

/-! ## Elements begun (R328) -/

theorem partyWrite (s : State) (tid : Nat) (w : Party) (kind : Nat) (tag : BitVec 16) (loc : Nat) (data : List Byte) :
    Lasts s (s.partyWrite tid w kind tag loc data) := .of_unseen fun h => h.partyWrite s tid w kind tag loc data
theorem count (s : State) (core slot src n : Nat) : Lasts s (s.count core slot src n) :=
  .of_unseen fun h => h.count s core slot src n
theorem cartWritten (s : State) (core n : Nat) : Lasts s (s.cartWritten core n) := by
  unfold State.cartWritten
  extract_lets f
  refine (Lasts.modCore s core ?_).trans (.count _ _ _ _ _)
  exact fun _ => rfl
theorem cartStore (s : State) (j : CartJob) (l : Nat) (data : List Byte) : Lasts s (s.cartStore j l data).1 :=
  (partyWrite s j.tid j.party 4 0 l data).trans (.cartWritten _ _ _)
theorem cartResidPart (s : State) (j : CartJob) (k : Nat) : Lasts s (s.cartResidPart j k).1 := by
  unfold State.cartResidPart
  split
  · exact .refl s
  · exact .cartStore s j _ _
theorem cartMix (s : State) (j : CartJob) (l : Nat) (data : List Byte) : Lasts s (s.cartMix j l data).1 := by
  unfold State.cartMix
  split
  · exact .plain rfl rfl rfl rfl rfl rfl
  · exact .refl s
theorem cartPart (s : State) (j : CartJob) (k : Nat) : Lasts s (s.cartPart j k).1 := by
  unfold State.cartPart
  split
  · exact .refl s
  · exact (cartMix s j _ _).trans (.cartStore _ j _ _)
theorem cartTell (s : State) (j : CartJob) : Lasts s (s.cartTell j).1 := by
  unfold State.cartTell
  extract_lets hear
  split
  · exact .refl s
  · exact .mapCores s fun _ _ => rfl
theorem finishCart (s : State) (j : CartJob) : Lasts s (s.finishCart j) := by
  unfold State.finishCart
  extract_lets a r r1
  refine (((cartResidPart s j 4).trans (cartPart a.1 a.2 64)).trans (cartTell r.1 r.2)).trans (modCore _ _ ?_)
  exact fun _ => rfl
theorem finishElem (s : State) (tid : Nat) (p : Port) : Lasts s (s.finishElem tid p).1 := by
  unfold State.finishElem
  split
  · exact (partyWrite s tid .agent 4 0 _ _).trans (.cartWritten _ _ _)
  · exact .refl s
theorem finishOrphan (s : State) (o : Orphan) : Lasts s (s.finishOrphan o) := by
  unfold State.finishOrphan
  extract_lets r
  refine (finishElem s o.tid o.port).trans (modCore _ _ ?_)
  exact fun _ => rfl
theorem finishPort (s : State) (tid key : Nat) (p : Port) : Lasts s (s.finishPort tid key p) := by
  unfold State.finishPort
  extract_lets r
  refine (finishElem s tid p).trans (setThread _ _ (.inl ?_))
  exact ⟨rfl, rfl⟩
theorem finishParts (s : State) (ctx : Nat) : Lasts s (s.finishParts ctx) :=
  ((foldl finishCart _ s).trans (foldl finishOrphan _ _)).trans
    (foldl (fun s _ => foldl (fun s _ => finishPort s _ _ _) _ s) _ _)

/-! ## Tasks and packets -/

theorem leftReady (s : State) (tid : Nat) : Lasts s (s.leftReady tid) :=
  foldl (fun s k => by
    extract_lets t
    refine ite (setThread s _ (.inl ?_)) (.refl s)
    exact ⟨rfl, rfl⟩) _ s
theorem sweepTokens (s : State) : Lasts s s.sweepTokens := by
  unfold State.sweepTokens
  extract_lets dead
  exact ite (.plain rfl rfl rfl rfl rfl rfl) (.refl s)
theorem millVisit (s : State) (c : Nat) : Lasts s (s.millVisit c) := ite (.refl s) (.plain rfl rfl rfl rfl rfl rfl)
theorem millIdle (s : State) (tid : Nat) : Lasts s (s.millIdle tid) := by
  unfold State.millIdle
  extract_lets t
  refine ite (setThread s _ (.inl ?_)) (.refl s)
  exact ⟨rfl, rfl⟩
theorem uncarry (s : State) (p : Packet) : Lasts s (s.uncarry p) :=
  foldl (fun s t => by
    extract_lets k
    exact ite (.refl s) (.plain rfl rfl rfl rfl rfl rfl)) _ s
theorem skipNotice (s : State) (p : Packet) (dev : Nat) : Lasts s (s.skipNotice p dev) := by
  unfold State.skipNotice
  split
  · exact .refl s
  · exact ite (.plain rfl rfl rfl rfl rfl rfl) (.plain rfl rfl rfl rfl rfl rfl)
theorem settleFrom (fuel : Nat) (l : List (Nat × Bool × BitVec 8)) (s : State) : Lasts s (settleFrom fuel l s) := by
  induction fuel generalizing l s with
  | zero => exact .refl s
  | succ fuel ih =>
    match l with
    | [] => exact .refl s
    | (slot, landed, status) :: rest =>
      unfold Machine.settleFrom
      extract_lets k s1 me uses users s2 done
      have h1 : Lasts s s1 := .plain rfl rfl rfl rfl rfl rfl
      have h2 : Lasts s1 s2 := by
        refine foldl (fun u c => ?_) users s1
        exact .plain rfl rfl rfl rfl rfl rfl
      exact ite (ih _ _) (ite ((h1.trans h2).trans (ih _ _)) (h1.trans (ih _ _)))
/-- A held packet that is void is answered at the issuer (R191). -/
theorem answerVoid (s : State) (o : OutPkt) :
    Lasts s (((s.uncarry o.pkt).skipNotice o.pkt o.pkt.dest).localReply o.pkt.id 5) :=
  ((uncarry s _).trans (skipNotice _ _ _)).trans (.plain rfl rfl rfl rfl rfl rfl)
theorem releaseHeld (s : State) : Lasts s s.releaseHeld := by
  unfold State.releaseHeld
  extract_lets void still out gone src s1
  have h1 : Lasts s s1 := .plain rfl rfl rfl rfl rfl rfl
  exact h1.trans (foldl (fun s o => answerVoid s o) gone s1)
theorem settleTok (s : State) (slot : Nat) (landed : Bool) (status : BitVec 8) : Lasts s (s.settleTok slot landed status) :=
  ((settleFrom _ _ s).trans (releaseHeld _)).trans (sweepTokens _)
theorem discardOut (s : State) (o : OutPkt) (tok : BitVec 32) : Lasts s (s.discardOut o tok) := by
  unfold State.discardOut
  extract_lets src s1 s2
  have h1 : Lasts s s1 := .plain rfl rfl rfl rfl rfl rfl
  have h2 : Lasts s s2 := (h1.trans (uncarry s1 o.pkt)).trans (skipNotice _ _ _)
  exact ite h2 (h2.trans (settleTok _ _ _ _))
theorem dropRemote (s : State) (ctx : Nat) : Lasts s (s.dropRemote ctx) := by
  unfold State.dropRemote
  extract_lets mine unsent s1 ops live
  have h1 : Lasts s s1 := foldl (fun a o => by
    split
    · exact ite (discardOut a _ _) (.refl a)
    · exact .refl a) _ s
  exact h1.trans (.plain rfl rfl rfl rfl rfl rfl)
theorem darken (s : State) (p : Nat) : Lasts s (s.darken p) := by
  unfold State.darken
  split
  · exact .refl s
  · exact ite (.refl s) (.plain rfl rfl rfl rfl rfl rfl)

/-! ## The Almanac and the launches -/

theorem almIrq (s : State) : Lasts s s.almIrq :=
  ite (ite (.plain rfl rfl rfl rfl rfl rfl) (.plain rfl rfl rfl rfl rfl rfl)) (.refl s)
theorem homeWrite (s : State) (l : Nat) (d : List Byte) : Lasts s (s.homeWrite l d) := .of_unseen fun h => h.homeWrite s l d
theorem setCmd (s : State) (q st status result : Nat) : Lasts s (s.setCmd q st status result) := by
  unfold State.setCmd
  extract_lets s1 cmds src s2
  have h1 : Lasts s s1 := homeWrite s _ _
  have h2 : Lasts s s2 := h1.trans (.plain rfl rfl rfl rfl rfl rfl)
  exact ite (h2.trans (almIrq s2)) h2
theorem setDrop (s : State) (d : B64) : Lasts s { s with host := { s.host with drop := d } } := .plain rfl rfl rfl rfl rfl rfl
theorem setHead (s : State) (q : Nat) : Lasts s { s with host := { s.host with head := q } } := .plain rfl rfl rfl rfl rfl rfl
theorem errRecord (s : State) (kind ctx cause : Nat) (nested : Bool) (whr : Nat) (pc val : B64) :
    Lasts s (s.errRecord kind ctx cause nested whr pc val) := by
  unfold State.errRecord
  dsimp only
  split
  · exact setDrop s _
  · exact (((homeWrite s _ _).trans (homeWrite _ _ _)).trans (setHead _ _)).trans (almIrq _)
theorem showSers (s : State) (l : List (Nat × Nat)) : Lasts s (s.showSers l) :=
  foldl (fun s x => .of_unseen fun h => h.flushBefore s x.1 x.2) l s
theorem remember (s : State) (lid : Nat) (sers : List (Nat × Nat)) : Lasts s (s.remember lid sers) := .plain rfl rfl rfl rfl rfl rfl
theorem untrack (s : State) (l : Launch) : Lasts s (s.untrack l) := by
  let u : State := { s with sq := { s.sq with trigQ := s.sq.trigQ.filter (fun q => q != l.lid) } }
  have h1 : Lasts s u := .plain rfl rfl rfl rfl rfl rfl
  exact h1.trans (ite (.refl u) (ite ((showSers u l.sers).trans (.plain rfl rfl rfl rfl rfl rfl)) (remember u _ _)))
theorem dropLaunches (s : State) : Lasts s s.dropLaunches := by
  unfold State.dropLaunches
  extract_lets ls
  let u : State := { s with sq := { s.sq with launches := ls } }
  have h1 : Lasts s u := .plain rfl rfl rfl rfl rfl rfl
  exact ite (.refl s) (h1.trans (foldl untrack _ u))
theorem dropTracked (s : State) (ctx status : Nat) (slots : List Nat) (n : Nat → Nat) : Lasts s (s.dropTracked ctx status slots n) := by
  unfold State.dropTracked
  extract_lets late s1 ls sq sq1 sq2 s2 queued s3
  have h1 : Lasts s s1 := foldl (fun s l => remember s _ _) late s
  have h2 : Lasts s s2 := h1.trans (.plain rfl rfl rfl rfl rfl rfl)
  have h3 : Lasts s s3 := h2.trans (foldl (fun s c => setCmd s _ _ _ _) queued s2)
  exact (h3.trans (foldl (fun s l => setCmd s _ _ _ _) ls s3)).trans (dropLaunches _)

/-- A task that ends with its context leaves its slot Free (R148, R17). -/
theorem endTask (s : State) (tid : Nat) : Lasts s (s.endTask tid true) := by
  unfold State.endTask
  extract_lets t core writes orph busy s1 s2 s3 s4 src s5 s6 tiles s7 s8
  have h1 : Lasts s s1 := by
    refine modCore s core ?_
    exact fun _ => rfl
  clear_value s1
  have h2 : Lasts s s2 := h1.trans (.plain rfl rfl rfl rfl rfl rfl)
  clear_value s2
  have h3 : Lasts s s3 := by
    unfold s3
    split
    · exact h2.trans (.plain rfl rfl rfl rfl rfl rfl)
    · exact h2
  clear_value s3
  have h4 : Lasts s s4 := h3.trans (.plain rfl rfl rfl rfl rfl rfl)
  clear_value s4
  have h5 : Lasts s s5 := h4.trans (.plain rfl rfl rfl rfl rfl rfl)
  clear_value s5
  have h7 : Lasts s s7 := (h5.trans (leftReady s5 tid)).trans (setThread s6 tid (.inr rfl))
  clear_value s7
  have h8 : s8 = s7 := by
    unfold s8
    split
    · next h => cases h
    · rfl
  exact h8 ▸ h7.trans (sweepTokens s7)
end Lasts

theorem State.endTask_free (s : State) (tid : Nat) : ((s.endTask tid true).thread tid).st = .free := by
  unfold State.endTask
  extract_lets t core writes orph busy s1 s2 s3 s4 src s5 s6 tiles s7 s8
  have h7 : (s7.thread tid).st = .free := by
    unfold s7
    rw [State.thread_setThread_self]
  clear_value s7
  have h8 : s8 = s7 := by
    unfold s8
    split
    · next h => cases h
    · rfl
  exact h8 ▸ (Lasts.sweepTokens s7).free h7
/-- All the tasks listed have left their slots. -/
theorem State.endTasks_free (l : List Nat) (s : State) {n : Nat} (hn : n ∈ l) :
    ((l.foldl (fun s t => s.endTask t true) s).thread n).st = .free := by
  induction l generalizing s with
  | nil => cases hn
  | cons t l ih =>
    rw [List.foldl_cons]
    by_cases h : n ∈ l
    · exact ih _ h
    · obtain rfl : n = t := (List.mem_cons.1 hn).resolve_right h
      exact (Lasts.foldl Lasts.endTask l _).free (s.endTask_free n)
theorem State.mem_slotsOf {s : State} {n x : Nat} (h8 : n % 8 ≠ 4) (hs : (s.thread n).st ≠ .free) (hx : (s.thread n).ctx = x) :
    n ∈ s.slotsOf x := by
  rw [State.thread, SMap.get_eq_get?, SMap.get?] at hs hx
  cases hf : s.threads.cells.find? (fun c => c.1 == n) with
  | none =>
    rw [hf] at hs
    refine absurd ?_ hs
    show (slotInit n).st = .free
    unfold slotInit
    split <;> rfl
  | some c =>
    rw [hf] at hs hx
    have hk : c.1 = n := by simpa using List.find?_some hf
    refine List.mem_map.2 ⟨c, List.mem_filter.2 ⟨List.mem_of_find?_eq_some hf, ?_⟩, hk⟩
    have hs' : c.2.st ≠ .free := hs
    have hx' : c.2.ctx = x := hx
    simp [hs', hx', hk, h8]

/-- The context's record as its end leaves it (R328). -/
def Ctx.atEnd (c : Ctx) (cause : Nat) : Ctx :=
  { c with
    ended := true, stop := false, noStart := false, saved := false, toks := [], tasks := [], kept := [], skips := [], faults := [],
    digest := [], cause := cause }
/-- What the end of context `x` makes of `s`: its record is `c` and the others stand, what bides stands, and the task
slots of `x` are Free. -/
structure EndsCtx (s : State) (x : Nat) (c : Ctx) (t : State) : Prop where
  ctxs : t.ctxs = s.ctxs.put x c
  bides : Bides s t
  free : ∀ n, n % 8 ≠ 4 → (s.thread n).ctx = x → (t.thread n).st = .free

/-- A context that has not ended ends (R17, R328). -/
theorem State.endContext_live {s : State} {x : Nat} {c : Ctx} (hc : s.ctx? x = some c) (he : c.ended = false) (cause : Nat)
    (nested : Bool) (whr : Nat) (pc val : B64) (shown : Option Nat) :
    EndsCtx s x (c.atEnd cause) (s.endContext x cause nested whr pc val shown) := by
  have hparts : Lasts s (s.finishParts x) := .finishParts s x
  unfold State.endContext
  split
  · next h => rw [hc] at h; cases h
  · next c' h =>
    obtain rfl : c = c' := Option.some.inj (hc.symm.trans h)
    rw [if_neg (by rw [he]; exact Bool.false_ne_true)]
    extract_lets s1 status slots launches gone gone1 s2 s3 s4 s5 s6 s7 sq s8 well s9 s10 s11 s12
    have hx : s1.ctxs = s.ctxs.put x (c.atEnd cause) := by
      rw [← hparts.ctxs]
      rfl
    have hb : Bides s s1 := hparts.toBides.trans ⟨rfl, rfl, rfl, fun _ => rfl, fun _ => .inl ⟨rfl, rfl⟩⟩
    clear_value s1
    have h2 : Lasts s1 s2 := (Lasts.mapCores s1 (g := fun _ k => k.dropCtx x gone1) fun _ _ => rfl).trans
      (.plain rfl rfl rfl rfl rfl rfl)
    clear_value s2
    have h3 : Lasts s2 s3 := .foldl .endTask slots s2
    have hfree : ∀ n ∈ slots, (s3.thread n).st = .free := fun n hn => State.endTasks_free slots s2 hn
    clear_value s3
    have h4 : Lasts s3 s4 := .foldl (fun s _ => .millVisit s _) _ s3
    clear_value s4
    have h5 : Lasts s3 s5 := (h4.trans (.foldl (fun s _ => .millIdle s _) _ s4)).trans (.sweepTokens _)
    clear_value s5
    have h6 : Lasts s3 s6 := h5.trans (.dropRemote s5 x)
    clear_value s6
    have h7 : Lasts s3 s7 := h6.trans (.foldl (fun s _ => .darken s _) _ s6)
    clear_value s7
    have h8 : Lasts s3 s8 := h7.trans (.plain rfl rfl rfl rfl rfl rfl)
    clear_value s8
    have h9 : Lasts s3 s9 := h8.trans (.plain rfl rfl rfl rfl rfl rfl)
    clear_value s9
    have h10 : Lasts s3 s10 := h9.trans (.dropTracked s9 x _ _ _)
    clear_value s10
    have h11 : Lasts s3 s11 := h10.trans (.foldl (fun s _ => .setCmd s _ _ _ _) _ s10)
    clear_value s11
    have h12 : Lasts s3 s12 := h11.trans (.plain rfl rfl rfl rfl rfl rfl)
    clear_value s12
    have hlast := h12.trans (.errRecord s12 1 x (shown.getD cause) nested whr pc val)
    have hall := (h2.trans h3).trans hlast
    refine ⟨hall.ctxs.trans hx, hb.trans hall.toBides, fun n h8 hn => ?_⟩
    rcases hb.slot n with ⟨hs, hc⟩ | hf
    · by_cases hfr : (s1.thread n).st = .free
      · exact hall.free hfr
      · exact hlast.free (hfree n (State.mem_slotsOf h8 hfr (hc.trans hn)))
    · exact hall.free hf

/-! ## Which contexts are ended -/

/-- Whether the context at a number is ended, if there is one. -/
def State.endedAt (s : State) (x : Nat) : Option Bool := (s.ctx? x).map Ctx.ended
theorem State.endedAt_of_ctxs {s t : State} (h : t.ctxs = s.ctxs) (x : Nat) : t.endedAt x = s.endedAt x := by
  rw [State.endedAt, State.ctx?, h]; rfl
theorem State.endedAt_some {s : State} {x : Nat} {b : Bool} : s.endedAt x = some b ↔ ∃ c, s.ctx? x = some c ∧ c.ended = b :=
  Option.map_eq_some_iff

/-- `t` is `s` with the contexts of `l` ended. -/
structure EndsAll (s : State) (l : List Nat) (t : State) : Prop where
  ended : ∀ x, t.endedAt x = if x ∈ l then (s.endedAt x).map (fun _ => true) else s.endedAt x
  bides : Bides s t

theorem Lasts.endsNone {s t : State} (h : Lasts s t) : EndsAll s [] t :=
  ⟨fun x => by simp [State.endedAt_of_ctxs h.ctxs], h.toBides⟩
theorem EndsAll.trans {s t u : State} {l m : List Nat} (h1 : EndsAll s l t) (h2 : EndsAll t m u) : EndsAll s (l ++ m) u := by
  refine ⟨fun x => ?_, h1.bides.trans h2.bides⟩
  rw [h2.ended, h1.ended]
  by_cases hl : x ∈ l <;> by_cases hm : x ∈ m <;> simp [hl, hm, Function.comp_def]
theorem EndsAll.foldl {α : Type} {f : State → α → State} {k : α → Nat} (h : ∀ s a, EndsAll s [k a] (f s a)) (l : List α)
    (s : State) : EndsAll s (l.map k) (l.foldl f s) := by
  induction l generalizing s with
  | nil => exact (Lasts.refl s).endsNone
  | cons a l ih => exact (h s a).trans (ih _)
/-- The end of a context ends it, where it stands, and no other (R17). -/
theorem State.endContext_ends (s : State) (x cause : Nat) (nested : Bool) (whr : Nat) (pc val : B64) (shown : Option Nat) :
    EndsAll s [x] (s.endContext x cause nested whr pc val shown) := by
  cases hc : s.ctx? x with
  | none =>
    have hs : s.endContext x cause nested whr pc val shown = s := by rw [State.endContext, hc]
    rw [hs]
    refine ⟨fun y => ?_, (Lasts.refl s).toBides⟩
    split
    · next h => obtain rfl := List.mem_singleton.1 h; rw [State.endedAt, hc]; rfl
    · rfl
  | some c =>
    by_cases he : c.ended = true
    · have hs : s.endContext x cause nested whr pc val shown = s := by
        rw [State.endContext, hc]
        exact if_pos he
      rw [hs]
      refine ⟨fun y => ?_, (Lasts.refl s).toBides⟩
      split
      · next h => obtain rfl := List.mem_singleton.1 h; simp [State.endedAt, hc, he]
      · rfl
    · have h := State.endContext_live hc (Bool.eq_false_of_not_eq_true he) cause nested whr pc val shown
      refine ⟨fun y => ?_, h.bides⟩
      rw [State.endedAt, State.ctx?, h.ctxs]
      split
      · next hy =>
        obtain rfl := List.mem_singleton.1 hy
        rw [SMap.get?_put_self, State.endedAt, hc]
        rfl
      · next hy =>
        rw [SMap.get?_put_ne _ _ (fun e => hy (List.mem_singleton.2 e))]
        rfl

/-! ## The power-kill (R259) -/

theorem Lasts.setCtr {s t : State} (h : Lasts s t) (n : Nat) : Lasts s { t with freeCtr := n } :=
  h.trans (.plain rfl rfl rfl rfl rfl rfl)
theorem EndsAll.lasts {s t u : State} {l : List Nat} (h1 : EndsAll s l t) (h2 : Lasts t u) : EndsAll s l u := by
  have h := h1.trans h2.endsNone
  rwa [List.append_nil] at h
theorem Lasts.ends {s t u : State} {l : List Nat} (h1 : Lasts s t) (h2 : EndsAll t l u) : EndsAll s l u := h1.endsNone.trans h2
theorem State.killCtx_ends (s : State) (x : Nat) : EndsAll s [x] (s.killCtx x) := by
  have hspoil : Lasts s ((s.saves.filter (fun v => v.ctx == x)).foldl State.spoilArea s) :=
    .foldl (fun s v => (Lasts.homeWrite s _ _).setCtr _) _ s
  exact (hspoil.ends (State.endContext_ends _ _ _ _ _ _ _ _)).lasts (.plain rfl rfl rfl rfl rfl rfl)
/-- The contexts with work from priority `lo` on. -/
def State.working (s : State) (lo : Nat) : List (Nat × Ctx) :=
  s.ctxs.cells.filter (fun c => !c.2.ended && decide (lo ≤ c.2.prio) && s.busyCtx c.1)
theorem State.mem_working {s : State} {lo : Nat} {c : Nat × Ctx} :
    c ∈ s.working lo ↔ c ∈ s.ctxs.cells ∧ c.2.ended = false ∧ lo ≤ c.2.prio ∧ s.busyCtx c.1 = true := by
  simp [State.working, and_assoc]
theorem State.killFrom_none {s : State} {lo : Nat} (h : s.working lo = []) :
    s.killFrom lo = { s with fleet := { s.fleet with killNext := none } } := by
  unfold State.working at h
  rw [State.killFrom, h]
/-- With work left, the contexts of the lowest priority among it end. -/
theorem State.killFrom_some {s : State} {lo : Nat} (h : s.working lo ≠ []) {p : Nat}
    (hp : (s.working lo).foldl (fun a c => min a c.2.prio) 7 = p) :
    (s.killFrom lo).fleet.killNext = (if p = 7 then none else some (p + 1, s.now + 20000)) ∧
      ∀ x, (s.killFrom lo).endedAt x = if x ∈ ((s.working lo).filter (fun c => c.2.prio == p)).map (·.1)
        then (s.endedAt x).map (fun _ => true) else s.endedAt x := by
  subst hp
  unfold State.killFrom
  extract_lets busy src p s1 s2
  have hb : busy = s.working lo := rfl
  have hp : busy.foldl (fun a c => min a c.2.prio) 7 = p := rfl
  have h1 : Lasts s s1 := (Lasts.errRecord s _ _ _ _ _ _ _).setCtr _
  have h2 : EndsAll s ((busy.filter (fun c => c.2.prio == p)).map (·.1)) s2 :=
    h1.ends (.foldl (k := fun c : Nat × Ctx => c.1) (fun s c => s.killCtx_ends c.1) _ s1)
  rw [← hb] at h ⊢
  rw [hp]
  clear_value s1 s2 p busy
  obtain ⟨c, l, rfl⟩ := List.exists_cons_of_ne_nil h
  refine ⟨?_, h2.ended⟩
  show (if p = 7 then none else some (p + 1, s2.now + 20000)) = _
  rw [h2.bides.now]
theorem foldl_min_eq {α : Type} (f : α → Nat) (l : List α) {a p : Nat} (ha : p ≤ a) (hl : ∀ c ∈ l, p ≤ f c)
    (h : a = p ∨ ∃ c ∈ l, f c = p) : l.foldl (fun a c => min a (f c)) a = p := by
  induction l generalizing a with
  | nil => simpa using h
  | cons c l ih =>
    have hc := hl c List.mem_cons_self
    refine ih (le_min ha hc) (fun d hd => hl d (List.mem_cons_of_mem c hd)) ?_
    rcases h with rfl | ⟨d, hd, rfl⟩
    · exact .inl (Nat.min_eq_left hc)
    · rcases List.mem_cons.1 hd with rfl | hd
      · exact .inl (Nat.min_eq_right ha)
      · exact .inr ⟨d, hd, rfl⟩
theorem SMap.mem_of_get? {α : Type} {m : SMap α} {k : Nat} {x : α} (h : m.get? k = some x) : (k, x) ∈ m.cells := by
  obtain ⟨c, hc, rfl⟩ := Option.map_eq_some_iff.1 h
  have hk : c.1 = k := by simpa using List.find?_some hc
  exact hk ▸ List.mem_of_find?_eq_some hc
theorem SMap.get?_of_mem {α : Type} {m : SMap α} {k : Nat} {x : α} (hd : (m.cells.map (·.1)).Nodup) (h : (k, x) ∈ m.cells) :
    m.get? k = some x := by
  obtain ⟨l⟩ := m
  unfold SMap.get?
  induction l with
  | nil => cases h
  | cons c l ih =>
    rw [List.map_cons, List.nodup_cons] at hd
    rcases List.mem_cons.1 h with rfl | h
    · simp
    · have hk : c.1 ≠ k := fun e => hd.1 (List.mem_map.2 ⟨(k, x), h, e.symm⟩)
      rw [List.find?_cons_of_neg (by simpa using hk)]
      exact ih hd.2 h

theorem State.killFrom_kills (s : State) (lo : Nat) : KillsFrom s lo (.next (s.killFrom lo)) := by
  unfold KillsFrom
  extract_lets work
  intro hd
  have hw (c : Nat × Ctx) : c ∈ s.working lo ↔ c ∈ s.ctxs.cells ∧ work c := State.mem_working
  refine ⟨fun h => ?_, fun p hp7 ⟨c0, hc0, hw0, hp0⟩ hmin => ?_⟩
  · rw [State.killFrom_none]
    exact List.eq_nil_iff_forall_not_mem.2 fun c hc => h c ((hw c).1 hc).1 ((hw c).1 hc).2
  · have hne : s.working lo ≠ [] := List.ne_nil_of_mem ((hw c0).2 ⟨hc0, hw0⟩)
    have hp := foldl_min_eq (fun c : Nat × Ctx => c.2.prio) (s.working lo) hp7
      (fun c hc => hmin c ((hw c).1 hc).1 ((hw c).1 hc).2) (.inr ⟨c0, (hw c0).2 ⟨hc0, hw0⟩, hp0⟩)
    obtain ⟨hnext, hend⟩ := State.killFrom_some hne hp
    refine ⟨_, rfl, hnext, fun x c hc hwc hpc => ?_, fun x c hc hn => ?_⟩
    · rw [← State.endedAt_some, hend, if_pos]
      · simp [State.endedAt, hc]
      · exact List.mem_map.2 ⟨(x, c), List.mem_filter.2 ⟨(hw _).2 ⟨SMap.mem_of_get? hc, hwc⟩, by simpa using hpc⟩, rfl⟩
    · rw [← State.endedAt_some, hend, if_neg]
      · simp [State.endedAt, hc]
      · intro hm
        obtain ⟨⟨y, d⟩, hd', rfl⟩ := List.mem_map.1 hm
        obtain ⟨hdw, hdp⟩ := List.mem_filter.1 hd'
        obtain ⟨hdc, hdwork⟩ := (hw _).1 hdw
        obtain rfl : d = c := Option.some.inj ((SMap.get?_of_mem hd hdc).symm.trans hc)
        exact hn ⟨hdwork, by simpa using hdp⟩

/-! ## An uncorrectable error (R17, R352) -/

theorem State.uncorrected_keeps (s : State) : s.uncorrected.fleet.rasunc = s.fleet.rasunc + 1 ∧
    s.uncorrected.fleet.ev = s.fleet.ev ||| (1#10 <<< 8) ∧ s.uncorrected.ctxs = s.ctxs ∧ s.uncorrected.threads = s.threads := by
  unfold State.uncorrected State.fleetEv State.fleetIrq
  dsimp only
  split <;> exact ⟨rfl, rfl, rfl, rfl⟩
theorem Lasts.spoilSave (s : State) (x : Nat) : Lasts s (s.spoilSave x) :=
  (Lasts.foldl (fun s _ => .setCmd s _ _ _ _) _ s).trans (.plain rfl rfl rfl rfl rfl rfl)

/-! ## A trap of the reeve (R330; log entry 20) -/

theorem State.errRecord_cores (s : State) (kind ctx cause : Nat) (nested : Bool) (whr : Nat) (pc val : B64) :
    (s.errRecord kind ctx cause nested whr pc val).cores = s.cores :=
  State.errRecord_keeps (f := State.cores) (fun _ _ => rfl) (fun _ => rfl) s _ _ _ _ _ _ _
/-- A bit of the readiness map that is cleared reads 0 (R316). -/
theorem State.readyBit_setReady_false (s : State) (off n : Nat) : (s.setReady off n false).readyBit off n = false := by
  unfold State.setReady
  split
  · next h => exact h
  · next h =>
    have hb : (s.host.ready.get 0 (off + n / 8)).testBit (n % 8) = true := by simpa [State.readyBit] using h
    show ((s.host.ready.put (off + n / 8) _).get 0 (off + n / 8)).testBit (n % 8) = false
    rw [SMap.get_put_self, if_neg Bool.false_ne_true]
    have hle := Nat.ge_two_pow_of_testBit hb
    have hsum : (2 ^ (n % 8) + (s.host.ready.get 0 (off + n / 8) - 2 ^ (n % 8))).testBit (n % 8) = true := by
      rwa [Nat.add_sub_of_le hle]
    rw [Nat.testBit_two_pow_add_eq] at hsum
    simpa using hsum

/-- The state in which the reeve of a core restarts after a trap, its trap times `recent` kept (R330). -/
def State.reeveRestarted (s : State) (core cause : Nat) (pc val : B64) (recent : List Nat) : State :=
  ((s.errRecord 3 0 cause false (whereOf (tidOf core 4) % 2 ^ 19) pc val).setThread (tidOf core 4)
    (slotInit (tidOf core 4))).modCore core (fun c => { c with sysTraps := recent.take 4 })
/-- The terrace of a core falls: its bit of the readiness map is 0 until reset. -/
def State.fallTerrace (s : State) (t : Nat) : State := (s.setReady 0 t false).setTerrace t { s.terrace t with fallen := true }
/-- The contexts that the cores of a terrace hold. -/
def State.terraceCtxs (s : State) (t : Nat) : List Nat :=
  (s.cores.cells.filter (fun k => terraceOf k.1 == t)).filterMap (fun k => k.2.ctx)
/-- A trap of the reeve: its slot restarts; the fourth within 1 ms fells the terrace and ends its contexts (log entry 20). -/
theorem State.systemTrap_eq (s : State) (core cause : Nat) (pc val : B64) :
    let recent := s.now :: (s.core core).sysTraps.filter (fun m => s.now < m + 2000000)
    let u := s.reeveRestarted core cause pc val recent
    s.systemTrap core cause pc val =
      if recent.length < 4 then u else
      ((u.fallTerrace (terraceOf core)).terraceCtxs (terraceOf core)).foldl
        (fun s x => s.endContext x 0x0D false (whereOf (tidOf core 4) % 2 ^ 19) pc val) (u.fallTerrace (terraceOf core)) := by
  have h := Lasts.errRecord s 3 0 cause false (whereOf (tidOf core 4) % 2 ^ 19) pc val
  extract_lets recent u
  have hr : (s.errRecord 3 0 cause false (whereOf (tidOf core 4) % 2 ^ 19) pc val).now ::
      ((s.errRecord 3 0 cause false (whereOf (tidOf core 4) % 2 ^ 19) pc val).core core).sysTraps.filter (fun t =>
        (s.errRecord 3 0 cause false (whereOf (tidOf core 4) % 2 ^ 19) pc val).now < t + 2000000) = recent := by
    rw [h.now, h.core]
  have hu : ((s.errRecord 3 0 cause false (whereOf (tidOf core 4) % 2 ^ 19) pc val).setThread (tidOf core 4)
      (slotInit (tidOf core 4))).setCore core { (s.errRecord 3 0 cause false (whereOf (tidOf core 4) % 2 ^ 19) pc val).core core with
        sysTraps := recent.take 4 } = u := rfl
  clear_value recent u
  unfold State.systemTrap
  extract_lets s1 c recent' s2 s3 ter s4 ctxs
  have hr' : recent' = recent := hr
  clear_value recent'
  subst hr'
  have h3 : s3 = u := hu
  clear_value s3
  subst h3
  rfl
theorem slotInit_free (k : Nat) : (slotInit k).st = .free := by
  rw [slotInit_eq]
theorem State.reeveRestarted_keeps (s : State) (core cause : Nat) (pc val : B64) (recent : List Nat) :
    (s.reeveRestarted core cause pc val recent).ctxs = s.ctxs ∧
      ((s.reeveRestarted core cause pc val recent).thread (tidOf core 4)).st = .free ∧
      ((s.reeveRestarted core cause pc val recent).core core).sysTraps = recent.take 4 := by
  have h := Lasts.errRecord s 3 0 cause false (whereOf (tidOf core 4) % 2 ^ 19) pc val
  unfold State.reeveRestarted
  refine ⟨h.ctxs, ?_, ?_⟩
  · show (((s.errRecord 3 0 cause false (whereOf (tidOf core 4) % 2 ^ 19) pc val).setThread (tidOf core 4) _).thread _).st = _
    rw [State.thread_setThread_self, slotInit_free]
  · rw [State.core_modCore_self]
theorem State.setReady_keeps (s : State) (off n : Nat) (v : Bool) :
    (s.setReady off n v).ctxs = s.ctxs ∧ (s.setReady off n v).threads = s.threads ∧ (s.setReady off n v).cores = s.cores := by
  unfold State.setReady
  split <;> exact ⟨rfl, rfl, rfl⟩
/-- A core of the terrace that holds a context has it listed, after the restart as before. -/
theorem State.mem_terraceCtxs {s : State} {core cause : Nat} {pc val : B64} {recent : List Nat} {n k t : Nat} {y : Core}
    (hy : s.cores.get? n = some y) (ht : terraceOf n = t) (hk : y.ctx = some k) :
    k ∈ ((s.reeveRestarted core cause pc val recent).fallTerrace t).terraceCtxs t := by
  have hc : ((s.reeveRestarted core cause pc val recent).fallTerrace t).cores =
      s.cores.put core { s.core core with sysTraps := recent.take 4 } := by
    show ((s.reeveRestarted core cause pc val recent).setReady 0 t false).cores = _
    rw [(State.setReady_keeps _ _ _ _).2.2]
    show (State.errRecord s 3 0 cause false _ pc val).cores.put core { (State.errRecord s 3 0 cause false _ pc val).core core with
      sysTraps := recent.take 4 } = _
    rw [State.core, State.errRecord_cores]
    rfl
  have hget : ∃ y', (s.cores.put core { s.core core with sysTraps := recent.take 4 }).get? n = some y' ∧ y'.ctx = some k := by
    by_cases hn : n = core
    · subst hn
      refine ⟨_, SMap.get?_put_self _ _ _, ?_⟩
      show (s.cores.get {} n).ctx = some k
      rw [SMap.get_eq_get?, hy]
      exact hk
    · exact ⟨y, by rw [SMap.get?_put_ne _ _ hn, hy], hk⟩
  obtain ⟨y', hy', hk'⟩ := hget
  refine List.mem_filterMap.2 ⟨(n, y'), List.mem_filter.2 ⟨?_, by simpa using ht⟩, hk'⟩
  rw [hc]
  exact SMap.mem_of_get? hy'
/-- The fourth trap of the reeve within 1 ms (R330). -/
theorem State.fourthTrap {s : State} {core cause : Nat} {pc val : B64} {recent : List Nat} (whr : Nat) :
    let v := (s.reeveRestarted core cause pc val recent).fallTerrace (terraceOf core)
    let t := (v.terraceCtxs (terraceOf core)).foldl (fun s x => s.endContext x 0x0D false whr pc val) v
    (t.thread (tidOf core 4)).st = .free ∧ (t.core core).sysTraps = recent.take 4 ∧ t.terraceReady core = false ∧
      ∀ k ∈ v.terraceCtxs (terraceOf core), ∀ r, s.ctx? k = some r → ∃ r', t.ctx? k = some r' ∧ r'.ended = true := by
  extract_lets v t
  obtain ⟨hx, hf, hs⟩ := s.reeveRestarted_keeps core cause pc val recent
  obtain ⟨hx', ht', hc'⟩ := (s.reeveRestarted core cause pc val recent).setReady_keeps 0 (terraceOf core) false
  have hend : EndsAll v (v.terraceCtxs (terraceOf core)) t := by
    have h := EndsAll.foldl (k := id) (fun s x => s.endContext_ends x 0x0D false whr pc val none) (v.terraceCtxs (terraceOf core)) v
    rwa [List.map_id] at h
  have hvx : v.ctxs = s.ctxs := hx'.trans hx
  have hvf : (v.thread (tidOf core 4)).st = .free := by
    rw [← hf]
    show ((State.setReady _ _ _ _).threads.get _ _).st = ((State.reeveRestarted _ _ _ _ _ _).threads.get _ _).st
    rw [ht']
  have hvs : (v.core core).sysTraps = recent.take 4 := by
    rw [← hs]
    show ((State.setReady _ _ _ _).cores.get _ _).sysTraps = ((State.reeveRestarted _ _ _ _ _ _).cores.get _ _).sysTraps
    rw [hc']
  have hvr : v.terraceReady core = false := State.readyBit_setReady_false _ _ _
  refine ⟨hend.bides.free hvf, (hend.bides.core core).trans hvs, ?_, fun k hk r hr => ?_⟩
  · rw [State.terraceReady, State.readyBit, hend.bides.ready]
    exact hvr
  · rw [← State.endedAt_some, hend.ended, if_pos hk, State.endedAt_of_ctxs hvx, State.endedAt, hr]
    rfl

/-! ## Clock dividers (R351) -/

theorem Core.clocked_divSet (c : Core) (now : Nat) : (c.clocked now).divSet = c.divSet := by
  unfold Core.clocked
  split
  · rfl
  · next t d h =>
    split
    · rfl
    · rw [Core.divSet, Core.divSet, h]
theorem Core.clocked_isoff (c : Core) (now : Nat) : (c.clocked now).isoff = c.isoff := by
  unfold Core.clocked
  split
  · rfl
  · split <;> rfl
/-- A boundary from a time on does not lie before it. -/
theorem Core.le_boundary (c : Core) (now : Nat) : now ≤ c.boundary now := by
  unfold Core.boundary
  have hp : 0 < c.period := Nat.succ_pos _
  have h1 : now - c.cycAt ≤ (now - c.cycAt + c.period - 1) / c.period * c.period := by
    have h := Nat.div_add_mod (now - c.cycAt + c.period - 1) c.period
    have hm := Nat.mod_lt (now - c.cycAt + c.period - 1) hp
    rw [Nat.mul_comm] at h
    omega
  omega
/-- What a new divisor makes of the core (R351): it is set, but in force only from the boundary on. -/
theorem State.setDiv_core (s : State) (k d : Nat) : ((s.setDiv k d).core k).divSet = d ∧
    (((s.core k).clocked s.now).boundary s.now ≠ s.now → (s.core k).isoff = false →
      (((s.setDiv k d).core k).clocked s.now).div = ((s.core k).clocked s.now).div) := by
  unfold State.setDiv
  extract_lets c t
  split
  · next h => exact ⟨(Core.clocked_divSet _ _).symm.trans h, fun _ _ => rfl⟩
  · split
    · next h1 h =>
      rw [State.core_modCore_self]
      refine ⟨?_, fun hb hoff => ?_⟩
      · show Core.divSet { (s.settle k).core k with div := d } = d
        rw [State.settle, State.core_modCore_self]
        rfl
      · rcases Bool.or_eq_true _ _ ▸ h with h | h
        · rw [show c.isoff = (s.core k).isoff from Core.clocked_isoff _ _, hoff] at h
          cases h
        · exact absurd (of_decide_eq_true h) hb
    · next h1 h =>
      rw [State.core_setCore_self]
      by_cases hd : c.div = d
      · rw [if_pos hd]
        exact ⟨hd, fun _ _ => rfl⟩
      · rw [if_neg hd]
        refine ⟨rfl, fun hb _ => ?_⟩
        have hlt : s.now < t := lt_of_le_of_ne (Core.le_boundary _ _) (Ne.symm hb)
        rw [Core.clocked]
        simp only [hlt, if_true]
        rfl
theorem State.setDiv_now (s : State) (k d : Nat) : (s.setDiv k d).now = s.now ∧ (s.setDiv k d).fleet = s.fleet := by
  unfold State.setDiv
  extract_lets c t
  split
  · exact ⟨rfl, rfl⟩
  · split <;> exact ⟨rfl, rfl⟩
/-- The wake of a core changes when it is on at the latest, and nothing else. -/
theorem State.wakeCore_keeps (s : State) (k : Nat) :
    ((s.wakeCore k).core k).off = (s.core k).off ∧ ((s.wakeCore k).core k).divSet = (s.core k).divSet ∧
    (((s.wakeCore k).core k).clocked s.now).div = ((s.core k).clocked s.now).div ∧ (s.wakeCore k).fleet = s.fleet := by
  unfold State.wakeCore
  split
  · rw [State.core_modCore_self]
    refine ⟨rfl, rfl, ?_, rfl⟩
    unfold Core.clocked
    dsimp only
    split
    · rfl
    · split <;> rfl
  · exact ⟨rfl, rfl, rfl, rfl⟩
theorem Core.clocked_off (c : Core) (b : Bool) (now : Nat) : (({ c with off := b } : Core).clocked now).div = (c.clocked now).div := by
  unfold Core.clocked
  dsimp only
  split
  · rfl
  · split <;> rfl

/-! ## The steward's writes (R350, R351) -/

/-- A write to a core's control: OFF is taken, a divisor not below MINDIV is set (R351). -/
theorem State.stewardApply_core {s : State} {w : StewardWrite} (h : w.kind = 2) :
    ((s.stewardApply w).core w.unit).off = w.val.getLsbD 8 ∧
    ((s.stewardApply w).core w.unit).divSet =
      (if w.val.toNat % 16 < s.minDiv (terraceOf w.unit) (s.terrace (terraceOf w.unit)).vid then (s.core w.unit).divSet
       else w.val.toNat % 16) ∧
    (((s.core w.unit).clocked s.now).boundary s.now ≠ s.now → (s.core w.unit).isoff = false →
      (((s.stewardApply w).core w.unit).clocked s.now).div = ((s.core w.unit).clocked s.now).div) ∧
    (s.stewardApply w).fleet = s.fleet := by
  unfold State.stewardApply
  extract_lets v src vid m worse d s1 s2
  split
  · next hk => rw [h] at hk; cases hk
  · next hk => rw [h] at hk; cases hk
  have h1 : (s1.core w.unit).divSet = (if d < s.minDiv (terraceOf w.unit) (s.terrace (terraceOf w.unit)).vid then (s.core w.unit).divSet
       else d) ∧ (((s.core w.unit).clocked s.now).boundary s.now ≠ s.now → (s.core w.unit).isoff = false →
      ((s1.core w.unit).clocked s.now).div = ((s.core w.unit).clocked s.now).div) ∧ s1.now = s.now ∧ s1.fleet = s.fleet := by
    unfold s1
    split
    · exact ⟨rfl, fun _ _ => rfl, rfl, rfl⟩
    · obtain ⟨hd, hc⟩ := s.setDiv_core w.unit d
      exact ⟨hd, hc, s.setDiv_now _ _⟩
  clear_value s1
  obtain ⟨hd, hc, hn, hf⟩ := h1
  have h2 : (s2.core w.unit).off = v.testBit 8 ∧ (s2.core w.unit).divSet = (s1.core w.unit).divSet ∧
      ((s2.core w.unit).clocked s.now).div = ((s1.core w.unit).clocked s.now).div ∧ s2.now = s1.now ∧ s2.fleet = s1.fleet := by
    unfold s2
    rw [State.core_modCore_self]
    exact ⟨rfl, rfl, Core.clocked_off _ _ _, rfl, rfl⟩
  clear_value s2
  obtain ⟨ho, hd2, hc2, hn2, hf2⟩ := h2
  obtain ⟨ho3, hd3, hc3, hf3⟩ := s2.wakeCore_keeps w.unit
  rw [hn2.trans hn] at hc3
  split
  · exact ⟨ho, hd2.trans hd, fun hb hi => hc2.trans (hc hb hi), hf2.trans hf⟩
  · exact ⟨ho3.trans ho, hd3.trans (hd2.trans hd), fun hb hi => hc3.trans (hc2.trans (hc hb hi)), hf3.trans (hf2.trans hf)⟩
theorem State.terrace_setTerrace (s : State) (t : Nat) (x : Terrace) : (s.setTerrace t x).terrace t = x :=
  SMap.get_put_self _ _ _ _
theorem State.stewardApply_vid {s : State} {w : StewardWrite} (h : w.kind = 1) :
    (160 < w.val.toNat % 256 → ((s.stewardApply w).terrace w.unit).vid = (s.terrace w.unit).vid) ∧
    (w.val.toNat % 256 ≤ 160 → (∀ i < 16, s.minDiv w.unit (w.val.toNat % 256) ≤ (s.core (16 * w.unit + i)).divSet) →
      ((s.stewardApply w).terrace w.unit).vid = w.val.toNat % 256) := by
  unfold State.stewardApply
  extract_lets v src vid m worse d s1 s2
  split
  · next hk => rw [h] at hk; cases hk
  swap
  · next hk => exact absurd h hk
  refine ⟨fun hv => ?_, fun hv hd => ?_⟩
  · rw [if_pos (by simp [show 160 < vid from hv])]
  · have hw : worse = false := by
      have ha : (List.range 16).any (fun i => decide ((s.core (16 * w.unit + i)).divSet < m)) = false := by
        rw [List.any_eq_false]
        exact fun i hi => by simpa using hd i (List.mem_range.1 hi)
      show (_ && _) = false
      rw [ha, Bool.and_false]
    rw [if_neg (by simp [hw, show vid ≤ 160 from hv]), State.terrace_setTerrace]
theorem State.fleet_stewardApply (s : State) (w : StewardWrite) : (s.stewardApply w).fleet = s.fleet := by
  unfold State.stewardApply
  extract_lets v src vid m worse d s1 s2
  split
  · rfl
  · split <;> rfl
  · have h1 : s1.fleet = s.fleet := by
      unfold s1
      split
      · rfl
      · exact (s.setDiv_now _ _).2
    split
    · exact h1
    · exact (s2.wakeCore_keeps w.unit).2.2.2.trans h1
/-- With one write in the steward's queue (R350). -/
theorem State.steward_one {s : State} {w : StewardWrite} (h : s.fleet.steward = [w]) :
    s.steward = if w.due ≤ s.now then ({ s with fleet := { s.fleet with steward := [] } } : State).stewardApply w else s := by
  unfold State.steward
  rw [h]
  split
  · next hd => simp [hd]
  · next hd =>
    simp only [hd, decide_false, Bool.not_false, List.filter_cons, if_true, if_false, Bool.false_eq_true, List.filter_nil, List.foldl_nil]
    rw [← h]

/-! ## Core power (R351) -/

/-- Core `k` is on, has `b` rations, and no directory event waits at it. -/
structure CoreOn (k : Nat) (b : BitVec 16) (s : State) : Prop where
  on : (s.core k).isoff = false
  bal : (s.core k).bal = b
  idle : (s.core k).dirQ = []

namespace CoreOn
variable {k : Nat} {b : BitVec 16} {s t : State}

theorem of_core (h : CoreOn k b s) (hc : t.core k = s.core k) : CoreOn k b t := ⟨hc ▸ h.on, hc ▸ h.bal, hc ▸ h.idle⟩
/-- A change that keeps every core's switch, rations and events. -/
theorem modCore (h : CoreOn k b s) (j : Nat) {g : Core → Core} (hg : ∀ c, (g c).isoff = c.isoff ∧ (g c).bal = c.bal ∧ (g c).dirQ = c.dirQ) :
    CoreOn k b (s.modCore j g) := by
  by_cases hj : k = j
  · subst hj
    obtain ⟨h1, h2, h3⟩ := hg (s.core k)
    refine ⟨?_, ?_, ?_⟩ <;> rw [State.core_modCore_self]
    · exact h1.trans h.on
    · exact h2.trans h.bal
    · exact h3.trans h.idle
  · exact h.of_core (State.core_modCore_ne _ _ hj)
theorem mapCores (h : CoreOn k b s) {g : Nat → Core → Core}
    (hg : ∀ j c, (g j c).isoff = c.isoff ∧ (g j c).bal = c.bal ∧ (g j c).dirQ = c.dirQ) :
    CoreOn k b { s with cores := s.cores.map g } := by
  have hc : ({ s with cores := s.cores.map g } : State).core k = ((s.cores.get? k).map (g k)).getD {} := by
    show (s.cores.map g).get {} k = _
    rw [SMap.get_eq_get?, SMap.get?_map]
  have hs : s.core k = (s.cores.get? k).getD {} := rfl
  have h1 := h.on; have h2 := h.bal; have h3 := h.idle
  rw [hs] at h1 h2 h3
  cases hx : s.cores.get? k with
  | none => rw [hx] at hc; exact h.of_core (hc.trans (by rw [hs, hx]; rfl))
  | some c =>
    rw [hx] at hc h1 h2 h3
    obtain ⟨g1, g2, g3⟩ := hg k c
    refine ⟨?_, ?_, ?_⟩ <;> rw [hc]
    · exact g1.trans h1
    · exact g2.trans h2
    · exact g3.trans h3
theorem ite {c : Prop} [Decidable c] (h1 : CoreOn k b s) (h2 : CoreOn k b t) : CoreOn k b (if c then s else t) := by
  split
  · exact h1
  · exact h2
theorem unseen (h : CoreOn k b s) (hu : ∀ {β : Type} {f : State → β}, Unseen f → f t = f s) : CoreOn k b t := by
  have hc : (t.core k).apart = (s.core k).apart := hu (Unseen.coreApart k)
  exact ⟨(congrArg Core.isoff hc).trans h.on, (congrArg Core.bal hc).trans h.bal, (congrArg Core.dirQ hc).trans h.idle⟩
theorem count (h : CoreOn k b s) (core slot src n : Nat) : CoreOn k b (s.count core slot src n) := h.of_core (State.core_count _ _ _ _ _ _)
theorem wakeCore (h : CoreOn k b s) (j : Nat) : CoreOn k b (s.wakeCore j) := by
  unfold State.wakeCore
  refine ite (h.modCore j ?_) h
  exact fun _ => ⟨rfl, rfl, rfl⟩
theorem wakeReeve (h : CoreOn k b s) (j : Nat) : CoreOn k b (s.wakeReeve j) := by
  unfold State.wakeReeve
  exact ite (h.of_core rfl) h

/-! ### The slice serves what has waited (R36, R37) -/

theorem invalidate (h : CoreOn k b s) (e : DirEntry) (keep : Option Nat) : CoreOn k b (s.invalidate e keep) :=
  h.mapCores fun j c => by split <;> exact ⟨rfl, rfl, rfl⟩
theorem putDir (h : CoreOn k b s) (home : Nat) (e : DirEntry) : CoreOn k b (s.modCore home (fun c => c.putDir e)) :=
  h.modCore home fun _ => ⟨rfl, rfl, rfl⟩
theorem dirRoom (h : CoreOn k b s) (home line : Nat) : CoreOn k b (s.dirRoom home line) := by
  unfold State.dirRoom
  extract_lets c
  split
  · exact h
  · split
    · exact h
    · next e _ =>
      have hf : CoreOn k b s.freshCtr := h.of_core rfl
      refine (hf.invalidate e none).modCore home ?_
      exact fun _ => ⟨rfl, rfl, rfl⟩
theorem dirReady (h : CoreOn k b s) (pa : Nat) : CoreOn k b (s.dirReady pa) :=
  dirRoom (h.unseen fun hu => hu.mergeWhere s _) _ _
theorem fillSector (h : CoreOn k b s) (core pa : Nat) (st : L1St) : CoreOn k b (s.fillSector core pa st) := by
  unfold State.fillSector
  extract_lets s1 old hi s2
  have h1 : CoreOn k b s1 := h.unseen fun hu => hu.l1Room s _ _
  have h2 : CoreOn k b s2 := by
    refine h1.modCore core ?_
    exact fun _ => ⟨rfl, rfl, rfl⟩
  clear_value s2
  cases (if hi then old.hi else old.lo) with
  | true => exact h2
  | false => exact h2.count _ _ _ _
theorem serveRead (h : CoreOn k b s) (e : DirEntry) (core pa : Nat) : CoreOn k b (s.serveRead e core pa) := by
  unfold State.serveRead
  extract_lets alone s1 modified
  have h1 : CoreOn k b s1 := by
    refine ite h (h.mapCores fun j c => ?_)
    split <;> exact ⟨rfl, rfl, rfl⟩
  exact h1.fillSector _ _ _
theorem serveWrite (h : CoreOn k b s) (home core pa : Nat) : CoreOn k b (s.serveWrite home core pa) := by
  unfold State.serveWrite
  extract_lets line s1
  have h1 : CoreOn k b s1 := by
    unfold s1
    split
    · exact h.invalidate _ _
    · exact h
  exact (h1.putDir home _).fillSector _ _ _
theorem dirNew (h : CoreOn k b s) (home core pa : Nat) : CoreOn k b (s.dirNew home core pa) :=
  (h.putDir home _).serveRead _ _ _
theorem reeveServe (h : CoreOn k b s) (home core pa : Nat) : CoreOn k b (s.reeveServe home core pa) := by
  unfold State.reeveServe
  split
  · exact h.dirNew _ _ _
  · exact (h.putDir home _).serveRead _ _ _
/-- An event waits only at a core that is off. -/
theorem dirRead (h : CoreOn k b s) (home : Nat) (e : DirEntry) (core pa : Nat) : CoreOn k b (s.dirRead home e core pa) := by
  unfold State.dirRead
  extract_lets e' s1
  have h1 : CoreOn k b s1 := (h.count _ _ _ _).wakeReeve _
  clear_value s1
  refine ite (h.serveRead _ _ _) (ite ((h.putDir home _).serveRead _ _ _) ?_)
  split
  · next hoff =>
    have hk : k ≠ home := fun e => by rw [← e, h1.on] at hoff; cases hoff
    exact (h1.of_core (State.core_modCore_ne _ _ hk)).wakeCore home
  · exact h1.reeveServe _ _ _
theorem dirServe (h : CoreOn k b s) (pa core : Nat) (w : Bool) : CoreOn k b (s.dirServe pa core w) := by
  unfold State.dirServe
  extract_lets home s1
  have h1 : CoreOn k b s1 := h.dirReady pa
  clear_value s1
  refine ite (h1.serveWrite _ _ _) ?_
  split
  · exact h1.dirRead _ _ _ _
  · exact h1.dirNew _ _ _

/-! ### Waiting messages start (R246) -/

theorem startTask (h : CoreOn k b s) (tid : Nat) (m : Msg) : CoreOn k b (s.startTask tid m) := h.of_core (State.core_startTask _ _ _ _)
theorem takeFirst (h : CoreOn k b s) (core ch : Nat) : CoreOn k b (s.modCore core (fun c => c.takeFirst ch)) :=
  h.modCore core fun c => by
    unfold Core.takeFirst
    split <;> exact ⟨rfl, rfl, rfl⟩
theorem fillSlots (fuel core : Nat) (h : CoreOn k b s) : CoreOn k b (fillSlots fuel core s) := by
  induction fuel generalizing s with
  | zero => exact h
  | succ fuel ih =>
    unfold Machine.fillSlots
    split
    · split
      · exact h
      · exact ih ((h.takeFirst _ _).startTask _ _)
    · exact h
end CoreOn

/-- A core comes on with FILL in its store and its directory events handled (R351). -/
theorem State.powerOn_on {s : State} {k : Nat} (h : (s.core k).isoff = true) : CoreOn k (s.core k).fill (s.powerOn k) := by
  unfold State.powerOn
  rw [if_neg (by simp [h])]
  extract_lets s1
  have h1 : (s1.core k).isoff = false ∧ (s1.core k).bal = (s.core k).fill := by
    unfold s1
    rw [State.core_modCore_self, State.settle, State.core_modCore_self]
    exact ⟨rfl, rfl⟩
  clear_value s1
  unfold State.reeveAll
  extract_lets c s2 s3
  have h2 : CoreOn k (s.core k).fill s2 := by
    unfold s2
    refine ⟨?_, ?_, ?_⟩ <;> rw [State.core_modCore_self]
    · exact h1.1
    · exact h1.2
  clear_value s2
  have h3 : CoreOn k (s.core k).fill s3 :=
    foldl_holds (P := CoreOn k (s.core k).fill) (fun _ _ h => (h.dirReady _).reeveServe _ _ _) _ s2 h2
  clear_value s3
  exact .fillSlots _ _ (foldl_holds (P := CoreOn k (s.core k).fill) (fun _ _ h => h.dirServe _ _ _) _ s3 h3)

/-- Settles O51: the end of a context ends it and no other and frees its slots; a restarted reeve is Free; a new divisor
waits for the boundary; a core that comes on has handled what waited. -/
theorem powerAndErrors : Obligations.PowerAndErrors := by
  refine ⟨fun s => s.killFrom_kills 0, fun s p tm h => ⟨fun hlt => ?_, fun hle => ?_, fun hle => ?_⟩,
    fun s x c k pc val r hr he => ?_, fun s c cause pc val => ?_, fun s w h => ?_, fun s c => ?_⟩
  · show execPowerRemeasure true s = _
    rw [execPowerRemeasure, h]
    simp only [hlt, if_true]
  · have hx : exec (.powerRemeasure true) s = .next (s.killFrom p) := by
      show execPowerRemeasure true s = _
      rw [execPowerRemeasure, h]
      simp only [Nat.not_lt.2 hle, if_false, if_true]
    rw [hx]
    exact s.killFrom_kills p
  · show execPowerRemeasure false s = _
    rw [execPowerRemeasure, h]
    simp only [Nat.not_lt.2 hle, if_false, Bool.false_eq_true]
  · obtain ⟨hras, hev, hctx, hthr⟩ := s.uncorrected_keeps
    have hs := Lasts.spoilSave s.uncorrected x
    have hr' : (s.uncorrected.spoilSave x).ctx? x = some r := by rw [State.ctx?, hs.ctxs, hctx]; exact hr
    have hend := State.endContext_live hr' he 0x0D
      (tcauseIN ((s.uncorrected.spoilSave x).thread (tidOf c k)).tcause) (whereOf (tidOf c k)) pc val none
    have hfl := hend.bides.fleet.trans hs.fleet
    refine ⟨_, r.atEnd 0x0D, rfl, ?_, rfl, ?_, ?_, fun n h8 hn hfree => ?_⟩
    · rw [State.ctx?, hend.ctxs, SMap.get?_put_self]
    · exact (congrArg Fleet.rasunc hfl).trans hras
    · have hev' := (congrArg Fleet.ev hfl).trans hev
      show BitVec.getLsbD _ 8 = true
      rw [hev', BitVec.getLsbD_or]
      simp
    · have hn' : (s.uncorrected.thread n).ctx = x := by rw [State.thread, hthr]; exact hn
      rcases hs.slot n with ⟨_, hc⟩ | hf
      · exact hend.free n h8 (hc.trans hn')
      · exact hend.bides.free hf
  · extract_lets recent
    refine ⟨_, rfl, ?_⟩
    rw [State.systemTrap_eq s c cause.toNat pc val]
    obtain ⟨hx, hf, ht⟩ := s.reeveRestarted_keeps c cause.toNat pc val recent
    by_cases h4 : recent.length < 4
    · rw [if_pos h4]
      exact ⟨hf, ht, fun _ => hx, fun h => absurd h4 (Nat.not_lt.2 h)⟩
    · rw [if_neg h4]
      obtain ⟨hf', ht', hready, hend⟩ := State.fourthTrap (s := s) (core := c) (cause := cause.toNat) (pc := pc) (val := val)
        (recent := recent) (whereOf (tidOf c 4) % 2 ^ 19)
      exact ⟨hf', ht', fun h => absurd h h4, fun _ => ⟨hready, fun n y k r hy hn hk hr =>
        hend k (State.mem_terraceCtxs hy hn hk) r hr⟩⟩
  · refine ⟨fun hlt => ?_, fun hle => ⟨s.steward, rfl, ?_⟩⟩
    · show Host.Outcome.next s.steward = _
      rw [State.steward_one h, if_neg (Nat.not_le.2 hlt)]
    · rw [State.steward_one h, if_pos hle]
      let u : State := { s with fleet := { s.fleet with steward := [] } }
      refine ⟨by rw [State.fleet_stewardApply], fun hk => ?_, fun hk hv => ?_, fun hk hv hd => ?_, fun hk => ?_⟩
      · rw [State.stewardApply, hk]
        exact congrArg Terrace.droop (State.terrace_setTerrace u _ _)
      · exact (State.stewardApply_vid (s := u) hk).1 hv
      · exact (State.stewardApply_vid (s := u) hk).2 hv hd
      · obtain ⟨h1, h2, h3, _⟩ := State.stewardApply_core (s := u) hk
        exact ⟨h1, h2, h3⟩
  · refine ⟨fun h => ⟨_, rfl, ?_⟩, fun h => ?_, fun h => ?_, fun h => ⟨_, rfl, ?_⟩⟩
    · rw [if_pos h, State.core_modCore_self]
      exact ⟨rfl, rfl, rfl⟩
    · show Host.Outcome.next _ = _
      rw [if_neg (by rw [h]; exact Bool.false_ne_true)]
    · show Host.Outcome.next (s.powerOn c) = _
      rw [State.powerOn, if_pos (by rw [h]; rfl)]
    · obtain ⟨h1, h2, h3⟩ := State.powerOn_on h
      exact ⟨h1, h2, h3⟩

end Sys2Proof.Machine
end

section
/-!
# A tile store of more than 1,024 values

`MillJobs` says of every state what a retired `stacc` leaves in memory, also of one whose job holds more values than a
tile has: its bytes then reach the core's spill queues, which are written to memory before them (R33).
-/
open Sys2Proof
namespace Sys2Proof.Machine

/-! ## A write that reaches a spill queue -/

/-- Where no Update-only copy is in the way, a write that touches a core's spill queues finds them in memory. -/
theorem State.mem_poke_spill {s : State} {loc k : Nat} {data : List Byte} (hq : spillCore loc data.length = some k) :
    (s.poke loc data).mem = writeBytes (s.spillOut k).mem loc data := by
  rw [State.poke, hq]
  rfl
theorem State.mem_portWrite_spill {s : State} {loc k : Nat} {data : List Byte} (hu : s.upd = []) (he : s.fleet.echo = {})
    (hq : spillCore loc data.length = some k) (src kind : Nat) (tag : BitVec 16) (dev : Nat) :
    (s.portWrite src kind tag dev loc data).mem = writeBytes ((s.spillOut k).spillOut k).mem loc data := by
  have hr : s.recall loc data.length = s.spillOut k := by
    rw [State.recall, State.mergeAt, State.mergeWhere_of_no_upd hu, State.spillSync, hq]
  have hf : ((s.spillOut k).poke loc data).fleet.echo = {} := by
    rw [State.poke, hq]
    exact he
  rw [State.portWrite, hr, State.echo_of_none hf, State.mem_poke_spill hq]
/-- The spill queues of a core, written out. -/
def queuesOut (k : Nat) (q : SMap (List Msg)) (m : List Host.Cell) : List Host.Cell :=
  (q.cells.filter (fun q => decide (q.1 < 16))).foldl (fun m q =>
    (q.2.take 16).zipIdx.foldl (fun m e => putMsg m (spillLoc k q.1 e.2) e.1) m) m
theorem queuesOut_one (k : Nat) (x : Msg) (m : List Host.Cell) : queuesOut k ⟨[(0, [x])]⟩ m = putMsg m (spillLoc k 0 0) x := by
  simp [queuesOut]
theorem State.core_spillOut (s : State) (k j : Nat) : (s.spillOut k).core j = s.core j := rfl
theorem State.mem_spillOut_noDir {s : State} {k : Nat} (h : (s.core k).dir = []) :
    (s.spillOut k).mem = queuesOut k (s.core k).spill s.mem := by
  have hm : (s.reserveOut k).mem = s.mem := by rw [State.reserveOut, h]; rfl
  show queuesOut k (s.core k).spill (s.reserveOut k).mem = _
  rw [hm]
theorem length_flatMap_leBytes (n : Nat) (l : List (BitVec 32)) : (l.flatMap (fun x => leBytes n x.toNat)).length = n * l.length := by
  induction l with
  | nil => rfl
  | cons x l ih => rw [List.flatMap_cons, List.length_append, ih, length_leBytes, List.length_cons]; ring
/-- A job's status and counter take no byte of memory. -/
theorem State.mem_modJob (s : State) (tid act id : Nat) (f : JobMem → JobMem) : (s.modJob tid act id f).mem = s.mem := by
  unfold State.modJob
  extract_lets t
  split <;> rfl
theorem State.mem_jobDone (s : State) (tid act k status : Nat) : (s.jobDone tid act k status).mem = s.mem := by
  unfold State.jobDone
  extract_lets t s1
  have h1 : s1.mem = s.mem := by
    unfold s1
    split
    · rfl
    · exact count_mem _ _ _ _ _
  split <;> exact h1
theorem State.mem_millRetire (s : State) (j : MillJob) (status : Nat) : (s.millRetire j status).mem = s.mem := by
  rw [State.millRetire, State.mem_jobDone, State.mem_modJob]
theorem State.mem_millIdle (s : State) (tid : Nat) : (s.millIdle tid).mem = s.mem := by
  unfold State.millIdle
  extract_lets t
  split <;> rfl

/-- A job that has run its blocks without a status retires with its writes (R168). -/
theorem execMillJobComplete_ok {s : State} {c : Nat} {j : MillJob} (hr : s.croftStopped (croftOf c) = false)
    (hj : (s.core c).millCur = some j) (hd : j.dead = false) (hn : j.need ≤ j.blocks) (hs : j.status = 0) :
    execMillJobComplete c s = .next (((((s.modCore c (fun k => { k with millCur := none })).millVisit (croftOf c)).millWrite j).millRetire
      j 0).millIdle j.tid) := by
  rw [execMillJobComplete, hr, if_neg Bool.false_ne_true, hj]
  simp only [hd, Bool.not_false, Bool.true_and, decide_eq_true_eq, Nat.not_lt.2 hn, if_false, Bool.false_eq_true, hs, bne_self_eq_false]

/-! ## The counterexample -/

/-- A `stacc` at the last 4,096 bytes of core 0's data area, with one value more than a tile holds; its block has run. -/
def overlongJob : MillJob :=
  { id := 1, tid := 0, act := 0, ctx := 0, op := .stacc, tile := 0, k := 0, a := 0xFFFFFFFFC0000 + 0x2F000, b := 0, mfmt := 0,
    mkReg := 0, pitchA := 0, pitchB := 0, sca := 0, scb := 0, scn := 0, after := 0, blocks := 1, work := List.replicate 1025 0 }
/-- A message to core 0 on channel 0, of the payload 1. -/
def waitingMsg : Msg := { src := 0, pair := 0, ctx := 0, dest := 0, chan := 0, cls := 0, pay := [1], no := 0 }
/-- An entry that holds the message has its payload from byte 32 on (R247). -/
theorem readByte_waitingMsg (m : List Host.Cell) (a : Nat) : readByte (putMsg m a waitingMsg) (a + 32) = 1 := by
  have hf : msgFields waitingMsg = (msgFields waitingMsg).dropLast ++ [(32, 0, 64, 1)] := by decide
  unfold putMsg
  rw [hf, List.foldl_append, List.foldl_cons, List.foldl_nil]
  generalize (msgFields waitingMsg).dropLast.foldl _ m = m'
  unfold putBits
  extract_lets d
  rw [← Nat.add_zero (a + 32), readByte_writeBytes_in _ _ _ 0 (by rw [length_leBytes]; decide)]
  have hd : d / 2 ^ (0 + 64) * 2 ^ (0 + 64) + 1 % 2 ^ 64 * 2 ^ 0 + d % 2 ^ 0 = 256 * (d / 2 ^ 64 * 2 ^ 56) + 1 := by omega
  show BitVec.ofNat 8 (d / 2 ^ (0 + 64) * 2 ^ (0 + 64) + 1 % 2 ^ 64 * 2 ^ 0 + d % 2 ^ 0) = 1
  rw [hd]
  apply BitVec.eq_of_toNat_eq
  rw [BitVec.toNat_ofNat]
  show (256 * (d / 2 ^ 64 * 2 ^ 56) + 1) % 256 = 1
  omega
/-- Core 0 runs the job while the message waits in its spill queue. -/
def overlongState : State :=
  { State.reset with
    cores := ⟨[(0, {
      millCur := some overlongJob
      spill := ⟨[(0, [waitingMsg])]⟩ })]⟩ }
/-- The state in which the job's bytes are written. -/
def overlongServed : State := (overlongState.modCore 0 (fun c => { c with millCur := none })).millVisit 0
theorem overlongServed_plain : overlongServed.upd = [] ∧ overlongServed.stores = [] ∧ overlongServed.fleet.echo = {} := ⟨rfl, rfl, rfl⟩
/-- The payload of the waiting message stands in memory once the queues have been written out. -/
theorem overlongServed_spilled :
    readByte ((overlongServed.spillOut 0).spillOut 0).mem (spillLoc 0 0 0 + 32) = 1 := by
  have hc : overlongServed.core 0 = { spill := ⟨[(0, [waitingMsg])]⟩ } := rfl
  have h := State.mem_spillOut_noDir (s := overlongServed.spillOut 0) (k := 0) (by rw [State.core_spillOut, hc])
  rw [h, State.core_spillOut, hc, queuesOut_one]
  exact readByte_waitingMsg (overlongServed.spillOut 0).mem (spillLoc 0 0 0)
theorem overlong_place : millPlace 0 overlongJob.a 4096 = .at (spadBase + 0x2F000) := by decide
theorem exec_overlong : exec (.millJobComplete 0) overlongState =
    .next (((overlongServed.millWrite overlongJob).millRetire overlongJob 0).millIdle 0) :=
  execMillJobComplete_ok (s := overlongState) (c := 0) rfl rfl rfl (by decide) rfl
/-- After the store the message's entry stands in memory, past the job's own bytes. -/
theorem overlong_spills :
    readByte (((overlongServed.millWrite overlongJob).millRetire overlongJob 0).millIdle 0).mem (spillLoc 0 0 0 + 32) = 1 := by
  obtain ⟨hu, hs, he⟩ := overlongServed_plain
  have hlen : (overlongJob.work.flatMap (fun x => leBytes 4 x.toNat)).length = 4100 := by
    rw [length_flatMap_leBytes, overlongJob, List.length_replicate]
  have hw : overlongServed.millWrite overlongJob = overlongServed.portWrite 0 0 0 overlongServed.fleet.devId (spadBase + 0x2F000)
      (overlongJob.work.flatMap (fun x => leBytes 4 x.toNat)) := by
    have hp : millPlace (coreOf overlongJob.tid) overlongJob.a 4096 = .at (spadBase + 0x2F000) := overlong_place
    unfold State.millWrite
    rw [hp]
    show overlongServed.partyWrite _ _ _ _ _ _ = _
    rw [State.partyWrite, State.observe_of_no_store hs]
    rfl
  rw [State.mem_millIdle, State.mem_millRetire, hw,
    State.mem_portWrite_spill hu he (k := 0) (by rw [hlen]; decide), readByte_writeBytes_out _ _ _ _ (by rw [hlen]; decide)]
  exact overlongServed_spilled

/-- Refutes O47: the clause on a stored tile quantifies over jobs of any length, and a `stacc` of 1,025 values at the end
of the data area has core 0's spill queue written to memory, which the clause denies. No job a thread issues is so long. -/
theorem not_millJobs : ¬ Obligations.MillJobs := by
  intro h
  obtain ⟨t, ht, -, -, hok, -⟩ := h.2.2 overlongState 0 overlongJob rfl rfl rfl (by decide) rfl rfl
  obtain ⟨-, -, hst⟩ := hok rfl
  obtain ⟨-, hmem⟩ := hst (spadBase + 0x2F000) rfl rfl rfl rfl overlong_place
  have htt : ((overlongServed.millWrite overlongJob).millRetire overlongJob 0).millIdle 0 = t :=
    Host.Outcome.next.inj (exec_overlong.symm.trans ht)
  have hbyte := overlong_spills
  rw [htt, hmem, readByte_writeBytes_out _ _ _ _ (by
    rw [length_flatMap_leBytes, overlongJob, List.length_replicate]; decide)] at hbyte
  exact absurd hbyte (by decide)

end Sys2Proof.Machine
end

section
/-! # From an instruction to its word and back -/
namespace Sys2Proof

/-! ## Words of each format -/

/-- The group of format A, V or E under a major opcode (R45), as a function of the register fields and FN. -/
def groupA : Nat → SReg → SReg → SReg → Nat → Option Instr
  | 0x01 => decodeInt
  | 0x0A => decodeAmo
  | 0x0B => decodeFence
  | 0x0C => decodeFps
  | 0x0E => decodeSys
  | 0x10 => decodeTask
  | 0x11 => decodeKin
  | 0x13 => decodePort
  | 0x14 => decodeRemote
  | 0x15 => fun d a b fn => req (decide (fn < 16)) (.rmcast (bitB (fn / 8)) (Fin.ofNat 8 fn) d a b)
  | 0x16 => decodeToken
  | 0x17 => decodeLight
  | 0x18 => decodeWeave
  | 0x19 => decodeMill
  | 0x1A => decodeCart
  | maj => decodeV maj
/-- The group of format I under a major opcode, as a function of the register fields, FN and the immediate. -/
def groupI : Nat → SReg → SReg → Nat → Nat → Option Instr
  | 0x02 => decodeInti
  | 0x06 => fun d a fn imm => req (fn == 0) (.jalr d a (BitVec.ofNat 12 imm))
  | 0x08 => fun d a fn imm => (loadOps[fn]?).map (fun f => f d a (BitVec.ofNat 12 imm))
  | 0x0D => decodeCreg
  | 0x0F => decodeBitf
  | _ => fun _ _ _ _ => none
/-- The group of format S under a major opcode, as a function of the register fields, FN and the immediate. -/
def groupS : Nat → SReg → SReg → Nat → BitVec 12 → Option Instr
  | 0x07 => fun a b fn i => (branchOps[fn]?).map (fun f => f a b i)
  | 0x09 => fun a b fn i => (storeOps[fn]?).map (fun f => f a b i)
  | _ => fun _ _ _ _ => none
/-- The instruction of format U under a major opcode. -/
def groupU : Nat → SReg → BitVec 20 → Option Instr
  | 0x03 => fun d i => some (.lui d i)
  | 0x04 => fun d i => some (.auipc d i)
  | 0x05 => fun d i => some (.jal d i)
  | _ => fun _ _ => none
/-- The group of format V under a major opcode, as a function of its five fields and FN. -/
def groupV : Nat → Ty → MReg → SReg → SReg → SReg → Nat → Option Instr
  | 0x12 => fun t m d a b f => (narrow 4 d.val).bind (fun md => req (f == 0) (.ksend t m md a b))
  | 0x1C => decodeVmem
  | 0x1D => decodeVarith
  | 0x1E => fun t m d a b f => if b = 0 then (vspecOps[f]?).map (fun g => g t m d a) else none
  | 0x1F => decodeVperm
  | 0x20 => decodeVmask
  | 0x21 => decodeVconv
  | 0x22 => decodeVweave
  | _ => fun _ _ _ _ _ _ => none
/-- The major opcodes of formats A, E and V (R44, R45): a word of E or V is one of A read with other fields. -/
def majorsA : List Nat :=
  [0x01, 0x0A, 0x0B, 0x0C, 0x0E, 0x10, 0x11, 0x12, 0x13, 0x14, 0x15, 0x16, 0x17, 0x18, 0x19, 0x1A, 0x1C, 0x1D, 0x1E, 0x1F,
   0x20, 0x21, 0x22]
/-- The major opcodes of format I. -/
def majorsI : List Nat := [0x02, 0x06, 0x08, 0x0D, 0x0F]
/-- The major opcodes of format S. -/
def majorsS : List Nat := [0x07, 0x09]
/-- The major opcodes of format U. -/
def majorsU : List Nat := [0x03, 0x04, 0x05]
/-- The major opcodes of format V. -/
def majorsV : List Nat := [0x12, 0x1C, 0x1D, 0x1E, 0x1F, 0x20, 0x21, 0x22]

theorem decodeRaw32_groupA {maj w : Nat} (hm : maj ∈ majorsA) (hw : w / 2 % 64 = maj) :
    decodeRaw32 w = groupA maj (Fin.ofNat 32 (w / 2 ^ 7)) (Fin.ofNat 32 (w / 2 ^ 12)) (Fin.ofNat 32 (w / 2 ^ 17)) (w / 2 ^ 22 % 2 ^ 10) := by
  unfold decodeRaw32
  rw [hw]
  fin_cases hm <;> rfl
theorem decodeRaw32_groupI {maj w : Nat} (hm : maj ∈ majorsI) (hw : w / 2 % 64 = maj) :
    decodeRaw32 w = groupI maj (Fin.ofNat 32 (w / 2 ^ 7)) (Fin.ofNat 32 (w / 2 ^ 12)) (w / 2 ^ 17 % 8) (w / 2 ^ 20 % 2 ^ 12) := by
  unfold decodeRaw32
  rw [hw]
  fin_cases hm <;> rfl
theorem decodeRaw32_groupS {maj w : Nat} (hm : maj ∈ majorsS) (hw : w / 2 % 64 = maj) :
    decodeRaw32 w = groupS maj (Fin.ofNat 32 (w / 2 ^ 12)) (Fin.ofNat 32 (w / 2 ^ 17)) (w / 2 ^ 22 % 8)
      (BitVec.ofNat 12 (w / 2 ^ 7 % 32 + 32 * (w / 2 ^ 25))) := by
  unfold decodeRaw32
  rw [hw]
  fin_cases hm <;> rfl
theorem decodeRaw32_groupU {maj w : Nat} (hm : maj ∈ majorsU) (hw : w / 2 % 64 = maj) :
    decodeRaw32 w = groupU maj (Fin.ofNat 32 (w / 2 ^ 7)) (BitVec.ofNat 20 (w / 2 ^ 12)) := by
  unfold decodeRaw32
  rw [hw]
  fin_cases hm <;> rfl
theorem Ty.all_code (t : Ty) : Ty.all[t.code]? = some t := by cases t <;> rfl
theorem Ty.code_lt (t : Ty) : t.code < 8 := by cases t <;> decide
theorem groupA_encV {maj f : Nat} (hm : maj ∈ majorsV) (hf : f < 32) (t : Ty) (m : MReg) (d a b : SReg) :
    groupA maj d a b (f + 32 * t.code + 256 * m.val) = groupV maj t m d a b f := by
  have hc := Ty.code_lt t
  have e1 : (f + 32 * t.code + 256 * m.val) / 32 % 8 = t.code := by omega
  have e2 : Fin.ofNat 4 ((f + 32 * t.code + 256 * m.val) / 256) = m := by ext; simp; omega
  have e3 : (f + 32 * t.code + 256 * m.val) % 32 = f := by omega
  have hv : groupA maj = decodeV maj := by fin_cases hm <;> rfl
  rw [hv]
  unfold decodeV
  rw [e1, e2, e3, Ty.all_code]
  fin_cases hm <;> rfl

theorem decodeRaw32_encA {maj fn : Nat} (hm : maj ∈ majorsA) (hf : fn < 1024) (d a b : SReg) :
    decodeRaw32 (encA maj d a b fn) = groupA maj d a b fn := by
  have h64 : maj < 64 := (by decide : ∀ m ∈ majorsA, m < 64) maj hm
  have hmaj : encA maj d a b fn / 2 % 64 = maj := by unfold encA; omega
  have hd : Fin.ofNat 32 (encA maj d a b fn / 2 ^ 7) = d := by ext; simp [encA]; omega
  have ha : Fin.ofNat 32 (encA maj d a b fn / 2 ^ 12) = a := by ext; simp [encA]; omega
  have hb : Fin.ofNat 32 (encA maj d a b fn / 2 ^ 17) = b := by ext; simp [encA]; omega
  have hfn : encA maj d a b fn / 2 ^ 22 % 2 ^ 10 = fn := by unfold encA; omega
  rw [decodeRaw32_groupA hm hmaj, hd, ha, hb, hfn]
theorem decodeRaw32_encI {maj fn imm : Nat} (hm : maj ∈ majorsI) (hf : fn < 8) (hi : imm < 4096) (d a : SReg) :
    decodeRaw32 (encI maj d a fn imm) = groupI maj d a fn imm := by
  have h64 : maj < 64 := (by decide : ∀ m ∈ majorsI, m < 64) maj hm
  have hmaj : encI maj d a fn imm / 2 % 64 = maj := by unfold encI; omega
  have hd : Fin.ofNat 32 (encI maj d a fn imm / 2 ^ 7) = d := by ext; simp [encI]; omega
  have ha : Fin.ofNat 32 (encI maj d a fn imm / 2 ^ 12) = a := by ext; simp [encI]; omega
  have hfn : encI maj d a fn imm / 2 ^ 17 % 8 = fn := by unfold encI; omega
  have himm : encI maj d a fn imm / 2 ^ 20 % 2 ^ 12 = imm := by unfold encI; omega
  rw [decodeRaw32_groupI hm hmaj, hd, ha, hfn, himm]
theorem decodeRaw32_encS {maj fn : Nat} (hm : maj ∈ majorsS) (hf : fn < 8) (a b : SReg) (i : BitVec 12) :
    decodeRaw32 (encS maj a b fn i.toNat) = groupS maj a b fn i := by
  have h64 : maj < 64 := (by decide : ∀ m ∈ majorsS, m < 64) maj hm
  have hlo : i.toNat % 32 < 32 := Nat.mod_lt _ (by decide)
  have hhi : i.toNat / 32 < 128 := Nat.div_lt_of_lt_mul i.isLt
  have hmaj : encS maj a b fn i.toNat / 2 % 64 = maj := by unfold encS; omega
  have ha : Fin.ofNat 32 (encS maj a b fn i.toNat / 2 ^ 12) = a := by ext; simp [encS]; omega
  have hb : Fin.ofNat 32 (encS maj a b fn i.toNat / 2 ^ 17) = b := by ext; simp [encS]; omega
  have hfn : encS maj a b fn i.toNat / 2 ^ 22 % 8 = fn := by
    unfold encS; generalize i.toNat % 32 = lo at *; generalize i.toNat / 32 = hi at *; omega
  have himm : encS maj a b fn i.toNat / 2 ^ 7 % 32 + 32 * (encS maj a b fn i.toNat / 2 ^ 25) = i.toNat := by unfold encS; omega
  rw [decodeRaw32_groupS hm hmaj, ha, hb, hfn, himm, BitVec.ofNat_toNat, BitVec.setWidth_eq]
theorem decodeRaw32_encU {maj : Nat} (hm : maj ∈ majorsU) (d : SReg) (i : BitVec 20) :
    decodeRaw32 (encU maj d i.toNat) = groupU maj d i := by
  have h64 : maj < 64 := (by decide : ∀ m ∈ majorsU, m < 64) maj hm
  have h20 : i.toNat < 2 ^ 20 := i.isLt
  have hmaj : encU maj d i.toNat / 2 % 64 = maj := by unfold encU; omega
  have hd : Fin.ofNat 32 (encU maj d i.toNat / 2 ^ 7) = d := by ext; simp [encU]; omega
  have himm : encU maj d i.toNat / 2 ^ 12 = i.toNat := by unfold encU; omega
  rw [decodeRaw32_groupU hm hmaj, hd, himm, BitVec.ofNat_toNat, BitVec.setWidth_eq]

/-! ## What an instruction's word decodes to -/

/-- The word of an instruction, if it has one, decodes to it before the field checks, and fits its form. -/
def RoundTrip (i : Instr) : Prop :=
  ∀ w, encode i = some w →
    (w % 2 = 1 ∧ w < 2 ^ 32 ∧ decodeRaw32 w = some i) ∨ (w % 2 = 0 ∧ w < 2 ^ 16 ∧ decodeRaw16 w = some i)

theorem RoundTrip.none {i : Instr} (he : encode i = none) : RoundTrip i := fun w hw => by rw [he] at hw; cases hw
theorem RoundTrip.word {i : Instr} {w : Nat} (he : encode i = some w) (hodd : w % 2 = 1) (hw : w < 2 ^ 32)
    (h : decodeRaw32 w = some i) : RoundTrip i := by
  intro w' hw'
  cases he.symm.trans hw'
  exact .inl ⟨hodd, hw, h⟩
theorem RoundTrip.half {i : Instr} {w : Nat} (he : encode i = some w) (heven : w % 2 = 0) (hw : w < 2 ^ 16)
    (h : decodeRaw16 w = some i) : RoundTrip i := by
  intro w' hw'
  cases he.symm.trans hw'
  exact .inr ⟨heven, hw, h⟩
theorem RoundTrip.formA {i : Instr} {maj fn : Nat} {d a b : SReg} (he : encode i = some (encA maj d a b fn))
    (h : groupA maj d a b fn = some i) (hf : fn < 1024 := by decide) (hm : maj ∈ majorsA := by decide) : RoundTrip i := by
  have h64 : maj < 64 := (by decide : ∀ m ∈ majorsA, m < 64) maj hm
  refine .word he ?_ ?_ ((decodeRaw32_encA hm hf d a b).trans h) <;> unfold encA <;> omega
theorem RoundTrip.formV {i : Instr} {maj f : Nat} {t : Ty} {m : MReg} {d a b : SReg} (he : encode i = some (encV maj t m d a b f))
    (h : groupV maj t m d a b f = some i) (hf : f < 32 := by decide) (hm : maj ∈ majorsV := by decide) : RoundTrip i := by
  have hA : maj ∈ majorsA := (by decide : ∀ m ∈ majorsV, m ∈ majorsA) maj hm
  have hc := Ty.code_lt t
  exact .formA he ((groupA_encV hm hf t m d a b).trans h) (by omega) hA
theorem RoundTrip.formE {i : Instr} {maj fn at3 : Nat} {k : KReg} {d a b : SReg} (he : encode i = some (encE maj d a b fn at3 k))
    (h : groupA maj d a b (k.val + 16 * at3 + 128 * fn) = some i) (ht : at3 < 8 := by decide) (hf : fn < 8 := by decide)
    (hm : maj ∈ majorsA := by decide) : RoundTrip i :=
  .formA he h (by omega) hm
theorem RoundTrip.formI {i : Instr} {maj fn imm : Nat} {d a : SReg} (he : encode i = some (encI maj d a fn imm))
    (hi : imm < 4096) (h : groupI maj d a fn imm = some i) (hf : fn < 8 := by decide) (hm : maj ∈ majorsI := by decide) : RoundTrip i := by
  have h64 : maj < 64 := (by decide : ∀ m ∈ majorsI, m < 64) maj hm
  refine .word he ?_ ?_ ((decodeRaw32_encI hm hf hi d a).trans h) <;> unfold encI <;> omega
/-- An instruction that holds the whole immediate of format I. -/
theorem RoundTrip.formI12 {f : BitVec 12 → Instr} {maj fn : Nat} {d a : SReg} {i : BitVec 12}
    (he : encode (f i) = some (encI maj d a fn i.toNat)) (h : ∀ imm, groupI maj d a fn imm = some (f (BitVec.ofNat 12 imm)))
    (hf : fn < 8 := by decide) (hm : maj ∈ majorsI := by decide) : RoundTrip (f i) :=
  .formI he i.isLt (by rw [h, BitVec.ofNat_toNat, BitVec.setWidth_eq]) hf hm
theorem RoundTrip.formS {i : Instr} {maj fn : Nat} {a b : SReg} {imm : BitVec 12} (he : encode i = some (encS maj a b fn imm.toNat))
    (h : groupS maj a b fn imm = some i) (hf : fn < 8 := by decide) (hm : maj ∈ majorsS := by decide) : RoundTrip i := by
  have h64 : maj < 64 := (by decide : ∀ m ∈ majorsS, m < 64) maj hm
  have h12 : imm.toNat < 2 ^ 12 := imm.isLt
  refine .word he ?_ ?_ ((decodeRaw32_encS hm hf a b imm).trans h) <;> unfold encS <;> omega
theorem RoundTrip.formU {i : Instr} {maj : Nat} {d : SReg} {imm : BitVec 20} (he : encode i = some (encU maj d imm.toNat))
    (h : groupU maj d imm = some i) (hm : maj ∈ majorsU := by decide) : RoundTrip i := by
  have h64 : maj < 64 := (by decide : ∀ m ∈ majorsU, m < 64) maj hm
  have h20 : imm.toNat < 2 ^ 20 := imm.isLt
  refine .word he ?_ ?_ ((decodeRaw32_encU hm d imm).trans h) <;> unfold encU <;> omega

/-! ## Codes and packed fields -/

theorem RMode.code_lt (r : RMode) : r.code < 7 := by cases r <;> decide
theorem Prec.code_lt (p : Prec) : p.code < 2 := by cases p <;> decide
theorem Order.code_lt (o : Order) : o.code < 4 := by cases o <;> decide
theorem Scope.code_lt (x : Scope) : x.code < 6 := by cases x <;> decide
theorem AmoOp.code_lt (o : AmoOp) : o.code < 11 := by cases o <;> decide
theorem Dir.code_lt (r : Dir) : r.code < 4 := by cases r <;> decide
theorem Cmp.code_lt (c : Cmp) : c.code < 7 := by cases c <;> decide
theorem bitN_lt (b : Bool) : bitN b < 2 := by cases b <;> decide
theorem Order.all_code (o : Order) : Order.all[o.code]? = some o := by cases o <;> rfl
theorem Dir.all_code (r : Dir) : Dir.all[r.code]? = some r := by cases r <;> rfl
theorem Scope.all_code (x : Scope) : Scope.all[x.code]? = some x := by cases x <;> rfl
theorem AmoOp.all_code (o : AmoOp) : AmoOp.all[o.code]? = some o := by cases o <;> rfl
/-- A bit is read from a number whose lowest bit it is. -/
theorem bitB_eq {n : Nat} {b : Bool} (h : n % 2 = bitN b) : bitB n = b := by cases b <;> simp_all [bitB, bitN]
/-- A register of a smaller class is read back from its 5-bit field. -/
theorem narrow_fld {n : Nat} (h : n ≤ 32) (x : Fin n) : narrow n (fld x).val = some x := by
  have hx : x.val % 32 = x.val := Nat.mod_eq_of_lt (by omega)
  simp [narrow, fld, hx]

theorem fpsFn_lt {op : Nat} (h : op < 32) (p : Prec) (r : RMode) : fpsFn op p r < 1024 := by
  have := r.code_lt; have := p.code_lt; unfold fpsFn; omega
theorem AmoMods.fn_lt {op : Nat} (h : op < 16) (q : AmoMods) : q.fn op < 1024 := by
  have := q.order.code_lt; have := q.scope.code_lt; have := bitN_lt q.w64; unfold AmoMods.fn; omega
theorem decodeAmo_fn {op : Nat} (h : op < 16) (q : AmoMods) (d a b : SReg) :
    decodeAmo d a b (q.fn op) =
      if op < 11 then (amoOps[op]?).map (fun f => f d a b q)
      else if d = 0 then (updOps[op - 11]?).map (fun f => f a b q) else none := by
  have := q.order.code_lt
  have := q.scope.code_lt
  have := bitN_lt q.w64
  have hsc : q.fn op / 128 = q.scope.code := by unfold AmoMods.fn; omega
  have ho : q.fn op / 32 % 4 = q.order.code := by unfold AmoMods.fn; omega
  have hw : bitB (q.fn op / 16) = q.w64 := bitB_eq (by unfold AmoMods.fn; omega)
  have hop : q.fn op % 16 = op := by unfold AmoMods.fn; omega
  unfold decodeAmo
  rw [hsc, ho, hw, hop, Scope.all_code, Order.all_code]
  rfl

/-- An immediate is read from a number whose lowest bits it is. -/
theorem ofNat_eq {n k : Nat} {x : BitVec n} (h : k % 2 ^ n = x.toNat) : BitVec.ofNat n k = x :=
  BitVec.eq_of_toNat_eq (by rw [BitVec.toNat_ofNat, h])
/-- A register is read from a number whose lowest bits it is. -/
theorem finOfNat_eq {n k : Nat} [NeZero n] {x : Fin n} (h : k % n = x.val) : Fin.ofNat n k = x := Fin.ext h

theorem decodeInt_csel (d a b c : SReg) : decodeInt d a b (27 + 32 * c.val) = some (.csel d a b c) := by
  have h1 : (27 + 32 * c.val) % 32 = 27 := by omega
  have h2 : Fin.ofNat 32 ((27 + 32 * c.val) / 32) = c := finOfNat_eq (by omega)
  rw [decodeInt, if_pos h1, h2]
theorem decodeInti_shift (k : Nat) (h : BitVec 6) (d a : SReg) :
    decodeInti d a 6 (h.toNat + 64 * k) = [Instr.slli d a h, .srli d a h, .srai d a h][k]? := by
  have h1 : (h.toNat + 64 * k) / 64 = k := by omega
  have h2 : BitVec.ofNat 6 (h.toNat + 64 * k) = h := ofNat_eq (by omega)
  unfold decodeInti
  rw [h1, h2]
  match k with
  | 0 | 1 | 2 | _ + 3 => rfl
theorem decodeBitf_pair (fn : Nat) (p w : BitVec 6) (d a : SReg) :
    decodeBitf d a fn (p.toNat + 64 * w.toNat) = [Instr.bfx d a p w, .bfxn d a p w, .bfi d a p w][fn]? := by
  have h1 : BitVec.ofNat 6 (p.toNat + 64 * w.toNat) = p := ofNat_eq (by omega)
  have h2 : BitVec.ofNat 6 ((p.toNat + 64 * w.toNat) / 64) = w := ofNat_eq (by omega)
  unfold decodeBitf
  rw [h1, h2]
  match fn with
  | 0 | 1 | 2 | _ + 3 => rfl
theorem decodeSys_trap (c : BitVec 6) : decodeSys 0 0 0 (16 * c.toNat) = some (.trap c) := by
  have h1 : 16 * c.toNat % 16 = 0 := by omega
  have h2 : BitVec.ofNat 6 (16 * c.toNat / 16) = c := ofNat_eq (by omega)
  simp only [decodeSys, h1, h2]; rfl
theorem decodeSys_brk (c : BitVec 6) : decodeSys 0 0 0 (1 + 16 * c.toNat) = some (.brk c) := by
  have h1 : (1 + 16 * c.toNat) % 16 = 1 := by omega
  have h2 : BitVec.ofNat 6 ((1 + 16 * c.toNat) / 16) = c := ofNat_eq (by omega)
  simp only [decodeSys, h1, h2]; rfl
theorem decodeTask_send (a b : SReg) (n : BitVec 4) : decodeTask 0 a b (16 * n.toNat) = some (.send a b n) := by
  have h1 : 16 * n.toNat % 16 = 0 := by omega
  have h2 : BitVec.ofNat 4 (16 * n.toNat / 16) = n := ofNat_eq (by omega)
  have h3 : 16 * n.toNat / 16 < 16 := by omega
  simp only [decodeTask, h1, h2, h3]; rfl
theorem decodeTask_sendv (a b : SReg) (n : BitVec 4) : decodeTask 0 a b (1 + 16 * n.toNat) = some (.sendv a b n) := by
  have h1 : (1 + 16 * n.toNat) % 16 = 1 := by omega
  have h2 : BitVec.ofNat 4 ((1 + 16 * n.toNat) / 16) = n := ofNat_eq (by omega)
  have h3 : (1 + 16 * n.toNat) / 16 < 16 := by omega
  simp only [decodeTask, h1, h2, h3]; rfl
theorem decodeTask_waitk (k : KReg) (n : BitVec 8) (a : SReg) :
    decodeTask (fld k) a (Fin.ofNat 32 (n.toNat / 64)) (4 + 16 * (n.toNat % 64)) = some (.waitk k n a) := by
  have h1 : (4 + 16 * (n.toNat % 64)) % 16 = 4 := by omega
  have h2 : (Fin.ofNat 32 (n.toNat / 64)).val = n.toNat / 64 := Nat.mod_eq_of_lt (by omega)
  have h3 : BitVec.ofNat 8 ((4 + 16 * (n.toNat % 64)) / 16 + 64 * (n.toNat / 64)) = n := ofNat_eq (by omega)
  have h4 : n.toNat / 64 < 4 := by omega
  simp only [decodeTask, h1, h2, h3, if_pos h4, narrow_fld (show 16 ≤ 32 by decide)]
  rfl
theorem decodePort_link (p : PortReg) (r : Dir) (f : Bool) :
    decodePort p.num 0 0 (4 * bitN p.scalar + 8 + 32 * r.code + 128 * bitN f) = some (.bindLink p r f) := by
  have := bitN_lt p.scalar; have := r.code_lt; have := bitN_lt f
  have h1 : bitB ((4 * bitN p.scalar + 8 + 32 * r.code + 128 * bitN f) / 4) = p.scalar := bitB_eq (by omega)
  have h2 : (4 * bitN p.scalar + 8 + 32 * r.code + 128 * bitN f) % 4 = 0 := by omega
  have h3 : (4 * bitN p.scalar + 8 + 32 * r.code + 128 * bitN f) / 8 % 4 = 1 := by omega
  have h4 : (4 * bitN p.scalar + 8 + 32 * r.code + 128 * bitN f) / 32 % 4 = r.code := by omega
  have h5 : bitB ((4 * bitN p.scalar + 8 + 32 * r.code + 128 * bitN f) / 128) = f := bitB_eq (by omega)
  have h6 : 4 * bitN p.scalar + 8 + 32 * r.code + 128 * bitN f < 256 := by omega
  simp only [decodePort, h1, h2, h3, h4, h5, h6, Dir.all_code]
  rfl
theorem decodePort_chan (p : PortReg) (h : Fin 16) :
    decodePort p.num 0 0 (4 * bitN p.scalar + 16 + 32 * h.val) = some (.bindChan p h) := by
  have hs := bitN_lt p.scalar
  have h1 : bitB ((4 * bitN p.scalar + 16 + 32 * h.val) / 4) = p.scalar := bitB_eq (by omega)
  have h2 : (4 * bitN p.scalar + 16 + 32 * h.val) % 4 = 0 := by omega
  have h3 : (4 * bitN p.scalar + 16 + 32 * h.val) / 8 % 4 = 2 := by omega
  have h4 : Fin.ofNat 16 ((4 * bitN p.scalar + 16 + 32 * h.val) / 32) = h := finOfNat_eq (by omega)
  have h5 : 4 * bitN p.scalar + 16 + 32 * h.val < 512 := by omega
  simp only [decodePort, h1, h2, h3, h4, h5]
  rfl
theorem remFn_lt {op : Nat} (h : op < 4) (q o t two : Bool) (t1 t2 : DReg) : remFn op q o t two t1.val t2.val < 1024 := by
  have := bitN_lt q; have := bitN_lt o; have := bitN_lt t; have := bitN_lt two
  unfold remFn; omega
/-- The flags of a remote form read back (R56). -/
theorem remFn_fields {op : Nat} (h : op < 4) (q o t two : Bool) (t1 t2 : DReg) :
    remFn op q o t two t1.val t2.val % 4 = op ∧ bitB (remFn op q o t two t1.val t2.val / 4) = q ∧
    bitB (remFn op q o t two t1.val t2.val / 8) = o ∧ bitB (remFn op q o t two t1.val t2.val / 16) = t ∧
    bitB (remFn op q o t two t1.val t2.val / 32) = two ∧ Fin.ofNat 4 (remFn op q o t two t1.val t2.val / 64) = t1 ∧
    Fin.ofNat 4 (remFn op q o t two t1.val t2.val / 256) = t2 := by
  have := bitN_lt q; have := bitN_lt o; have := bitN_lt t; have := bitN_lt two
  unfold remFn
  exact ⟨by omega, bitB_eq (by omega), bitB_eq (by omega), bitB_eq (by omega), bitB_eq (by omega), finOfNat_eq (by omega),
    finOfNat_eq (by omega)⟩
theorem encE_fn (k : KReg) (t : AReg) (fn : Nat) : (k.val + 16 * t.val + 128 * fn) / 128 = fn := by omega
theorem encE_at (k : KReg) (t : AReg) (fn : Nat) : Fin.ofNat 8 ((k.val + 16 * t.val + 128 * fn) / 16) = t := finOfNat_eq (by omega)
theorem encE_kc (k : KReg) (t : AReg) (fn : Nat) : Fin.ofNat 16 (k.val + 16 * t.val + 128 * fn) = k := finOfNat_eq (by omega)

theorem decodeRemote_rst (q o t two : Bool) (t1 t2 : DReg) (d a b : SReg) :
    decodeRemote d a b (remFn 1 q o t two t1.val t2.val) =
      if t then (if two then some (.rst q o (.two t1 t2) d a b) else req (t2 == 0) (.rst q o (.one t1) d a b))
      else req (decide (remFn 1 q o t two t1.val t2.val < 16)) (.rst q o .none d a b) := by
  obtain ⟨h0, hq, ho, ht, htwo, h1, h2⟩ := remFn_fields (op := 1) (by decide) q o t two t1 t2
  simp only [decodeRemote, h0, hq, ho, ht, htwo, h1, h2]
theorem decodeRemote_rstc (q o t two : Bool) (t1 t2 : DReg) (d a b : SReg) :
    decodeRemote d a b (remFn 3 q o t two t1.val t2.val) =
      if two then none
      else if t then some (.rstc q o (some t1) t2 d a b) else req (t1 == 0) (.rstc q o none t2 d a b) := by
  obtain ⟨h0, hq, ho, ht, htwo, h1, h2⟩ := remFn_fields (op := 3) (by decide) q o t two t1 t2
  simp only [decodeRemote, h0, hq, ho, ht, htwo, h1, h2]

/-- FN of a plain `ramo`: its operation and its width stand where other remote forms have a token and more. -/
def ramoFn (op : AmoOp) (w q o : Bool) : Nat := remFn 2 q o false false 0 0 + 32 * op.code + 512 * bitN w
theorem ramoFn_lt (op : AmoOp) (w q o : Bool) : ramoFn op w q o < 1024 := by
  have := bitN_lt q; have := bitN_lt o; have := bitN_lt w; have := op.code_lt
  simp only [ramoFn, remFn, bitN, Bool.false_eq_true, if_false] at *; omega
theorem decodeRemote_ramo (op : AmoOp) (w q o : Bool) (d a b : SReg) :
    decodeRemote d a b (ramoFn op w q o) = some (.ramo op w q o d a b) := by
  have := bitN_lt q; have := bitN_lt o; have := bitN_lt w; have := op.code_lt
  have e : ramoFn op w q o = 2 + 4 * bitN q + 8 * bitN o + 32 * op.code + 512 * bitN w := by
    simp only [ramoFn, remFn]; rfl
  have h0 : ramoFn op w q o % 4 = 2 := by omega
  have hq : bitB (ramoFn op w q o / 4) = q := bitB_eq (by omega)
  have ho : bitB (ramoFn op w q o / 8) = o := bitB_eq (by omega)
  have ht : bitB (ramoFn op w q o / 16) = false := bitB_eq (show _ = 0 by omega)
  have hop : ramoFn op w q o / 32 % 16 = op.code := by omega
  have hw : bitB (ramoFn op w q o / 512) = w := bitB_eq (by omega)
  simp only [decodeRemote, h0, hq, ho, ht, hop, hw, AmoOp.all_code]
  rfl
theorem groupA_rmcast (q : Bool) (n : Fin 8) (d a b : SReg) : groupA 0x15 d a b (n.val + 8 * bitN q) = some (.rmcast q n d a b) := by
  have := bitN_lt q
  have h1 : bitB ((n.val + 8 * bitN q) / 8) = q := bitB_eq (by omega)
  have h2 : Fin.ofNat 8 (n.val + 8 * bitN q) = n := finOfNat_eq (by omega)
  have h3 : n.val + 8 * bitN q < 16 := by omega
  simp only [groupA, h1, h2, h3]; rfl
theorem decodeCart_encE {fn : Nat} (x : Bool) (k : KReg) (d a : SReg) :
    decodeCart d a 0 (k.val + 16 * bitN x + 128 * fn) = (cartOps[fn]?).map (fun f => f x k d a) := by
  have := bitN_lt x
  have h1 : (k.val + 16 * bitN x + 128 * fn) / 16 % 8 < 2 := by omega
  have h2 : (k.val + 16 * bitN x + 128 * fn) / 128 = fn := by omega
  have h3 : bitB ((k.val + 16 * bitN x + 128 * fn) / 16) = x := bitB_eq (by omega)
  have h4 : Fin.ofNat 16 (k.val + 16 * bitN x + 128 * fn) = k := finOfNat_eq (by omega)
  simp only [decodeCart, h1, h2, h3, h4]; rfl

/-! ## The view word -/

theorem encodeSrc_lt (x : Option SrcView) (h : x.all (fun a => decide (a.group.val ≤ a.fmt.maxGroup)) = true) : encodeSrc x < 64 := by
  rcases x with _ | ⟨f, g⟩
  · decide
  · revert g; cases f <;> decide
theorem decodeSrc_encodeSrc (x : Option SrcView) (h : x.all (fun a => decide (a.group.val ≤ a.fmt.maxGroup)) = true) :
    decodeSrc (encodeSrc x) = x := by
  rcases x with _ | ⟨f, g⟩
  · rfl
  · revert g; cases f <;> decide
/-- The destination view's code in a view word. -/
def dstField (x : Option VFmt) : Nat := match x with | none => 0 | some f => f.dstCode
theorem dstField_le (x : Option VFmt) : dstField x ≤ 10 := by
  rcases x with _ | f
  · decide
  · cases f <;> decide
theorem dstField_read (x : Option VFmt) : (if dstField x = 0 then none else VFmt.all[dstField x - 1]?) = x := by
  rcases x with _ | f
  · rfl
  · cases f <;> rfl
theorem RMode.all_code (r : RMode) : RMode.all[r.code]? = some r := by cases r <;> rfl
/-- The word of a view (R44 format P, R60). -/
def viewWord (v : View) : Nat :=
  1 + 2 * 27 + 2 ^ 7 * encodeSrc v.av + 2 ^ 13 * encodeSrc v.bv + 2 ^ 19 * dstField v.dn + 2 ^ 23 * v.di.val + 2 ^ 26 * v.drm.code +
    2 ^ 29 * bitN v.ds
theorem View.wf_sources {v : View} (h : v.wf = true) : v.av.all (fun a => decide (a.group.val ≤ a.fmt.maxGroup)) = true ∧
    v.bv.all (fun a => decide (a.group.val ≤ a.fmt.maxGroup)) = true := by
  obtain ⟨av, bv, dn, di, drm, ds⟩ := v
  simp only [View.wf, Bool.and_eq_true] at h
  obtain ⟨⟨ha, hb⟩, -⟩ := h
  exact ⟨by cases av <;> exact ha, by cases bv <;> exact hb⟩
theorem RoundTrip.view {v : View} (h : v.wf = true) : RoundTrip (.view v) := by
  obtain ⟨ha, hb⟩ := View.wf_sources h
  have hav := encodeSrc_lt v.av ha
  have hbv := encodeSrc_lt v.bv hb
  have hdn := dstField_le v.dn
  have hdrm := v.drm.code_lt
  have hds := bitN_lt v.ds
  have h0 : viewWord v / 2 % 64 = 0x1B := by unfold viewWord; omega
  have h1 : viewWord v / 2 ^ 7 % 64 = encodeSrc v.av := by unfold viewWord; omega
  have h2 : viewWord v / 2 ^ 13 % 64 = encodeSrc v.bv := by unfold viewWord; omega
  have h3 : viewWord v / 2 ^ 19 % 16 = dstField v.dn := by unfold viewWord; omega
  have h4 : Fin.ofNat 8 (viewWord v / 2 ^ 23) = v.di := finOfNat_eq (by unfold viewWord; omega)
  have h5 : viewWord v / 2 ^ 26 % 8 = v.drm.code := by unfold viewWord; omega
  have h6 : bitB (viewWord v / 2 ^ 29) = v.ds := bitB_eq (by unfold viewWord; omega)
  have h7 : viewWord v < 2 ^ 30 := by unfold viewWord; omega
  have hd : decodeView (viewWord v) = some (.view v) := by
    unfold decodeView
    rw [h1, h2, h3, h4, h5, h6, decodeSrc_encodeSrc _ ha, decodeSrc_encodeSrc _ hb, RMode.all_code]
    exact (if_pos ⟨hdn, h7⟩).trans (by rw [dstField_read])
  refine .word (w := viewWord v) rfl (by unfold viewWord; omega) (by omega) ?_
  unfold decodeRaw32
  rw [h0]
  exact hd

/-! ## Compact forms (R59) -/

/-- A compact form with rd and a 6-bit field. -/
def groupC : Nat → SReg → Nat → Option Instr
  | 0 => fun d i => some (.cLi d (BitVec.ofNat 6 i))
  | 1 => fun d i => some (.cAddi d (BitVec.ofNat 6 i))
  | 2 => fun d i => req (i / 32 == 0) (.cMv d (Fin.ofNat 32 i))
  | 3 => fun d i => req (i / 32 == 0) (.cAdd d (Fin.ofNat 32 i))
  | 4 => fun d i => req (i / 32 == 0) (.cSub d (Fin.ofNat 32 i))
  | 12 => fun d i => some (.cSlli d (BitVec.ofNat 6 i))
  | 13 => fun d i => some (.cAndi d (BitVec.ofNat 6 i))
  | _ => fun _ _ => none
def copsC : List Nat := [0, 1, 2, 3, 4, 12, 13]
theorem decodeRaw16_encC {cop i : Nat} (hc : cop ∈ copsC) (hi : i < 64) (d : SReg) : decodeRaw16 (encC cop d i) = groupC cop d i := by
  have h16 : cop < 16 := (by decide : ∀ c ∈ copsC, c < 16) cop hc
  have h1 : encC cop d i / 2 % 16 = cop := by unfold encC; omega
  have h2 : Fin.ofNat 32 (encC cop d i / 2 ^ 5) = d := finOfNat_eq (by unfold encC; omega)
  have h3 : encC cop d i / 2 ^ 10 = i := by unfold encC; omega
  have h4 : encC cop d i / 2 ^ 15 % 2 = i / 32 := by unfold encC; omega
  unfold decodeRaw16
  rw [h1, h2, h3, h4]
  fin_cases hc <;> rfl
theorem RoundTrip.formC {i : Instr} {cop x : Nat} {d : SReg} (he : encode i = some (encC cop d x)) (h : groupC cop d x = some i)
    (hx : x < 64) (hc : cop ∈ copsC := by decide) : RoundTrip i := by
  have h16 : cop < 16 := (by decide : ∀ c ∈ copsC, c < 16) cop hc
  refine .half he ?_ ?_ ((decodeRaw16_encC hc hx d).trans h) <;> unfold encC <;> omega
/-- The 6-bit field is an immediate, or a distance. -/
theorem RoundTrip.formCImm {f : BitVec 6 → Instr} {cop : Nat} {d : SReg} {i : BitVec 6} (he : encode (f i) = some (encC cop d i.toNat))
    (h : ∀ x, groupC cop d x = some (f (BitVec.ofNat 6 x))) (hc : cop ∈ copsC := by decide) : RoundTrip (f i) :=
  .formC he (by rw [h, BitVec.ofNat_toNat, BitVec.setWidth_eq]) i.isLt hc
/-- The low five bits of the 6-bit field are a register, the top bit is 0. -/
theorem RoundTrip.formCReg {f : SReg → Instr} {cop : Nat} {d r : SReg} (he : encode (f r) = some (encC cop d r.val))
    (h : ∀ x, groupC cop d x = req (x / 32 == 0) (f (Fin.ofNat 32 x))) (hc : cop ∈ copsC := by decide) : RoundTrip (f r) := by
  have hr : Fin.ofNat 32 r.val = r := finOfNat_eq (Nat.mod_eq_of_lt r.isLt)
  refine .formC he ?_ (by omega) hc
  rw [h, hr, Nat.div_eq_of_lt r.isLt]
  rfl
/-- A compact form with two registers of the compact set. -/
def groupC3 : Nat → Fin 8 → Fin 8 → BitVec 5 → Option Instr
  | 5 => fun r b o => some (.cLd r b o)
  | 6 => fun r b o => some (.cSt r b o)
  | _ => fun _ _ _ => none
theorem RoundTrip.formC3 {i : Instr} {cop : Nat} {r b : Fin 8} {o : BitVec 5} (he : encode i = some (encC3 cop r.val b.val o.toNat))
    (h : groupC3 cop r b o = some i) (hc : cop ∈ [5, 6] := by decide) : RoundTrip i := by
  have h16 : cop < 16 := (by decide : ∀ c ∈ [5, 6], c < 16) cop hc
  have hcop : encC3 cop r.val b.val o.toNat / 2 % 16 = cop := by unfold encC3; omega
  have hr : Fin.ofNat 8 (encC3 cop r.val b.val o.toNat / 2 ^ 5) = r := finOfNat_eq (by unfold encC3; omega)
  have hb : Fin.ofNat 8 (encC3 cop r.val b.val o.toNat / 2 ^ 8) = b := finOfNat_eq (by unfold encC3; omega)
  have ho : BitVec.ofNat 5 (encC3 cop r.val b.val o.toNat / 2 ^ 11) = o := ofNat_eq (by unfold encC3; omega)
  refine .half he (by unfold encC3; omega) (by unfold encC3; omega) ?_
  rw [← h]
  unfold decodeRaw16
  rw [hcop, hr, hb, ho]
  fin_cases hc <;> rfl
/-- A compact branch. -/
def groupCB : Nat → Fin 8 → BitVec 8 → Option Instr
  | 7 => fun r o => some (.cBeqz r o)
  | 8 => fun r o => some (.cBnez r o)
  | _ => fun _ _ => none
theorem RoundTrip.formCB {i : Instr} {cop : Nat} {r : Fin 8} {o : BitVec 8}
    (he : encode i = some (2 * cop + 2 ^ 5 * r.val + 2 ^ 8 * o.toNat)) (h : groupCB cop r o = some i)
    (hc : cop ∈ [7, 8] := by decide) : RoundTrip i := by
  have h16 : cop < 16 := (by decide : ∀ c ∈ [7, 8], c < 16) cop hc
  have hcop : (2 * cop + 2 ^ 5 * r.val + 2 ^ 8 * o.toNat) / 2 % 16 = cop := by omega
  have hr : Fin.ofNat 8 ((2 * cop + 2 ^ 5 * r.val + 2 ^ 8 * o.toNat) / 2 ^ 5) = r := finOfNat_eq (by omega)
  have ho : BitVec.ofNat 8 ((2 * cop + 2 ^ 5 * r.val + 2 ^ 8 * o.toNat) / 2 ^ 8) = o := ofNat_eq (by omega)
  refine .half he (by omega) (by omega) ?_
  rw [← h]
  unfold decodeRaw16
  rw [hcop, hr, ho]
  fin_cases hc <;> rfl
theorem RoundTrip.cJ (o : BitVec 11) : RoundTrip (.cJ o) := by
  have hcop : (2 * 9 + 2 ^ 5 * o.toNat) / 2 % 16 = 9 := by omega
  have ho : BitVec.ofNat 11 ((2 * 9 + 2 ^ 5 * o.toNat) / 2 ^ 5) = o := ofNat_eq (by omega)
  refine .half (w := 2 * 9 + 2 ^ 5 * o.toNat) rfl (by omega) (by omega) ?_
  unfold decodeRaw16
  rw [hcop, ho]
  rfl
theorem RoundTrip.cWaitk (k : KReg) (n : BitVec 7) : RoundTrip (.cWaitk k n) := by
  have hcop : (2 * 11 + 2 ^ 5 * k.val + 2 ^ 9 * n.toNat) / 2 % 16 = 11 := by omega
  have hk : Fin.ofNat 16 ((2 * 11 + 2 ^ 5 * k.val + 2 ^ 9 * n.toNat) / 2 ^ 5) = k := finOfNat_eq (by omega)
  have hn : BitVec.ofNat 7 ((2 * 11 + 2 ^ 5 * k.val + 2 ^ 9 * n.toNat) / 2 ^ 9) = n := ofNat_eq (by omega)
  refine .half (w := 2 * 11 + 2 ^ 5 * k.val + 2 ^ 9 * n.toNat) rfl (by omega) (by omega) ?_
  unfold decodeRaw16
  rw [hcop, hk, hn]
  rfl

theorem roundTrip (i : Instr) (hwf : i.wellFormed = true) : RoundTrip i := by
  cases i with
  | add | sub | and | or | xor | andn | sll | srl | sra | rotl | mul | mulh | mulhn | div | divn | rem | remn | min | max | minn | maxn
  | slt | sltn | clz | ctz | popc | bswap => exact .formA rfl rfl
  | addi | andi | ori | xori | slti | sltni => exact .formI12 rfl fun _ => rfl
  | lui | auipc | jal => exact .formU rfl rfl
  | jalr | ldS8 | ldN8 | ldS16 | ldN16 | ldS32 | ldN32 | ld64 | crr => exact .formI12 rfl fun _ => rfl
  | beq | bne | blt | bge | bltn | bgen | st8 | st16 | st32 | st64 => exact .formS rfl rfl
  | amoSwap _ _ _ q | amoAdd _ _ _ q | amoAnd _ _ _ q | amoOr _ _ _ q | amoXor _ _ _ q | amoMin _ _ _ q | amoMax _ _ _ q
  | amoMinn _ _ _ q | amoMaxn _ _ _ q | amoCas _ _ _ q | amoFadd _ _ _ q | updAdd _ _ q | updFadd _ _ q | updMin _ _ q
  | updMax _ _ q | updOr _ _ q =>
    exact .formA rfl (decodeAmo_fn (by decide) q _ _ _) (q.fn_lt (by decide))
  | fence o sc | fenceEng o sc => exact .formA rfl (by cases o <;> cases sc <;> rfl) (by have := o.code_lt; have := sc.code_lt; omega)
  | fadd p r | fsub p r | fmul p r | fdiv p r | fsqrt p r | fma p r | fcvtFromS64 p r | fcvtFromN64 p r | fcvtFromOther p r
  | fcvtToS64 p r | fcvtToN64 p r => exact .formA rfl (by cases p <;> cases r <;> rfl) (fpsFn_lt (by decide) p r)
  | fmin p | fmax p | feq p | flt p | fle p | fclass p =>
    exact .formA rfl (by cases p <;> rfl) (fpsFn_lt (by decide) p .rne)
  | fenceAck | rett | idle | tstamp | cflush | cinv | tlbinv | taskDone | yield | waitdep | trig | waitev | chbind | kjoin | kleave
  | kbar | kcount | grant | grq | pathset => exact .formA rfl rfl
  | vadd | vsub | vmul | vmulh | vma | vms | vmin | vmax | vabs | vneg | vand | vor | vxor | vsll | vsrl | vsra | vdiv | vsqrt
  | vld | vst | vlds | vsts | vgather | vscatter | vrcp | vrsq | vexp2 | vlog2 | vsig | vtanh | vshuf | vbcast | vextr | vins
  | vslide | vredsum | vredmax | vredmin | vscan | vsel | vdot | vwadd | vwaddT => exact .formV rfl rfl
  | crw c a => exact .formI12 (f := fun c => .crw c a) rfl fun _ => rfl
  | crs d c a => exact .formI12 (f := fun c => .crs d c a) rfl fun _ => rfl
  | crc d c a => exact .formI12 (f := fun c => .crc d c a) rfl fun _ => rfl
  | csel d a b c => exact .formA rfl (decodeInt_csel d a b c) (by omega)
  | slli d a h => exact .formI rfl (by omega) (decodeInti_shift 0 h d a)
  | srli d a h => exact .formI rfl (by omega) (decodeInti_shift 1 h d a)
  | srai d a h => exact .formI rfl (by omega) (decodeInti_shift 2 h d a)
  | bfx d a p w => exact .formI rfl (by omega) (decodeBitf_pair 0 p w d a)
  | bfxn d a p w => exact .formI rfl (by omega) (decodeBitf_pair 1 p w d a)
  | bfi d a p w => exact .formI rfl (by omega) (decodeBitf_pair 2 p w d a)
  | trap c => exact .formA rfl (decodeSys_trap c) (by omega)
  | brk c => exact .formA rfl (decodeSys_brk c) (by omega)
  | send a b n => exact .formA rfl (decodeTask_send a b n) (by omega)
  | sendv a b n => exact .formA rfl (decodeTask_sendv a b n) (by omega)
  | waitk k n a => exact .formA rfl (decodeTask_waitk k n a) (by omega)
  | bindStream p | unbind p | skipPort p | sdrain p =>
    exact .formA rfl (by rcases p with ⟨_ | _, n⟩ <;> dsimp only <;> rfl) (by have := bitN_lt p.scalar; omega)
  | bindLink p r f =>
    exact .formA rfl (decodePort_link p r f) (by have := bitN_lt p.scalar; have := r.code_lt; have := bitN_lt f; omega)
  | bindChan p h => exact .formA rfl (decodePort_chan p h) (by have := bitN_lt p.scalar; omega)
  | rld q => exact .formA rfl (by cases q <;> rfl) (by cases q <;> decide)
  | rst q o t d a b =>
    rcases t with _ | t1 | ⟨t1, t2⟩
    · exact .formA rfl (by cases q <;> cases o <;> rfl) (by cases q <;> cases o <;> decide)
    · exact .formA rfl (decodeRemote_rst q o true false t1 0 d a b) (remFn_lt (by decide) q o true false t1 0)
    · exact .formA rfl (decodeRemote_rst q o true true t1 t2 d a b) (remFn_lt (by decide) q o true true t1 t2)
  | ramo op w q o d a b => exact .formA rfl (decodeRemote_ramo op w q o d a b) (ramoFn_lt op w q o)
  | rstc q o t n d a b =>
    rcases t with _ | t1
    · exact .formA rfl (decodeRemote_rstc q o false false 0 n d a b) (remFn_lt (by decide) q o false false 0 n)
    · exact .formA rfl (decodeRemote_rstc q o true false t1 n d a b) (remFn_lt (by decide) q o true false t1 n)
  | rmcast q n d a b => exact .formA rfl (groupA_rmcast q n d a b) (by have := bitN_lt q; omega)
  | tkwait | tkdrop | tkmerge => exact .formA rfl (by simp [groupA, decodeToken, narrow_fld, req])
  | wvShape | wvPack | wvUnpk | wvSet | wvGet | wvCmp | wvInbox | wvNext | wvCut | wvRlist | wvClrf =>
    exact .formA rfl (by simp [groupA, decodeWeave, narrow_fld, req])
  | wvAdd t | wvSub t => exact .formA rfl (by cases t <;> simp [groupA, decodeWeave, narrow_fld, bitN]) (by cases t <;> decide)
  | cpCopy x k d a | cpGather x k d a | cpFill x k d a | cpRemote x k d a | cpMcast x k d a | cpRsend x k d a | cpReduce x k d a =>
    exact .formE rfl (decodeCart_encE x k d a) (by have := bitN_lt x; omega)
  | ksend => exact .formV rfl (by simp [groupV, narrow_fld, req])
  | vwinbox => exact .formV rfl (by simp [groupV, decodeVweave, narrow_fld])
  | mand | mor | mxor | mnot | mpop | mfirst => exact .formV rfl (by simp [groupV, decodeVmask, narrow_fld, req])
  | vcmp c => exact .formV rfl (by cases c <;> simp [groupV, decodeVmask, Cmp.code, Cmp.all, narrow_fld]) (by have := c.code_lt; omega)
  | vcvt _ src => exact .formV rfl (by cases src <;> rfl)
  | mmMma t | mmMmag t | mmZero t | mmLdacc t | mmStacc t | mmMova t | mmMovv t =>
    exact .formE rfl (show decodeMill _ _ _ _ = _ by unfold decodeMill; rw [encE_fn, encE_at, encE_kc]; rfl) t.isLt
  | mmQuery | mmCancel => exact .formE rfl (by simp [groupA, decodeMill, req])
  | view v => exact .view hwf
  | cLi | cAddi | cSlli | cAndi => exact .formCImm rfl fun _ => rfl
  | cMv | cAdd | cSub => exact .formCReg rfl fun _ => rfl
  | cNop | cDone | cYield | cBreak => exact .half rfl (by decide) (by decide) rfl
  | cLd | cSt => exact .formC3 rfl rfl
  | cBeqz _ o => exact .formCB (cop := 7) rfl rfl
  | cBnez _ o => exact .formCB (cop := 8) rfl rfl
  | cJ => exact .cJ _
  | cWaitk => exact .cWaitk _ _
  | _ => exact .none rfl

/-- Settles O1: the word of each instruction is read back field by field, and the field checks pass by hypothesis. -/
theorem decodeEncode : Obligations.DecodeEncode := by
  unfold Obligations.DecodeEncode
  intro i w hwf he
  obtain ⟨hodd, hlt, hd⟩ | ⟨heven, hlt, hd⟩ := roundTrip i hwf w he
  · have hc : i.isCompact = false := by simp [Instr.isCompact, he, hodd]
    rw [hc]
    exact ⟨by simp [decode32, hd, checked, hwf], hlt⟩
  · have hc : i.isCompact = true := by simp [Instr.isCompact, he, heven]
    rw [hc]
    exact ⟨by simp [decode16, hd, checked, hwf], hlt⟩

/-- Settles O3, by evaluating the decoder at each word. -/
theorem wordsDecode : Obligations.WordsDecode := by
  unfold Obligations.WordsDecode
  decide

end Sys2Proof
end

section
/-! # What a trap's entry saves, and which contexts a trap ends -/
open Sys2Proof
namespace Sys2Proof.Machine

/-! ## A translation before the trap -/

@[simp] theorem State.bumpWalk_threads (s : State) (ctx : Nat) (va : B64) : (s.bumpWalk ctx va).threads = s.threads := by
  unfold State.bumpWalk
  split
  · rfl
  · split <;> rfl
@[simp] theorem State.bumpWalk_cores (s : State) (ctx : Nat) (va : B64) : (s.bumpWalk ctx va).cores = s.cores := by
  unfold State.bumpWalk
  split
  · rfl
  · split <;> rfl
@[simp] theorem State.bumpWalk_cur (s : State) (ctx : Nat) (va : B64) : (s.bumpWalk ctx va).cur = s.cur := by
  unfold State.bumpWalk
  split
  · rfl
  · split <;> rfl
/-- Whether a trap enters a handler depends on the threads, the cores and the current slot only. -/
theorem State.hasHandler.of_same {s t : State} (h : s.hasHandler) (hc : t.cur = s.cur) (ht : t.threads = s.threads)
    (hk : t.cores = s.cores) : t.hasHandler := by
  unfold State.hasHandler State.me State.thread State.core State.curCore at *
  rwa [hc, ht, hk]
theorem State.hasHandler.translated {s : State} (h : s.hasHandler) (va : B64) : (s.translated va).hasHandler :=
  h.of_same (State.walked_cur ..) (State.walked_threads ..) (State.walked_cores ..)
/-- An XLATE walks first, and counts what a broken entry ended (R323, R353). -/
theorem takeTrap_xlate {s : State} {val ret : B64} {compact : Bool} (h : s.hasHandler) :
    s.takeTrap cXLATE val ret compact = ((s.translated val).bumpWalk s.me.ctx val).entered cXLATE val ret compact := by
  let u := (s.translated val).bumpWalk s.me.ctx val
  have hcur : u.cur = s.cur := by simp [u, State.translated]
  have hthr : u.threads = s.threads := by simp [u, State.translated]
  have hu : u.hasHandler := h.of_same hcur hthr (by simp [u, State.translated])
  have hme : u.thread u.cur = s.thread s.cur := by rw [State.thread, State.thread, hcur, hthr]
  obtain ⟨hslot, htvec, hin⟩ := hu
  rw [State.me, hme] at hin
  have hno : ¬(tvecAddr (u.core u.curCore).tvec = 0 ∨ tcauseIN (s.thread s.cur).tcause = true) := by
    rintro (h0 | h1)
    · exact htvec h0
    · exact Bool.false_ne_true (hin.symm.trans h1)
  show _ = u.entered cXLATE val ret compact
  rw [State.entered, State.modThread, hme]
  exact (if_neg hslot).trans (if_neg hno)
/-- A denied access traps with PROT after its walk (R98, R323). -/
theorem stopped_denied {s : State} {len : Nat} {va : B64} (h : s.hasHandler) :
    s.stopped len (.denied va) = (s.translated va).entered cPROT va s.me.pc (len == 2) :=
  takeTrap_entered (h.translated va) (by decide)

/-! ## Instructions that trap -/

/-- A trap that returns to the next instruction. -/
theorem runI_throw_next (s : State) (len cause : Nat) (val : B64) :
    runI len (throw (.trap cause val true none)) s = s.takeTrap cause val (s.me.pc + BitVec.ofNat 64 len) (len == 2) :=
  runI_error (run_throw _ s)
theorem runI_trap_entered {s : State} {len cause : Nat} {val : B64} (h : s.hasHandler) (hx : cause ≠ cXLATE) :
    runI len (trap cause val) s = s.entered cause val s.me.pc (len == 2) :=
  (runI_trap (run_trap _ _ s)).trans (takeTrap_entered h hx)

/-- Settles O18: a trap of each kind is one `takeTrap`, which enters the handler where there is one and else ends the
context. -/
theorem trapEntry : Obligations.TrapEntry := by
  unfold Obligations.TrapEntry
  refine ⟨fun s h => ⟨fun c => ?_, fun c => ?_, ?_, fun w compact => ?_, fun a => ?_, fun a => ?_⟩, fun s c x hslot hno hx he => ?_⟩
  · exact congrArg _ ((runI_throw_next s _ _ _).trans (takeTrap_entered h (by decide)))
  · exact congrArg _ ((runI_throw_next s _ _ _).trans (takeTrap_entered h (by decide)))
  · exact congrArg _ ((runI_throw_next s _ _ _).trans (takeTrap_entered h (by decide)))
  · cases compact
    · exact congrArg _ (runI_trap_entered h (by decide))
    · exact congrArg _ (runI_trap_entered h (by decide))
  · exact congrArg _ ((runI_error (run_throw _ s)).trans (stopped_denied h))
  · exact congrArg _ ((runI_trap (run_trap _ _ s)).trans (takeTrap_xlate h))
  · have htrap : exec (.trap c) s =
        .next (s.endContext s.me.ctx cTRAP (tcauseIN s.me.tcause) (whereOf s.cur) (s.me.pc + 4) (c.setWidth 64)) :=
      congrArg _ ((runI_throw_next s _ _ _).trans (takeTrap_ends hslot (by decide) hno))
    have hend := State.endContext_live hx he cTRAP (tcauseIN s.me.tcause) (whereOf s.cur) (s.me.pc + 4) (c.setWidth 64) none
    refine ⟨_, x.atEnd cTRAP, htrap, ?_, rfl, fun k h8 hk _ => hend.free k h8 hk⟩
    rw [State.ctx?, hend.ctxs, SMap.get?_put_self]

end Sys2Proof.Machine
end

section
/-! # Compact forms (R59) -/
open Sys2Proof
namespace Sys2Proof.Machine

theorem reads_zero (s : State) : Reads s 0 0 s := readS_zero s
theorem writes_zero (s : State) (v : B64) : Writes s 0 v s := writeS_zero v s

/-- Settles O21: each compact form runs the body of its 32-bit equivalent, of which one lemma says how it ends. -/
theorem compactResults : Obligations.CompactResults := by
  unfold Obligations.CompactResults
  intro s s1 s2 t d q e b i h o o8 j x y l
  refine ⟨fun hw => ?_, ?_, fun hr => ⟨fun hw => ?_, fun hw => ?_, fun hw => ?_, fun hq hw => ?_, fun hq hw => ?_⟩,
    fun hr hw => ?_, fun hr ha hw => ?_, fun hr hq hal hro hk => ?_, fun hr => ⟨?_, ?_⟩, ?_⟩
  · exact congrArg Host.Outcome.next (unary_runs (reads_zero s) (by rwa [zero_add]))
  · exact congrArg Host.Outcome.next (unary_runs (reads_zero s) (writes_zero s _))
  · exact congrArg Host.Outcome.next (unary_runs hr hw)
  · exact congrArg Host.Outcome.next (unary_runs hr hw)
  · exact congrArg Host.Outcome.next (unary_runs hr hw)
  · exact congrArg Host.Outcome.next (binary_runs hr hq hw)
  · exact congrArg Host.Outcome.next (binary_runs hr hq hw)
  · exact congrArg Host.Outcome.next (unary_runs hr (by rwa [add_zero]))
  · exact congrArg Host.Outcome.next (loadBody_runs hr ha hw)
  · exact congrArg Host.Outcome.next (storeBody_runs hr hq hal hro hk)
  · refine congrArg Host.Outcome.next ((branch_runs hr (reads_zero s1)).trans ?_)
    simp only [beq_iff_eq]
    rfl
  · refine congrArg Host.Outcome.next ((branch_runs hr (reads_zero s1)).trans ?_)
    simp only [bne_iff_ne]
    rfl
  · exact congrArg Host.Outcome.next (jumpRel_runs (writes_zero s _))

end Sys2Proof.Machine
end

section
/-! # Elements of a vector register, and integer lanes under a view -/
namespace Sys2Proof

theorem Ty.width_pos (t : Ty) : 0 < t.width := by cases t <;> decide
theorem Ty.lanes_width (t : Ty) : t.lanes * t.width = 512 := by cases t <;> rfl
theorem VFmt.bits_pos (f : VFmt) : 0 < f.bits := by cases f <;> decide

end Sys2Proof

open Sys2Proof
namespace Sys2Proof.Machine

/-! ## One update after another of the same slot -/

theorem filter_insertSorted_self {α : Type} (k : Nat) (x : α) (l : List (Nat × α)) :
    (insertSorted k x l).filter (fun c => c.1 != k) = l.filter (fun c => c.1 != k) := by
  induction l with
  | nil => simp [insertSorted]
  | cons c cs ih =>
    simp only [insertSorted]
    split
    · rw [List.filter_cons_of_neg (by simp)]
    · rw [List.filter_cons, List.filter_cons, ih]
theorem SMap.put_put {α : Type} (m : SMap α) (k : Nat) (x y : α) : (m.put k x).put k y = m.put k y := by
  simp only [SMap.put, SMap.erase, filter_insertSorted_self, List.filter_filter, Bool.and_self]
theorem State.modThread_modThread (s : State) (k : Nat) (f g : Thread → Thread) :
    (s.modThread k f).modThread k g = s.modThread k (fun t => g (f t)) := by
  rw [State.modThread, State.thread_modThread_self]
  simp only [State.modThread, State.setThread, SMap.put_put]

/-! ## Elements (R115, R116, R123) -/

theorem testBit_elemBits (w i j : Nat) (x : B512) : (elemBits w i x).testBit j = (decide (j < w) && x.getLsbD (w * i + j)) := by
  rw [elemBits, Nat.testBit_mod_two_pow, ← BitVec.getLsbD, BitVec.getLsbD_ushiftRight]
/-- A bit of a register after an element has been put into it. -/
theorem getLsbD_putElem (w i p k : Nat) (x : B512) (hk : k < 512) :
    (putElem w i p x).getLsbD k = if w * i ≤ k ∧ k < w * i + w then p.testBit (k - w * i) else x.getLsbD k := by
  simp only [putElem, BitVec.getLsbD_or, BitVec.getLsbD_and, BitVec.getLsbD_not, BitVec.getLsbD_shiftLeft, BitVec.getLsbD_ofNat,
    Nat.testBit_two_pow_sub_one, hk, decide_true, Bool.true_and]
  by_cases h1 : w * i ≤ k
  · have h4 : ¬ k < w * i := by omega
    have h5 : k - w * i < 512 := by omega
    by_cases h2 : k < w * i + w
    · have h3 : k - w * i < w := by omega
      simp [h1, h2, h3, h4, h5]
    · have h3 : ¬ k - w * i < w := by omega
      simp [h2, h3]
  · have h4 : k < w * i := by omega
    simp [h1, h4]
/-- Patterns put into the elements `base + j`, for `j` in a list. -/
def putElems (w base : Nat) (p : Nat → Nat) (l : List Nat) (x : B512) : B512 := l.foldl (fun x j => putElem w (base + j) (p j) x) x
theorem getLsbD_putElems {w base k : Nat} (p : Nat → Nat) (l : List Nat) (x : B512) (hw : 0 < w) (hk : k < 512) :
    (putElems w base p l x).getLsbD k =
      if base ≤ k / w ∧ k / w - base ∈ l then (p (k / w - base)).testBit (k % w) else x.getLsbD k := by
  induction l generalizing x with
  | nil => simp [putElems]
  | cons j l ih =>
    have hput : (putElem w (base + j) (p j) x).getLsbD k =
        if k / w = base + j then (p j).testBit (k % w) else x.getLsbD k := by
      have hdm := Nat.div_add_mod k w
      have hmod : k % w < w := Nat.mod_lt _ hw
      rw [getLsbD_putElem _ _ _ _ _ hk]
      by_cases he : k / w = base + j
      · rw [he] at hdm
        rw [if_pos (by omega), if_pos he, ← hdm, Nat.add_sub_cancel_left, hdm]
      · rw [if_neg (fun h => he ?_), if_neg he]
        exact Nat.div_eq_of_lt_le (by rw [Nat.mul_comm]; exact h.1) (by rw [Nat.succ_mul, Nat.mul_comm]; exact h.2)
    show (putElems w base p l (putElem w (base + j) (p j) x)).getLsbD k = _
    rw [ih, hput]
    by_cases hl : base ≤ k / w ∧ k / w - base ∈ l
    · rw [if_pos hl, if_pos ⟨hl.1, List.mem_cons_of_mem j hl.2⟩]
    · rw [if_neg hl]
      by_cases he : k / w = base + j
      · have hj : k / w - base = j := by omega
        rw [if_pos he, if_pos ⟨by omega, by rw [hj]; exact List.mem_cons_self⟩, hj]
      · rw [if_neg he, if_neg]
        rintro ⟨hb, hm⟩
        rcases List.mem_cons.1 hm with hm | hm
        · omega
        · exact hl ⟨hb, hm⟩
/-- A register whose elements, and whose bits beyond them, are what patterns put into `old` leave. -/
theorem putElems_eq {w base n : Nat} {p : Nat → Nat} {l : List Nat} {old new : B512} (hw : 0 < w) (hl : ∀ j ∈ l, base + j < n)
    (he : ∀ e < n, elemBits w e new = if base ≤ e ∧ e - base ∈ l then p (e - base) else elemBits w e old)
    (hr : ∀ k, n * w ≤ k → new.getLsbD k = old.getLsbD k) : putElems w base p l old = new := by
  refine BitVec.eq_of_getLsbD_eq fun k hk => ?_
  rw [getLsbD_putElems p l old hw hk]
  have hmod : k % w < w := Nat.mod_lt _ hw
  have hdiv : w * (k / w) + k % w = k := Nat.div_add_mod k w
  by_cases hkn : k / w < n
  · have hbit := congrArg (·.testBit (k % w)) (he (k / w) hkn)
    simp only [testBit_elemBits, hmod, hdiv, decide_true, Bool.true_and] at hbit
    rw [hbit]
    split
    · rfl
    · rw [testBit_elemBits, hdiv]; simp [hmod]
  · have hout : n * w ≤ k := by
      have := Nat.mul_le_mul_right w (Nat.le_of_not_lt hkn)
      have := Nat.div_mul_le_self k w
      omega
    rw [if_neg, hr k hout]
    rintro ⟨hb, hm⟩
    have := hl _ hm
    omega

/-! ## Integer lanes (R121, R123, R124) -/

/-- The element that lane 0 is written to. -/
def outBase (v : View) (t : Ty) : Nat := match v.dn with | none => 0 | some _ => v.di.val * t.lanes
/-- The pattern an exact integer leaves in the element a lane is written to; `none` is all ones (R131). -/
def outPattern (v : View) (t : Ty) (x : Option Int) : Nat :=
  match x with
  | none => 2 ^ outWidth v t - 1
  | some x => wrapInt (outWidth v t) (if v.dn.isSome && v.ds then clampInt (outWidth v t) (outSigned v t) x else x)
theorem LaneAcc.putInt_eq (a : LaneAcc) (t : Ty) (v : View) (j : Nat) (x : Option Int) :
    a.putInt t v j x = { a with reg := putElem (outWidth v t) (outBase v t + j) (outPattern v t x) a.reg } := by
  unfold LaneAcc.putInt LaneAcc.put outBase outPattern outWidth
  cases v.dn with
  | none => cases x <;> simp
  | some f => cases x <;> simp
/-- The pattern of lane `j` of an integer arithmetic form. -/
def lanePattern (fi : IntOp) (v : View) (t : Ty) (dv x y : B512) (j : Nat) : Nat :=
  outPattern v t (fi t.width (srcInt t (dstSrc v) dv j) (srcInt t v.av x j) (srcInt t v.bv y j))
/-- The integer lanes of an arithmetic form put their patterns into the register and raise no flag. -/
theorem foldl_arithLane_int {fi : IntOp} {ff : FltOp} {v : View} {t : Ty} {rm : RMode} {dv x y : B512} (hf : t.isFloat = false)
    (l : List Nat) (acc : LaneAcc) :
    l.foldl (fun acc j => arithLane fi ff v t rm dv x y j acc) acc =
      { acc with reg := putElems (outWidth v t) (outBase v t) (lanePattern fi v t dv x y) l acc.reg } := by
  induction l generalizing acc with
  | nil => rfl
  | cons j l ih =>
    rw [List.foldl_cons, ih, arithLane, if_neg (by rw [hf]; decide), LaneAcc.putInt_eq]
    rfl
/-- What they leave in a destination of which the active lanes are written. -/
def intReg (fi : IntOp) (v : View) (t : Ty) (mk : B64) (dv x y old : B512) : B512 :=
  putElems (outWidth v t) (outBase v t) (lanePattern fi v t dv x y) (activeLanes t.lanes mk) old
theorem destOk_runs {v : View} {m : MReg} {d : VReg} {s : State} (h : s.me.ports.get? d.val = none ∨ (m = 0 ∧ v.dn = none)) :
    (destOk v m d).run s = .ok ((), s) := by
  rw [destOk, run_bind_ok (run_thr s)]
  have hno : (((s.thread s.cur).ports.get? d.val).isSome && (m != 0 || v.dn.isSome)) = false := by
    rcases h with h | ⟨hm, hd⟩
    · rw [State.me] at h; simp [h]
    · simp [hm, hd]
  simp only [hno]
  rfl
theorem oldV_runs {d : VReg} {s : State} (h : s.me.pend.any (fun p => p.cls == .v && p.num == d.val) = false) :
    (oldV d).run s = .ok (oldOf s d, s) := by
  rw [oldV, run_bind_ok (settled_free h), run_bind_ok (run_thr s)]
  rfl
theorem readAB_runs {a b : VReg} {x y : B512} {s s1 s2 : State} (h1 : ReadsV s a x s1) (h2 : ReadsV s1 b y s2) :
    (readAB a (some b)).run s = .ok ((x, y), s2) := by
  rw [readAB, run_bind_ok h1, run_bind_ok h2]
  rfl
theorem elemMode_runs (v : View) (s : State) : ∃ rm, (elemMode v).run s = .ok (rm, s) := by
  unfold elemMode
  split
  · split
    · exact ⟨_, rfl⟩
    · exact ⟨_, rfl⟩
  · exact ⟨_, rfl⟩
/-- The generator is kept and the flags of a lane-wise instruction merge, in one update. -/
theorem setGen_orFlags {α : Type} (g : B64) (fl : Flags) (x : Exec α) (s : State) :
    (setGen g >>= fun _ => orFlags fl >>= fun _ => x).run s = x.run (s.flagged g fl) := by
  rw [setGen, run_bind_ok (run_modThr _ s), orFlags, run_bind_ok (run_modThr _ _)]
  exact congrArg x.run (s.modThread_modThread s.cur _ _)
/-- A binary form of integer lanes that does not read its destination writes what the lanes leave in it. -/
theorem vBin_int_runs {fi : IntOp} {ff : FltOp} {v : View} {t : Ty} {m : MReg} {d a b : VReg} {x y : B512} {mk : B64}
    {s s1 s2 s3 u : State} (hf : t.isFloat = false) (hport : s.me.ports.get? d.val = none ∨ (m = 0 ∧ v.dn = none))
    (hpend : s.me.pend.any (fun p => p.cls == .v && p.num == d.val) = false) (h1 : ReadsV s a x s1) (h2 : ReadsV s1 b y s2)
    (h3 : ReadsM s2 m mk s3) (hw : WritesV (s3.flagged s3.me.gen 0) d (intReg fi v t mk (oldOf s d) x y (oldOf s d)) u) :
    (vBin fi ff false v t m d a b).run s = .ok ((), u) := by
  obtain ⟨rm, hrm⟩ := elemMode_runs v s3
  have hl : (lanesOf v t.lanes m d false a (some b) (arithLane fi ff v t)).run s =
      .ok (⟨intReg fi v t mk (oldOf s d) x y (oldOf s d), 0, s3.me.gen⟩, s3) := by
    rw [lanesOf, if_neg (by decide)]
    rw [run_bind_ok (oldV_runs hpend), run_bind_ok (readAB_runs h1 h2), run_bind_ok h3, run_bind_ok hrm,
      run_bind_ok (show genOf.run s3 = .ok (s3.me.gen, s3) from rfl)]
    exact congrArg (fun r => Except.ok (r, s3)) (foldl_arithLane_int hf _ _)
  rw [vBin, laneBody, run_bind_ok (destOk_runs hport), run_bind_ok hl, setGen_orFlags]
  exact hw
theorem mem_activeLanes {n : Nat} {mk : B64} {j : Nat} : j ∈ activeLanes n mk ↔ j < n ∧ mk.getLsbD j = true := by
  simp [activeLanes]
/-- Without a destination view the lanes are those of `IntLanes`. -/
theorem intReg_lanes {fi : IntOp} {v : View} {t : Ty} {mk : B64} {dv x y old new : B512} {r : Nat → Int} (hdn : v.dn = none)
    (hr : ∀ j, fi t.width (srcInt t (dstSrc v) dv j) (srcInt t v.av x j) (srcInt t v.bv y j) = some (r j))
    (h : IntLanes t t.lanes mk r old new) : intReg fi v t mk dv x y old = new := by
  have hw : outWidth v t = t.width := by rw [outWidth, hdn]
  have hb : outBase v t = 0 := by rw [outBase, hdn]
  have hp (j : Nat) : lanePattern fi v t dv x y j = wrapInt t.width (r j) := by
    rw [lanePattern, hr]
    simp [outPattern, hw, hdn]
  rw [intReg, hw, hb]
  refine putElems_eq t.width_pos (n := t.lanes) (fun j hj => ?_) (fun e he => ?_) (fun k hk => ?_)
  · have := (mem_activeLanes.1 hj).1
    omega
  · rw [h e he]
    simp only [Nat.zero_le, true_and, Nat.sub_zero, mem_activeLanes, hp]
  · rw [t.lanes_width] at hk
    rw [BitVec.getLsbD_of_ge _ _ hk, BitVec.getLsbD_of_ge _ _ hk]
/-- Under a destination view the lanes are written to the elements of its group (R123, R124). -/
theorem intReg_elems {fi : IntOp} {v : View} {t : Ty} {mk : B64} {dv x y old new : B512} {r : Nat → Int} {f : VFmt}
    (hdn : v.dn = some f) (hfit : v.di.val * t.lanes + t.lanes ≤ f.count)
    (hr : ∀ j, fi t.width (srcInt t (dstSrc v) dv j) (srcInt t v.av x j) (srcInt t v.bv y j) = some (r j))
    (h : ∀ k < f.count, elemBits f.bits k new =
      if v.di.val * t.lanes ≤ k ∧ k < v.di.val * t.lanes + t.lanes ∧ mk.getLsbD (k - v.di.val * t.lanes) = true then
        wrapInt f.bits (if v.ds then clampInt f.bits (vSigned f) (r (k - v.di.val * t.lanes)) else r (k - v.di.val * t.lanes))
      else elemBits f.bits k old)
    (hrest : ∀ k, f.count * f.bits ≤ k → new.getLsbD k = old.getLsbD k) : intReg fi v t mk dv x y old = new := by
  have hw : outWidth v t = f.bits := by rw [outWidth, hdn]
  have hb : outBase v t = v.di.val * t.lanes := by rw [outBase, hdn]
  have hs : outSigned v t = vSigned f := by rw [outSigned, hdn]
  have hp (j : Nat) : lanePattern fi v t dv x y j = wrapInt f.bits (if v.ds then clampInt f.bits (vSigned f) (r j) else r j) := by
    rw [lanePattern, hr]
    simp [outPattern, hw, hs, hdn]
  rw [intReg, hw, hb]
  refine putElems_eq f.bits_pos (fun j hj => ?_) (fun e he => ?_) hrest
  · have := (mem_activeLanes.1 hj).1
    omega
  · rw [h e he]
    refine if_congr ?_ (hp _).symm rfl
    rw [mem_activeLanes]
    exact and_congr_right fun hle => and_congr_left fun _ => by omega

/-! ## A view and its follower (R62) -/

theorem viewBody_fits {s : State} {v : View} {i : Instr} {x : Exec Unit} (hi : s.follower s.cur = i)
    (hno : ∀ p c, i ≠ .instructionFetchFault p c) (hb : followBody v i = some x) : (viewBody v).run s = x.run s := by
  rw [viewBody, run_bind_ok (run_get s)]
  simp only [hi, hb]
theorem viewBody_misfit {s : State} {v : View} {i : Instr} (hi : s.follower s.cur = i)
    (hno : ∀ p c, i ≠ .instructionFetchFault p c) (hb : followBody v i = none) :
    (viewBody v).run s = .error (.trap cILLEGAL (followVal i) false none) := by
  rw [viewBody, run_bind_ok (run_get s)]
  simp only [hi, hb]
  exact run_trap _ _ s
/-- A destination view that is legal for TY has its group in the register (R61). -/
theorem viewPairs_group {v : View} {t : Ty} {f : VFmt} (h : viewPairs v t = true) (hdn : v.dn = some f) :
    v.di.val * t.lanes + t.lanes ≤ f.count := by
  simp only [viewPairs, viewFits, dstSrc, hdn, Option.map_some, Bool.and_eq_true] at h
  obtain ⟨-, -, hfit⟩ := h
  simpa [VFmt.fits, Nat.succ_mul] using hfit

/-- Settles O44: the pair runs the follower's body under the views; the lanes of an integer addition are put into their
elements one by one, which leaves exactly the register described. -/
theorem viewResults : Obligations.ViewResults := by
  unfold Obligations.ViewResults
  refine ⟨?_, fun s t v i body hi hno hb hrun => ?_, fun s v i hi hno hb h => ?_⟩
  · intro s s1 s2 s3 u v ty m d a b x y w mk hi hpair hf hpend hport h1 h2 h3 sum
    have hbody : followBody v (.vadd ty m d a b) = some (vaddBody v ty m d a b) := if_pos hpair
    have hadd (r : B512) (hr : intReg iAdd v ty mk (oldOf s d) x y (oldOf s d) = r) (hw : WritesV (s3.flagged s3.me.gen 0) d r u) :
        exec (.view v) s = .next (u.retire 8) := by
      refine congrArg Host.Outcome.next (runI_ok (u := ()) ?_)
      rw [viewBody_fits hi (by intro p c h; cases h) hbody]
      exact vBin_int_runs hf (.inl hport) hpend h1 h2 h3 (hr ▸ hw)
    refine ⟨fun hdn hl hw => hadd w ?_ hw, fun f hdn _ he hrest hw => hadd w ?_ hw⟩
    · exact intReg_lanes hdn (fun _ => rfl) hl
    · exact intReg_elems hdn (viewPairs_group hpair hdn) (fun _ => rfl) he hrest
  · exact congrArg Host.Outcome.next (runI_ok ((viewBody_fits hi hno hb).trans hrun))
  · exact congrArg Host.Outcome.next ((runI_trap (viewBody_misfit hi hno hb)).trans (takeTrap_entered h (by decide)))

end Sys2Proof.Machine
end

section
/-! # Floating formats: the values of patterns (R66, R67) -/
open Sys2Proof
namespace Sys2Proof.Machine

/-! ## Exact values as reals -/

/-- The factor a sign bit stands for. -/
noncomputable def signFactor (s : Bool) : ℝ := if s = true then -1 else 1
theorem signFactor_eq (s : Bool) : signFactor s = -1 ∨ signFactor s = 1 := by cases s <;> simp [signFactor]
theorem abs_signFactor_mul (s : Bool) (x : ℝ) : |signFactor s * x| = |x| := by
  rcases signFactor_eq s with h | h <;> simp [h]
theorem FV.fin_is (s : Bool) (m : Nat) (e : Int) : (FV.fin s m e).Is (signFactor s * (m : ℝ) * (2 : ℝ) ^ e) := ⟨s, m, e, rfl, rfl⟩
theorem FV.fin_is_iff {s : Bool} {m : Nat} {e : Int} {v : ℝ} : (FV.fin s m e).Is v ↔ v = signFactor s * (m : ℝ) * (2 : ℝ) ^ e := by
  constructor
  · rintro ⟨s, m, e, ⟨⟩, h⟩; exact h
  · rintro rfl; exact FV.fin_is s m e
/-- A value that stands for a real is finite. -/
theorem FV.is_iff {x : FV} {v : ℝ} : x.Is v ↔ ∃ s m e, x = .fin s m e ∧ v = signFactor s * (m : ℝ) * (2 : ℝ) ^ e := Iff.rfl
theorem FV.not_nan_is {v : ℝ} : ¬ FV.nan.Is v := by rintro ⟨s, m, e, ⟨⟩, -⟩
theorem FV.not_inf_is {s : Bool} {v : ℝ} : ¬ (FV.inf s).Is v := by rintro ⟨s, m, e, ⟨⟩, -⟩
theorem FV.Is.unique {x : FV} {v w : ℝ} (hv : x.Is v) (hw : x.Is w) : v = w := by
  obtain ⟨s, m, e, rfl, rfl⟩ := hv
  exact (FV.fin_is_iff.1 hw).symm
theorem two_zpow_pos (e : Int) : (0 : ℝ) < 2 ^ e := by positivity
/-- A finite value is zero just when its significand is. -/
theorem fin_value_eq_zero {s : Bool} {m : Nat} {e : Int} : signFactor s * (m : ℝ) * (2 : ℝ) ^ e = 0 ↔ m = 0 := by
  have := (two_zpow_pos e).ne'
  rcases signFactor_eq s with h | h <;> simp [h, this]
/-- A finite value that is not zero is negative just when its sign bit is set. -/
theorem fin_value_neg {s : Bool} {m : Nat} {e : Int} (hm : m ≠ 0) : signFactor s * (m : ℝ) * (2 : ℝ) ^ e < 0 ↔ s = true := by
  have hpos : 0 < (m : ℝ) * (2 : ℝ) ^ e := mul_pos (by exact_mod_cast Nat.pos_of_ne_zero hm) (two_zpow_pos e)
  cases s
  · simp [signFactor, hpos.le]
  · simp [signFactor, hpos]
theorem abs_fin_value (s : Bool) (m : Nat) (e : Int) : |signFactor s * (m : ℝ) * (2 : ℝ) ^ e| = (m : ℝ) * (2 : ℝ) ^ e := by
  rw [mul_assoc, abs_signFactor_mul, abs_of_nonneg (mul_nonneg (Nat.cast_nonneg m) (two_zpow_pos e).le)]

/-! ## Formats -/

/-- What the formats of R66 share: room for a normal and a subnormal, at most 52 mantissa bits, infinities with IEEE NaNs only. -/
structure FFmt.Regular (f : FFmt) : Prop where
  mbits_pos : 1 ≤ f.mbits
  mbits_le : f.mbits ≤ 52
  ebits_le : 2 ≤ f.ebits
  inf_iff : f.inf = true ↔ f.nan = .ieee
theorem regular_of_mem {f : FFmt} (h : f ∈ floatFormats) : f.Regular := by
  have hall : ∀ f ∈ floatFormats, 1 ≤ f.mbits ∧ f.mbits ≤ 52 ∧ 2 ≤ f.ebits ∧ (f.inf = true ↔ f.nan = .ieee) := by decide
  obtain ⟨h1, h2, h3, h4⟩ := hall f h
  exact ⟨h1, h2, h3, h4⟩

/-- The magnitude of a pattern without its sign, in units of the smallest subnormal; patterns above the largest finite one go on
as if the exponent had no end. -/
def FFmt.units (f : FFmt) (p : Nat) : Nat :=
  if p / 2 ^ f.mbits = 0 then p % 2 ^ f.mbits else (2 ^ f.mbits + p % 2 ^ f.mbits) * 2 ^ (p / 2 ^ f.mbits - 1)
/-- The smallest subnormal. -/
noncomputable def FFmt.unit (f : FFmt) : ℝ := (2 : ℝ) ^ (f.emin - (f.mbits : Int))
theorem FFmt.unit_pos (f : FFmt) : 0 < f.unit := two_zpow_pos _
/-- A significand `n` at the `j`-th spacing, put together as a rounding does: the carry of a full significand is right. -/
theorem FFmt.units_add (f : FFmt) {n j : Nat} (hn : n ≤ 2 ^ (f.mbits + 1)) (hj : j = 0 ∨ 2 ^ f.mbits ≤ n) :
    f.units (n + j * 2 ^ f.mbits) = n * 2 ^ j := by
  have hpos : 0 < 2 ^ f.mbits := Nat.two_pow_pos _
  rw [pow_succ] at hn
  have hdiv : (n + j * 2 ^ f.mbits) / 2 ^ f.mbits = n / 2 ^ f.mbits + j := Nat.add_mul_div_right _ _ hpos
  have hmod : (n + j * 2 ^ f.mbits) % 2 ^ f.mbits = n % 2 ^ f.mbits := Nat.add_mul_mod_self_right _ _ _
  rw [units, hdiv, hmod]
  rcases Nat.lt_or_ge n (2 ^ f.mbits) with hlt | hge
  · obtain rfl : j = 0 := hj.resolve_right (by omega)
    simp [Nat.div_eq_of_lt hlt, Nat.mod_eq_of_lt hlt]
  · rcases Nat.lt_or_ge n (2 * 2 ^ f.mbits) with hlt2 | hge2
    · have h1 : n / 2 ^ f.mbits = 1 := Nat.div_eq_of_lt_le (by omega) (by omega)
      have h2 : 2 ^ f.mbits + n % 2 ^ f.mbits = n := by
        have := Nat.div_add_mod n (2 ^ f.mbits)
        rw [h1] at this; omega
      rw [h1, if_neg (by omega), h2, Nat.add_sub_cancel_left]
    · have h3 : n = 2 * 2 ^ f.mbits := by omega
      rw [h3, Nat.mul_div_cancel _ hpos, Nat.mul_mod_left, if_neg (by omega), show 2 + j - 1 = j + 1 by omega, pow_succ]
      ring
theorem FFmt.units_strictMono (f : FFmt) : StrictMono f.units := by
  refine strictMono_nat_of_lt_succ fun p => ?_
  have hpos : 0 < 2 ^ f.mbits := Nat.two_pow_pos _
  have hmod : p % 2 ^ f.mbits < 2 ^ f.mbits := Nat.mod_lt _ hpos
  have hdm : 2 ^ f.mbits * (p / 2 ^ f.mbits) + p % 2 ^ f.mbits = p := Nat.div_add_mod p _
  rcases Nat.eq_zero_or_pos (p / 2 ^ f.mbits) with h0 | h0
  · have hlt : p < 2 ^ f.mbits := by rw [h0] at hdm; omega
    have h1 := f.units_add (n := p + 1) (j := 0) (by rw [pow_succ]; omega) (.inl rfl)
    have h2 := f.units_add (n := p) (j := 0) (by rw [pow_succ]; omega) (.inl rfl)
    rw [Nat.zero_mul, Nat.add_zero, pow_zero, Nat.mul_one] at h1 h2
    omega
  · obtain ⟨j, hj⟩ : ∃ j, p / 2 ^ f.mbits = j + 1 := ⟨_, (Nat.sub_add_cancel h0).symm⟩
    rw [hj] at hdm
    have hp : p = 2 ^ f.mbits + p % 2 ^ f.mbits + j * 2 ^ f.mbits := by
      rw [Nat.mul_add, Nat.mul_one, Nat.mul_comm] at hdm; omega
    have h1 := f.units_add (n := 2 ^ f.mbits + p % 2 ^ f.mbits + 1) (j := j) (by rw [pow_succ]; omega) (.inr (by omega))
    have h2 := f.units_add (n := 2 ^ f.mbits + p % 2 ^ f.mbits) (j := j) (by rw [pow_succ]; omega) (.inr (by omega))
    rw [show p + 1 = 2 ^ f.mbits + p % 2 ^ f.mbits + 1 + j * 2 ^ f.mbits by omega, h1]
    conv_lhs => rw [hp, h2]
    exact Nat.mul_lt_mul_of_pos_right (Nat.lt_succ_self _) (Nat.two_pow_pos j)

/-! ## Which patterns are finite -/

/-- The pattern is neither an infinity nor a NaN (R66). -/
def FFmt.FinitePat (f : FFmt) (p : Nat) : Prop :=
  ¬ (f.nan = .ieee ∧ p / 2 ^ f.mbits % 2 ^ f.ebits = 2 ^ f.ebits - 1) ∧
    ¬ (f.nan = .e4 ∧ p / 2 ^ f.mbits % 2 ^ f.ebits = 2 ^ f.ebits - 1 ∧ p % 2 ^ f.mbits = 2 ^ f.mbits - 1)
theorem FFmt.value_ieee {f : FFmt} {p : Nat} (h : f.nan = .ieee) (he : p / 2 ^ f.mbits % 2 ^ f.ebits = 2 ^ f.ebits - 1) :
    f.value p = if p % 2 ^ f.mbits = 0 then .inf (p / f.signBit % 2 == 1) else .nan := by
  rw [value, if_pos ⟨h, he⟩]
theorem FFmt.value_e4 {f : FFmt} {p : Nat} (h : f.nan = .e4) (he : p / 2 ^ f.mbits % 2 ^ f.ebits = 2 ^ f.ebits - 1)
    (hm : p % 2 ^ f.mbits = 2 ^ f.mbits - 1) : f.value p = .nan := by
  rw [value, if_neg (by simp [h]), if_pos ⟨h, he, hm⟩]
theorem FFmt.value_finite {f : FFmt} {p : Nat} (h : f.FinitePat p) :
    f.value p = if p / 2 ^ f.mbits % 2 ^ f.ebits = 0 then .fin (p / f.signBit % 2 == 1) (p % 2 ^ f.mbits) (f.emin - f.mbits)
      else .fin (p / f.signBit % 2 == 1) (2 ^ f.mbits + p % 2 ^ f.mbits) (((p / 2 ^ f.mbits % 2 ^ f.ebits : Nat) : Int) - f.bias - f.mbits) := by
  rw [value, if_neg h.1, if_neg h.2]
theorem FFmt.finitePat_of_is {f : FFmt} {p : Nat} {v : ℝ} (h : (f.value p).Is v) : f.FinitePat p := by
  constructor
  · rintro ⟨h1, h2⟩
    rw [value_ieee h1 h2] at h
    split at h
    · exact FV.not_inf_is h
    · exact FV.not_nan_is h
  · rintro ⟨h1, h2, h3⟩
    rw [value_e4 h1 h2 h3] at h
    exact FV.not_nan_is h
theorem FFmt.signBit_eq (f : FFmt) : f.signBit = 2 ^ f.ebits * 2 ^ f.mbits := by rw [signBit, pow_add]
theorem FFmt.signBit_pos (f : FFmt) : 0 < f.signBit := Nat.two_pow_pos _
/-- The exponent field of a pattern, and the mantissa field, do not see its sign. -/
theorem FFmt.expField_eq (f : FFmt) (p : Nat) : p / 2 ^ f.mbits % 2 ^ f.ebits = p % f.signBit / 2 ^ f.mbits := by
  rw [f.signBit_eq, Nat.mul_comm, Nat.mod_mul_right_div_self]
theorem FFmt.mantField_eq (f : FFmt) (p : Nat) : p % 2 ^ f.mbits = p % f.signBit % 2 ^ f.mbits := by
  rw [f.signBit_eq, Nat.mod_mul_left_mod]
/-- The finite patterns are those up to the largest finite one, with either sign. -/
theorem FFmt.Regular.finitePat_iff {f : FFmt} (hf : f.Regular) (p : Nat) : f.FinitePat p ↔ p % f.signBit ≤ f.maxPat := by
  have hlt : p % f.signBit < 2 ^ f.ebits * 2 ^ f.mbits := f.signBit_eq ▸ Nat.mod_lt _ f.signBit_pos
  have hm : 0 < 2 ^ f.mbits := Nat.two_pow_pos _
  rw [FinitePat, f.expField_eq, f.mantField_eq]
  generalize p % f.signBit = q at *
  have hdm := Nat.div_add_mod q (2 ^ f.mbits)
  have hq : q / 2 ^ f.mbits < 2 ^ f.ebits := Nat.div_lt_of_lt_mul (by rwa [Nat.mul_comm])
  have hmod : q % 2 ^ f.mbits < 2 ^ f.mbits := Nat.mod_lt _ hm
  have hm2 : 2 ^ 1 ≤ 2 ^ f.mbits := Nat.pow_le_pow_right (by decide) hf.mbits_pos
  have he4 : 2 ^ 2 ≤ 2 ^ f.ebits := Nat.pow_le_pow_right (by decide) hf.ebits_le
  obtain ⟨E, hE⟩ : ∃ E, 2 ^ f.ebits = E + 1 := ⟨_, (Nat.sub_add_cancel (Nat.two_pow_pos _)).symm⟩
  have hsb := f.signBit_eq
  rw [hE] at hlt hq hsb he4 ⊢
  rw [Nat.add_sub_cancel]
  rw [Nat.add_one_mul] at hlt hsb
  have hEm : 1 * 2 ^ f.mbits ≤ E * 2 ^ f.mbits := Nat.mul_le_mul_right _ (by omega)
  have hlast (h : q / 2 ^ f.mbits = E) : q = E * 2 ^ f.mbits + q % 2 ^ f.mbits := by
    rw [h, Nat.mul_comm] at hdm; omega
  have hbelow (h : q / 2 ^ f.mbits ≠ E) : q < E * 2 ^ f.mbits := by
    have : (q / 2 ^ f.mbits + 1) * 2 ^ f.mbits ≤ E * 2 ^ f.mbits := Nat.mul_le_mul_right _ (by omega)
    rw [Nat.add_one_mul, Nat.mul_comm _ (2 ^ f.mbits)] at this
    omega
  cases hn : f.nan with
  | none => simp only [reduceCtorEq, false_and, not_false_eq_true, true_and, maxPat, hn, true_iff, hsb]; omega
  | ieee =>
    simp only [reduceCtorEq, false_and, not_false_eq_true, true_and, and_true, maxPat, hn, hE, Nat.add_sub_cancel]
    exact ⟨fun h => by have := hbelow h; omega, fun h h' => by have := hlast h'; omega⟩
  | e4 =>
    simp only [reduceCtorEq, false_and, not_false_eq_true, true_and, maxPat, hn, hsb]
    by_cases h : q / 2 ^ f.mbits = E
    · have := hlast h
      rw [h]
      omega
    · have := hbelow h
      exact ⟨fun _ => by omega, fun _ h' => h h'.1⟩
theorem FFmt.maxPat_lt_signBit (f : FFmt) : f.maxPat < f.signBit := by
  have hs := f.signBit_eq
  have hm : 0 < 2 ^ f.mbits := Nat.two_pow_pos _
  have he : 0 < 2 ^ f.ebits := Nat.two_pow_pos _
  have h1 := Nat.mul_pos he hm
  have h2 : (2 ^ f.ebits - 1) * 2 ^ f.mbits = 2 ^ f.ebits * 2 ^ f.mbits - 2 ^ f.mbits := Nat.sub_one_mul _ _
  unfold maxPat
  split <;> omega

/-! ## The value of a finite pattern (R67) -/

theorem FFmt.two_pow_width (f : FFmt) : 2 ^ f.width = 2 * f.signBit := by rw [width, signBit, Nat.add_assoc, pow_add, pow_one]
/-- The sign bit of a pattern, as the model reads it. -/
theorem FFmt.sign_of_lt {f : FFmt} {p : Nat} (h : p < 2 ^ f.width) : (p / f.signBit % 2 == 1) = decide (f.signBit ≤ p) := by
  rw [f.two_pow_width] at h
  rcases Nat.lt_or_ge p f.signBit with hlt | hge
  · rw [Nat.div_eq_of_lt hlt, decide_eq_false (by omega)]; rfl
  · rw [Nat.div_eq_of_lt_le (by omega) (by omega : p < (1 + 1) * f.signBit), decide_eq_true hge]; rfl
/-- The exponent that the model gives a normal pattern, in spacings of the smallest subnormal. -/
theorem FFmt.zpow_normal (f : FFmt) {e : Nat} (he : e ≠ 0) : (2 : ℝ) ^ ((e : Int) - f.bias - f.mbits) = 2 ^ (e - 1) * f.unit := by
  rw [unit, ← zpow_natCast, ← zpow_add₀ two_ne_zero, emin]
  congr 1
  omega
theorem FFmt.value_is {f : FFmt} {p : Nat} (h : f.FinitePat p) :
    (f.value p).Is (signFactor (p / f.signBit % 2 == 1) * (f.units (p % f.signBit) * f.unit)) := by
  rw [f.value_finite h, units, f.expField_eq, f.mantField_eq]
  split
  · rw [FV.fin_is_iff, mul_assoc]; rfl
  · next he => rw [FV.fin_is_iff, f.zpow_normal he]; push_cast; ring
theorem FFmt.Regular.finitePat_of_le {f : FFmt} (hf : f.Regular) {p : Nat} (h : p ≤ f.maxPat) : f.FinitePat p := by
  rwa [hf.finitePat_iff, Nat.mod_eq_of_lt (h.trans_lt f.maxPat_lt_signBit)]
/-- A pattern without sign that is finite. -/
theorem FFmt.Regular.value_pos_is {f : FFmt} (hf : f.Regular) {p : Nat} (h : p ≤ f.maxPat) : (f.value p).Is (f.units p * f.unit) := by
  have hlt : p < f.signBit := h.trans_lt f.maxPat_lt_signBit
  have hv := f.value_is (hf.finitePat_of_le h)
  rwa [Nat.div_eq_of_lt hlt, Nat.mod_eq_of_lt hlt, show ((0 % 2 : Nat) == 1) = false from rfl, signFactor, if_neg Bool.false_ne_true,
    one_mul] at hv
/-- The largest finite pattern has the largest value. -/
theorem FFmt.Regular.value_le_top {f : FFmt} (hf : f.Regular) {p : Nat} {v top : ℝ} (hv : (f.value p).Is v)
    (ht : (f.value f.maxPat).Is top) : v ≤ top := by
  have hp := f.finitePat_of_is hv
  rw [hv.unique (f.value_is hp), ht.unique (hf.value_pos_is le_rfl)]
  have hle : (f.units (p % f.signBit) : ℝ) ≤ f.units f.maxPat := by
    exact_mod_cast f.units_strictMono.monotone ((hf.finitePat_iff p).1 hp)
  have hx : (f.units (p % f.signBit) : ℝ) * f.unit ≤ f.units f.maxPat * f.unit := mul_le_mul_of_nonneg_right hle f.unit_pos.le
  have h0 : 0 ≤ (f.units (p % f.signBit) : ℝ) * f.unit := mul_nonneg (Nat.cast_nonneg _) f.unit_pos.le
  rcases signFactor_eq (p / f.signBit % 2 == 1) with h | h <;> rw [h] <;> linarith

end Sys2Proof.Machine
end

section
/-! # Rounding (R74 to R77, R80) -/
open Sys2Proof
namespace Sys2Proof.Machine

/-! ## The lower neighbour and what is left -/

/-- The lower neighbour of `m` at spacing `2^sh`, in spacings. -/
def lowerPart (m : Nat) (sh : Int) : Nat := if sh ≤ 0 then m * 2 ^ (-sh).toNat else m / 2 ^ sh.toNat
/-- What `m` exceeds it by. -/
def restPart (m : Nat) (sh : Int) : Nat := if sh ≤ 0 then 0 else m % 2 ^ sh.toNat
theorem restPart_lt (m : Nat) (sh : Int) : restPart m sh < 2 ^ sh.toNat := by
  unfold restPart
  split
  · exact Nat.two_pow_pos _
  · exact Nat.mod_lt _ (Nat.two_pow_pos _)
/-- The part of a spacing that `m` exceeds its lower neighbour by. -/
noncomputable def restFraction (m : Nat) (sh : Int) : ℝ := (restPart m sh : ℝ) / 2 ^ sh.toNat
theorem restFraction_nonneg (m : Nat) (sh : Int) : 0 ≤ restFraction m sh := by unfold restFraction; positivity
theorem restFraction_lt_one (m : Nat) (sh : Int) : restFraction m sh < 1 := by
  rw [restFraction, div_lt_one (by positivity)]
  exact_mod_cast restPart_lt m sh
theorem restFraction_eq_zero {m : Nat} {sh : Int} : restFraction m sh = 0 ↔ restPart m sh = 0 := by
  rw [restFraction, div_eq_zero_iff, or_iff_left (by positivity), Nat.cast_eq_zero]
theorem lowerPart_add_rest (m : Nat) (sh : Int) : ((lowerPart m sh : ℝ) + restFraction m sh) * (2 : ℝ) ^ sh = m := by
  unfold lowerPart restFraction restPart
  split
  · next h =>
    obtain ⟨k, rfl⟩ : ∃ k : Nat, sh = -(k : Int) := ⟨(-sh).toNat, by omega⟩
    rw [neg_neg, Int.toNat_natCast, zpow_neg, zpow_natCast]
    push_cast
    field_simp
    ring
  · next h =>
    obtain ⟨k, rfl⟩ : ∃ k : Nat, sh = (k : Int) := ⟨sh.toNat, by omega⟩
    rw [Int.toNat_natCast, zpow_natCast, add_mul, div_mul_cancel₀ _ (by positivity)]
    exact_mod_cast Nat.div_add_mod' m (2 ^ k)

/-! ## The mode's choice (R74) -/

@[simp] theorem roundUp_zero (rm : RMode) (neg : Bool) (n sh : Nat) (r : B64) : roundUp rm neg n 0 sh r = false := by
  unfold roundUp
  exact if_pos rfl
/-- The rounding of the model takes the upper neighbour where R74 does. -/
theorem roundUp_iff {rm : RMode} {neg : Bool} {v : ℝ} {n rem sh : Nat} {r : B64} (hr : rem ≠ 0) (hv : v < 0 ↔ neg = true) :
    roundUp rm neg n rem sh r = true ↔ TakesUpper rm (v < 0) n ((rem : ℝ) / 2 ^ sh) r := by
  have hp : (0 : ℝ) < 2 ^ sh := by positivity
  have hhalf : 1 / 2 < (rem : ℝ) / 2 ^ sh ↔ 2 ^ sh < 2 * rem := by
    rw [div_lt_div_iff₀ two_pos hp, one_mul, mul_comm]; exact_mod_cast Iff.rfl
  have htie : (rem : ℝ) / 2 ^ sh = 1 / 2 ↔ 2 * rem = 2 ^ sh := by
    rw [div_eq_div_iff hp.ne' two_ne_zero, one_mul, mul_comm]; exact_mod_cast Iff.rfl
  have hge : 1 / 2 ≤ (rem : ℝ) / 2 ^ sh ↔ 2 ^ sh ≤ 2 * rem := by
    rw [div_le_div_iff₀ two_pos hp, one_mul, mul_comm]; exact_mod_cast Iff.rfl
  unfold roundUp
  rw [if_neg hr]
  cases rm with
  | rne => simp only [TakesUpper, hhalf, htie, Bool.or_eq_true, Bool.and_eq_true, decide_eq_true_eq, beq_iff_eq]
  | rtz => simp [TakesUpper]
  | rdn => exact hv.symm
  | rup => simp [TakesUpper, hv]
  | rna => simp only [TakesUpper, hge, decide_eq_true_eq]
  | dyn => simp [TakesUpper]
  | sto =>
    have hfloor (t : Nat) : (t : ℝ) ≤ (rem : ℝ) / 2 ^ sh * 2 ^ 24 ↔ t ≤ rem * 2 ^ 24 / 2 ^ sh := by
      rw [Nat.le_div_iff_mul_le (Nat.two_pow_pos sh), div_mul_eq_mul_div, le_div_iff₀ hp]; exact_mod_cast Iff.rfl
    simp only [TakesUpper, hfloor, decide_eq_true_eq]
    exact ⟨fun h => ⟨_, le_rfl, h⟩, fun ⟨t, ht, h⟩ => h.trans_le ht⟩
/-- The rounded significand. -/
def roundedPart (rm : RMode) (neg : Bool) (m : Nat) (sh : Int) (r : B64) : Nat :=
  if roundUp rm neg (lowerPart m sh) (restPart m sh) sh.toNat r then lowerPart m sh + 1 else lowerPart m sh
theorem roundedPart_of_exact {rm : RMode} {neg : Bool} {m : Nat} {sh : Int} {r : B64} (h : restPart m sh = 0) :
    roundedPart rm neg m sh r = lowerPart m sh := by
  rw [roundedPart, h, roundUp_zero, if_neg Bool.false_ne_true]
theorem roundedPart_le (rm : RMode) (neg : Bool) (m : Nat) (sh : Int) (r : B64) : roundedPart rm neg m sh r ≤ lowerPart m sh + 1 := by
  unfold roundedPart; split <;> omega
theorem le_roundedPart (rm : RMode) (neg : Bool) (m : Nat) (sh : Int) (r : B64) : lowerPart m sh ≤ roundedPart rm neg m sh r := by
  unfold roundedPart; split <;> omega

section
/- `v` has the magnitude `m × 2^e`, and a spacing is `q = 2^(e + sh)`. -/
variable {rm : RMode} {neg : Bool} {m : Nat} {e sh : Int} {v : ℝ} {r : B64}

theorem abs_eq_parts (hv : |v| = (m : ℝ) * (2 : ℝ) ^ e) : |v| = ((lowerPart m sh : ℝ) + restFraction m sh) * (2 : ℝ) ^ (sh + e) := by
  rw [hv, zpow_add₀ two_ne_zero, ← mul_assoc, lowerPart_add_rest]
theorem lowerPart_mul_eq_abs (hv : |v| = (m : ℝ) * (2 : ℝ) ^ e) :
    (lowerPart m sh : ℝ) * (2 : ℝ) ^ (sh + e) = |v| ↔ restPart m sh = 0 := by
  rw [abs_eq_parts (sh := sh) hv, mul_left_inj' (two_zpow_pos _).ne', left_eq_add, restFraction_eq_zero]
/-- R75: the rounded significand is the chosen neighbour. -/
theorem roundsAt_roundedPart (hv : |v| = (m : ℝ) * (2 : ℝ) ^ e) (hneg : v < 0 ↔ neg = true) :
    RoundsAt rm v ((2 : ℝ) ^ (sh + e)) r (roundedPart rm neg m sh r) := by
  have hq : (0 : ℝ) < (2 : ℝ) ^ (sh + e) := two_zpow_pos _
  have habs := abs_eq_parts (sh := sh) hv
  have hfrac : (|v| - (lowerPart m sh : ℝ) * (2 : ℝ) ^ (sh + e)) / (2 : ℝ) ^ (sh + e) = restFraction m sh := by
    rw [habs]; field_simp; ring
  refine ⟨lowerPart m sh, ?_, ?_, fun h => ?_, fun h => ?_⟩
  · rw [habs]; exact mul_le_mul_of_nonneg_right (le_add_of_nonneg_right (restFraction_nonneg m sh)) hq.le
  · rw [habs]; exact mul_lt_mul_of_pos_right (by linarith [restFraction_lt_one m sh]) hq
  · exact roundedPart_of_exact ((lowerPart_mul_eq_abs hv).1 h)
  · have hrest : restPart m sh ≠ 0 := fun h0 => h ((lowerPart_mul_eq_abs hv).2 h0)
    rw [hfrac, restFraction, ← roundUp_iff hrest hneg, roundedPart]
    exact ⟨fun hu => if_pos hu, fun hu => if_neg hu⟩
/-- The chosen neighbour is the magnitude itself just when nothing was left of it. -/
theorem roundedPart_mul_eq_abs (hv : |v| = (m : ℝ) * (2 : ℝ) ^ e) :
    (roundedPart rm neg m sh r : ℝ) * (2 : ℝ) ^ (sh + e) = |v| ↔ restPart m sh = 0 := by
  rw [abs_eq_parts (sh := sh) hv, mul_left_inj' (two_zpow_pos _).ne', ← restFraction_eq_zero]
  have h0 := restFraction_nonneg m sh
  have h1 := restFraction_lt_one m sh
  constructor
  · intro h
    unfold roundedPart at h
    split at h
    · push_cast at h; linarith
    · linarith
  · intro h
    rw [roundedPart_of_exact (restFraction_eq_zero.1 h), h, add_zero]
end

/-! ## Rounding to a format -/

/-- The exponent of the binade that `m × 2^e` is rounded in. -/
def FFmt.binade (f : FFmt) (m : Nat) (e : Int) : Int := if Nat.log2 m + e < f.emin then f.emin else Nat.log2 m + e
/-- The spacing there, as an exponent above `e`. -/
def FFmt.shift (f : FFmt) (m : Nat) (e : Int) : Int := f.binade m e - f.mbits - e
/-- The generator as a rounding reads it. -/
def drawn (rm : RMode) (g : B64) : B64 := if rm = .sto then draw g else g
/-- The pattern, without its sign, that a rounding arrives at. -/
def FFmt.roundedPat (f : FFmt) (rm : RMode) (neg : Bool) (m : Nat) (e : Int) (g : B64) : Nat :=
  roundedPart rm neg m (f.shift m e) (drawn rm g) + (f.binade m e - f.emin).toNat * 2 ^ f.mbits
/-- The flags of a rounding that stays in range. -/
def FFmt.inexactFlags (f : FFmt) (m : Nat) (e : Int) : Flags :=
  if restPart m (f.shift m e) = 0 then 0 else if Nat.log2 m + e < f.emin then flagNX ||| flagUF else flagNX
theorem roundFin_inRange {f : FFmt} {rm : RMode} {sat neg : Bool} {m : Nat} {e : Int} {g : B64}
    (h : f.roundedPat rm neg m e g ≤ f.maxPat) :
    roundFin f rm sat neg m e g =
      ⟨f.roundedPat rm neg m e g + (if neg then f.signBit else 0), f.inexactFlags m e, drawn rm g⟩ := by
  refine (if_neg (Nat.not_lt.2 h)).trans ?_
  congr 1
  show (if (restPart m (f.shift m e) != 0) = true then flagNX else 0) |||
    (if (restPart m (f.shift m e) != 0 && decide (Nat.log2 m + e < f.emin)) = true then flagUF else 0) = _
  unfold FFmt.inexactFlags
  by_cases h0 : restPart m (f.shift m e) = 0
  · simp [h0]
  · by_cases h1 : Nat.log2 m + e < f.emin <;> simp [h0, h1]
theorem roundFin_overflow {f : FFmt} {rm : RMode} {sat neg : Bool} {m : Nat} {e : Int} {g : B64}
    (h : f.maxPat < f.roundedPat rm neg m e g) (hbig : f.emin ≤ Nat.log2 m + e) :
    roundFin f rm sat neg m e g = ⟨overflowPat f rm sat neg, flagOF ||| flagNX, drawn rm g⟩ := by
  refine (if_pos h).trans ?_
  congr 1
  show flagOF ||| flagNX ||| (if (restPart m (f.shift m e) != 0 && decide (Nat.log2 m + e < f.emin)) = true then flagUF else 0) = _
  rw [decide_eq_false (Int.not_lt.2 hbig), Bool.and_false, if_neg Bool.false_ne_true]
  rfl
theorem overflowPat_toward {f : FFmt} {rm : RMode} {sat neg : Bool}
    (h : sat = true ∨ ¬ (rm = .rne ∨ rm = .rna ∨ rm = .sto ∨ (rm = .rup ∧ neg = false) ∨ (rm = .rdn ∧ neg = true)) ∨ f.nan = .none)
    (hf : f.Regular) : overflowPat f rm sat neg = (if neg then f.signBit else 0) + f.maxPat := by
  have hinf : f.nan = .none → f.inf = false := fun hn => by
    rw [← Bool.not_eq_true, hf.inf_iff, hn]; decide
  unfold overflowPat
  rcases h with rfl | h | hn
  · rfl
  · cases rm <;> simp_all
  · simp [hinf hn, hn]
theorem overflowPat_away {f : FFmt} {rm : RMode} {neg : Bool}
    (h : rm = .rne ∨ rm = .rna ∨ rm = .sto ∨ (rm = .rup ∧ neg = false) ∨ (rm = .rdn ∧ neg = true)) :
    overflowPat f rm false neg = if f.inf then (if neg then f.signBit else 0) + f.infPat
      else if f.nan = .e4 then f.nanPat else (if neg then f.signBit else 0) + f.maxPat := by
  rcases h with rfl | rfl | rfl | ⟨rfl, rfl⟩ | ⟨rfl, rfl⟩ <;> rfl

section
variable {f : FFmt} {m : Nat} {e : Int}

theorem log2_bounds (hm : m ≠ 0) (e : Int) :
    (2 : ℝ) ^ (Nat.log2 m + e) ≤ (m : ℝ) * (2 : ℝ) ^ e ∧ (m : ℝ) * (2 : ℝ) ^ e < (2 : ℝ) ^ (Nat.log2 m + e + 1) := by
  have h1 : ((2 ^ Nat.log2 m : Nat) : ℝ) ≤ m := by exact_mod_cast Nat.log2_self_le hm
  have h2 : (m : ℝ) < ((2 ^ (Nat.log2 m + 1) : Nat) : ℝ) := by exact_mod_cast Nat.lt_log2_self
  push_cast at h1 h2
  have he := two_zpow_pos e
  constructor
  · rw [zpow_add₀ two_ne_zero, zpow_natCast]
    exact mul_le_mul_of_nonneg_right h1 he.le
  · rw [show (Nat.log2 m : Int) + e + 1 = ((Nat.log2 m + 1 : Nat) : Int) + e by push_cast; ring, zpow_add₀ two_ne_zero, zpow_natCast]
    exact mul_lt_mul_of_pos_right h2 he
theorem FFmt.emin_le_binade : f.emin ≤ f.binade m e := by unfold binade; split <;> omega
theorem FFmt.log2_le_binade : Nat.log2 m + e ≤ f.binade m e := by unfold binade; split <;> omega
theorem FFmt.binade_eq : f.binade m e = f.emin ∨ f.binade m e = Nat.log2 m + e := by unfold binade; split <;> simp
theorem FFmt.shift_add (f : FFmt) (m : Nat) (e : Int) : f.shift m e + e = f.binade m e - f.mbits := by unfold shift; omega
theorem FFmt.lt_binade (hm : m ≠ 0) : (m : ℝ) * (2 : ℝ) ^ e < (2 : ℝ) ^ (f.binade m e + 1) :=
  (log2_bounds hm e).2.trans_le (zpow_le_zpow_right₀ one_le_two (by have := f.log2_le_binade (m := m) (e := e); omega))
/-- A magnitude below the smallest normal one. -/
theorem lt_emin_iff (hm : m ≠ 0) : (m : ℝ) * (2 : ℝ) ^ e < (2 : ℝ) ^ f.emin ↔ Nat.log2 m + e < f.emin := by
  obtain ⟨h1, h2⟩ := log2_bounds hm e
  constructor
  · intro h
    exact (zpow_lt_zpow_iff_right₀ one_lt_two).1 (h1.trans_lt h)
  · intro h
    exact h2.trans_le (zpow_le_zpow_right₀ one_le_two (by omega))
theorem lowerPart_le_of_lt {sh k : Int} {b : Nat} (h : (m : ℝ) * (2 : ℝ) ^ e < (2 : ℝ) ^ k) (hk : k ≤ b + (sh + e)) :
    lowerPart m sh < 2 ^ b := by
  have hq := two_zpow_pos (sh + e)
  have habs := abs_eq_parts (v := (m : ℝ) * (2 : ℝ) ^ e) (sh := sh) (abs_of_nonneg (mul_nonneg (Nat.cast_nonneg m) (two_zpow_pos e).le))
  rw [abs_of_nonneg (mul_nonneg (Nat.cast_nonneg m) (two_zpow_pos e).le)] at habs
  have hlt : ((lowerPart m sh : ℝ) + restFraction m sh) * (2 : ℝ) ^ (sh + e) < (2 : ℝ) ^ b * (2 : ℝ) ^ (sh + e) := by
    rw [← habs, ← zpow_natCast, ← zpow_add₀ two_ne_zero]
    exact h.trans_le (zpow_le_zpow_right₀ one_le_two hk)
  have h0 := restFraction_nonneg m sh
  have := lt_of_mul_lt_mul_right hlt hq.le
  exact_mod_cast (le_add_of_nonneg_right h0).trans_lt this
theorem le_lowerPart_of_le {sh k : Int} {b : Nat} (h : (2 : ℝ) ^ k ≤ (m : ℝ) * (2 : ℝ) ^ e) (hk : b + (sh + e) ≤ k) :
    2 ^ b ≤ lowerPart m sh := by
  have hq := two_zpow_pos (sh + e)
  have habs := abs_eq_parts (v := (m : ℝ) * (2 : ℝ) ^ e) (sh := sh) (abs_of_nonneg (mul_nonneg (Nat.cast_nonneg m) (two_zpow_pos e).le))
  rw [abs_of_nonneg (mul_nonneg (Nat.cast_nonneg m) (two_zpow_pos e).le)] at habs
  have hle : (2 : ℝ) ^ b * (2 : ℝ) ^ (sh + e) ≤ ((lowerPart m sh : ℝ) + restFraction m sh) * (2 : ℝ) ^ (sh + e) := by
    rw [← habs, ← zpow_natCast, ← zpow_add₀ two_ne_zero]
    exact (zpow_le_zpow_right₀ one_le_two hk).trans h
  have h1 := restFraction_lt_one m sh
  have := le_of_mul_le_mul_right hle hq
  have hlt : (2 : ℝ) ^ b < (lowerPart m sh : ℝ) + 1 := by linarith
  exact Nat.lt_succ_iff.1 (by exact_mod_cast hlt)
/-- The rounded significand fits its binade, up to the carry. -/
theorem FFmt.roundedPart_le (hm : m ≠ 0) {rm : RMode} {neg : Bool} {r : B64} :
    roundedPart rm neg m (f.shift m e) r ≤ 2 ^ (f.mbits + 1) := by
  have := Machine.roundedPart_le rm neg m (f.shift m e) r
  have := lowerPart_le_of_lt (b := f.mbits + 1) (k := f.binade m e + 1) (sh := f.shift m e) (f.lt_binade hm) (by rw [f.shift_add]; push_cast; omega)
  omega
/-- The pattern a rounding arrives at has the value of the chosen neighbour. -/
theorem FFmt.units_roundedPat (hm : m ≠ 0) {rm : RMode} {neg : Bool} {g : B64} :
    (f.units (f.roundedPat rm neg m e g) : ℝ) * f.unit =
      roundedPart rm neg m (f.shift m e) (drawn rm g) * (2 : ℝ) ^ (f.binade m e - f.mbits) := by
  have hj : (f.binade m e - f.emin).toNat = 0 ∨ 2 ^ f.mbits ≤ roundedPart rm neg m (f.shift m e) (drawn rm g) := by
    rcases f.binade_eq (m := m) (e := e) with h | h
    · exact .inl (by rw [h]; omega)
    · refine .inr ((le_lowerPart_of_le (log2_bounds hm e).1 ?_).trans (le_roundedPart ..))
      rw [f.shift_add, h]; omega
  obtain ⟨j, hj'⟩ : ∃ j : Nat, f.binade m e - f.emin = j := ⟨_, (Int.toNat_of_nonneg (Int.sub_nonneg.2 f.emin_le_binade)).symm⟩
  rw [roundedPat, f.units_add (f.roundedPart_le hm) hj, hj', Int.toNat_natCast, unit]
  push_cast
  rw [mul_assoc, ← zpow_natCast, ← zpow_add₀ two_ne_zero]
  congr 2
  omega
/-- Nothing below the smallest normal overflows. -/
theorem FFmt.Regular.emin_le_of_overflow (hf : f.Regular) {rm : RMode} {neg : Bool} {g : B64} (hm : m ≠ 0)
    (h : f.maxPat < f.roundedPat rm neg m e g) : f.emin ≤ Nat.log2 m + e := by
  by_contra hlt
  have hb : f.binade m e = f.emin := by rw [binade, if_pos (by omega)]
  have h1 := lowerPart_le_of_lt (b := f.mbits) (k := f.emin) (sh := f.shift m e) ((lt_emin_iff hm).2 (Int.not_le.1 hlt))
    (by rw [f.shift_add, hb]; omega)
  have h2 := Machine.roundedPart_le rm neg m (f.shift m e) (drawn rm g)
  rw [roundedPat, hb, Int.sub_self, Int.toNat_zero, Nat.zero_mul] at h
  have hs := f.signBit_eq
  have hM : 2 ^ 1 ≤ 2 ^ f.mbits := Nat.pow_le_pow_right (by decide) hf.mbits_pos
  have hE : 2 ^ 2 ≤ 2 ^ f.ebits := Nat.pow_le_pow_right (by decide) hf.ebits_le
  have h3 : 3 * 2 ^ f.mbits ≤ (2 ^ f.ebits - 1) * 2 ^ f.mbits := Nat.mul_le_mul_right _ (by omega)
  have h4 : 4 * 2 ^ f.mbits ≤ 2 ^ f.ebits * 2 ^ f.mbits := Nat.mul_le_mul_right _ (by omega)
  unfold maxPat at h
  split at h <;> omega
/-- R75 to R77: the model's rounding of `v`, whose magnitude is `m × 2^e`. -/
theorem FFmt.Regular.rounds_roundFin (hf : f.Regular) {rm : RMode} {sat neg : Bool} {g : B64} {v : ℝ} (hm : m ≠ 0)
    (hv : |v| = (m : ℝ) * (2 : ℝ) ^ e) (hneg : v < 0 ↔ neg = true) (hpos : 0 < v ↔ neg = false) :
    Rounds f rm sat g v (roundFin f rm sat neg m e g) := by
  have hunits := f.units_roundedPat hm (e := e) (rm := rm) (neg := neg) (g := g)
  have hsign : (if v < 0 then f.signBit else 0) = if neg then f.signBit else 0 := if_congr hneg rfl rfl
  have hover : (f.units f.maxPat : ℝ) * f.unit < roundedPart rm neg m (f.shift m e) (drawn rm g) * (2 : ℝ) ^ (f.binade m e - f.mbits) ↔
      f.maxPat < f.roundedPat rm neg m e g := by
    rw [← hunits, mul_lt_mul_iff_of_pos_right f.unit_pos, Nat.cast_lt, f.units_strictMono.lt_iff_lt]
  have hgen : (roundFin f rm sat neg m e g).gen = drawn rm g := by
    by_cases h : f.maxPat < f.roundedPat rm neg m e g
    · rw [roundFin_overflow h (hf.emin_le_of_overflow hm h)]
    · rw [roundFin_inRange (Nat.not_lt.1 h)]
  have hbin : f.binade m e = f.emin ∨ (2 : ℝ) ^ f.binade m e ≤ |v| := by
    rcases f.binade_eq (m := m) (e := e) with h | h
    · exact .inl h
    · exact .inr (by rw [h, hv]; exact (log2_bounds hm e).1)
  refine ⟨hgen, f.binade m e, roundedPart rm neg m (f.shift m e) (drawn rm g), f.units f.maxPat * f.unit, f.emin_le_binade,
    hv ▸ f.lt_binade hm, hbin, ?_, hf.value_pos_is le_rfl, fun h => ?_, fun h => ?_⟩
  · rw [hgen, ← f.shift_add]
    exact roundsAt_roundedPart hv hneg
  · have hpat := hover.1 h
    rw [roundFin_overflow hpat (hf.emin_le_of_overflow hm hpat), hsign]
    refine ⟨rfl, fun hc => ?_, ?_, ?_⟩
    · simp only [hneg, hpos] at hc
      exact overflowPat_toward hc hf
    · rintro rfl ha hn
      simp only [hneg, hpos] at ha
      exact (overflowPat_away ha).trans (if_pos (hf.inf_iff.2 hn))
    · rintro rfl ha hn
      simp only [hneg, hpos] at ha
      refine (overflowPat_away ha).trans ((if_neg ?_).trans (if_pos hn))
      rw [hf.inf_iff, hn]; decide
  · have hpat := Nat.not_lt.1 (fun hc => absurd (hover.2 hc) (not_lt.2 h))
    rw [roundFin_inRange hpat, hsign]
    have hexact := roundedPart_mul_eq_abs (rm := rm) (neg := neg) (r := drawn rm g) (sh := f.shift m e) hv
    rw [f.shift_add] at hexact
    refine ⟨⟨_, hpat.trans_lt f.maxPat_lt_signBit, hunits ▸ hf.value_pos_is hpat, Nat.add_comm ..⟩, fun h0 => ?_, fun h0 => ?_⟩
    · exact if_pos (hexact.1 h0)
    · exact (if_neg (fun hr => h0 (hexact.2 hr))).trans (if_congr (by rw [hv, lt_emin_iff hm]) rfl rfl)
end

/-- R75 to R77 for a value of the model. -/
theorem FFmt.Regular.rounds_roundTo {f : FFmt} (hf : f.Regular) {rm : RMode} {sat : Bool} {g : B64} {x : FV} {v : ℝ} (hx : x.Is v)
    (hv : v ≠ 0) : Rounds f rm sat g v (roundTo f rm sat g x) := by
  obtain ⟨s, m, e, rfl, hval⟩ := FV.is_iff.1 hx
  have hm : m ≠ 0 := fun h => hv (by rw [hval, fin_value_eq_zero, h])
  have hneg : v < 0 ↔ s = true := by rw [hval]; exact fin_value_neg hm
  rw [roundTo, if_neg hm]
  refine hf.rounds_roundFin hm (by rw [hval, abs_fin_value]) hneg ?_
  rw [← Bool.not_eq_true, ← hneg, not_lt]
  exact ⟨le_of_lt, fun h => lt_of_le_of_ne h hv.symm⟩

end Sys2Proof.Machine
end

section
/-! # A value a format holds is kept (R74, R75) -/
open Sys2Proof
namespace Sys2Proof.Machine

/-- A significand that is one of the format's already is not shifted. -/
theorem FFmt.shift_of_held {f : FFmt} {n j : Nat} (hn0 : n ≠ 0) (hn : n < 2 ^ (f.mbits + 1)) (hj : j = 0 ∨ 2 ^ f.mbits ≤ n) :
    f.binade n (f.emin - f.mbits + j) = f.emin + j ∧ f.shift n (f.emin - f.mbits + j) = 0 := by
  have hle : Nat.log2 n < f.mbits + 1 := (Nat.log2_lt hn0).2 hn
  have hb : f.binade n (f.emin - f.mbits + j) = f.emin + j := by
    unfold FFmt.binade
    rcases hj with rfl | hj
    · split <;> omega
    · have := (Nat.le_log2 hn0).2 hj
      rw [if_neg (by omega)]; omega
  refine ⟨hb, ?_⟩
  unfold FFmt.shift
  rw [hb]
  omega
theorem roundFin_of_held {f : FFmt} {rm : RMode} {sat neg : Bool} {g : B64} {n j : Nat} (hn0 : n ≠ 0) (hn : n < 2 ^ (f.mbits + 1))
    (hj : j = 0 ∨ 2 ^ f.mbits ≤ n) (hmax : n + j * 2 ^ f.mbits ≤ f.maxPat) :
    roundFin f rm sat neg n (f.emin - f.mbits + j) g = ⟨n + j * 2 ^ f.mbits + (if neg then f.signBit else 0), 0, drawn rm g⟩ := by
  obtain ⟨hb, hs⟩ := f.shift_of_held hn0 hn hj
  have hrest : restPart n (f.shift n (f.emin - f.mbits + j)) = 0 := by rw [hs]; rfl
  have hpat : f.roundedPat rm neg n (f.emin - f.mbits + j) g = n + j * 2 ^ f.mbits := by
    rw [FFmt.roundedPat, roundedPart_of_exact hrest, hb, hs, lowerPart, if_pos le_rfl, Int.neg_zero, Int.toNat_zero, pow_zero, Nat.mul_one,
      add_sub_cancel_left, Int.toNat_natCast]
  rw [roundFin_inRange (hpat ▸ hmax), hpat, FFmt.inexactFlags, if_pos hrest]
/-- A pattern is its sign and the rest. -/
theorem FFmt.sign_add_rest {f : FFmt} {p : Nat} (hp : p < 2 ^ f.width) :
    p % f.signBit + (if (p / f.signBit % 2 == 1) = true then f.signBit else 0) = p := by
  rw [f.two_pow_width] at hp
  rw [f.sign_of_lt (f.two_pow_width ▸ hp)]
  rcases Nat.lt_or_ge p f.signBit with h | h
  · rw [if_neg (by simpa using h), Nat.mod_eq_of_lt h, Nat.add_zero]
  · rw [if_pos (by simpa using h), Nat.mod_eq_sub_mod h, Nat.mod_eq_of_lt (by omega)]; omega
theorem FFmt.Regular.roundTo_value_finite {f : FFmt} (hf : f.Regular) {p : Nat} (hp : p < 2 ^ f.width) (hfin : f.FinitePat p)
    (rm : RMode) (sat : Bool) (g : B64) : (roundTo f rm sat g (f.value p)).bits = p ∧ (roundTo f rm sat g (f.value p)).flags = 0 := by
  have hsplit := f.sign_add_rest hp
  have hmax := (hf.finitePat_iff p).1 hfin
  have hmant : p % 2 ^ f.mbits < 2 ^ f.mbits := Nat.mod_lt _ (Nat.two_pow_pos _)
  have hdm := Nat.div_add_mod' (p % f.signBit) (2 ^ f.mbits)
  rw [← f.expField_eq, ← f.mantField_eq] at hdm
  rw [f.value_finite hfin]
  split
  · next he =>
    rw [he, Nat.zero_mul, Nat.zero_add] at hdm
    by_cases h0 : p % 2 ^ f.mbits = 0
    · rw [← hdm, h0, Nat.zero_add] at hsplit
      rw [roundTo, if_pos h0]
      exact ⟨hsplit, rfl⟩
    · have hheld := roundFin_of_held (f := f) (rm := rm) (sat := sat) (neg := p / f.signBit % 2 == 1) (g := g) (j := 0) h0
        (by rw [pow_succ]; omega) (.inl rfl) (by omega)
      rw [Nat.zero_mul, Nat.add_zero, Int.natCast_zero, Int.add_zero] at hheld
      rw [roundTo, if_neg h0, hheld, hdm]
      exact ⟨hsplit, rfl⟩
  · next he =>
    obtain ⟨j, hj⟩ : ∃ j, p / 2 ^ f.mbits % 2 ^ f.ebits = j + 1 := Nat.exists_eq_succ_of_ne_zero he
    rw [hj, Nat.add_one_mul] at hdm
    have hheld := roundFin_of_held (f := f) (rm := rm) (sat := sat) (neg := p / f.signBit % 2 == 1) (g := g)
      (n := 2 ^ f.mbits + p % 2 ^ f.mbits) (j := j) (by omega) (by rw [pow_succ]; omega) (.inr (by omega)) (by omega)
    have hexp : (((j + 1 : Nat) : Int) - f.bias - f.mbits) = f.emin - f.mbits + j := by rw [emin]; push_cast; ring
    rw [roundTo, if_neg (by omega), hj, hexp, hheld,
      show 2 ^ f.mbits + p % 2 ^ f.mbits + j * 2 ^ f.mbits = p % f.signBit by omega]
    exact ⟨hsplit, rfl⟩
/-- A pattern that is neither finite nor NaN is one of the infinities. -/
theorem FFmt.inf_of_not_finite {f : FFmt} {p : Nat} (hfin : ¬ f.FinitePat p) (hnan : (f.value p).isNan = false) :
    f.nan = .ieee ∧ f.value p = .inf (p / f.signBit % 2 == 1) ∧ p % f.signBit = f.infPat := by
  rw [FinitePat, ← not_or, not_not] at hfin
  rcases hfin with ⟨hn, he⟩ | ⟨hn, he, hm⟩
  · have hval := value_ieee hn he
    split at hval
    · next h0 =>
      have hdm := Nat.div_add_mod' (p % f.signBit) (2 ^ f.mbits)
      rw [← f.expField_eq, ← f.mantField_eq, he, h0, Nat.add_zero] at hdm
      exact ⟨hn, hval, hdm.symm⟩
    · rw [hval] at hnan
      exact absurd hnan (by decide)
  · rw [value_e4 hn he hm] at hnan
    exact absurd hnan (by decide)
/-- Rounding a value that a format holds gives its pattern back, without a flag. -/
theorem FFmt.Regular.roundTo_value {f : FFmt} (hf : f.Regular) {p : Nat} (hp : p < 2 ^ f.width) (hnan : (f.value p).isNan = false)
    (rm : RMode) (sat : Bool) (g : B64) : (roundTo f rm sat g (f.value p)).bits = p ∧ (roundTo f rm sat g (f.value p)).flags = 0 := by
  by_cases hfin : f.FinitePat p
  · exact hf.roundTo_value_finite hp hfin rm sat g
  · obtain ⟨hn, hval, hrest⟩ := f.inf_of_not_finite hfin hnan
    have hsplit := f.sign_add_rest hp
    rw [hrest] at hsplit
    rw [hval, roundTo, if_pos (hf.inf_iff.2 hn), Nat.add_comm]
    exact ⟨hsplit, rfl⟩
theorem regular_precFmt (p : Prec) : (precFmt p).Regular := by
  cases p
  · exact regular_of_mem (f := fmtF32) (by decide)
  · exact regular_of_mem (f := fmtF64) (by decide)

/-- Settles O16: a finite pattern's significand is not shifted, so nothing is left of it to round; an infinity is kept. -/
theorem roundingKeepsValues : Obligations.RoundingKeepsValues := by
  unfold Obligations.RoundingKeepsValues
  exact fun p rm sat g x hx hnan => (regular_precFmt p).roundTo_value hx hnan rm sat g

end Sys2Proof.Machine
end

section
/-! # Quotients and roots: a truncation with a sticky bit rounds as the exact value does (R75, R79) -/
open Sys2Proof
namespace Sys2Proof.Machine

/-! ## Reals on the same side of every boundary -/

/-- No multiple of `2^d` separates `a` from `b`, for every `d` at most `c` binades below `a`. -/
def SameOrder (a b : ℝ) (c : Nat) : Prop :=
  ∀ d : Int, a < (2 : ℝ) ^ (d + c) → ∀ j : Nat, ((j : ℝ) * 2 ^ d ≤ a ↔ (j : ℝ) * 2 ^ d ≤ b) ∧ (a ≤ (j : ℝ) * 2 ^ d ↔ b ≤ (j : ℝ) * 2 ^ d)
theorem SameOrder.eq_iff {a b : ℝ} {c : Nat} (h : SameOrder a b c) {d : Int} (hd : a < (2 : ℝ) ^ (d + c)) (j : Nat) :
    (j : ℝ) * 2 ^ d = a ↔ (j : ℝ) * 2 ^ d = b := by
  rw [le_antisymm_iff, le_antisymm_iff, (h d hd j).1, (h d hd j).2]
/-- R74: a mode chooses alike for two fractions that no multiple of `2^-24` separates. -/
theorem takesUpper_congr {rm : RMode} {p q : Prop} {k : Nat} {x y : ℝ} {r : B64} (hpq : p ↔ q)
    (h : ∀ t : Nat, ((t : ℝ) ≤ x * 2 ^ 24 ↔ (t : ℝ) ≤ y * 2 ^ 24) ∧ (x * 2 ^ 24 ≤ t ↔ y * 2 ^ 24 ≤ t)) :
    TakesUpper rm p k x r ↔ TakesUpper rm q k y r := by
  obtain ⟨h1, h2⟩ := h (2 ^ 23)
  have hle (z : ℝ) : ((2 ^ 23 : Nat) : ℝ) ≤ z * 2 ^ 24 ↔ 1 / 2 ≤ z := by push_cast; constructor <;> intro <;> linarith
  have hge (z : ℝ) : z * 2 ^ 24 ≤ ((2 ^ 23 : Nat) : ℝ) ↔ z ≤ 1 / 2 := by push_cast; constructor <;> intro <;> linarith
  rw [hle, hle] at h1
  rw [hge, hge] at h2
  cases rm with
  | rne => simp only [TakesUpper, ← not_le, h2, le_antisymm_iff, h1]
  | rtz => rfl
  | rdn => exact hpq
  | rup => exact not_congr hpq
  | rna => exact h1
  | sto => simp only [TakesUpper, (h _).1]
  | dyn => rfl
theorem roundsAt_of_sameOrder {rm : RMode} {v w : ℝ} {r : B64} {n c : Nat} {e : Int} (hneg : v < 0 ↔ w < 0) (hn : SameOrder |v| |w| c)
    (hd : |v| < (2 : ℝ) ^ (e - 24 + c)) (h : RoundsAt rm v ((2 : ℝ) ^ e) r n) : RoundsAt rm w ((2 : ℝ) ^ e) r n := by
  have hq : (0 : ℝ) < 2 ^ e := two_zpow_pos e
  have hsplit : (2 : ℝ) ^ e = 2 ^ 24 * 2 ^ (e - 24) := by rw [← zpow_natCast, ← zpow_add₀ two_ne_zero]; congr 1; push_cast; ring
  have hcast (k : Nat) : (k : ℝ) * 2 ^ e = ((k * 2 ^ 24 : Nat) : ℝ) * 2 ^ (e - 24) := by rw [hsplit]; push_cast; ring
  have hle (k : Nat) : (k : ℝ) * 2 ^ e ≤ |v| ↔ (k : ℝ) * 2 ^ e ≤ |w| := by rw [hcast]; exact (hn _ hd _).1
  have heq (k : Nat) : (k : ℝ) * 2 ^ e = |v| ↔ (k : ℝ) * 2 ^ e = |w| := by rw [hcast]; exact hn.eq_iff hd _
  obtain ⟨k, hlo, hhi, hexact, hinexact⟩ := h
  have hfrac (a : ℝ) (t : Nat) : ((t : ℝ) ≤ (a - k * 2 ^ e) / 2 ^ e * 2 ^ 24 ↔ ((k * 2 ^ 24 + t : Nat) : ℝ) * 2 ^ (e - 24) ≤ a) ∧
      ((a - k * 2 ^ e) / 2 ^ e * 2 ^ 24 ≤ t ↔ a ≤ ((k * 2 ^ 24 + t : Nat) : ℝ) * 2 ^ (e - 24)) := by
    have hq' : (0 : ℝ) < 2 ^ (e - 24) := two_zpow_pos _
    have hval : (a - k * 2 ^ e) / 2 ^ e * 2 ^ 24 = (a - k * 2 ^ 24 * 2 ^ (e - 24)) / 2 ^ (e - 24) := by
      rw [hsplit]; field_simp
    rw [hval, le_div_iff₀ hq', div_le_iff₀ hq']
    push_cast
    constructor <;> constructor <;> intro <;> linarith
  have htakes : TakesUpper rm (v < 0) k ((|v| - k * 2 ^ e) / 2 ^ e) r ↔ TakesUpper rm (w < 0) k ((|w| - k * 2 ^ e) / 2 ^ e) r := by
    refine takesUpper_congr hneg fun t => ?_
    rw [(hfrac _ t).1, (hfrac _ t).2, (hfrac _ t).1, (hfrac _ t).2]
    exact hn _ hd _
  refine ⟨k, (hle k).1 hlo, ?_, fun h0 => hexact ((heq k).2 h0), fun h0 => ?_⟩
  · have := not_le.2 hhi
    rw [← Nat.cast_add_one, hle, not_le] at this
    exact_mod_cast this
  · rw [← htakes]
    exact hinexact (fun h1 => h0 ((heq k).1 h1))
/-- R75 to R77: what `v` is rounded to, `w` is too, if no boundary of the format lies between them. -/
theorem Rounds.of_sameOrder {f : FFmt} {rm : RMode} {sat : Bool} {g : B64} {v w : ℝ} {o : Rounded} (h : Rounds f rm sat g v o)
    (hneg : v < 0 ↔ w < 0) (hpos : 0 < v ↔ 0 < w) (hn : SameOrder |v| |w| (f.mbits + 25)) : Rounds f rm sat g w o := by
  obtain ⟨hgen, e, n, top, hemin, hlt, hbin, hat, htop, hover, hin⟩ := h
  have hd : |v| < (2 : ℝ) ^ (e - f.mbits - 24 + (f.mbits + 25 : Nat)) := by
    convert hlt using 2; push_cast; ring
  have hpow (i : Nat) : (2 : ℝ) ^ (e - f.mbits - 24 + i) = ((2 ^ i : Nat) : ℝ) * 2 ^ (e - f.mbits - 24) := by
    rw [zpow_add₀ two_ne_zero, zpow_natCast, mul_comm]; push_cast; rfl
  have hle {k : Int} (hk : e - f.mbits - 24 ≤ k) : (2 : ℝ) ^ k ≤ |v| ↔ (2 : ℝ) ^ k ≤ |w| := by
    obtain ⟨i, rfl⟩ : ∃ i : Nat, k = e - f.mbits - 24 + i := ⟨(k - (e - f.mbits - 24)).toNat, by omega⟩
    rw [hpow]; exact (hn _ hd _).1
  have hexact : (n : ℝ) * 2 ^ (e - (f.mbits : Int)) = |v| ↔ (n : ℝ) * 2 ^ (e - (f.mbits : Int)) = |w| := by
    have : (n : ℝ) * 2 ^ (e - (f.mbits : Int)) = ((n * 2 ^ 24 : Nat) : ℝ) * 2 ^ (e - f.mbits - 24) := by
      have h24 := hpow 24
      rw [show e - (f.mbits : Int) - 24 + (24 : Nat) = e - f.mbits by push_cast; ring] at h24
      rw [h24]; push_cast; ring
    rw [this]; exact hn.eq_iff hd _
  have htiny : |v| < (2 : ℝ) ^ f.emin ↔ |w| < (2 : ℝ) ^ f.emin := by
    rcases hbin with rfl | hb
    · rw [← not_le, ← not_le, hle (by omega)]
    · have hmono : (2 : ℝ) ^ f.emin ≤ 2 ^ e := zpow_le_zpow_right₀ one_le_two hemin
      exact iff_of_false (not_lt.2 (hmono.trans hb)) (not_lt.2 (hmono.trans ((hle (by omega)).1 hb)))
  have hsign : (if w < 0 then f.signBit else 0) = if v < 0 then f.signBit else 0 := if_congr hneg.symm rfl rfl
  refine ⟨hgen, e, n, top, hemin, ?_, hbin.imp_right (hle (by omega)).1, roundsAt_of_sameOrder hneg hn hd hat, htop, fun h => ?_, fun h => ?_⟩
  · rwa [← not_le, ← hle (by omega), not_le]
  · rw [hsign]
    simpa only [hneg, hpos] using hover h
  · rw [hsign]
    simpa only [ne_eq, hexact, htiny] using hin h

/-! ## Sticky bits -/

/-- Twice a truncation `q` of `y`, with an odd last bit where `y` is not `q`. -/
def Sticky (y : ℝ) (q m : Nat) : Prop := (y = q ∧ m = 2 * q) ∨ ((q : ℝ) < y ∧ y < q + 1 ∧ m = 2 * q + 1)
/-- A sticky truncation of more than `c` bits lies on the same side of every boundary as the exact value. -/
theorem Sticky.sameOrder {y : ℝ} {q m c : Nat} (h : Sticky y q m) (hq : 2 ^ c ≤ q) (e : Int) :
    SameOrder ((m : ℝ) * 2 ^ e) (y * 2 ^ (e + 1)) c := by
  intro d hd j
  have he := two_zpow_pos (e + 1)
  have hm : 2 ^ (c + 1) ≤ m := by rw [pow_succ]; rcases h with ⟨-, rfl⟩ | ⟨-, -, rfl⟩ <;> omega
  have hed : e + 1 ≤ d := by
    have h1 : (2 : ℝ) ^ ((c + 1 : Nat) + e) < 2 ^ (d + c) := by
      rw [zpow_add₀ two_ne_zero, zpow_natCast]
      exact (mul_le_mul_of_nonneg_right (by exact_mod_cast hm) (two_zpow_pos e).le).trans_lt hd
    have := (zpow_lt_zpow_iff_right₀ one_lt_two).1 h1
    push_cast at this
    omega
  obtain ⟨i, rfl⟩ : ∃ i : Nat, d = i + (e + 1) := ⟨(d - (e + 1)).toNat, by omega⟩
  have hj : (j : ℝ) * 2 ^ ((i : Int) + (e + 1)) = ((j * 2 ^ i : Nat) : ℝ) * 2 ^ (e + 1) := by
    rw [zpow_add₀ two_ne_zero, zpow_natCast]; push_cast; ring
  have hm2 : (m : ℝ) * 2 ^ e = (m : ℝ) / 2 * 2 ^ (e + 1) := by rw [zpow_add_one₀ two_ne_zero]; ring
  rw [hj, hm2, mul_le_mul_iff_of_pos_right he, mul_le_mul_iff_of_pos_right he, mul_le_mul_iff_of_pos_right he,
    mul_le_mul_iff_of_pos_right he]
  generalize j * 2 ^ i = k
  rcases h with ⟨rfl, rfl⟩ | ⟨hlo, hhi, rfl⟩
  · push_cast; constructor <;> constructor <;> intro <;> linarith
  · rcases Nat.lt_or_ge q k with hk | hk
    · have : (q : ℝ) + 1 ≤ k := by exact_mod_cast hk
      push_cast
      exact ⟨iff_of_false (by linarith) (by linarith), iff_of_true (by linarith) (by linarith)⟩
    · have : (k : ℝ) ≤ q := by exact_mod_cast hk
      push_cast
      exact ⟨iff_of_true (by linarith) (by linarith), iff_of_false (by linarith) (by linarith)⟩
/-- R75 to R77: a sticky truncation is rounded as the exact value. -/
theorem FFmt.Regular.rounds_sticky {f : FFmt} (hf : f.Regular) {rm : RMode} {sat : Bool} {g : B64} {y w : ℝ} {q m : Nat} {s : Bool} {e : Int}
    (h : Sticky y q m) (hq : 2 ^ 77 ≤ q) (hw : w = signFactor s * (y * 2 ^ (e + 1))) : Rounds f rm sat g w (roundTo f rm sat g (.fin s m e)) := by
  have hq1 : (1 : ℝ) ≤ q := by exact_mod_cast (Nat.one_le_two_pow (n := 77)).trans hq
  have hy : 0 < y := by rcases h with ⟨rfl, -⟩ | ⟨h1, -, -⟩ <;> linarith
  have hm : m ≠ 0 := by rcases h with ⟨-, rfl⟩ | ⟨-, -, rfl⟩ <;> omega
  have hpos : 0 < y * 2 ^ (e + 1) := mul_pos hy (two_zpow_pos _)
  have hne : signFactor s * (m : ℝ) * 2 ^ e ≠ 0 := fun h0 => hm (fin_value_eq_zero.1 h0)
  have hwneg : w < 0 ↔ s = true := by
    cases s
    · simp [hw, signFactor, hpos.le]
    · simp [hw, signFactor, hpos]
  have hneg : signFactor s * (m : ℝ) * 2 ^ e < 0 ↔ w < 0 := (fin_value_neg hm).trans hwneg.symm
  have hwne : w ≠ 0 := by rcases signFactor_eq s with h | h <;> rw [hw, h] <;> simp [hpos.ne']
  refine (hf.rounds_roundTo (FV.fin_is s m e) hne).of_sameOrder hneg ?_ ?_
  · rw [lt_iff_le_and_ne, lt_iff_le_and_ne, ← not_lt, ← not_lt, hneg]
    exact and_congr_right fun _ => iff_of_true hne.symm hwne.symm
  · rw [abs_fin_value, hw, abs_signFactor_mul, abs_of_pos hpos]
    exact h.sameOrder ((Nat.pow_le_pow_right two_pos (by have := hf.mbits_le; omega)).trans hq) e

/-! ## Quotients -/

theorem sticky_div (a n : Nat) (hn : n ≠ 0) : Sticky ((a : ℝ) / n) (a / n) (2 * (a / n) + (if a % n = 0 then 0 else 1)) := by
  have hpos : (0 : ℝ) < n := by exact_mod_cast Nat.pos_of_ne_zero hn
  have hdm : (a : ℝ) = n * (a / n : Nat) + (a % n : Nat) := by exact_mod_cast (Nat.div_add_mod a n).symm
  have hmod : ((a % n : Nat) : ℝ) < n := by exact_mod_cast Nat.mod_lt a (Nat.pos_of_ne_zero hn)
  by_cases h : a % n = 0
  · refine .inl ⟨?_, by rw [if_pos h, Nat.add_zero]⟩
    rw [h, Nat.cast_zero, add_zero] at hdm
    rw [div_eq_iff hpos.ne', hdm, mul_comm]
  · have hrest : (0 : ℝ) < (a % n : Nat) := by exact_mod_cast Nat.pos_of_ne_zero h
    refine .inr ⟨?_, ?_, by rw [if_neg h]⟩
    · rw [lt_div_iff₀ hpos]; linarith
    · rw [div_lt_iff₀ hpos]; linarith
/-- R75, R79: a quotient is rounded as the exact one. -/
theorem FFmt.Regular.rounds_div {f : FFmt} (hf : f.Regular) {rm : RMode} {sat : Bool} {g : B64} {x y : FV} {v w : ℝ} (hx : x.Is v) (hy : y.Is w)
    (hw : w ≠ 0) (hv : v ≠ 0) : Rounds f rm sat g (v / w) (roundTo f rm sat g (divFV x y).1) ∧ (divFV x y).2 = 0 := by
  obtain ⟨s, m, e, rfl, hvx⟩ := FV.is_iff.1 hx
  obtain ⟨t, n, h, rfl, hwy⟩ := FV.is_iff.1 hy
  have hm : m ≠ 0 := fun h0 => hv (by rw [hvx, fin_value_eq_zero, h0])
  have hn : n ≠ 0 := fun h0 => hw (by rw [hwy, fin_value_eq_zero, h0])
  rw [divFV, if_neg hn, if_neg hm]
  refine ⟨hf.rounds_sticky (sticky_div _ n hn) ?_ ?_, rfl⟩
  · rw [Nat.le_div_iff_mul_le (Nat.pos_of_ne_zero hn), guardBits]
    calc 2 ^ 77 * n ≤ 2 ^ 199 * 2 ^ (Nat.log2 n + 1) := Nat.mul_le_mul (Nat.pow_le_pow_right two_pos (by decide)) Nat.lt_log2_self.le
      _ = 1 * 2 ^ (200 + Nat.log2 n) := by rw [← pow_add, Nat.one_mul]; congr 1; omega
      _ ≤ m * 2 ^ (200 + Nat.log2 n) := Nat.mul_le_mul_right _ (Nat.pos_of_ne_zero hm)
  · have hn0 : (n : ℝ) ≠ 0 := Nat.cast_ne_zero.2 hn
    have hsign : signFactor (s != t) = signFactor s / signFactor t := by cases s <;> cases t <;> simp [signFactor]
    generalize guardBits + Nat.log2 n = k
    rw [hvx, hwy, hsign, show e - h - (k : Int) - 1 + 1 = e - h - k by ring, zpow_sub₀ two_ne_zero, zpow_sub₀ two_ne_zero, zpow_natCast]
    push_cast
    have ht : signFactor t ≠ 0 := by rcases signFactor_eq t with h | h <;> rw [h] <;> norm_num
    field_simp

/-! ## Roots -/

theorem isqrtFrom_spec (n b r : Nat) (hlo : r * r ≤ n) (hhi : n < (r + 2 ^ (b + 1)) * (r + 2 ^ (b + 1))) :
    isqrtFrom n b r * isqrtFrom n b r ≤ n ∧ n < (isqrtFrom n b r + 1) * (isqrtFrom n b r + 1) := by
  induction b generalizing r with
  | zero =>
    rw [isqrtFrom]
    split
    · next h => exact ⟨h, hhi⟩
    · next h => exact ⟨hlo, Nat.not_le.1 h⟩
  | succ b ih =>
    rw [isqrtFrom]
    split
    · next h =>
      refine ih _ h ?_
      rwa [Nat.add_assoc, ← Nat.two_mul, ← Nat.pow_succ']
    · next h => exact ih _ hlo (Nat.not_le.1 h)
theorem isqrt_spec (n : Nat) : isqrt n * isqrt n ≤ n ∧ n < (isqrt n + 1) * (isqrt n + 1) := by
  refine isqrtFrom_spec n _ 0 (Nat.zero_le n) ?_
  rw [Nat.zero_add, ← pow_add]
  exact Nat.lt_log2_self.trans_le (Nat.pow_le_pow_right two_pos (by omega))
theorem two_pow_le_isqrt {n b : Nat} (h : 2 ^ (2 * b) ≤ n) : 2 ^ b ≤ isqrt n := by
  by_contra hlt
  have h1 : (isqrt n + 1) * (isqrt n + 1) ≤ 2 ^ b * 2 ^ b := Nat.mul_le_mul (by omega) (by omega)
  rw [← pow_add, ← Nat.two_mul] at h1
  exact absurd ((isqrt_spec n).2.trans_le h1) (Nat.not_lt.2 h)
theorem sticky_sqrt (n : Nat) : Sticky (Real.sqrt n) (isqrt n) (2 * isqrt n + (if isqrt n * isqrt n = n then 0 else 1)) := by
  obtain ⟨hlo, hhi⟩ := isqrt_spec n
  have hr : (0 : ℝ) ≤ isqrt n := Nat.cast_nonneg _
  by_cases h : isqrt n * isqrt n = n
  · refine .inl ⟨?_, by rw [if_pos h, Nat.add_zero]⟩
    rw [Real.sqrt_eq_iff_mul_self_eq (Nat.cast_nonneg n) hr]
    exact_mod_cast h.symm
  · refine .inr ⟨?_, ?_, by rw [if_neg h]⟩
    · rw [Real.lt_sqrt hr, sq]
      exact_mod_cast lt_of_le_of_ne hlo h
    · rw [Real.sqrt_lt' (by linarith), sq]
      exact_mod_cast hhi
theorem sqrt_mul_even_zpow (x : ℝ) (k : Int) : Real.sqrt (x * 2 ^ (2 * k)) = Real.sqrt x * 2 ^ k := by
  rw [Real.sqrt_mul' _ (two_zpow_pos _).le, mul_comm 2 k, zpow_mul, zpow_ofNat, Real.sqrt_sq (two_zpow_pos k).le]
/-- The model makes the exponent of a root's operand even, which keeps its value. -/
theorem even_exponent (m : Nat) (e : Int) : ∃ (a : Nat) (k : Int), (if (e % 2 != 0) = true then 2 * m else m) = a ∧
    (if (e % 2 != 0) = true then e - 1 else e) = 2 * k ∧ (m : ℝ) * 2 ^ e = a * 2 ^ (2 * k) := by
  rcases Int.emod_two_eq_zero_or_one e with h | h
  · exact ⟨m, e / 2, by simp [h], by simp [h]; omega, by congr 2; omega⟩
  · refine ⟨2 * m, (e - 1) / 2, by simp [h], by simp [h]; omega, ?_⟩
    have he : e = 2 * ((e - 1) / 2) + 1 := by omega
    conv_lhs => rw [he, zpow_add_one₀ two_ne_zero]
    push_cast
    ring
/-- R75, R79: a root is rounded as the exact one. -/
theorem FFmt.Regular.rounds_sqrt {f : FFmt} (hf : f.Regular) {rm : RMode} {sat : Bool} {g : B64} {x : FV} {v : ℝ} (hx : x.Is v)
    (hv : 0 < v) : Rounds f rm sat g (Real.sqrt v) (roundTo f rm sat g (sqrtFV x).1) ∧ (sqrtFV x).2 = 0 := by
  obtain ⟨s, m, e, rfl, hvx⟩ := FV.is_iff.1 hx
  have hm : m ≠ 0 := fun h0 => hv.ne' (by rw [hvx, fin_value_eq_zero, h0])
  obtain rfl : s = false := by
    rw [← Bool.not_eq_true, ← fin_value_neg (e := e) hm, ← hvx]
    exact not_lt.2 hv.le
  rw [sqrtFV, if_neg hm, if_neg Bool.false_ne_true]
  rw [signFactor, if_neg Bool.false_ne_true, one_mul] at hvx
  obtain ⟨a, k, ha, hk, hval⟩ := even_exponent m e
  have ha1 : 1 ≤ a := by split at ha <;> omega
  have hbits : 77 ≤ guardBits := by decide
  simp only [ha, hk]
  generalize guardBits = b at hbits ⊢
  refine ⟨hf.rounds_sticky (sticky_sqrt (a * 2 ^ (2 * b))) ?_ ?_, trivial⟩
  · refine two_pow_le_isqrt ((Nat.pow_le_pow_right two_pos ?_).trans (Nat.le_mul_of_pos_left _ ha1))
    omega
  · rw [hvx, hval, sqrt_mul_even_zpow, signFactor, if_neg Bool.false_ne_true, one_mul,
      show (2 * k - 2 * (b : Int)) / 2 - 1 + 1 = k - b by omega]
    push_cast
    rw [← zpow_natCast, Nat.cast_mul, Nat.cast_ofNat, sqrt_mul_even_zpow, zpow_sub₀ two_ne_zero, mul_assoc, mul_div_cancel₀]
    exact (two_zpow_pos _).ne'

end Sys2Proof.Machine
end

section
/-! # Exact operations and the order of values (R79, R106) -/
open Sys2Proof
namespace Sys2Proof.Machine

/-! ## Sums -/

theorem signedAt_mul (s : Bool) (m : Nat) {e lo : Int} (h : lo ≤ e) :
    (signedAt s m e lo : ℝ) * 2 ^ lo = signFactor s * m * 2 ^ e := by
  obtain ⟨k, rfl⟩ : ∃ k : Nat, e = lo + k := ⟨(e - lo).toNat, by omega⟩
  rw [signedAt, add_sub_cancel_left, Int.toNat_natCast, zpow_add₀ two_ne_zero, zpow_natCast]
  cases s <;> simp [signFactor] <;> ring
/-- An integer's sign and magnitude. -/
theorem signFactor_natAbs (i : Int) : signFactor (decide (i < 0)) * (i.natAbs : ℝ) = i := by
  rcases Int.lt_or_le i 0 with h | h
  · rw [decide_eq_true h, signFactor, if_pos rfl, Nat.cast_natAbs, abs_of_neg h]; push_cast; ring
  · rw [decide_eq_false (Int.not_lt.2 h), signFactor, if_neg Bool.false_ne_true, Nat.cast_natAbs, abs_of_nonneg h, one_mul]
/-- The two significands of a sum at their common exponent. -/
def alignedSum (s : Bool) (m : Nat) (e : Int) (t : Bool) (n : Nat) (h : Int) : Int := signedAt s m e (min e h) + signedAt t n h (min e h)
theorem alignedSum_mul (s : Bool) (m : Nat) (e : Int) (t : Bool) (n : Nat) (h : Int) :
    (alignedSum s m e t n h : ℝ) * 2 ^ min e h = signFactor s * m * 2 ^ e + signFactor t * n * 2 ^ h := by
  rw [alignedSum, Int.cast_add, add_mul, signedAt_mul s m (min_le_left e h), signedAt_mul t n (min_le_right e h)]
theorem alignedSum_eq_zero {s t : Bool} {m n : Nat} {e h : Int} :
    alignedSum s m e t n h = 0 ↔ signFactor s * (m : ℝ) * 2 ^ e + signFactor t * (n : ℝ) * 2 ^ h = 0 := by
  rw [← alignedSum_mul, mul_eq_zero, or_iff_left (two_zpow_pos _).ne', Int.cast_eq_zero]
theorem addFV_fin (rm : RMode) (s : Bool) (m : Nat) (e : Int) (t : Bool) (n : Nat) (h : Int) :
    addFV rm (.fin s m e) (.fin t n h) = if m = 0 ∧ n = 0 ∧ s = t then (.fin s 0 0, 0)
      else if alignedSum s m e t n h = 0 then (.fin (rm == .rdn) 0 0, 0)
      else (.fin (alignedSum s m e t n h < 0) (alignedSum s m e t n h).natAbs (min e h), 0) := rfl

section
variable {x y z : FV} {v w u : ℝ}

theorem addFV_is (rm : RMode) (hx : x.Is v) (hy : y.Is w) (h0 : v + w ≠ 0) : (addFV rm x y).1.Is (v + w) := by
  obtain ⟨s, m, e, rfl, hv⟩ := FV.is_iff.1 hx
  obtain ⟨t, n, h, rfl, hw⟩ := FV.is_iff.1 hy
  rw [hv, hw] at h0 ⊢
  rw [addFV_fin, if_neg, if_neg (mt alignedSum_eq_zero.1 h0)]
  · rw [FV.fin_is_iff, signFactor_natAbs, alignedSum_mul]
  · rintro ⟨rfl, rfl, -⟩
    simp at h0
theorem addFV_cancels (rm : RMode) (hx : x.Is v) (hy : y.Is w) (h0 : v + w = 0) :
    ∃ e, (addFV rm x y).1 = .fin (if v = 0 ∧ x.sgn = y.sgn then x.sgn else decide (rm = .rdn)) 0 e := by
  obtain ⟨s, m, e, rfl, hv⟩ := FV.is_iff.1 hx
  obtain ⟨t, n, h, rfl, hw⟩ := FV.is_iff.1 hy
  have hm : v = 0 ↔ m = 0 := by rw [hv, fin_value_eq_zero]
  have hn : w = 0 ↔ n = 0 := by rw [hw, fin_value_eq_zero]
  have hboth : v = 0 ∧ s = t ↔ m = 0 ∧ n = 0 ∧ s = t := by
    rw [← hm, ← hn]
    exact ⟨fun ⟨h1, h2⟩ => ⟨h1, by linarith, h2⟩, fun ⟨h1, _, h2⟩ => ⟨h1, h2⟩⟩
  refine ⟨0, ?_⟩
  rw [addFV_fin]
  simp only [FV.sgn, hboth]
  rw [hv, hw] at h0
  split
  · rfl
  · rw [if_pos (alignedSum_eq_zero.2 h0)]; rfl
theorem addFV_flags (rm : RMode) (hx : x.Is v) (hy : y.Is w) : (addFV rm x y).2 = 0 := by
  obtain ⟨s, m, e, rfl, -⟩ := hx
  obtain ⟨t, n, h, rfl, -⟩ := hy
  rw [addFV_fin]
  split
  · rfl
  · split <;> rfl

/-! ## Products, quotients and roots -/

theorem signFactor_bne (s t : Bool) : signFactor (s != t) = signFactor s * signFactor t := by cases s <;> cases t <;> simp [signFactor]
theorem mulFV_is (hx : x.Is v) (hy : y.Is w) : (mulFV x y).1.Is (v * w) ∧ (mulFV x y).1.sgn = (x.sgn != y.sgn) ∧ (mulFV x y).2 = 0 := by
  obtain ⟨s, m, e, rfl, hv⟩ := FV.is_iff.1 hx
  obtain ⟨t, n, h, rfl, hw⟩ := FV.is_iff.1 hy
  refine ⟨FV.fin_is_iff.2 ?_, rfl, rfl⟩
  rw [hv, hw, signFactor_bne, zpow_add₀ two_ne_zero]
  push_cast
  ring
theorem FV.Is.eq_zero_iff {s : Bool} {m : Nat} {e : Int} (h : (FV.fin s m e).Is v) : v = 0 ↔ m = 0 := by
  rw [FV.fin_is_iff.1 h, fin_value_eq_zero]
theorem divFV_zero_dividend (hx : x.Is v) (hy : y.Is w) (hw : w ≠ 0) (hv : v = 0) :
    ∃ e, divFV x y = (.fin (x.sgn != y.sgn) 0 e, 0) := by
  obtain ⟨s, m, e, rfl, -⟩ := id hx
  obtain ⟨t, n, h, rfl, -⟩ := id hy
  refine ⟨0, ?_⟩
  rw [divFV, if_neg (mt hy.eq_zero_iff.2 hw), if_pos (hx.eq_zero_iff.1 hv)]; rfl
theorem divFV_zero_divisor (hx : x.Is v) (hy : y.Is w) (hw : w = 0) :
    divFV x y = if v = 0 then (.nan, flagNV) else (.inf (x.sgn != y.sgn), flagDZ) := by
  obtain ⟨s, m, e, rfl, -⟩ := id hx
  obtain ⟨t, n, h, rfl, -⟩ := id hy
  rw [divFV, if_pos (hy.eq_zero_iff.1 hw)]
  exact if_congr hx.eq_zero_iff.symm rfl rfl
theorem sqrtFV_zero (hx : x.Is v) (hv : v = 0) : ∃ e, sqrtFV x = (.fin x.sgn 0 e, 0) := by
  obtain ⟨s, m, e, rfl, -⟩ := id hx
  exact ⟨0, if_pos (hx.eq_zero_iff.1 hv)⟩
theorem sqrtFV_neg (hx : x.Is v) (hv : v < 0) : sqrtFV x = (.nan, flagNV) := by
  obtain ⟨s, m, e, rfl, -⟩ := id hx
  have hm : m ≠ 0 := mt hx.eq_zero_iff.2 hv.ne
  have hs : s = true := (fin_value_neg hm).1 (FV.fin_is_iff.1 hx ▸ hv)
  exact (if_neg hm).trans (if_pos hs)

/-! ## A fused product and sum -/

theorem fmaFV_eq (rm : RMode) (z x y : FV) :
    fmaFV rm z x y = ((addFV rm (mulFV x y).1 z).1, (mulFV x y).2 ||| (addFV rm (mulFV x y).1 z).2) := rfl
theorem fmaFV_is (rm : RMode) (hx : x.Is v) (hy : y.Is w) (hz : z.Is u) (h0 : v * w + u ≠ 0) : (fmaFV rm z x y).1.Is (v * w + u) :=
  addFV_is rm (mulFV_is hx hy).1 hz h0
theorem fmaFV_cancels (rm : RMode) (hx : x.Is v) (hy : y.Is w) (hz : z.Is u) (h0 : v * w + u = 0) :
    ∃ e, (fmaFV rm z x y).1 = .fin (if v * w = 0 ∧ (x.sgn != y.sgn) = z.sgn then z.sgn else decide (rm = .rdn)) 0 e := by
  obtain ⟨hp, hs, -⟩ := mulFV_is hx hy
  obtain ⟨e, he⟩ := addFV_cancels rm hp hz h0
  refine ⟨e, he.trans ?_⟩
  rw [hs]
  congr 1
  split
  · next h => exact h.2
  · rfl
theorem fmaFV_flags (rm : RMode) (hx : x.Is v) (hy : y.Is w) (hz : z.Is u) : (fmaFV rm z x y).2 = 0 := by
  rw [fmaFV_eq, (mulFV_is hx hy).2.2, addFV_flags rm (mulFV_is hx hy).1 hz]; rfl
end

/-! ## Order (R106) -/

/-- The place of a value in the extended reals; a NaN has none, and is put at zero. -/
noncomputable def FV.place : FV → EReal
  | .nan => 0
  | .inf s => if s = true then ⊥ else ⊤
  | .fin s m e => ((signFactor s * (m : ℝ) * 2 ^ e : ℝ) : EReal)
theorem FV.Is.place_eq {x : FV} {v : ℝ} (h : x.Is v) : x.place = (v : EReal) := by
  obtain ⟨s, m, e, rfl, rfl⟩ := h; rfl
theorem FV.place_fin_ne (s : Bool) (m : Nat) (e : Int) : (FV.fin s m e).place ≠ ⊥ ∧ (FV.fin s m e).place ≠ ⊤ :=
  ⟨EReal.coe_ne_bot _, EReal.coe_ne_top _⟩
/-- The sign of a comparison of two things in a linear order. -/
noncomputable def orderSign {α : Type} [LinearOrder α] (a b : α) : Int := if a < b then -1 else if a = b then 0 else 1
theorem sign_sub_eq_orderSign (a b : Int) : Int.sign (a - b) = orderSign a b := by
  unfold orderSign
  split
  · exact Int.sign_eq_neg_one_of_neg (by omega)
  · split
    · rw [Int.sign_eq_zero_iff_zero]; omega
    · exact Int.sign_eq_one_of_pos (by omega)
theorem cmpFV_fin (s : Bool) (m : Nat) (e : Int) (t : Bool) (n : Nat) (h : Int) :
    cmpFV (.fin s m e) (.fin t n h) = some (orderSign (signFactor s * (m : ℝ) * 2 ^ e) (signFactor t * (n : ℝ) * 2 ^ h)) := by
  have hpos := two_zpow_pos (min e h)
  rw [← signedAt_mul s m (min_le_left e h), ← signedAt_mul t n (min_le_right e h), orderSign]
  simp only [mul_lt_mul_iff_of_pos_right hpos, mul_left_inj' hpos.ne', Int.cast_lt, Int.cast_inj]
  exact congrArg some (sign_sub_eq_orderSign _ _)
/-- Two values that are not NaN compare as their places do. -/
theorem cmpFV_eq {x y : FV} (hx : x.isNan = false) (hy : y.isNan = false) : cmpFV x y = some (orderSign x.place y.place) := by
  cases x with
  | nan => cases hx
  | inf s =>
    cases y with
    | nan => cases hy
    | inf t => cases s <;> cases t <;> simp [cmpFV, FV.place, orderSign]
    | fin t n h =>
      obtain ⟨hb, ht⟩ := FV.place_fin_ne t n h
      cases s
      · simp [cmpFV, orderSign, show (FV.inf false).place = ⊤ from rfl, ht.symm]
      · simp [cmpFV, orderSign, show (FV.inf true).place = ⊥ from rfl, hb]
  | fin s m e =>
    cases y with
    | nan => cases hy
    | inf t =>
      obtain ⟨hb, ht⟩ := FV.place_fin_ne s m e
      cases t
      · simp [cmpFV, orderSign, show (FV.inf false).place = ⊤ from rfl, ht]
      · simp [cmpFV, orderSign, show (FV.inf true).place = ⊥ from rfl, hb]
    | fin t n h =>
      rw [cmpFV_fin, orderSign, orderSign]
      simp only [FV.place, EReal.coe_lt_coe_iff, EReal.coe_eq_coe_iff]
theorem cmpFV_nan_left (y : FV) : cmpFV .nan y = none := rfl
theorem cmpFV_nan_right (x : FV) : cmpFV x .nan = none := by cases x <;> rfl
theorem orderSign_eq_neg_one {α : Type} [LinearOrder α] {a b : α} : orderSign a b = -1 ↔ a < b := by
  unfold orderSign; split
  · simp [*]
  · split <;> simp [*]
theorem orderSign_eq_zero {α : Type} [LinearOrder α] {a b : α} : orderSign a b = 0 ↔ a = b := by
  unfold orderSign; split
  · next h => simp [h.ne]
  · split <;> simp [*]
/-- The order in which −0 lies below +0. -/
theorem FV.below_iff {x y : FV} (hx : x.isNan = false) (hy : y.isNan = false) :
    x.Below y ↔ x.place < y.place ∨ (x.place = y.place ∧ (x.sgn = true ∨ y.sgn = false)) := by
  rw [Below, cmpFV_eq hx hy, Option.some_inj, Option.some_inj, orderSign_eq_neg_one, orderSign_eq_zero]
theorem FV.below_refl {x : FV} (hx : x.isNan = false) : x.Below x := by
  rw [below_iff hx hx]
  exact .inr ⟨rfl, by cases x.sgn <;> simp⟩
theorem FV.Below.trans {x y z : FV} (hx : x.isNan = false) (hy : y.isNan = false) (hz : z.isNan = false) (h1 : x.Below y)
    (h2 : y.Below z) : x.Below z := by
  rw [below_iff hx hy] at h1
  rw [below_iff hy hz] at h2
  rw [below_iff hx hz]
  rcases h1 with h1 | ⟨h1, hs1⟩
  · rcases h2 with h2 | ⟨h2, -⟩
    · exact .inl (h1.trans h2)
    · exact .inl (h2 ▸ h1)
  · rcases h2 with h2 | ⟨h2, hs2⟩
    · exact .inl (h1 ▸ h2)
    · refine .inr ⟨h1.trans h2, ?_⟩
      cases hy : y.sgn <;> simp_all
theorem minMaxFV_of_cmp (mx : Bool) {x y : FV} {c : Int} (h : cmpFV x y = some c) :
    minMaxFV mx x y = (if mx == (if c = 0 then (x.sgn || !y.sgn) else decide (c < 0)) then y else x, 0) := by
  cases x with
  | nan => cases h
  | inf s =>
    cases y with
    | nan => cases h
    | inf t => simp only [minMaxFV, h]
    | fin t n k => simp only [minMaxFV, h]
  | fin s m e =>
    cases y with
    | nan => cases h
    | inf t => simp only [minMaxFV, h]
    | fin t n k => simp only [minMaxFV, h]
theorem minMaxFV_nan_left (mx : Bool) (y : FV) : minMaxFV mx .nan y = (y, flagNV) := by cases y <;> rfl
theorem minMaxFV_nan_right (mx : Bool) (x : FV) : minMaxFV mx x .nan = (x, flagNV) := by cases x <;> rfl
/-- R106: of two values that are not NaN one lies below the other; a minimum takes that one, a maximum the other. -/
theorem minMaxFV_cases (mx : Bool) {x y : FV} (hx : x.isNan = false) (hy : y.isNan = false) :
    (minMaxFV mx x y).2 = 0 ∧
      ((x.Below y ∧ (minMaxFV mx x y).1 = if mx = true then y else x) ∨ (y.Below x ∧ (minMaxFV mx x y).1 = if mx = true then x else y)) := by
  have hc := cmpFV_eq hx hy
  rw [minMaxFV_of_cmp mx hc, FV.below_iff hx hy, FV.below_iff hy hx]
  refine ⟨rfl, ?_⟩
  rcases lt_trichotomy x.place y.place with h | h | h
  · rw [orderSign_eq_neg_one.2 h]
    exact .inl ⟨.inl h, by cases mx <;> rfl⟩
  · rw [orderSign_eq_zero.2 h]
    cases hs : x.sgn || !y.sgn with
    | true => exact .inl ⟨.inr ⟨h, by simpa using hs⟩, by cases mx <;> rfl⟩
    | false =>
      rw [Bool.or_eq_false_iff] at hs
      exact .inr ⟨.inr ⟨h.symm, .inr hs.1⟩, by cases mx <;> rfl⟩
  · have h1 : orderSign x.place y.place = 1 := by rw [orderSign, if_neg h.not_gt, if_neg h.ne']
    rw [h1]
    exact .inr ⟨.inl h, by cases mx <;> rfl⟩
theorem minMaxFV_mem (mx : Bool) {x y : FV} (hx : x.isNan = false) (hy : y.isNan = false) :
    (minMaxFV mx x y).1 = x ∨ (minMaxFV mx x y).1 = y := by
  rcases (minMaxFV_cases mx hx hy).2 with ⟨-, h⟩ | ⟨-, h⟩ <;> rw [h] <;> cases mx <;> simp
theorem minFV_below {x y : FV} (hx : x.isNan = false) (hy : y.isNan = false) :
    (minMaxFV false x y).1.Below x ∧ (minMaxFV false x y).1.Below y := by
  rcases (minMaxFV_cases false hx hy).2 with ⟨hb, h⟩ | ⟨hb, h⟩ <;> rw [h]
  · exact ⟨FV.below_refl hx, hb⟩
  · exact ⟨hb, FV.below_refl hy⟩
theorem below_maxFV {x y : FV} (hx : x.isNan = false) (hy : y.isNan = false) :
    x.Below (minMaxFV true x y).1 ∧ y.Below (minMaxFV true x y).1 := by
  rcases (minMaxFV_cases true hx hy).2 with ⟨hb, h⟩ | ⟨hb, h⟩ <;> rw [h]
  · exact ⟨hb, FV.below_refl hy⟩
  · exact ⟨FV.below_refl hx, hb⟩

/-! ## Infinities and NaNs (R79) -/

section
variable {x : FV} {v : ℝ}

theorem FV.Is.isNan (h : x.Is v) : x.isNan = false := by obtain ⟨s, m, e, rfl, -⟩ := h; rfl
theorem FV.isNan_iff : x.isNan = true ↔ x = .nan := by cases x <;> simp [FV.isNan]
theorem addFV_inf_left (rm : RMode) (s : Bool) (h : x.Is v) : addFV rm (.inf s) x = (.inf s, 0) := by
  obtain ⟨t, m, e, rfl, -⟩ := h; rfl
theorem addFV_inf_right (rm : RMode) (s : Bool) (h : x.Is v) : addFV rm x (.inf s) = (.inf s, 0) := by
  obtain ⟨t, m, e, rfl, -⟩ := h; rfl
theorem mulFV_inf_left (s : Bool) (h : x.Is v) : mulFV (.inf s) x = if v = 0 then (.nan, flagNV) else (.inf (s != x.sgn), 0) := by
  obtain ⟨t, m, e, rfl, -⟩ := id h
  exact if_congr h.eq_zero_iff.symm rfl rfl
theorem mulFV_inf_right (s : Bool) (h : x.Is v) : mulFV x (.inf s) = if v = 0 then (.nan, flagNV) else (.inf (x.sgn != s), 0) := by
  obtain ⟨t, m, e, rfl, -⟩ := id h
  exact if_congr h.eq_zero_iff.symm rfl rfl
theorem divFV_inf_left (s : Bool) (h : x.Is v) : divFV (.inf s) x = (.inf (s != x.sgn), 0) := by
  obtain ⟨t, m, e, rfl, -⟩ := h; rfl
theorem divFV_inf_right (s : Bool) (h : x.Is v) : ∃ e, divFV x (.inf s) = (.fin (x.sgn != s) 0 e, 0) := by
  obtain ⟨t, m, e, rfl, -⟩ := h; exact ⟨0, rfl⟩
theorem addFV_nan_left (rm : RMode) (y : FV) : addFV rm .nan y = (.nan, flagNV) := rfl
theorem addFV_nan_right (rm : RMode) (x : FV) : addFV rm x .nan = (.nan, flagNV) := by cases x <;> rfl
theorem mulFV_nan_left (y : FV) : mulFV .nan y = (.nan, flagNV) := rfl
theorem mulFV_nan_right (x : FV) : mulFV x .nan = (.nan, flagNV) := by cases x <;> rfl
theorem divFV_nan_left (y : FV) : divFV .nan y = (.nan, flagNV) := rfl
theorem divFV_nan_right (x : FV) : divFV x .nan = (.nan, flagNV) := by cases x <;> rfl
/-- The flags of a product are those of an invalid operation or none. -/
theorem mulFV_flags (x y : FV) : (mulFV x y).2 = 0 ∨ (mulFV x y).2 = flagNV := by
  cases x with
  | nan => exact .inr rfl
  | inf s =>
    cases y with
    | nan => exact .inr rfl
    | inf t => exact .inl rfl
    | fin t n h => rw [mulFV]; split <;> simp
  | fin s m e =>
    cases y with
    | nan => exact .inr rfl
    | inf t => rw [mulFV]; split <;> simp
    | fin t n h => exact .inl rfl
theorem fmaFV_of_mul {rm : RMode} {z x y p : FV} {fl : Flags} (h : mulFV x y = (p, fl)) :
    fmaFV rm z x y = ((addFV rm p z).1, fl ||| (addFV rm p z).2) := by rw [fmaFV_eq, h]
theorem fmaFV_nan {rm : RMode} {x y z : FV} (h : x.isNan = true ∨ y.isNan = true ∨ z.isNan = true) :
    fmaFV rm z x y = (.nan, flagNV) := by
  simp only [FV.isNan_iff] at h
  rcases h with rfl | rfl | rfl
  · rw [fmaFV_of_mul (mulFV_nan_left y), addFV_nan_left]; rfl
  · rw [fmaFV_of_mul (mulFV_nan_right x), addFV_nan_left]; rfl
  · rw [fmaFV_eq, addFV_nan_right]
    rcases mulFV_flags x y with h | h <;> rw [h] <;> rfl
end

end Sys2Proof.Machine
end

section
/-! # Rounding to an integer (R80), and the statement on arithmetic -/
open Sys2Proof
namespace Sys2Proof.Machine

/-! ## Rounding to an integer -/

/-- The least and the greatest integer of `w` bits. -/
def intLo (w : Nat) (signed : Bool) : Int := if signed then -(2 ^ (w - 1)) else 0
def intHi (w : Nat) (signed : Bool) : Int := if signed then 2 ^ (w - 1) - 1 else 2 ^ w - 1
theorem intLo_le_intHi (w : Nat) (signed : Bool) : intLo w signed ≤ intHi w signed := by
  have h1 : (0 : Int) < 2 ^ (w - 1) := by positivity
  have h2 : (0 : Int) < 2 ^ w := by positivity
  unfold intLo intHi
  split <;> omega
theorem clampInt_eq (w : Nat) (signed : Bool) (i : Int) :
    clampInt w signed i = if i < intLo w signed then intLo w signed else if intHi w signed < i then intHi w signed else i := rfl
theorem clampInt_of_lt {w : Nat} {signed : Bool} {i : Int} (h : i < intLo w signed) : clampInt w signed i = intLo w signed := if_pos h
theorem clampInt_of_gt {w : Nat} {signed : Bool} {i : Int} (h : intHi w signed < i) : clampInt w signed i = intHi w signed := by
  have := intLo_le_intHi w signed
  rw [clampInt_eq, if_neg (by omega), if_pos h]
theorem clampInt_of_mem {w : Nat} {signed : Bool} {i : Int} (h1 : intLo w signed ≤ i) (h2 : i ≤ intHi w signed) : clampInt w signed i = i := by
  rw [clampInt_eq, if_neg (by omega), if_neg (by omega)]
theorem intLo_gt {w : Nat} (hw : w ≤ 64) (signed : Bool) : (-(2 ^ 65) : Int) < intLo w signed := by
  have : (2 : Int) ^ (w - 1) ≤ 2 ^ 64 := pow_le_pow_right₀ (by decide) (by omega)
  unfold intLo
  split <;> omega
theorem intHi_lt {w : Nat} (hw : w ≤ 64) (signed : Bool) : intHi w signed < (2 ^ 65 : Int) := by
  have h1 : (2 : Int) ^ (w - 1) ≤ 2 ^ 64 := pow_le_pow_right₀ (by decide) (by omega)
  have h2 : (2 : Int) ^ w ≤ 2 ^ 64 := pow_le_pow_right₀ (by decide) hw
  unfold intHi
  split <;> omega
/-- The integer a finite value is rounded to, before it is clamped. -/
def intPart (rm : RMode) (s : Bool) (m : Nat) (e : Int) (g : B64) : Int :=
  if s then -(roundedPart rm s m (-e) (drawn rm g) : Int) else roundedPart rm s m (-e) (drawn rm g)
theorem roundToInt_fin {rm : RMode} {w : Nat} {signed : Bool} {g : B64} {s : Bool} {m : Nat} {e : Int} (hm : m ≠ 0) :
    roundToInt rm w signed g (.fin s m e) = ⟨wrapInt w (clampInt w signed (intPart rm s m e g)),
      if clampInt w signed (intPart rm s m e g) ≠ intPart rm s m e g then flagNV else if restPart m (-e) ≠ 0 then flagNX else 0,
      drawn rm g⟩ := by
  have hn : (if 0 ≤ e then m * 2 ^ e.toNat else m / 2 ^ (-e).toNat) = lowerPart m (-e) := by
    rw [lowerPart, neg_neg]; exact if_congr (by omega) rfl rfl
  have hr : (if 0 ≤ e then 0 else m % 2 ^ (-e).toNat) = restPart m (-e) := if_congr (by omega) rfl rfl
  rw [roundToInt, if_neg hm]
  simp only [hn, hr]
  rfl
/-- R80: the integer is chosen as R75 chooses at spacing 1. -/
theorem roundsAt_intPart {rm : RMode} {g : B64} {s : Bool} {m : Nat} {e : Int} {v : ℝ} (hv : v = signFactor s * m * 2 ^ e) (hm : m ≠ 0) :
    RoundsAt rm v 1 (drawn rm g) (roundedPart rm s m (-e) (drawn rm g)) ∧
      ((roundedPart rm s m (-e) (drawn rm g) : ℝ) = |v| ↔ restPart m (-e) = 0) := by
  have habs : |v| = (m : ℝ) * 2 ^ e := by rw [hv, abs_fin_value]
  have hneg : v < 0 ↔ s = true := by rw [hv]; exact fin_value_neg hm
  have h1 := roundsAt_roundedPart (rm := rm) (r := drawn rm g) (sh := -e) habs hneg
  have h2 := roundedPart_mul_eq_abs (rm := rm) (neg := s) (r := drawn rm g) (sh := -e) habs
  rw [neg_add_cancel, zpow_zero] at h1 h2
  rw [mul_one] at h2
  exact ⟨h1, h2⟩
/-- R80: a nonzero value rounded to an integer and clamped. -/
theorem roundToInt_of_is {rm : RMode} {w : Nat} {signed : Bool} {g : B64} {x : FV} {v : ℝ} (hx : x.Is v) (hv : v ≠ 0) :
    (roundToInt rm w signed g x).gen = drawn rm g ∧ ∃ (n : Nat) (i : Int), RoundsAt rm v 1 (drawn rm g) n ∧ (i = n ∨ i = -(n : Int)) ∧
      (0 ≤ i ↔ 0 < v ∨ n = 0) ∧
      (i < intLo w signed → (roundToInt rm w signed g x).bits = wrapInt w (intLo w signed) ∧ (roundToInt rm w signed g x).flags = flagNV) ∧
      (intHi w signed < i → (roundToInt rm w signed g x).bits = wrapInt w (intHi w signed) ∧ (roundToInt rm w signed g x).flags = flagNV) ∧
      (intLo w signed ≤ i → i ≤ intHi w signed → (roundToInt rm w signed g x).bits = wrapInt w i ∧
        ((n : ℝ) = |v| → (roundToInt rm w signed g x).flags = 0) ∧ ((n : ℝ) ≠ |v| → (roundToInt rm w signed g x).flags = flagNX)) := by
  obtain ⟨s, m, e, rfl, hval⟩ := FV.is_iff.1 hx
  have hm : m ≠ 0 := fun h => hv (by rw [hval, fin_value_eq_zero, h])
  have hneg : v < 0 ↔ s = true := by rw [hval]; exact fin_value_neg hm
  obtain ⟨hat, hexact⟩ := roundsAt_intPart (rm := rm) (g := g) hval hm
  have hle := intLo_le_intHi w signed
  rw [roundToInt_fin hm]
  refine ⟨rfl, _, intPart rm s m e g, hat, ?_, ?_, fun h => ?_, fun h => ?_, fun h1 h2 => ?_⟩
  · unfold intPart; split <;> simp
  · unfold intPart
    cases s with
    | true =>
      have : ¬ 0 < v := not_lt.2 (hneg.2 rfl).le
      simp only [if_true, this, false_or]; omega
    | false =>
      have : 0 < v := lt_of_le_of_ne (not_lt.1 (mt hneg.1 Bool.false_ne_true)) hv.symm
      simp [this]
  · simp only [clampInt_of_lt h]
    exact ⟨trivial, if_pos h.ne'⟩
  · simp only [clampInt_of_gt h]
    exact ⟨trivial, if_pos h.ne⟩
  · simp only [clampInt_of_mem h1 h2, ne_eq, not_true_eq_false, if_false, hexact]
    exact ⟨trivial, fun h => if_neg (not_not.2 h), fun h => if_pos h⟩
theorem roundToInt_inf {rm : RMode} {w : Nat} (hw : w ≤ 64) (signed : Bool) (g : B64) (s : Bool) :
    roundToInt rm w signed g (.inf s) = ⟨wrapInt w (if s then intLo w signed else intHi w signed), flagNV, g⟩ := by
  cases s
  · exact congrArg (fun c => Rounded.mk (wrapInt w c) flagNV g) (clampInt_of_gt (intHi_lt hw signed))
  · exact congrArg (fun c => Rounded.mk (wrapInt w c) flagNV g) (clampInt_of_lt (intLo_gt hw signed))

/-! ## The values of patterns, as R67 writes them -/

theorem signFactor_decide (p : Prop) [Decidable p] : signFactor (decide p) = if p then -1 else 1 := by
  rw [signFactor]; exact if_congr decide_eq_true_iff rfl rfl
theorem FFmt.value_normal_is {f : FFmt} {p : Nat} (hp : p < 2 ^ f.width) (h : f.FinitePat p) (he : p / 2 ^ f.mbits % 2 ^ f.ebits ≠ 0) :
    (f.value p).Is ((if f.signBit ≤ p then -1 else 1) * (2 : ℝ) ^ (((p / 2 ^ f.mbits % 2 ^ f.ebits : Nat) : Int) - f.bias) *
      (1 + ((p % 2 ^ f.mbits : Nat) : ℝ) / 2 ^ f.mbits)) := by
  rw [f.value_finite h, if_neg he, FV.fin_is_iff, f.sign_of_lt hp, signFactor_decide, zpow_sub₀ two_ne_zero _ (f.mbits : Int), zpow_natCast]
  push_cast
  field_simp
theorem FFmt.value_subnormal_is {f : FFmt} {p : Nat} (hp : p < 2 ^ f.width) (h : f.FinitePat p) (he : p / 2 ^ f.mbits % 2 ^ f.ebits = 0) :
    (f.value p).Is ((if f.signBit ≤ p then -1 else 1) * (2 : ℝ) ^ (1 - (f.bias : Int)) * (((p % 2 ^ f.mbits : Nat) : ℝ) / 2 ^ f.mbits)) := by
  rw [f.value_finite h, if_pos he, FV.fin_is_iff, f.sign_of_lt hp, signFactor_decide, FFmt.emin, zpow_sub₀ two_ne_zero _ (f.mbits : Int),
    zpow_natCast]
  ring
theorem FFmt.value_infPat {f : FFmt} (hn : f.nan = .ieee) : f.value f.infPat = .inf false := by
  have hm : 0 < 2 ^ f.mbits := Nat.two_pow_pos _
  have he : 0 < 2 ^ f.ebits := Nat.two_pow_pos _
  have hlast : f.infPat / 2 ^ f.mbits % 2 ^ f.ebits = 2 ^ f.ebits - 1 := by
    rw [infPat, Nat.mul_div_cancel _ hm, Nat.mod_eq_of_lt (by omega)]
  have hlt : f.infPat < f.signBit := by
    rw [infPat, f.signBit_eq]; exact Nat.mul_lt_mul_of_pos_right (by omega) hm
  rw [value_ieee hn hlast, infPat, Nat.mul_mod_left, if_pos rfl, ← infPat, Nat.div_eq_of_lt hlt]
  rfl
theorem FFmt.Regular.value_nanPat {f : FFmt} (hf : f.Regular) (hn : f.nan ≠ .none) : f.value f.nanPat = .nan := by
  have hm : 0 < 2 ^ f.mbits := Nat.two_pow_pos _
  have he : 0 < 2 ^ f.ebits := Nat.two_pow_pos _
  have hhalf : 2 ^ f.mbits = 2 * 2 ^ (f.mbits - 1) := by
    rw [← Nat.pow_succ', Nat.succ_eq_add_one, Nat.sub_add_cancel hf.mbits_pos]
  have hpos : 0 < 2 ^ (f.mbits - 1) := Nat.two_pow_pos _
  cases hk : f.nan with
  | none => exact absurd hk hn
  | ieee =>
    have hpat : f.nanPat = 2 ^ (f.mbits - 1) + (2 ^ f.ebits - 1) * 2 ^ f.mbits := by
      simp only [nanPat, hk, infPat]; omega
    have hlast : f.nanPat / 2 ^ f.mbits % 2 ^ f.ebits = 2 ^ f.ebits - 1 := by
      rw [hpat, Nat.add_mul_div_right _ _ hm, Nat.div_eq_of_lt (by omega), Nat.zero_add, Nat.mod_eq_of_lt (by omega)]
    rw [value_ieee hk hlast, if_neg]
    rw [hpat, Nat.add_mul_mod_self_right, Nat.mod_eq_of_lt (by omega)]
    exact hpos.ne'
  | e4 =>
    have hpat : f.nanPat = 2 ^ f.mbits - 1 + (2 ^ f.ebits - 1) * 2 ^ f.mbits := by
      have h1 := Nat.sub_one_mul (2 ^ f.ebits) (2 ^ f.mbits)
      have h2 : 2 ^ f.mbits ≤ 2 ^ f.ebits * 2 ^ f.mbits := Nat.le_mul_of_pos_left _ he
      simp only [nanPat, hk, f.signBit_eq]; omega
    refine value_e4 hk ?_ ?_
    · rw [hpat, Nat.add_mul_div_right _ _ hm, Nat.div_eq_of_lt (by omega), Nat.zero_add, Nat.mod_eq_of_lt (by omega)]
    · rw [hpat, Nat.add_mul_mod_self_right, Nat.mod_eq_of_lt (by omega)]
/-- R79: an infinity written to a format. -/
theorem FFmt.Regular.roundTo_inf {f : FFmt} (hf : f.Regular) (rm : RMode) (sat : Bool) (g : B64) (s : Bool) :
    roundTo f rm sat g (.inf s) = if f.nan = .ieee then ⟨(if s then f.signBit else 0) + f.infPat, 0, g⟩
      else if f.nan = .e4 ∧ sat = false then ⟨f.nanPat, flagNV, g⟩ else ⟨(if s then f.signBit else 0) + f.maxPat, flagOF ||| flagNX, g⟩ := by
  rw [roundTo]
  exact if_congr hf.inf_iff rfl (if_congr (by rw [Bool.not_eq_true]) rfl rfl)
theorem roundTo_nan (f : FFmt) (rm : RMode) (sat : Bool) (g : B64) :
    roundTo f rm sat g .nan = ⟨if f.nan = .none then 0 else f.nanPat, flagNV, g⟩ := by
  rw [roundTo]
  congr 1
  split
  · next h => simp only [FFmt.nanPat, h]
  · rfl
theorem roundTo_zero (f : FFmt) (rm : RMode) (sat : Bool) (g : B64) (s : Bool) (e : Int) :
    roundTo f rm sat g (.fin s 0 e) = ⟨if s then f.signBit else 0, 0, g⟩ := by rw [roundTo, if_pos rfl]

/-! ## The statement -/

theorem orderSign_real (v w : ℝ) : orderSign (v : EReal) (w : EReal) = if v < w then -1 else if v = w then 0 else 1 := by
  unfold orderSign
  exact if_congr EReal.coe_lt_coe_iff rfl (if_congr EReal.coe_eq_coe_iff rfl rfl)

theorem cmpFV_is {x y : FV} {v w : ℝ} (hx : x.Is v) (hy : y.Is w) : cmpFV x y = some (if v < w then -1 else if v = w then 0 else 1) := by
  rw [cmpFV_eq hx.isNan hy.isNan, hx.place_eq, hy.place_eq, orderSign_real]
theorem fmaFV_inf_addend (rm : RMode) (s : Bool) {x y : FV} {v w : ℝ} (hx : x.Is v) (hy : y.Is w) :
    fmaFV rm (.inf s) x y = (.inf s, 0) := by
  obtain ⟨hp, -, hfl⟩ := mulFV_is hx hy
  simp [fmaFV_eq, addFV_inf_right rm s hp, hfl]
theorem fmaFV_inf_product (rm : RMode) {x y z : FV} {u : ℝ} {s : Bool} (h : mulFV x y = (.inf s, 0)) (hz : z.Is u) :
    fmaFV rm z x y = (.inf s, 0) := by
  simp [fmaFV_of_mul h, addFV_inf_left rm s hz]
theorem fmaFV_invalid_product (rm : RMode) {x y z : FV} (h : mulFV x y = (.nan, flagNV)) : fmaFV rm z x y = (.nan, flagNV) := by
  rw [fmaFV_of_mul h, addFV_nan_left]; rfl
theorem roundToInt_zero (rm : RMode) (w : Nat) (signed : Bool) (g : B64) (s : Bool) (e : Int) :
    roundToInt rm w signed g (.fin s 0 e) = ⟨0, 0, g⟩ := by rw [roundToInt, if_pos rfl]
theorem cmpFV_inf_left (s : Bool) {x : FV} {v : ℝ} (h : x.Is v) : cmpFV (.inf s) x = some (if s then -1 else 1) := by
  obtain ⟨t, m, e, rfl, -⟩ := h; rfl
theorem cmpFV_inf_right (s : Bool) {x : FV} {v : ℝ} (h : x.Is v) : cmpFV x (.inf s) = some (if s then 1 else -1) := by
  obtain ⟨t, m, e, rfl, -⟩ := h; rfl
/-- An operand that is NaN makes sum, product and quotient NaN, and leaves two values without an order. -/
theorem nan_operand (rm : RMode) {x y : FV} (h : x.isNan = true ∨ y.isNan = true) :
    addFV rm x y = (.nan, flagNV) ∧ mulFV x y = (.nan, flagNV) ∧ divFV x y = (.nan, flagNV) ∧ cmpFV x y = none := by
  simp only [FV.isNan_iff] at h
  rcases h with rfl | rfl
  · exact ⟨addFV_nan_left rm y, mulFV_nan_left y, divFV_nan_left y, cmpFV_nan_left y⟩
  · exact ⟨addFV_nan_right rm x, mulFV_nan_right x, divFV_nan_right x, cmpFV_nan_right x⟩
theorem minMaxFV_chooses (mx : Bool) {x y : FV} (hx : x.isNan = false) (hy : y.isNan = false) :
    (minMaxFV mx x y).2 = 0 ∧ ((minMaxFV mx x y).1 = x ∨ (minMaxFV mx x y).1 = y) ∧
      (mx = false → (minMaxFV mx x y).1.Below x ∧ (minMaxFV mx x y).1.Below y) ∧
      (mx = true → x.Below (minMaxFV mx x y).1 ∧ y.Below (minMaxFV mx x y).1) :=
  ⟨(minMaxFV_cases mx hx hy).1, minMaxFV_mem mx hx hy, fun h => h ▸ minFV_below hx hy, fun h => h ▸ below_maxFV hx hy⟩

/-- Settles O60: patterns are read in units of the smallest subnormal, a rounding splits a magnitude into the lower neighbour and a
fraction, sums are formed at the common exponent, comparisons are those of the extended reals, and a truncated quotient or root keeps
the exact one's side of every boundary. -/
theorem arithmetic : Obligations.Arithmetic := by
  unfold Obligations.Arithmetic
  refine ⟨fun f hmem => ?_, by decide, fun rm x y z v w u hx hy hz => ?_, fun rm s t x y => ?_, fun rm w signed g _ hw hw64 => ?_⟩
  · have hf := regular_of_mem hmem
    refine ⟨fun p hp => ⟨fun hn hl => ?_, f.value_e4, fun h1 h2 => ⟨f.value_normal_is hp ⟨h1, h2⟩, f.value_subnormal_is hp ⟨h1, h2⟩⟩,
      fun v top => hf.value_le_top⟩, f.value_infPat, hf.value_nanPat, fun rm sat g _ => ⟨fun x v => hf.rounds_roundTo, roundTo_zero f rm sat g,
      roundTo_nan f rm sat g, hf.roundTo_inf rm sat g, fun x y v w => hf.rounds_div, fun x v => hf.rounds_sqrt⟩⟩
    rw [FFmt.value_ieee hn hl, f.sign_of_lt hp]
  · obtain ⟨hmul, hmulsgn, hmulfl⟩ := mulFV_is hx hy
    refine ⟨addFV_is rm hx hy, addFV_cancels rm hx hy, addFV_flags rm hx hy, hmul, hmulsgn, hmulfl, fmaFV_is rm hx hy hz,
      fmaFV_cancels rm hx hy hz, fmaFV_flags rm hx hy hz, divFV_zero_dividend hx hy, divFV_zero_divisor hx hy, sqrtFV_zero hx, sqrtFV_neg hx,
      cmpFV_is hx hy, fun s => ⟨addFV_inf_left rm s hy, addFV_inf_right rm s hy, mulFV_inf_left s hy, mulFV_inf_right s hy,
      divFV_inf_left s hy, divFV_inf_right s hy, fmaFV_inf_addend rm s hx hy, fun hw => ⟨?_, ?_⟩, fun hw => ⟨?_, ?_⟩, cmpFV_inf_left s hy,
      cmpFV_inf_right s hy⟩⟩
    · exact fmaFV_inf_product rm ((mulFV_inf_left s hy).trans (if_neg hw)) hz
    · exact fmaFV_inf_product rm ((mulFV_inf_right s hy).trans (if_neg hw)) hz
    · exact fmaFV_invalid_product rm ((mulFV_inf_left s hy).trans (if_pos hw))
    · exact fmaFV_invalid_product rm ((mulFV_inf_right s hy).trans (if_pos hw))
  · exact ⟨rfl, rfl, rfl, rfl, rfl, rfl, nan_operand rm, fun z => ⟨fmaFV_nan, fmaFV_eq rm z x y⟩,
      fun mx => ⟨⟨minMaxFV_nan_left mx y, minMaxFV_nan_right mx x⟩, minMaxFV_chooses mx⟩⟩
  · refine ⟨fun x v hx hv => ?_, roundToInt_zero rm w signed g, rfl, roundToInt_inf hw64 signed g⟩
    obtain ⟨hgen, hrest⟩ := roundToInt_of_is (rm := rm) (w := w) (signed := signed) (g := g) hx hv
    exact ⟨hgen, hgen ▸ hrest⟩

end Sys2Proof.Machine
end

section
/-! # Lanes of a vector instruction without a view (R76, R82, R117 to R120) -/
open Sys2Proof
namespace Sys2Proof.Machine

/-! ## The register the lanes leave -/

theorem activeLanes_succ (k : Nat) (mk : B64) :
    activeLanes (k + 1) mk = activeLanes k mk ++ if mk.getLsbD k = true then [k] else [] := by
  rw [activeLanes, List.range_succ, List.filter_append, List.filter_singleton, Bool.cond_eq_ite]
  rfl
theorem putElems_append (w base : Nat) (p : Nat → Nat) (l₁ l₂ : List Nat) (x : B512) :
    putElems w base p (l₁ ++ l₂) x = putElems w base p l₂ (putElems w base p l₁ x) := List.foldl_append ..
/-- A register whose written lanes are known and whose others keep their bits. -/
theorem putElems_lanes {t : Ty} {l : List Nat} {p : Nat → Nat} {old new : B512} (hl : ∀ j ∈ l, j < t.lanes)
    (h : ∀ j < t.lanes, elemBits t.width j new = if j ∈ l then p j else elemBits t.width j old) :
    putElems t.width 0 p l old = new := by
  refine putElems_eq t.width_pos (n := t.lanes) (fun j hj => by have := hl j hj; omega) (fun e he => ?_) (fun k hk => ?_)
  · simpa using h e he
  · rw [t.lanes_width] at hk
    rw [BitVec.getLsbD_of_ge _ _ hk, BitVec.getLsbD_of_ge _ _ hk]

/-! ## Integer lanes -/

theorem foldl_putInt {t : Ty} (r : Nat → Int) (l : List Nat) (acc : LaneAcc) :
    l.foldl (fun (acc : LaneAcc) j => acc.putInt t noView j (some (r j))) acc =
      { acc with reg := putElems t.width 0 (fun j => wrapInt t.width (r j)) l acc.reg } := by
  induction l generalizing acc with
  | nil => rfl
  | cons j l ih =>
    rw [List.foldl_cons, ih, LaneAcc.putInt_eq]
    simp only [outBase, noView]
    rfl
/-- Integer lanes, folded, leave the register described. -/
theorem IntLanes.foldl_eq {t : Ty} {n : Nat} {mk : B64} {r : Nat → Int} {old new : B512} (h : IntLanes t n mk r old new)
    (hn : n ≤ t.lanes) (g : B64) :
    (activeLanes n mk).foldl (fun (acc : LaneAcc) j => acc.putInt t noView j (some (r j))) ⟨old, 0, g⟩ = ⟨new, 0, g⟩ := by
  rw [foldl_putInt]
  congr 1
  refine putElems_lanes (fun j hj => (mem_activeLanes.1 hj).1.trans_le hn) fun j hj => ?_
  rw [h j hj]
  exact if_congr mem_activeLanes.symm rfl rfl

/-! ## Rounded lanes -/

theorem LaneAcc.putRounded_noView (a : LaneAcc) (t : Ty) (j : Nat) (f : Flags) (r : Rounded) :
    a.putRounded t noView j f r = ⟨putElem t.width j r.bits a.reg, a.flags ||| f ||| r.flags, r.gen⟩ := rfl
/-- The lanes below `k` have been rounded: the register, the flags and the generator so far. -/
theorem foldl_putRounded {t : Ty} {n : Nat} {mk : B64} {r : Nat → B64 → Rounded} {e : Nat → Flags} {old new : B512} {gs : Nat → B64}
    {fs : Nat → Flags} (hf0 : fs 0 = 0) (hn : n ≤ t.lanes)
    (h : ∀ j < t.lanes,
      if j < n ∧ mk.getLsbD j = true then
        elemBits t.width j new = (r j (gs j)).bits ∧ gs (j + 1) = (r j (gs j)).gen ∧ fs (j + 1) = fs j ||| e j ||| (r j (gs j)).flags
      else elemBits t.width j new = elemBits t.width j old ∧ gs (j + 1) = gs j ∧ fs (j + 1) = fs j) {k : Nat} (hk : k ≤ n) :
    (activeLanes k mk).foldl (fun (acc : LaneAcc) j => acc.putRounded t noView j (e j) (r j acc.gen)) ⟨old, 0, gs 0⟩ =
      ⟨putElems t.width 0 (fun j => elemBits t.width j new) (activeLanes k mk) old, fs k, gs k⟩ := by
  induction k with
  | zero => rw [hf0]; rfl
  | succ k ih =>
    have hlane := h k (by omega)
    rw [activeLanes_succ, List.foldl_append, ih (by omega), putElems_append]
    by_cases hm : mk.getLsbD k = true
    · rw [if_pos ⟨hk, hm⟩] at hlane
      obtain ⟨hbits, hgen, hflags⟩ := hlane
      rw [if_pos hm, List.foldl_cons, List.foldl_nil, LaneAcc.putRounded_noView, hgen, hflags, ← hbits]
      simp only [putElems, List.foldl_cons, List.foldl_nil, Nat.zero_add]
    · rw [if_neg (fun hc => hm hc.2)] at hlane
      rw [if_neg hm, hlane.2.1, hlane.2.2]
      rfl
theorem kept_from {α : Type} {x : Nat → α} {n l : Nat} (h : ∀ j < l, ¬ j < n → x (j + 1) = x j) (hn : n ≤ l) : x l = x n := by
  induction l with
  | zero => rw [Nat.le_zero.1 hn]
  | succ l ih =>
    rcases Nat.lt_or_ge l n with hl | hl
    · rw [show n = l + 1 by omega]
    · rw [h l (Nat.lt_succ_self l) (by omega), ih (fun j hj => h j (by omega)) hl]
/-- Rounded lanes, folded in ascending order, leave the register, the flags and the generator described. -/
theorem RndLanes.foldl_eq {t : Ty} {n : Nat} {mk : B64} {r : Nat → B64 → Rounded} {e : Nat → Flags} {old new : B512} {g g' : B64} {fl : Flags}
    (h : RndLanes t n mk r e old new g g' fl) (hn : n ≤ t.lanes) :
    (activeLanes n mk).foldl (fun (acc : LaneAcc) j => acc.putRounded t noView j (e j) (r j acc.gen)) ⟨old, 0, g⟩ = ⟨new, fl, g'⟩ := by
  obtain ⟨gs, fs, hg0, hf0, hgl, hfl, hl⟩ := h
  have hbeyond (j : Nat) (hj : j < t.lanes) (hjn : ¬ j < n) : gs (j + 1) = gs j ∧ fs (j + 1) = fs j := by
    have := hl j hj
    rw [if_neg (fun hc => hjn hc.1)] at this
    exact this.2
  rw [← hg0, foldl_putRounded hf0 hn hl le_rfl, ← hgl, ← hfl, kept_from (fun j hj hjn => (hbeyond j hj hjn).1) hn,
    kept_from (fun j hj hjn => (hbeyond j hj hjn).2) hn]
  congr 1
  refine putElems_lanes (fun j hj => (mem_activeLanes.1 hj).1.trans_le hn) fun j hj => ?_
  split
  · rfl
  · next hm =>
    have := hl j hj
    rw [if_neg (mt mem_activeLanes.2 hm)] at this
    exact this.1

/-- The same for exact values rounded to the lanes' type. -/
theorem FltLanes.foldl_eq {t : Ty} {mk : B64} {rm : RMode} {x : Nat → FV × Flags} {old new : B512} {g g' : B64} {fl : Flags}
    (h : FltLanes t mk rm x old new g g' fl) :
    (activeLanes t.lanes mk).foldl (fun (acc : LaneAcc) j => acc.putRounded t noView j (x j).2 (roundTo (tyFmt t) rm false acc.gen (x j).1))
      ⟨old, 0, g⟩ = ⟨new, fl, g'⟩ := (RndLanes.foldl_eq h le_rfl :)

/-! ## Running a lane-wise instruction -/

theorem DestFree.destOk {s : State} {m : MReg} {d : VReg} (h : DestFree s m d) : (destOk noView m d).run s = .ok ((), s) :=
  destOk_runs (h.2.imp_right fun hm => ⟨hm, rfl⟩)
theorem DestFree.oldV {s : State} {m : MReg} {d : VReg} (h : DestFree s m d) : (oldV d).run s = .ok (oldOf s d, s) := oldV_runs h.1
theorem modeOf_dyn_runs (s : State) : (modeOf .dyn).run s = .ok (vrndMode s.me.vrnd, s) := rfl
theorem elemMode_noView_runs (s : State) : (elemMode noView).run s = .ok (vrndMode s.me.vrnd, s) := rfl
theorem genOf_runs (s : State) : genOf.run s = .ok (s.me.gen, s) := rfl
theorem readA_runs {a : VReg} {x : B512} {s s1 : State} (h : ReadsV s a x s1) : (readAB a none).run s = .ok ((x, 0), s1) := by
  rw [readAB, run_bind_ok h]
  rfl
/-- A lane-wise instruction writes what folding its active lanes leaves. -/
theorem laneBody_runs {n : Nat} {m : MReg} {d a : VReg} {b : Option VReg} {readsD : Bool}
    {f : RMode → B512 → B512 → B512 → Nat → LaneAcc → LaneAcc} {dv x y w : B512} {mk g : B64} {fl : Flags} {s s0 s2 s3 u : State}
    (hd : DestFree s m d) (hdv : (if readsD then readV d else oldV d).run s = .ok (dv, s0)) (hab : (readAB a b).run s0 = .ok ((x, y), s2))
    (hmk : ReadsM s2 m mk s3)
    (hfold : (activeLanes n mk).foldl (fun acc j => f (vrndMode s3.me.vrnd) dv x y j acc) ⟨dv, 0, s3.me.gen⟩ = ⟨w, fl, g⟩)
    (hw : WritesV (s3.flagged g fl) d w u) : (laneBody noView n m d readsD a b f).run s = .ok ((), u) := by
  have hl : (lanesOf noView n m d readsD a b f).run s = .ok (⟨w, fl, g⟩, s3) := by
    have hrest : (do
        let ab ← readAB a b
        let mk ← readM m
        let rm ← elemMode noView
        let g ← genOf
        pure ((activeLanes n mk).foldl (fun acc i => f rm dv ab.1 ab.2 i acc) ⟨dv, 0, g⟩) : Exec LaneAcc).run s0 = .ok (⟨w, fl, g⟩, s3) := by
      rw [run_bind_ok hab, run_bind_ok hmk, run_bind_ok (elemMode_noView_runs s3), run_bind_ok (genOf_runs s3)]
      exact congrArg (fun r => Except.ok (r, s3)) hfold
    cases readsD with
    | false => exact (run_bind_ok hdv).trans hrest
    | true => exact (run_bind_ok hdv).trans hrest
  rw [laneBody, run_bind_ok hd.destOk, run_bind_ok hl, setGen_orFlags]
  exact hw

end Sys2Proof.Machine
end

section
/-! # Floating lanes, conversions, selection and dot products (R130, R131, R141 to R143) -/
open Sys2Proof
namespace Sys2Proof.Machine

/-! ## Lane-wise floating arithmetic -/

theorem arithLane_flt {fi : IntOp} {ff : FltOp} {t : Ty} (hf : t.isFloat = true) (rm : RMode) (d a b : B512) (j : Nat) (acc : LaneAcc) :
    arithLane fi ff noView t rm d a b j acc = acc.putRounded t noView j (ff rm (srcFlt t none d j) (srcFlt t none a j) (srcFlt t none b j)).2
      (roundTo (tyFmt t) rm false acc.gen (ff rm (srcFlt t none d j) (srcFlt t none a j) (srcFlt t none b j)).1) := if_pos hf
/-- An arithmetic form over floating lanes, whichever operands it reads. -/
theorem arith_flt_runs {fi : IntOp} {ff : FltOp} {t : Ty} {m : MReg} {d a : VReg} {b : Option VReg} {readsD : Bool} {dv x y w : B512}
    {mk g : B64} {fl : Flags} {s s0 s2 s3 u : State} (hf : t.isFloat = true) (hd : DestFree s m d)
    (hdv : (if readsD then readV d else oldV d).run s = .ok (dv, s0)) (hab : (readAB a b).run s0 = .ok ((x, y), s2)) (hmk : ReadsM s2 m mk s3)
    (hl : FltLanes t mk (vrndMode s3.me.vrnd)
      (fun j => ff (vrndMode s3.me.vrnd) (srcFlt t none dv j) (srcFlt t none x j) (srcFlt t none y j)) dv w s3.me.gen g fl)
    (hw : WritesV (s3.flagged g fl) d w u) : (laneBody noView t.lanes m d readsD a b (arithLane fi ff noView t)).run s = .ok ((), u) := by
  refine laneBody_runs hd hdv hab hmk ?_ hw
  simp only [arithLane_flt hf]
  exact hl.foldl_eq

section
variable {ff : FltOp} {t : Ty} {m : MReg} {d a b : VReg} {x y z w : B512} {mk g : B64} {fl : Flags} {s s0 s1 s2 s3 u : State}

theorem vBin_flt_runs (fi : IntOp) (hf : t.isFloat = true) (hd : DestFree s m d) (h1 : ReadsV s a x s1) (h2 : ReadsV s1 b y s2) (h3 : ReadsM s2 m mk s3)
    (hl : FltLanes t mk (vrndMode s3.me.vrnd)
      (fun j => ff (vrndMode s3.me.vrnd) (srcFlt t none (oldOf s d) j) (srcFlt t none x j) (srcFlt t none y j)) (oldOf s d) w s3.me.gen g fl)
    (hw : WritesV (s3.flagged g fl) d w u) : (vBin fi ff false noView t m d a b).run s = .ok ((), u) :=
  arith_flt_runs hf hd hd.oldV (readAB_runs h1 h2) h3 hl hw
theorem vBin_flt_readsD_runs (fi : IntOp) (hf : t.isFloat = true) (hd : DestFree s m d) (h0 : ReadsV s d z s0) (h1 : ReadsV s0 a x s1)
    (h2 : ReadsV s1 b y s2) (h3 : ReadsM s2 m mk s3)
    (hl : FltLanes t mk (vrndMode s3.me.vrnd)
      (fun j => ff (vrndMode s3.me.vrnd) (srcFlt t none z j) (srcFlt t none x j) (srcFlt t none y j)) z w s3.me.gen g fl)
    (hw : WritesV (s3.flagged g fl) d w u) : (vBin fi ff true noView t m d a b).run s = .ok ((), u) :=
  arith_flt_runs hf hd h0 (readAB_runs h1 h2) h3 hl hw
theorem vUn_flt_runs (fi : IntOp) (hf : t.isFloat = true) (hd : DestFree s m d) (h1 : ReadsV s a x s1) (h2 : ReadsM s1 m mk s2)
    (hl : FltLanes t mk (vrndMode s2.me.vrnd)
      (fun j => ff (vrndMode s2.me.vrnd) (srcFlt t none (oldOf s d) j) (srcFlt t none x j) (srcFlt t none 0 j)) (oldOf s d) w s2.me.gen g fl)
    (hw : WritesV (s2.flagged g fl) d w u) : (vUn fi ff noView t m d a).run s = .ok ((), u) :=
  arith_flt_runs hf hd hd.oldV (readA_runs h1) h2 hl hw
end
/-- An instruction whose body runs to its end retires. -/
theorem next_retire {len : Nat} {body : Exec Unit} {s u : State} (h : body.run s = .ok ((), u)) :
    (Host.Outcome.next (runI len body s) : Host.Outcome State Fault Refusal) = .next (u.retire len) := congrArg _ (runI_ok h)

/-- Settles O39: each form folds its active lanes in ascending order, each of them rounded with the generator the one before left. -/
theorem vectorFloats : Obligations.VectorFloats := by
  unfold Obligations.VectorFloats
  intro s s0 s1 s2 s3 u ty m d a b z x y w mk g fl hf hd
  refine ⟨fun h1 h2 h3 => ?_, fun h0 h1 h2 h3 => ?_, fun h1 h2 => ?_⟩
  · have hbin (fi : IntOp) {ff : FltOp} := vBin_flt_runs (ff := ff) (w := w) (g := g) (fl := fl) (u := u) fi hf hd h1 h2 h3
    refine ⟨?_, ?_, ?_, ?_, ?_, ?_⟩
    · exact fun hl hw => next_retire (hbin iAdd (ff := fAdd) hl hw)
    · exact fun hl hw => next_retire (hbin iSub (ff := fSub) hl hw)
    · exact fun hl hw => next_retire (hbin iMul (ff := fMul) hl hw)
    · exact fun hl hw => next_retire (hbin iMin (ff := fMin) hl hw)
    · exact fun hl hw => next_retire (hbin iMax (ff := fMax) hl hw)
    · exact fun hl hw => next_retire (hbin iDiv (ff := fDiv) hl hw)
  · have hbin (fi : IntOp) {ff : FltOp} := vBin_flt_readsD_runs (ff := ff) (w := w) (g := g) (fl := fl) (u := u) fi hf hd h0 h1 h2 h3
    exact ⟨fun hl hw => next_retire (hbin iMa (ff := fMa) hl hw), fun hl hw => next_retire (hbin iMs (ff := fMs) hl hw)⟩
  · have hun (fi : IntOp) {ff : FltOp} := vUn_flt_runs (ff := ff) (w := w) (g := g) (fl := fl) (u := u) fi hf hd h1 h2
    refine ⟨?_, ?_, ?_⟩
    · exact fun hl hw => next_retire (hun iAbs (ff := fAbs) hl hw)
    · exact fun hl hw => next_retire (hun iNeg (ff := fNeg) hl hw)
    · exact fun hl hw => next_retire (hun noInt (ff := fSqrt) hl hw)

/-! ## Conversions (R141) -/

section
variable {t st : Ty}

theorem cvtLane_int_int (ht : t.isFloat = false) (hst : st.isFloat = false) (rm : RMode) (d a b : B512) (j : Nat) (acc : LaneAcc) :
    cvtLane st noView t rm d a b j acc = acc.putInt t noView j (some (clampInt t.width (tySigned t) (srcInt st none a j))) := by
  simp only [cvtLane, ht, hst, Bool.false_eq_true, if_false]
  rfl
theorem cvtLane_flt_int (ht : t.isFloat = true) (hst : st.isFloat = false) (rm : RMode) (d a b : B512) (j : Nat) (acc : LaneAcc) :
    cvtLane st noView t rm d a b j acc =
      acc.putRounded t noView j 0 (roundTo (tyFmt t) rm false acc.gen (FV.ofInt (srcInt st none a j))) := by
  have hne : st ≠ t := fun h => by rw [h, ht] at hst; cases hst
  simp only [cvtLane, ht, hst, Bool.false_eq_true, if_false, if_true, hne, false_and]
  rfl
theorem cvtLane_flt_flt (ht : t.isFloat = true) (hst : st.isFloat = true) (rm : RMode) (d a b : B512) (j : Nat) (acc : LaneAcc) :
    cvtLane st noView t rm d a b j acc =
      acc.putRounded t noView j 0 (roundTo (tyFmt t) (if st = t then .rne else rm) false acc.gen (srcFlt st none a j)) := by
  have hmode : (if st = t ∧ noView.av.isNone = true ∧ noView.dn.isNone = true then RMode.rne else rm) = if st = t then .rne else rm :=
    if_congr (and_iff_left ⟨rfl, rfl⟩) rfl rfl
  simp only [cvtLane, ht, hst, if_true, hmode]
  rfl
theorem cvtLane_int_flt (ht : t.isFloat = false) (hst : st.isFloat = true) (rm : RMode) (d a b : B512) (j : Nat) (acc : LaneAcc) :
    cvtLane st noView t rm d a b j acc =
      acc.putRounded t noView j 0 (roundToInt rm t.width (tySigned t) acc.gen (srcFlt st none a j)) := by
  have hne : st ≠ t := fun h => by rw [h, ht] at hst; cases hst
  simp only [cvtLane, ht, hst, Bool.false_eq_true, if_false, if_true, hne, false_and]
  rfl
end
/-- A conversion writes what folding its lanes leaves. -/
theorem vCvt_runs {t st : Ty} {m : MReg} {d a : VReg} {x w : B512} {mk g : B64} {fl : Flags} {s s1 s2 u : State} (hd : DestFree s m d)
    (h1 : ReadsV s a x s1) (h2 : ReadsM s1 m mk s2)
    (hfold : (activeLanes (min t.lanes st.lanes) mk).foldl
      (fun acc j => cvtLane st noView t (vrndMode s2.me.vrnd) (oldOf s d) x 0 j acc) ⟨oldOf s d, 0, s2.me.gen⟩ = ⟨w, fl, g⟩)
    (hw : WritesV (s2.flagged g fl) d w u) : (vCvt noView t st m d a).run s = .ok ((), u) :=
  laneBody_runs hd hd.oldV (readA_runs h1) h2 hfold hw

/-! ## Selection (R142) -/

theorem vSel_runs {t : Ty} {m : MReg} {d a b : VReg} {x y w : B512} {mk : B64} {s s1 s2 s3 u : State} (hd : DestFree s m d)
    (h1 : ReadsV s a x s1) (h2 : ReadsV s1 b y s2) (h3 : ReadsM s2 m mk s3)
    (hl : ∀ j < t.lanes, elemBits t.width j w = elemBits t.width j (if mk.getLsbD j then x else y)) (hw : WritesV s3 d w u) :
    (vSel noView t m d a b).run s = .ok ((), u) := by
  have hreg : (List.range t.lanes).foldl (fun acc i => putElem t.width i (elemBits t.width i (if mk.getLsbD i then x else y)) acc) (oldOf s d) = w := by
    have := putElems_lanes (t := t) (l := List.range t.lanes) (p := fun i => elemBits t.width i (if mk.getLsbD i then x else y))
      (old := oldOf s d) (new := w) (fun j hj => List.mem_range.1 hj) (fun j hj => by rw [if_pos (List.mem_range.2 hj), hl j hj])
    rw [← this]
    simp only [putElems, Nat.zero_add]
  rw [vSel, run_bind_ok hd.destOk, run_bind_ok hd.oldV, run_bind_ok (readAB_runs h1 h2), run_bind_ok h3]
  exact hreg.symm ▸ hw

/-! ## Dot products (R143) -/

theorem dotLane_int {t : Ty} (ht : t.isFloat = false) (rm : RMode) (d a b : B512) (i : Nat) (acc : LaneAcc) :
    dotLane noView t rm d a b i acc = acc.putInt t noView i (some (srcInt t none d i +
      dotInt t none a (2 * i) * dotInt t none b (2 * i) + dotInt t none a (2 * i + 1) * dotInt t none b (2 * i + 1))) := by
  simp only [dotLane, ht, Bool.false_eq_true, if_false]
  rw [show dotCount noView t = 2 from rfl, Nat.mul_comm i 2]
  rfl
theorem dotLane_flt {t : Ty} (ht : t.isFloat = true) (rm : RMode) (d a b : B512) (i : Nat) (acc : LaneAcc) :
    dotLane noView t rm d a b i acc =
      acc.putRounded t noView i
        ((fmaFV rm (srcFlt t none d i) (dotFlt none a (2 * i)) (dotFlt none b (2 * i))).2 |||
          (fmaFV rm (fmaFV rm (srcFlt t none d i) (dotFlt none a (2 * i)) (dotFlt none b (2 * i))).1 (dotFlt none a (2 * i + 1))
            (dotFlt none b (2 * i + 1))).2)
        (roundTo (tyFmt t) rm false acc.gen
          (fmaFV rm (fmaFV rm (srcFlt t none d i) (dotFlt none a (2 * i)) (dotFlt none b (2 * i))).1 (dotFlt none a (2 * i + 1))
            (dotFlt none b (2 * i + 1))).1) := by
  simp only [dotLane, ht, if_true]
  rw [show dotCount noView t = 2 from rfl, Nat.mul_comm i 2, show List.range 2 = [0, 1] from rfl]
  simp only [List.map_cons, List.map_nil, List.foldl_cons, List.foldl_nil, Nat.add_zero]
  rw [show ∀ f : Flags, (0 : Flags) ||| f = f from fun f => BitVec.zero_or]
  rfl
theorem vDot_runs {t : Ty} {m : MReg} {d a b : VReg} {x y z w : B512} {mk g : B64} {fl : Flags} {s s0 s1 s2 s3 u : State} (hd : DestFree s m d)
    (h0 : ReadsV s d z s0) (h1 : ReadsV s0 a x s1) (h2 : ReadsV s1 b y s2) (h3 : ReadsM s2 m mk s3)
    (hfold : (activeLanes t.lanes mk).foldl (fun acc j => dotLane noView t (vrndMode s3.me.vrnd) z x y j acc) ⟨z, 0, s3.me.gen⟩ = ⟨w, fl, g⟩)
    (hw : WritesV (s3.flagged g fl) d w u) : (vDot noView t m d a b).run s = .ok ((), u) :=
  laneBody_runs hd h0 (readAB_runs h1 h2) h3 hfold hw
/-- `vdot` of a type that has a half-width type runs; of another it is ILLEGAL. -/
theorem exec_vdot_of_some {t h : Ty} (ht : dotHalf t = some h) (m : MReg) (d a b : VReg) (s : State) :
    exec (.vdot t m d a b) s = .next (runI 4 (vDot noView t m d a b) s) := by
  show execVdot t m d a b s = _
  rw [execVdot, ht]
  rfl
theorem exec_vdot_of_none {t : Ty} (ht : dotHalf t = none) (m : MReg) (d a b : VReg) {s : State} (hh : s.hasHandler) :
    exec (.vdot t m d a b) s = .next (s.entered 1 (BitVec.ofNat 64 ((encode (.vdot t m d a b)).getD 0)) s.me.pc false) := by
  show execVdot t m d a b s = _
  rw [execVdot, ht]
  exact congrArg Host.Outcome.next (runI_trap_entered hh (by decide))

/-- Settles O43: conversions and dot products fold their active lanes, each written once; a selection copies patterns. -/
theorem convertSelectDot : Obligations.ConvertSelectDot := by
  unfold Obligations.ConvertSelectDot
  intro s s0 s1 s2 s3 u ty st m d a b z x y w mk g fl hd
  refine ⟨fun h1 h2 => ⟨fun ht hst hl hw => ?_, fun ht hst hl hw => ?_, fun ht hst hl hw => ?_, fun ht hst hl hw => ?_⟩,
    fun h1 h2 h3 hl hw => next_retire (vSel_runs hd h1 h2 h3 hl hw),
    fun h0 h1 h2 h3 => ⟨fun ht hl hw => ?_, fun ht hl hw => ?_⟩, fun ht hh => ?_⟩
  · refine next_retire (vCvt_runs hd h1 h2 ?_ hw)
    simp only [cvtLane_int_int ht hst]
    exact hl.foldl_eq (min_le_left _ _) _
  · refine next_retire (vCvt_runs hd h1 h2 ?_ hw)
    simp only [cvtLane_flt_int ht hst]
    exact (hl.foldl_eq (min_le_left _ _) :)
  · refine next_retire (vCvt_runs hd h1 h2 ?_ hw)
    simp only [cvtLane_flt_flt ht hst]
    exact (hl.foldl_eq (min_le_left _ _) :)
  · refine next_retire (vCvt_runs hd h1 h2 ?_ hw)
    simp only [cvtLane_int_flt ht hst]
    exact (hl.foldl_eq (min_le_left _ _) :)
  · have hfl : ty.isFloat = false := by rcases ht with rfl | rfl | rfl <;> rfl
    obtain ⟨h, hhalf⟩ : ∃ h, dotHalf ty = some h := by rcases ht with rfl | rfl | rfl <;> exact ⟨_, rfl⟩
    rw [exec_vdot_of_some hhalf]
    refine next_retire (vDot_runs hd h0 h1 h2 h3 ?_ hw)
    simp only [dotLane_int hfl]
    exact hl.foldl_eq le_rfl _
  · subst ht
    rw [exec_vdot_of_some rfl]
    refine next_retire (vDot_runs hd h0 h1 h2 h3 ?_ hw)
    simp only [dotLane_flt (t := .f32) rfl]
    exact hl.foldl_eq
  · exact exec_vdot_of_none (by rcases ht with rfl | rfl | rfl | rfl <;> rfl) m d a b hh

end Sys2Proof.Machine
end

section
/-! # Reductions and the scan (R83, R84, R137, R138) -/
namespace Sys2Proof

theorem Ty.lanes_eq_two_pow (t : Ty) : t.lanes = 2 ^ Nat.log2 t.lanes := by cases t <;> decide
theorem Ty.two_le_lanes (t : Ty) : 2 ≤ t.lanes := by cases t <;> decide

end Sys2Proof

open Sys2Proof
namespace Sys2Proof.Machine

/-! ## The pairwise tree -/

section
/- `R b l x` says of a node `x` over the leaves `l`, with `b` accumulated, what is to be shown of the root. -/
variable {α β : Type} {f : β → α → α → β × α} {R : β → List α → α → Prop}

/-- A node over two that stand for their leaves stands for both, and those beside it go on standing for theirs. -/
def TreeStep (f : β → α → α → β × α) (R : β → List α → α → Prop) : Prop :=
  ∀ b l₁ l₂ x y, R b l₁ x → R b l₂ y → R (f b x y).1 (l₁ ++ l₂) (f b x y).2 ∧ ∀ l z, R b l z → R (f b x y).1 l z
theorem treeLevel_spec (hstep : TreeStep f R) (b : β) (xs : List α) (ls : List (List α)) (h : List.Forall₂ (R b) ls xs) :
    ∃ ls', ls'.flatten = ls.flatten ∧ List.Forall₂ (R (treeLevel f b xs).1) ls' (treeLevel f b xs).2 ∧
      (∀ l z, R b l z → R (treeLevel f b xs).1 l z) ∧ 2 * (treeLevel f b xs).2.length = xs.length + xs.length % 2 := by
  match xs, ls, h with
  | [], _, .nil => exact ⟨[], rfl, .nil, fun _ _ h => h, rfl⟩
  | [x], _, .cons hx .nil => exact ⟨_, rfl, .cons hx .nil, fun _ _ h => h, rfl⟩
  | x :: y :: rest, _, .cons (a := l₁) hx (.cons (a := l₂) (l₁ := ls) hy hrest) =>
    obtain ⟨hnode, hkeep⟩ := hstep b l₁ l₂ x y hx hy
    obtain ⟨ls', hflat, hall, hkeep', hlen⟩ := treeLevel_spec hstep (f b x y).1 rest ls (hrest.imp fun l z => hkeep l z)
    refine ⟨(l₁ ++ l₂) :: ls', by simp [hflat], .cons (hkeep' _ _ hnode) hall, fun l z h => hkeep' l z (hkeep l z h), ?_⟩
    simp only [treeLevel, List.length_cons]
    omega
/-- R83: the root of the tree over 2^n leaves stands for all of them. -/
theorem treeFold_spec (hstep : TreeStep f R) (n : Nat) (b : β) (xs : List α) (ls : List (List α)) (h : List.Forall₂ (R b) ls xs)
    (hlen : xs.length = 2 ^ n) : ∃ r, (treeFold f n b xs).2 = [r] ∧ R (treeFold f n b xs).1 ls.flatten r := by
  induction n generalizing b xs ls with
  | zero =>
    obtain ⟨x, rfl⟩ := List.length_eq_one_iff.1 hlen
    cases h with
    | cons hl hnil => cases hnil; exact ⟨x, rfl, by rw [List.flatten_cons, List.flatten_nil, List.append_nil]; exact hl⟩
  | succ n ih =>
    obtain ⟨ls', hflat, hall, -, hlen'⟩ := treeLevel_spec hstep b xs ls h
    rw [← hflat]
    refine ih _ _ _ hall ?_
    rw [pow_succ] at hlen
    omega
theorem treeFold_leaves (hstep : TreeStep f R) {n : Nat} {b : β} {xs : List α} (h : ∀ x ∈ xs, R b [x] x) (hlen : xs.length = 2 ^ n) :
    ∃ r, (treeFold f n b xs).2 = [r] ∧ R (treeFold f n b xs).1 xs r := by
  obtain ⟨r, hr, hR⟩ := treeFold_spec hstep n b xs (xs.map fun x => [x]) (List.forall₂_map_left_iff.2 (List.forall₂_same.2 h)) hlen
  rw [← List.flatMap_def, List.flatMap_singleton'] at hR
  exact ⟨r, hr, hR⟩
end

/-! ## What a maximum, a minimum and a sum over leaves are -/

/-- The greatest of some leaves, in the order `le`. -/
def IsTop {α : Type} (le : α → α → Prop) (l : List α) (r : α) : Prop := r ∈ l ∧ ∀ x ∈ l, le x r
theorem IsTop.append {α : Type} {le : α → α → Prop} {l₁ l₂ : List α} {x y r : α} (htrans : ∀ a b c, le a b → le b c → le a c)
    (h₁ : IsTop le l₁ x) (h₂ : IsTop le l₂ y) (hr : r = x ∨ r = y) (hx : le x r) (hy : le y r) : IsTop le (l₁ ++ l₂) r := by
  obtain ⟨hmem₁, hle₁⟩ := h₁
  obtain ⟨hmem₂, hle₂⟩ := h₂
  refine ⟨?_, fun z hz => ?_⟩
  · rcases hr with rfl | rfl <;> simp [hmem₁, hmem₂]
  · rcases List.mem_append.1 hz with hz | hz
    · exact htrans z x r (hle₁ z hz) hx
    · exact htrans z y r (hle₂ z hz) hy
/-- The leaves of a reduction: active lanes, and the identity elsewhere. -/
def redLeaves {α : Type} (t : Ty) (mk : B64) (x : Nat → α) (i : α) : List α :=
  (List.range t.lanes).map (fun j => if mk.getLsbD j then x j else i)
theorem length_redLeaves {α : Type} (t : Ty) (mk : B64) (x : Nat → α) (i : α) : (redLeaves t mk x i).length = 2 ^ Nat.log2 t.lanes := by
  rw [redLeaves, List.length_map, List.length_range, ← t.lanes_eq_two_pow]
theorem mem_redLeaves_of_active {α : Type} {t : Ty} {mk : B64} {x : Nat → α} {i : α} {j : Nat} (h : j ∈ activeLanes t.lanes mk) :
    x j ∈ redLeaves t mk x i := by
  obtain ⟨hj, hm⟩ := mem_activeLanes.1 h
  exact List.mem_map.2 ⟨j, List.mem_range.2 hj, if_pos hm⟩
theorem mem_redLeaves {α : Type} {t : Ty} {mk : B64} {x : Nat → α} {i r : α} (h : r ∈ redLeaves t mk x i) :
    (∃ j ∈ activeLanes t.lanes mk, r = x j) ∨ r = i := by
  obtain ⟨j, hj, rfl⟩ := List.mem_map.1 h
  by_cases hm : mk.getLsbD j = true
  · exact .inl ⟨j, mem_activeLanes.2 ⟨List.mem_range.1 hj, hm⟩, if_pos hm⟩
  · exact .inr (if_neg hm)

/-! ## Integer reductions -/

/-- The tree of an integer reduction. -/
def intTree (op : RedOp) (t : Ty) (l : List Int) : Unit × List Int := treeFold (fun _ x y => ((), redInt op x y)) (Nat.log2 t.lanes) () l
theorem vRed_int_runs {op : RedOp} {t : Ty} {m : MReg} {d : SReg} {a : VReg} {x : B512} {mk : B64} {r : Int} {s s1 s2 u : State}
    (hf : t.isFloat = false) (h1 : ReadsV s a x s1) (h2 : ReadsM s1 m mk s2)
    (hr : (intTree op t (redLeaves t mk (srcInt t none x) (redIdInt op t))).2 = [r]) (hw : Writes s2 d (BitVec.ofInt 64 r) u) :
    (vRed op noView t m d a).run s = .ok ((), u) := by
  rw [vRed, run_bind_ok h1, run_bind_ok h2, run_bind_ok (modeOf_dyn_runs s2), run_bind_ok (genOf_runs s2)]
  simp only [hf, Bool.false_eq_true, if_false]
  show (writeS d (BitVec.ofInt 64 ((intTree op t (redLeaves t mk (srcInt t none x) (redIdInt op t))).2.headD 0))).run s2 = _
  rw [hr]
  exact hw
theorem intTree_sum (t : Ty) {l : List Int} (h : l.length = 2 ^ Nat.log2 t.lanes) : (intTree .sum t l).2 = [l.sum] := by
  have hstep : TreeStep (fun (_ : Unit) x y => ((), redInt .sum x y)) (fun _ l r => r = l.sum) := by
    rintro _ l₁ l₂ x y rfl rfl
    exact ⟨List.sum_append.symm, fun _ _ h => h⟩
  obtain ⟨r, hr, hsum⟩ := treeFold_leaves hstep (b := ()) (fun x _ => List.sum_singleton.symm) h
  rw [intTree, hr, hsum]
theorem sum_redLeaves (t : Ty) (mk : B64) (x : Nat → Int) : (redLeaves t mk x 0).sum = ((activeLanes t.lanes mk).map x).sum := by
  unfold redLeaves activeLanes
  induction List.range t.lanes with
  | nil => rfl
  | cons j l ih =>
    rw [List.map_cons, List.sum_cons, ih, List.filter_cons]
    split <;> simp
theorem redInt_max_spec (x y : Int) :
    (redInt .max x y = x ∨ redInt .max x y = y) ∧ x ≤ redInt .max x y ∧ y ≤ redInt .max x y := by
  simp only [redInt]; split <;> omega
theorem redInt_min_spec (x y : Int) :
    (redInt .min x y = x ∨ redInt .min x y = y) ∧ redInt .min x y ≤ x ∧ redInt .min x y ≤ y := by
  simp only [redInt]; split <;> omega
theorem intTree_max (t : Ty) {l : List Int} (h : l.length = 2 ^ Nat.log2 t.lanes) : ∃ r, (intTree .max t l).2 = [r] ∧ IsTop (· ≤ ·) l r := by
  have hstep : TreeStep (fun (_ : Unit) x y => ((), redInt .max x y)) (fun _ l r => IsTop (· ≤ ·) l r) := by
    intro _ l₁ l₂ x y hx hy
    obtain ⟨hr, h1, h2⟩ := redInt_max_spec x y
    exact ⟨hx.append (fun _ _ _ => le_trans) hy hr h1 h2, fun _ _ h => h⟩
  exact treeFold_leaves hstep (b := ()) (fun x _ => ⟨List.mem_singleton_self x, by simp⟩) h
theorem intTree_min (t : Ty) {l : List Int} (h : l.length = 2 ^ Nat.log2 t.lanes) : ∃ r, (intTree .min t l).2 = [r] ∧ IsTop (· ≥ ·) l r := by
  have hstep : TreeStep (fun (_ : Unit) x y => ((), redInt .min x y)) (fun _ l r => IsTop (· ≥ ·) l r) := by
    intro _ l₁ l₂ x y hx hy
    obtain ⟨hr, h1, h2⟩ := redInt_min_spec x y
    exact ⟨hx.append (fun _ _ _ => ge_trans) hy hr h1 h2, fun _ _ h => h⟩
  exact treeFold_leaves hstep (b := ()) (fun x _ => ⟨List.mem_singleton_self x, by simp⟩) h
theorem intVal_bounds {w : Nat} (hw : 0 < w) (signed : Bool) (x : Nat) : intLo w signed ≤ intVal w signed x ∧ intVal w signed x ≤ intHi w signed := by
  have hmod : x % 2 ^ w < 2 ^ w := Nat.mod_lt _ (Nat.two_pow_pos w)
  have hhalf : 2 ^ w = 2 * 2 ^ (w - 1) := by rw [← Nat.pow_succ', Nat.succ_eq_add_one, Nat.sub_add_cancel hw]
  have hz : ((2 ^ w : Nat) : Int) = 2 ^ w := by push_cast; rfl
  have hz1 : ((2 ^ (w - 1) : Nat) : Int) = 2 ^ (w - 1) := by push_cast; rfl
  unfold intLo intHi intVal
  cases signed with
  | false => simp only [Bool.false_eq_true, false_and, if_false]; omega
  | true => simp only [true_and, if_true]; split <;> omega
/-- The greatest leaf is the greatest active lane, or the identity where no lane is active. -/
theorem top_of_leaves {α : Type} [PartialOrder α] {t : Ty} {mk : B64} {x : Nat → α} {i r v : α} (hid : ∀ j, i ≤ x j)
    (hr : IsTop (· ≤ ·) (redLeaves t mk x i) r)
    (hv : if activeLanes t.lanes mk = [] then v = i else (∃ j ∈ activeLanes t.lanes mk, v = x j) ∧ ∀ j ∈ activeLanes t.lanes mk, x j ≤ v) : r = v := by
  obtain ⟨hmem, hle⟩ := hr
  split at hv
  · next h0 =>
    rcases mem_redLeaves hmem with ⟨j, hj, -⟩ | h
    · rw [h0] at hj; cases hj
    · exact h.trans hv.symm
  · obtain ⟨⟨j, hj, rfl⟩, hub⟩ := hv
    refine le_antisymm ?_ (hle _ (mem_redLeaves_of_active hj))
    rcases mem_redLeaves hmem with ⟨k, hk, rfl⟩ | rfl
    · exact hub k hk
    · exact hid j
theorem srcInt_bounds (t : Ty) (x : B512) (j : Nat) : redIdInt .max t ≤ srcInt t none x j ∧ srcInt t none x j ≤ redIdInt .min t :=
  intVal_bounds t.width_pos (tySigned t) _

/-! ## Floating reductions -/

/-- The tree of a floating reduction, with its flags and its draws. -/
def fltTree (op : RedOp) (rm : RMode) (t : Ty) (g : B64) (l : List FV) : (Flags × B64) × List FV :=
  treeFold (redFlt op rm) (Nat.log2 t.lanes) (0, g) l
theorem vRed_flt_runs {op : RedOp} {t : Ty} {m : MReg} {d : SReg} {a : VReg} {x : B512} {mk g : B64} {fl : Flags} {l : List FV} {s s1 s2 u : State}
    (hf : t.isFloat = true) (h1 : ReadsV s a x s1) (h2 : ReadsM s1 m mk s2)
    (hr : fltTree op (vrndMode s2.me.vrnd) t s2.me.gen (redLeaves t mk (srcFlt t none x) (redIdFlt op)) = ((fl, g), l))
    (hw : Writes (s2.flagged g fl) d (BitVec.ofNat 64 (roundTo fmtF32 .rne false 0 (l.headD .nan)).bits) u) :
    (vRed op noView t m d a).run s = .ok ((), u) := by
  rw [vRed, run_bind_ok h1, run_bind_ok h2, run_bind_ok (modeOf_dyn_runs s2), run_bind_ok (genOf_runs s2)]
  simp only [hf, if_true]
  show (setGen (fltTree op (vrndMode s2.me.vrnd) t s2.me.gen (redLeaves t mk (srcFlt t none x) (redIdFlt op))).1.2 >>= fun _ =>
    orFlags (fltTree op (vrndMode s2.me.vrnd) t s2.me.gen (redLeaves t mk (srcFlt t none x) (redIdFlt op))).1.1 >>= fun _ =>
    writeS d (BitVec.ofNat 64 (roundTo fmtF32 .rne false 0
      ((fltTree op (vrndMode s2.me.vrnd) t s2.me.gen (redLeaves t mk (srcFlt t none x) (redIdFlt op))).2.headD .nan)).bits)).run s2 = _
  rw [hr, setGen_orFlags]
  exact hw
theorem redFlt_extremum {op : RedOp} (hop : op ≠ .sum) (rm : RMode) (b : Flags × B64) (x y : FV) :
    redFlt op rm b x y = if x.isNan || y.isNan then ((b.1 ||| flagNV, b.2), .nan) else (b, (minMaxFV (op == .max) x y).1) := by
  cases op with
  | sum => exact absurd rfl hop
  | max => rfl
  | min => rfl
/-- `x` gives way to `y` in a maximum (`mx`) or a minimum; neither is NaN. -/
def FV.Yields (mx : Bool) (x y : FV) : Prop := x.isNan = false ∧ y.isNan = false ∧ if mx = true then x.Below y else y.Below x
theorem FV.yields_refl {mx : Bool} {x : FV} (hx : x.isNan = false) : x.Yields mx x :=
  ⟨hx, hx, by split <;> exact below_refl hx⟩
theorem FV.Yields.trans {mx : Bool} {x y z : FV} (h1 : x.Yields mx y) (h2 : y.Yields mx z) : x.Yields mx z := by
  obtain ⟨hx, hy, hxy⟩ := h1
  obtain ⟨-, hz, hyz⟩ := h2
  refine ⟨hx, hz, ?_⟩
  cases mx
  · exact hyz.trans hz hy hx hxy
  · exact hxy.trans hx hy hz hyz
theorem yields_minMaxFV (mx : Bool) {x y : FV} (hx : x.isNan = false) (hy : y.isNan = false) :
    x.Yields mx (minMaxFV mx x y).1 ∧ y.Yields mx (minMaxFV mx x y).1 := by
  have hr : (minMaxFV mx x y).1.isNan = false := by rcases minMaxFV_mem mx hx hy with h | h <;> rwa [h]
  cases mx
  · exact ⟨⟨hx, hr, (minFV_below hx hy).1⟩, ⟨hy, hr, (minFV_below hx hy).2⟩⟩
  · exact ⟨⟨hx, hr, (below_maxFV hx hy).1⟩, ⟨hy, hr, (below_maxFV hx hy).2⟩⟩
/-- R83: without a NaN the tree finds the extremum of its leaves, and raises nothing. -/
theorem fltTree_extremum {op : RedOp} (hop : op ≠ .sum) (rm : RMode) {t : Ty} (g : B64) {l : List FV} (hl : ∀ x ∈ l, x.isNan = false)
    (hlen : l.length = 2 ^ Nat.log2 t.lanes) : ∃ r, fltTree op rm t g l = ((0, g), [r]) ∧ IsTop (FV.Yields (op == .max)) l r := by
  have hstep : TreeStep (redFlt op rm) (fun b l r => b = (0, g) ∧ IsTop (FV.Yields (op == .max)) l r) := by
    rintro b l₁ l₂ x y ⟨rfl, hx⟩ ⟨-, hy⟩
    have hxn : x.isNan = false := (hx.2 x hx.1).1
    have hyn : y.isNan = false := (hy.2 y hy.1).1
    obtain ⟨h1, h2⟩ := yields_minMaxFV (op == .max) hxn hyn
    rw [redFlt_extremum hop, hxn, hyn, if_neg (by decide)]
    exact ⟨⟨rfl, hx.append (fun _ _ _ => FV.Yields.trans) hy (minMaxFV_mem _ hxn hyn) h1 h2⟩, fun _ _ h => h⟩
  obtain ⟨r, hr, hb, htop⟩ := treeFold_leaves (n := Nat.log2 t.lanes) hstep (b := (0, g))
    (fun x hx => ⟨rfl, List.mem_singleton_self x, fun y hy => by rw [List.mem_singleton.1 hy]; exact FV.yields_refl (hl x hx)⟩) hlen
  exact ⟨r, Prod.ext hb hr, htop⟩
/-- R83: with a NaN among the leaves the root is NaN, and NV is raised. -/
theorem fltTree_nan {op : RedOp} (hop : op ≠ .sum) (rm : RMode) {t : Ty} (g : B64) {l : List FV} (hl : ∃ x ∈ l, x.isNan = true)
    (hlen : l.length = 2 ^ Nat.log2 t.lanes) : fltTree op rm t g l = ((flagNV, g), [.nan]) := by
  have hstep : TreeStep (redFlt op rm) (fun b l r => (b = (0, g) ∨ b = (flagNV, g)) ∧ 1 ≤ l.length ∧
      ((∃ x ∈ l, x.isNan = true) → r.isNan = true ∧ (2 ≤ l.length → b = (flagNV, g)))) := by
    rintro b l₁ l₂ x y ⟨hb, hlen₁, hx⟩ ⟨-, hlen₂, hy⟩
    rw [redFlt_extremum hop]
    have hb' : (b.1 ||| flagNV, b.2) = (flagNV, g) := by
      rcases hb with rfl | rfl
      · exact congrArg (·, g) (show (0 : Flags) ||| flagNV = flagNV by decide)
      · exact congrArg (·, g) (show flagNV ||| flagNV = flagNV by decide)
    by_cases hn : (x.isNan || y.isNan) = true
    · rw [if_pos hn, hb']
      exact ⟨⟨.inr rfl, by rw [List.length_append]; omega, fun _ => ⟨rfl, fun _ => rfl⟩⟩,
        fun l z ⟨_, hlen, hz⟩ => ⟨.inr rfl, hlen, fun h => ⟨(hz h).1, fun _ => rfl⟩⟩⟩
    · rw [if_neg hn]
      refine ⟨⟨hb, by rw [List.length_append]; omega, fun ⟨z, hz, hzn⟩ => absurd ?_ hn⟩, fun l z h => h⟩
      rw [Bool.or_eq_true]
      exact (List.mem_append.1 hz).imp (fun h => (hx ⟨z, h, hzn⟩).1) (fun h => (hy ⟨z, h, hzn⟩).1)
  obtain ⟨r, hr, -, -, hroot⟩ := treeFold_leaves (n := Nat.log2 t.lanes) hstep (b := (0, g))
    (fun x _ => ⟨.inl rfl, le_rfl, fun ⟨y, hy, hyn⟩ => ⟨List.mem_singleton.1 hy ▸ hyn, fun h => absurd h (Nat.not_lt.2 le_rfl)⟩⟩) hlen
  obtain ⟨hrn, hb⟩ := hroot hl
  have htwo : 2 ≤ l.length := by rw [hlen, ← t.lanes_eq_two_pow]; exact t.two_le_lanes
  exact Prod.ext (hb htwo) (hr.trans (by rw [FV.isNan_iff.1 hrn]))
/-- R83: the identity of a maximum is −∞, that of a minimum +∞. -/
theorem redIdFlt_extremum {op : RedOp} (hop : op ≠ .sum) : redIdFlt op = .inf (op == .max) := by
  cases op with
  | sum => exact absurd rfl hop
  | max => rfl
  | min => rfl
theorem FV.eq_inf_of_place {v : FV} {s : Bool} (hv : v.isNan = false) (h : v.place = (FV.inf s).place) : v = .inf s := by
  cases v with
  | nan => cases hv
  | inf t => cases s <;> cases t <;> simp [place] at h ⊢
  | fin t m e =>
    obtain ⟨h1, h2⟩ := place_fin_ne t m e
    cases s
    · exact absurd h h2
    · exact absurd h h1
/-- Only the identity gives way to it. -/
theorem eq_identity_of_yields {mx : Bool} {v : FV} (h : v.Yields mx (.inf mx)) : v = .inf mx := by
  obtain ⟨hv, hi, hb⟩ := h
  refine FV.eq_inf_of_place hv ?_
  cases mx
  · rw [if_neg Bool.false_ne_true, FV.below_iff hi hv] at hb
    exact hb.elim (fun h => absurd h not_top_lt) (fun h => h.1.symm)
  · rw [if_pos rfl, FV.below_iff hv hi] at hb
    exact hb.elim (fun h => absurd h not_lt_bot) (fun h => h.1)
/-- R83, R137: a lane gives way to `v` as the statement writes it: it is `v`, lies strictly on the losing side of it, or is a zero
where `v` is the zero that wins. -/
def GivesWay (mx : Bool) (x v : FV) : Prop :=
  x = v ∨ (if mx = true then cmpFV x v else cmpFV v x) = some (-1) ∨ (x.isZero = true ∧ v.isZero = true ∧ ∃ e, v = .fin (!mx) 0 e)
/-- A value that gives way to `v`, and to which `v` gives way, has the rounding of `v`. -/
theorem roundTo_eq_of_yields {mx : Bool} {r v : FV} (h1 : v.Yields mx r) (h2 : GivesWay mx r v) (f : FFmt) (rm : RMode) (sat : Bool) (g : B64) :
    (roundTo f rm sat g r).bits = (roundTo f rm sat g v).bits := by
  obtain ⟨hv, hr, hb⟩ := h1
  rcases h2 with rfl | hlt | ⟨hz, -, e, rfl⟩
  · rfl
  · cases mx
    · rw [if_neg Bool.false_ne_true, cmpFV_eq hv hr, Option.some_inj, orderSign_eq_neg_one] at hlt
      rw [if_neg Bool.false_ne_true, FV.below_iff hr hv] at hb
      exact absurd hlt (hb.elim (fun h => h.not_gt) (fun h => h.1.not_gt))
    · rw [if_pos rfl, cmpFV_eq hr hv, Option.some_inj, orderSign_eq_neg_one] at hlt
      rw [if_pos rfl, FV.below_iff hv hr] at hb
      exact absurd hlt (hb.elim (fun h => h.not_gt) (fun h => h.1.not_gt))
  · obtain ⟨s, e', rfl⟩ : ∃ s e', r = .fin s 0 e' := by
      cases r with
      | nan => cases hz
      | inf s => cases hz
      | fin s m e' => cases m with | zero => exact ⟨s, e', rfl⟩ | succ m => cases hz
    have hplace (s : Bool) (e : Int) : (FV.fin s 0 e).place = 0 := by simp [FV.place]
    have hs : s = !mx := by
      cases mx
      · rw [if_neg Bool.false_ne_true, FV.below_iff hr hv, hplace, hplace] at hb
        simpa [FV.sgn] using hb
      · rw [if_pos rfl, FV.below_iff hv hr, hplace, hplace] at hb
        simpa [FV.sgn] using hb
    rw [roundTo_zero, roundTo_zero, hs]
/-- R83, R137: the extremum of the active lanes, as the statement writes it, has the rounding of the tree's root. -/
theorem roundTo_extremum {mx : Bool} {t : Ty} {mk : B64} {x : Nat → FV} {r v : FV}
    (hr : IsTop (FV.Yields mx) (redLeaves t mk x (.inf mx)) r) (h0 : activeLanes t.lanes mk = [] → v = .inf mx)
    (h1 : activeLanes t.lanes mk ≠ [] → ∃ j ∈ activeLanes t.lanes mk, v = x j) (hub : ∀ j ∈ activeLanes t.lanes mk, GivesWay mx (x j) v)
    (f : FFmt) (rm : RMode) (sat : Bool) (g : B64) : (roundTo f rm sat g r).bits = (roundTo f rm sat g v).bits := by
  obtain ⟨hmem, hle⟩ := hr
  rcases mem_redLeaves hmem with ⟨j, hj, rfl⟩ | rfl
  · obtain ⟨k, hk, rfl⟩ := h1 (List.ne_nil_of_mem hj)
    exact roundTo_eq_of_yields (hle _ (mem_redLeaves_of_active hk)) (hub j hj) f rm sat g
  · by_cases he : activeLanes t.lanes mk = []
    · rw [h0 he]
    · obtain ⟨k, hk, rfl⟩ := h1 he
      rw [eq_identity_of_yields (hle _ (mem_redLeaves_of_active hk))]

/-! ## The scan -/

theorem vScan_runs {t : Ty} {m : MReg} {d a : VReg} {x w : B512} {mk g : B64} {fl : Flags} {s s1 s2 u : State} (hd : DestFree s m d)
    (h1 : ReadsV s a x s1) (h2 : ReadsM s1 m mk s2)
    (hfold : (if t.isFloat then
        ((List.range t.lanes).foldl (scanFlt noView t (vrndMode s2.me.vrnd) (vrndMode s2.me.vrnd) mk x) (none, ⟨oldOf s d, 0, s2.me.gen⟩)).2
      else ((List.range t.lanes).foldl (scanInt noView t mk x) (0, ⟨oldOf s d, 0, s2.me.gen⟩)).2) = ⟨w, fl, g⟩)
    (hw : WritesV (s2.flagged g fl) d w u) : (vScan noView t m d a).run s = .ok ((), u) := by
  rw [vScan, run_bind_ok hd.destOk, run_bind_ok hd.oldV, run_bind_ok h1, run_bind_ok h2, run_bind_ok (modeOf_dyn_runs s2),
    run_bind_ok (elemMode_noView_runs s2), run_bind_ok (genOf_runs s2)]
  simp only [hfold]
  rw [setGen_orFlags]
  exact hw
/-- The exact sum of the active lanes up to lane `j`. -/
def sumTo (mk : B64) (x : Nat → Int) (j : Nat) : Int := ((activeLanes (j + 1) mk).map x).sum
theorem scanInt_active {t : Ty} {mk : B64} {x : B512} {j : Nat} (hm : mk.getLsbD j = true) (y : Int) (acc : LaneAcc) :
    scanInt noView t mk x (y, acc) j = (y + srcInt t none x j, acc.putInt t noView j (some (y + srcInt t none x j))) :=
  if_neg (by rw [hm]; decide)
theorem scanInt_inactive {t : Ty} {mk : B64} {x : B512} {j : Nat} (hm : ¬ mk.getLsbD j = true) (r : Int × LaneAcc) :
    scanInt noView t mk x r j = r := if_pos (by rw [Bool.not_eq_true] at hm; rw [hm]; rfl)
theorem foldl_scanInt (t : Ty) (mk : B64) (x old : B512) (g : B64) (k : Nat) :
    (List.range k).foldl (scanInt noView t mk x) (0, ⟨old, 0, g⟩) =
      (((activeLanes k mk).map (srcInt t none x)).sum,
        ⟨putElems t.width 0 (fun j => wrapInt t.width (sumTo mk (srcInt t none x) j)) (activeLanes k mk) old, 0, g⟩) := by
  induction k with
  | zero => rfl
  | succ k ih =>
    rw [List.range_succ, List.foldl_append, ih, List.foldl_cons, List.foldl_nil, activeLanes_succ, putElems_append]
    by_cases hm : mk.getLsbD k = true
    · have hsum : sumTo mk (srcInt t none x) k = ((activeLanes k mk).map (srcInt t none x)).sum + srcInt t none x k := by
        rw [sumTo, activeLanes_succ, if_pos hm, List.map_append, List.sum_append, List.map_singleton, List.sum_singleton]
      rw [scanInt_active hm, if_pos hm, List.map_append, List.sum_append, List.map_singleton, List.sum_singleton, LaneAcc.putInt_eq, ← hsum]
      rfl
    · rw [scanInt_inactive hm, if_neg hm, List.append_nil]
      rfl
theorem activeLanes_filter_le {n : Nat} (mk : B64) {j : Nat} (hj : j + 1 ≤ n) :
    (activeLanes n mk).filter (fun i => decide (i ≤ j)) = activeLanes (j + 1) mk := by
  induction n, hj using Nat.le_induction with
  | base =>
    refine List.filter_eq_self.2 fun i hi => ?_
    have := (mem_activeLanes.1 hi).1
    exact decide_eq_true (by omega)
  | succ n hn ih =>
    rw [activeLanes_succ, List.filter_append, ih]
    have : decide (n ≤ j) = false := decide_eq_false (by omega)
    split <;> simp [this]
/-- R84, R138: over integer lanes the scan leaves the exact sums so far, wrapped. -/
theorem scanInt_lanes {t : Ty} {mk : B64} {x old new : B512}
    (h : IntLanes t t.lanes mk (fun j => (((activeLanes t.lanes mk).filter (fun i => i ≤ j)).map (srcInt t none x)).sum) old new) (g : B64) :
    ((List.range t.lanes).foldl (scanInt noView t mk x) (0, ⟨old, 0, g⟩)).2 = ⟨new, 0, g⟩ := by
  rw [foldl_scanInt]
  refine congrArg (LaneAcc.mk · _ _) (putElems_lanes (fun j hj => (mem_activeLanes.1 hj).1) fun j hj => ?_)
  rw [h j hj]
  simp only [activeLanes_filter_le mk (Nat.succ_le_of_lt hj)]
  exact if_congr mem_activeLanes.symm rfl rfl

/-- The exact value of a scan's lane `j` before it is rounded: the lane itself, or its sum with the value before. -/
def scanSum (t : Ty) (rm : RMode) (x : B512) (ys : Nat → FV) (j : Nat) : FV × Flags :=
  if j = 0 then (srcFlt t none x 0, 0) else addFV rm (ys (j - 1)) (srcFlt t none x j)
/-- R84, R138: one lane of a floating scan, with its value `ys j`, the generator and the flags. -/
def ScanLane (t : Ty) (rm : RMode) (mk : B64) (x old new : B512) (ys : Nat → FV) (gs : Nat → B64) (fs : Nat → Flags) (j : Nat) : Prop :=
  if mk.getLsbD j = true then
    ys j = (tyFmt t).value (roundTo (tyFmt t) rm false (gs j) (scanSum t rm x ys j).1).bits ∧
      elemBits t.width j new = (roundTo (tyFmt t) rm false (gs j) (scanSum t rm x ys j).1).bits ∧
      gs (j + 1) = (roundTo (tyFmt t) rm false (gs j) (scanSum t rm x ys j).1).gen ∧
      fs (j + 1) = fs j ||| (scanSum t rm x ys j).2 ||| (roundTo (tyFmt t) rm false (gs j) (scanSum t rm x ys j).1).flags
  else ys j = (if j = 0 then .fin true 0 0 else ys (j - 1)) ∧ elemBits t.width j new = elemBits t.width j old ∧
    gs (j + 1) = gs j ∧ fs (j + 1) = fs j
/-- The running value before lane `k`. -/
def scanBefore (ys : Nat → FV) (k : Nat) : Option FV := if k = 0 then none else some (ys (k - 1))
theorem scanFlt_active {t : Ty} {rm : RMode} {mk : B64} {x : B512} {ys : Nat → FV} {j : Nat} (hm : mk.getLsbD j = true) (acc : LaneAcc) :
    scanFlt noView t rm rm mk x (scanBefore ys j, acc) j =
      (some ((tyFmt t).value (roundTo (tyFmt t) rm false acc.gen (scanSum t rm x ys j).1).bits),
        ⟨putElem t.width j (roundTo (tyFmt t) rm false acc.gen (scanSum t rm x ys j).1).bits acc.reg,
          acc.flags ||| (scanSum t rm x ys j).2 ||| (roundTo (tyFmt t) rm false acc.gen (scanSum t rm x ys j).1).flags,
          (roundTo (tyFmt t) rm false acc.gen (scanSum t rm x ys j).1).gen⟩) := by
  rw [scanFlt, if_neg (by rw [hm]; decide)]
  cases j with
  | zero => rfl
  | succ j => rfl
theorem scanFlt_inactive {t : Ty} {rm : RMode} {mk : B64} {x : B512} {ys : Nat → FV} {j : Nat} (hm : ¬ mk.getLsbD j = true) (acc : LaneAcc) :
    scanFlt noView t rm rm mk x (scanBefore ys j, acc) j = (some (if j = 0 then .fin true 0 0 else ys (j - 1)), acc) := by
  rw [Bool.not_eq_true] at hm
  rw [scanFlt, if_pos (by rw [hm]; rfl)]
  cases j with
  | zero => rfl
  | succ j => rfl
theorem foldl_scanFlt {t : Ty} {rm : RMode} {mk : B64} {x old new : B512} {ys : Nat → FV} {gs : Nat → B64} {fs : Nat → Flags} (hf0 : fs 0 = 0)
    (h : ∀ j < t.lanes, ScanLane t rm mk x old new ys gs fs j) {k : Nat} (hk : k ≤ t.lanes) :
    (List.range k).foldl (scanFlt noView t rm rm mk x) (none, ⟨old, 0, gs 0⟩) =
      (scanBefore ys k, ⟨putElems t.width 0 (fun j => elemBits t.width j new) (activeLanes k mk) old, fs k, gs k⟩) := by
  induction k with
  | zero => rw [hf0]; rfl
  | succ k ih =>
    have hlane := h k (by omega)
    rw [List.range_succ, List.foldl_append, ih (by omega), List.foldl_cons, List.foldl_nil, activeLanes_succ, putElems_append]
    by_cases hm : mk.getLsbD k = true
    · rw [ScanLane, if_pos hm] at hlane
      obtain ⟨hy, hbits, hgen, hflags⟩ := hlane
      rw [scanFlt_active hm, if_pos hm, hgen, hflags, ← hy, ← hbits]
      simp only [putElems, List.foldl_cons, List.foldl_nil, Nat.zero_add]
      rfl
    · rw [ScanLane, if_neg hm] at hlane
      obtain ⟨hy, -, hgen, hflags⟩ := hlane
      rw [scanFlt_inactive hm, if_neg hm, hgen, hflags, ← hy]
      rfl
theorem scanFlt_lanes {t : Ty} {rm : RMode} {mk : B64} {x old new : B512} {ys : Nat → FV} {gs : Nat → B64} {fs : Nat → Flags} (hf0 : fs 0 = 0)
    (h : ∀ j < t.lanes, ScanLane t rm mk x old new ys gs fs j) :
    ((List.range t.lanes).foldl (scanFlt noView t rm rm mk x) (none, ⟨old, 0, gs 0⟩)).2 = ⟨new, fs t.lanes, gs t.lanes⟩ := by
  rw [foldl_scanFlt hf0 h le_rfl]
  refine congrArg (LaneAcc.mk · _ _) (putElems_lanes (fun j hj => (mem_activeLanes.1 hj).1) fun j hj => ?_)
  split
  · rfl
  · next hm =>
    have hlane := h j hj
    rw [ScanLane, if_neg (fun hc => hm (mem_activeLanes.2 ⟨hj, hc⟩))] at hlane
    exact hlane.2.1

/-! ## The statement -/

/-- An integer maximum over the leaves, as the statement has it. -/
theorem vRedmax_int_runs {t : Ty} {m : MReg} {d : SReg} {a : VReg} {x : B512} {mk : B64} {v : Int} {s s1 s2 u : State}
    (hf : t.isFloat = false) (h1 : ReadsV s a x s1) (h2 : ReadsM s1 m mk s2)
    (hv : if activeLanes t.lanes mk = [] then v = redIdInt .max t
      else (∃ j ∈ activeLanes t.lanes mk, v = srcInt t none x j) ∧ ∀ j ∈ activeLanes t.lanes mk, srcInt t none x j ≤ v)
    (hw : Writes s2 d (BitVec.ofInt 64 v) u) : (vRed .max noView t m d a).run s = .ok ((), u) := by
  obtain ⟨r, hr, htop⟩ := intTree_max t (length_redLeaves t mk (srcInt t none x) (redIdInt .max t))
  obtain rfl := top_of_leaves (fun j => (srcInt_bounds t x j).1) htop hv
  exact vRed_int_runs hf h1 h2 hr hw
theorem vRedmin_int_runs {t : Ty} {m : MReg} {d : SReg} {a : VReg} {x : B512} {mk : B64} {v : Int} {s s1 s2 u : State}
    (hf : t.isFloat = false) (h1 : ReadsV s a x s1) (h2 : ReadsM s1 m mk s2)
    (hv : if activeLanes t.lanes mk = [] then v = redIdInt .min t
      else (∃ j ∈ activeLanes t.lanes mk, v = srcInt t none x j) ∧ ∀ j ∈ activeLanes t.lanes mk, v ≤ srcInt t none x j)
    (hw : Writes s2 d (BitVec.ofInt 64 v) u) : (vRed .min noView t m d a).run s = .ok ((), u) := by
  obtain ⟨r, hr, htop⟩ := intTree_min t (length_redLeaves t mk (srcInt t none x) (redIdInt .min t))
  obtain rfl := top_of_leaves (α := Intᵒᵈ) (fun j => (srcInt_bounds t x j).2) htop hv
  exact vRed_int_runs hf h1 h2 hr hw
/-- A floating maximum or minimum with a NaN among the active lanes. -/
theorem vRed_nan_runs {op : RedOp} (hop : op ≠ .sum) {t : Ty} {m : MReg} {d : SReg} {a : VReg} {x : B512} {mk : B64} {s s1 s2 u : State}
    (hf : t.isFloat = true) (h1 : ReadsV s a x s1) (h2 : ReadsM s1 m mk s2) (hnan : ∃ j ∈ activeLanes t.lanes mk, (srcFlt t none x j).isNan = true)
    (hw : Writes (s2.flagged s2.me.gen flagNV) d (BitVec.ofNat 64 (roundTo fmtF32 .rne false 0 .nan).bits) u) :
    (vRed op noView t m d a).run s = .ok ((), u) := by
  obtain ⟨j, hj, hjn⟩ := hnan
  exact vRed_flt_runs hf h1 h2 (fltTree_nan hop _ _ ⟨_, mem_redLeaves_of_active hj, hjn⟩ (length_redLeaves ..)) hw
/-- A floating maximum or minimum without a NaN. -/
theorem vRed_extremum_runs {op : RedOp} (hop : op ≠ .sum) {t : Ty} {m : MReg} {d : SReg} {a : VReg} {x : B512} {mk : B64} {v : FV}
    {s s1 s2 u : State} (hf : t.isFloat = true) (h1 : ReadsV s a x s1) (h2 : ReadsM s1 m mk s2)
    (hnan : ∀ j ∈ activeLanes t.lanes mk, (srcFlt t none x j).isNan = false) (hv0 : activeLanes t.lanes mk = [] → v = .inf (op == .max))
    (hv1 : activeLanes t.lanes mk ≠ [] → ∃ j ∈ activeLanes t.lanes mk, v = srcFlt t none x j)
    (hub : ∀ j ∈ activeLanes t.lanes mk, GivesWay (op == .max) (srcFlt t none x j) v)
    (hw : Writes (s2.flagged s2.me.gen 0) d (BitVec.ofNat 64 (roundTo fmtF32 .rne false 0 v).bits) u) :
    (vRed op noView t m d a).run s = .ok ((), u) := by
  have hleaves : ∀ y ∈ redLeaves t mk (srcFlt t none x) (redIdFlt op), y.isNan = false := by
    intro y hy
    rcases mem_redLeaves hy with ⟨j, hj, rfl⟩ | rfl
    · exact hnan j hj
    · rw [redIdFlt_extremum hop]; rfl
  obtain ⟨r, hr, htop⟩ := fltTree_extremum hop (vrndMode s2.me.vrnd) s2.me.gen hleaves (length_redLeaves ..)
  rw [redIdFlt_extremum hop] at htop
  rw [← roundTo_extremum htop hv0 hv1 hub] at hw
  exact vRed_flt_runs hf h1 h2 hr hw

/-- Settles O42: a node of the tree stands for its leaves (their sum, their extremum, or NaN), so the root stands for all lanes; the
scan goes on from the value of the lane before. -/
theorem vectorReductions : Obligations.VectorReductions := by
  unfold Obligations.VectorReductions
  intro s s1 s2 u ty m d vd a x w mk h1 h2
  refine ⟨fun hf => ⟨fun hw => ?_, fun v hv hw => ?_, fun v hv hw => ?_, fun hd hl hw => ?_⟩, fun hf hnan hw => ⟨?_, ?_⟩,
    fun ys gs fs hf hd hg0 hf0 hl hw => ?_, fun hf => ⟨fun v hv hw => ?_, fun v hnan h0 h1' hub hw => ?_, fun v hnan h0 h1' hub hw => ?_⟩⟩
  · refine next_retire (vRed_int_runs (op := .sum) hf h1 h2 (intTree_sum ty (length_redLeaves ..)) ?_)
    rw [show redIdInt .sum ty = 0 from rfl, sum_redLeaves]
    exact hw
  · exact next_retire (vRedmax_int_runs hf h1 h2 hv hw)
  · exact next_retire (vRedmin_int_runs hf h1 h2 hv hw)
  · refine next_retire (vScan_runs hd h1 h2 ?_ hw)
    rw [if_neg (by rw [hf]; decide)]
    exact scanInt_lanes hl _
  · exact next_retire (vRed_nan_runs (op := .max) (by decide) hf h1 h2 hnan hw)
  · exact next_retire (vRed_nan_runs (op := .min) (by decide) hf h1 h2 hnan hw)
  · refine next_retire (vScan_runs hd h1 h2 ?_ hw)
    rw [if_pos hf, ← hg0]
    exact scanFlt_lanes hf0 hl
  · refine next_retire (vRed_flt_runs (op := .sum) (l := [v]) hf h1 h2 (Prod.ext rfl hv) hw)
  · exact next_retire (vRed_extremum_runs (op := .max) (by decide) hf h1 h2 hnan h0 h1' hub hw)
  · exact next_retire (vRed_extremum_runs (op := .min) (by decide) hf h1 h2 hnan h0 h1' hub hw)

end Sys2Proof.Machine
end

section
/-! # One K-block of a product (R86, R168) -/
open Sys2Proof
namespace Sys2Proof.Machine

/-! ## What a job reads with nothing pending -/

/-- A range where a job may read touches no spill queue. -/
theorem spillCore_of_millPlace {core : Nat} {va : B64} {n l : Nat} (h : millPlace core va n = .at l) : spillCore l n = none := by
  obtain ⟨off, rfl, hoff⟩ : ∃ off, l = spadBase + off ∧ off % 0x40000 + n ≤ 0x30000 := by
    have hat (off : Nat) (h : (if off % 0x40000 + n ≤ 0x30000 then MillAt.at (spadBase + off) else .prot) = .at l) :
        ∃ off, l = spadBase + off ∧ off % 0x40000 + n ≤ 0x30000 := by
      split at h
      · next hle => cases h; exact ⟨off, rfl, hle⟩
      · cases h
    simp only [millPlace] at h
    split at h
    · exact hat _ h
    · split at h
      · exact hat _ h
      · cases h
  have hcore : spadCore (spadBase + off) = some (off / 0x40000) := by
    rw [spadCore, if_pos (Nat.le_add_right _ _), Nat.add_sub_cancel_left]
  have hdm := Nat.div_add_mod off 0x40000
  simp only [spillCore, hcore]
  refine if_neg ?_
  simp only [spadLoc]
  omega
theorem millRead_quiet {s : State} {j : MillJob} {va : B64} {n l : Nat} (hst : s.stores = []) (hu : s.upd = []) (ha : j.ahead = [])
    (hp : millPlace (coreOf j.tid) va n = .at l) : s.millRead j va n = (s, readBytes s.mem l n) := by
  have hrecall : s.recall l n = s := State.recall_of_quiet hu (spillCore_of_millPlace hp)
  have hobs : s.observe j.tid j.party l n = s := by rw [State.observe, hst]; rfl
  rw [State.millRead, hp, ha]
  show (s.observe j.tid j.party l n).portRead [] l n = _
  rw [hobs, portRead_quiet (by rw [hrecall, hst]; intro p hp; cases hp), hrecall, underAhead_nil]
theorem millReads_quiet {s : State} {j : MillJob} {va : Nat → B64} {n : Nat} {l : Nat → Nat} (hst : s.stores = []) (hu : s.upd = [])
    (ha : j.ahead = []) (is : List Nat) (hp : ∀ i ∈ is, millPlace (coreOf j.tid) (va i) n = .at (l i)) :
    s.millReads j (is.map (fun i => (va i, n))) = (s, is.map (fun i => readBytes s.mem (l i) n)) := by
  induction is with
  | nil => rfl
  | cons i is ih =>
    rw [List.map_cons, State.millReads, millRead_quiet hst hu ha (hp i List.mem_cons_self), ih (fun k hk => hp k (List.mem_cons_of_mem i hk))]
    rfl

/-! ## The operands of a block -/

/-- Element `k` of packed bytes (R68). -/
def packedElem (w : Nat) (bs : List Byte) (k : Nat) : Nat := leNat bs / 2 ^ (w * k) % 2 ^ w
theorem unpackElems_eq (w n : Nat) (bs : List Byte) : unpackElems w n bs = (List.range n).map (packedElem w bs) := rfl
theorem getD_unpackElems {w n c : Nat} (bs : List Byte) (h : c < n) : (unpackElems w n bs).getD c 0 = packedElem w bs c := by
  rw [unpackElems_eq, List.getD_eq_getElem?_getD, List.getElem?_map, List.getElem?_range h]
  rfl
theorem getD_map_range {α : Type} (f : Nat → α) {n i : Nat} (d : α) (h : i < n) : ((List.range n).map f).getD i d = f i := by
  rw [List.getD_eq_getElem?_getD, List.getElem?_map, List.getElem?_range h]
  rfl
/-- The products that the next block sums for an element. -/
def MillJob.blockLen (j : MillJob) : Nat := min 32 (j.mkReg.toNat - 32 * j.blocks)
/-- The values of row `i` of A in the next block, its bytes from `l` on. -/
def State.plainRow (s : State) (j : MillJob) (l : Nat) : List FV :=
  (List.range j.blockLen).map (fun k => millVal j.fa (packedElem (millWidth j.fa) (readBytes s.mem l ((j.blockLen * millWidth j.fa + 7) / 8)) k))
/-- The values of column `c` of B in the next block, the bytes of row `k` from `l k` on. -/
def State.plainCol (s : State) (j : MillJob) (l : Nat → Nat) (c : Nat) : List FV :=
  (List.range j.blockLen).map (fun k => millVal j.fb (packedElem (millWidth j.fb) (readBytes s.mem (l k) (4 * millWidth j.fb)) c))
section
/- A product of plain formats with nothing pending, its operands in place. -/
variable {s : State} {j : MillJob} {b K : Nat} {la lb : Nat → Nat}

theorem blockA_quiet (hfa : j.fa ≠ 13) (hst : s.stores = []) (hu : s.upd = []) (ha : j.ahead = [])
    (hp : ∀ i < 32, millPlace (coreOf j.tid) (j.rowA i + BitVec.ofNat 64 (4 * millWidth j.fa * b)) ((K * millWidth j.fa + 7) / 8) = .at (la i)) :
    s.blockA j b K = (s, .ok ((List.range 32).map (fun i =>
      (List.range K).map (packedElem (millWidth j.fa) (readBytes s.mem (la i) ((K * millWidth j.fa + 7) / 8)))), [])) := by
  rw [State.blockA, if_neg hfa]
  simp only [millReads_quiet hst hu ha _ (fun i hi => hp i (List.mem_range.1 hi)), List.map_map]
  rfl
theorem blockB_quiet (hfb : j.fb ≠ 13) (hst : s.stores = []) (hu : s.upd = []) (ha : j.ahead = [])
    (hp : ∀ k < K, millPlace (coreOf j.tid) (j.rowB (32 * b + k)) (4 * millWidth j.fb) = .at (lb k)) :
    s.blockB j b K = (s, .ok ((List.range 32).map (fun c =>
      (List.range K).map (fun k => packedElem (millWidth j.fb) (readBytes s.mem (lb k) (4 * millWidth j.fb)) c)), [])) := by
  rw [State.blockB, if_neg hfb]
  simp only [millReads_quiet hst hu ha _ (fun k hk => hp k (List.mem_range.1 hk)), List.map_map]
  refine congrArg (fun cols => (s, Except.ok (cols, []))) (List.map_congr_left fun c hc => ?_)
  exact List.map_congr_left fun k _ => getD_unpackElems _ (List.mem_range.1 hc)
end

/-! ## One element -/

theorem mulFV_oneFV (x : FV) : (mulFV x oneFV).1 = x := by
  cases x with
  | nan => rfl
  | inf s => cases s <;> rfl
  | fin s m e => simp [mulFV, oneFV]
/-- R86: without scales an element takes the block's sum. -/
theorem blockElem_unscaled (acc : BitVec 32) (row col : List FV) :
    blockElem acc row col oneFV oneFV =
      BitVec.ofNat 32 (roundTo fmtF32 .rne false 0 (addFV .rne (fmtF32.value acc.toNat)
        (if (dotFV row col (.fin false 0 0)).isZero then .fin false 0 0
          else fmtF32.value (roundTo fmtF32 .rne false 0 (dotFV row col (.fin false 0 0))).bits)).1).bits := by
  simp only [blockElem, mulFV_oneFV]

/-! ## The block -/

theorem headers_plain {s : State} {j : MillJob} (hfa : j.fa ≠ 13) (hfb : j.fb ≠ 13) :
    ∃ pa pb, s.headers j = (s, { j with posA := pa, posB := pb }) := by
  have ha (code : Nat) (h : code ≠ 13) (s : State) (va : B64) (offs : List Nat) : s.thAgain j code va offs = (s, offs) := by
    rw [State.thAgain, if_pos h]
  simp only [State.headers, ha _ hfa, ha _ hfb]
  exact ⟨_, _, rfl⟩
theorem getElem?_mapIdx_work {l : List (BitVec 32)} {f : Nat → BitVec 32 → BitVec 32} {i c : Nat} {acc : BitVec 32}
    (h : l[i * 32 + c]? = some acc) : (l.mapIdx f)[i * 32 + c]? = some (f (i * 32 + c) acc) := by
  rw [List.getElem?_mapIdx, h]; rfl
/-- R86: what one block of a product leaves of the job; its reads leave the state. -/
theorem mulBlock_quiet {s : State} {j : MillJob} {la lb : Nat → Nat} (hfa : j.fa ≠ 13) (hfb : j.fb ≠ 13) (hscl : j.scl = 0)
    (hst : s.stores = []) (hu : s.upd = []) (ha : j.ahead = [])
    (hpa : ∀ i < 32, millPlace (coreOf j.tid) (j.rowA i + BitVec.ofNat 64 (4 * millWidth j.fa * j.blocks))
      ((j.blockLen * millWidth j.fa + 7) / 8) = .at (la i))
    (hpb : ∀ k < j.blockLen, millPlace (coreOf j.tid) (j.rowB (32 * j.blocks + k)) (4 * millWidth j.fb) = .at (lb k)) :
    (s.mulBlock j).1 = s ∧ (s.mulBlock j).2.status = j.status ∧ ∀ i c acc, i < 32 → c < 32 → j.work[i * 32 + c]? = some acc →
      (s.mulBlock j).2.work[i * 32 + c]? = some (blockElem acc (s.plainRow j (la i)) (s.plainCol j lb c) oneFV oneFV) := by
  have hK : min 32 (j.mkReg.toNat - 32 * j.blocks) = j.blockLen := rfl
  obtain ⟨pa, pb, hhead⟩ := headers_plain (s := s) hfa hfb
  have hA := blockA_quiet (s := s) (j := { j with posA := pa, posB := pb }) (b := j.blocks) (K := j.blockLen) hfa hst hu ha hpa
  have hB := blockB_quiet (s := s) (j := { j with posA := pa, posB := pb }) (b := j.blocks) (K := j.blockLen) hfb hst hu ha hpb
  have hS : s.blockScales { j with posA := pa, posB := pb } j.blocks = (s, [], []) := if_pos hscl
  simp only [State.mulBlock, hhead, hK, hA, hB, hS]
  refine ⟨trivial, trivial, fun i c acc hi hc hacc => ?_⟩
  rw [getElem?_mapIdx_work hacc]
  have hdiv : (i * 32 + c) / 32 = i := by omega
  have hmod : (i * 32 + c) % 32 = c := by omega
  simp only [hdiv, hmod, List.getD_nil, List.map_map]
  rw [getD_map_range _ _ hi, getD_map_range _ _ hc]
  have htake {α : Type} (f : Nat → α) : ((List.range j.blockLen).map f).take j.blockLen = (List.range j.blockLen).map f :=
    List.take_of_length_le (by rw [List.length_map, List.length_range])
  simp only [Function.comp_apply, htake, List.map_map]
  rfl
/-- The state after a block that ran: the croft's visit has one block less, the job is one block further, the croft counts it. -/
def State.afterBlock (s : State) (f r n : Nat) (j : MillJob) : State :=
  (((s.runBlock j).1.modCroft f (fun k => { k with millAt := r, millLeft := n - 1 })).modCore (f * 8 + r)
    (fun c => { c with millCur := some { (s.runBlock j).2 with blocks := j.blocks + 1 } })).count (f * 8 + r) (slotOf j.tid) 5 1
theorem exec_millBlockEnd_ran {s : State} {f r n : Nat} {j : MillJob} (hs : s.stretched (f * 8) = false) (hp : s.millPick f = some (r, n))
    (hj : (s.core (f * 8 + r)).millCur = some j) (hd : j.dead = false) (hn : j.blocks < j.need) (hran : (s.runBlock j).2.status = j.status) :
    exec (.millBlockEnd f) s = .next (s.afterBlock f r n j) := by
  have hstop : s.croftStopped f = false := hs
  show execMillBlockEnd f s = _
  rw [execMillBlockEnd, hstop, if_neg Bool.false_ne_true, hp]
  simp only [hj, hd, Bool.false_or, decide_eq_true_eq, Nat.not_le.2 hn, if_false, hran, if_true, State.afterBlock]
theorem State.millCur_afterBlock (s : State) (f r n : Nat) (j : MillJob) :
    ((s.afterBlock f r n j).core (f * 8 + r)).millCur = some { (s.runBlock j).2 with blocks := j.blocks + 1 } := by
  rw [afterBlock, core_count, core_modCore_self]
theorem State.mem_afterBlock (s : State) (f r n : Nat) (j : MillJob) : (s.afterBlock f r n j).mem = (s.runBlock j).1.mem := by
  rw [afterBlock, count_mem]; rfl

/-- Settles O48: with nothing pending the reads of a block leave the state and give memory's bytes; a scale of one changes nothing. -/
theorem millProduct : Obligations.MillProduct := by
  unfold Obligations.MillProduct
  intro s f r n j la lb hs hp hj hd hn hop hfa hfb hscl ha hst hu hlen K wa wb hpa hpb A B
  obtain ⟨hstate, hstatus, hwork⟩ := mulBlock_quiet hfa hfb hscl hst hu ha hpa hpb
  have hrun : s.runBlock j = s.mulBlock j := by rw [State.runBlock, hop]
  refine ⟨_, _, exec_millBlockEnd_ran hs hp hj hd hn (hrun ▸ hstatus), s.millCur_afterBlock f r n j, hrun ▸ hstatus, ?_, fun i c acc hi hc hacc => ?_⟩
  · rw [State.mem_afterBlock, hrun, hstate]
  · rw [hrun]
    refine (hwork i c acc hi hc hacc).trans ?_
    rw [blockElem_unscaled]
    rfl

end Sys2Proof.Machine
end

section
/-! # The frame of the integer forms (R90 to R93, R96, R162) -/
open Sys2Proof
namespace Sys2Proof.Machine

/-! ## What the body of an integer form may change -/

theorem SameOthers.refl (x : Thread) : SameOthers x x := by simp [SameOthers]
theorem SameOthers.trans {x y z : Thread} (h1 : SameOthers x y) (h2 : SameOthers y z) : SameOthers x z := by
  unfold SameOthers at *
  simp only [h1, h2, and_self]
theorem SameTrap.refl (x : Thread) : SameTrap x x := by simp [SameTrap]
theorem SameTrap.trans {x y z : Thread} (h1 : SameTrap x y) (h2 : SameTrap y z) : SameTrap x z := by
  unfold SameTrap at *
  simp only [h1, h2, and_self]
/-- The registers of a slot that a form with destination `d` leaves alone, the trap registers aside; `here` says that the
slot is the one that runs it. -/
def SameBut (d : SReg) (here : Prop) (x y : Thread) : Prop :=
  SameOthers x y ∧ ∀ r, ¬here ∨ r ≠ d.val → y.s.get 0 r = x.s.get 0 r
theorem SameBut.refl (d : SReg) (here : Prop) (x : Thread) : SameBut d here x x := ⟨SameOthers.refl x, fun _ _ => rfl⟩
theorem SameBut.trans {d : SReg} {here : Prop} {x y z : Thread} (h1 : SameBut d here x y) (h2 : SameBut d here y z) :
    SameBut d here x z :=
  ⟨h1.1.trans h2.1, fun r hr => (h2.2 r hr).trans (h1.2 r hr)⟩
/-- A core's trap vector, balance and bin table are the same. -/
def SameCore (x y : Core) : Prop := y.tvec = x.tvec ∧ y.bal = x.bal ∧ y.binbase = x.binbase
theorem SameCore.refl (x : Core) : SameCore x x := ⟨rfl, rfl, rfl⟩
theorem SameCore.trans {x y z : Core} (h1 : SameCore x y) (h2 : SameCore y z) : SameCore x z := by
  unfold SameCore at *
  simp only [h1, h2, and_self]

/-- What the body of an integer form with destination `d` leaves alone, whatever its operands are bound to. -/
structure KeepsBut (d : SReg) (s t : State) : Prop where
  mem : t.mem = s.mem
  stores : t.stores = s.stores
  upd : t.upd = s.upd
  now : t.now = s.now
  cur : t.cur = s.cur
  thread : ∀ k, SameBut d (k = s.cur) (s.thread k) (t.thread k)
  trap : ∀ k, SameTrap (s.thread k) (t.thread k)
  core : ∀ c, SameCore (s.core c) (t.core c)

namespace KeepsBut
variable {d : SReg} {s t u : State}

theorem refl (d : SReg) (s : State) : KeepsBut d s s :=
  ⟨rfl, rfl, rfl, rfl, rfl, fun _ => .refl _ _ _, fun _ => .refl _, fun _ => .refl _⟩
theorem trans (h1 : KeepsBut d s t) (h2 : KeepsBut d t u) : KeepsBut d s u where
  mem := h2.mem.trans h1.mem
  stores := h2.stores.trans h1.stores
  upd := h2.upd.trans h1.upd
  now := h2.now.trans h1.now
  cur := h2.cur.trans h1.cur
  thread k := (h1.thread k).trans (by simpa only [h1.cur] using h2.thread k)
  trap k := (h1.trap k).trans (h2.trap k)
  core c := (h1.core c).trans (h2.core c)
/-- One slot changes, in what the frame does not name. -/
theorem setThread (k : Nat) (x : Thread) (h : SameBut d (k = s.cur) (s.thread k) x) (ht : SameTrap (s.thread k) x) :
    KeepsBut d s (s.setThread k x) where
  mem := rfl
  stores := rfl
  upd := rfl
  now := rfl
  cur := rfl
  thread j := by
    by_cases hj : j = k
    · subst hj; rwa [State.thread_setThread_self]
    · rw [State.thread_setThread_ne s x hj]; exact .refl _ _ _
  trap j := by
    by_cases hj : j = k
    · subst hj; rwa [State.thread_setThread_self]
    · rw [State.thread_setThread_ne s x hj]; exact .refl _
  core _ := .refl _
/-- One core changes, in what the frame does not name. -/
theorem setCore (k : Nat) (x : Core) (h : SameCore (s.core k) x) : KeepsBut d s (s.setCore k x) where
  mem := rfl
  stores := rfl
  upd := rfl
  now := rfl
  cur := rfl
  thread _ := .refl _ _ _
  trap _ := .refl _
  core j := by
    by_cases hj : j = k
    · subst hj; rwa [State.core_setCore_self]
    · rw [State.core_setCore_ne s x hj]; exact .refl _
/-- An instruction retires. -/
theorem retire (len : Nat) : KeepsBut d s (s.retire len) := setThread _ _ (.refl d _ (s.thread s.cur)) (.refl (s.thread s.cur))
theorem ite {c : Prop} [Decidable c] (h1 : KeepsBut d s t) (h2 : KeepsBut d s u) : KeepsBut d s (if c then t else u) := by
  split
  · exact h1
  · exact h2
theorem foldl {α : Type} {f : State → α → State} (h : ∀ s a, KeepsBut d s (f s a)) (l : List α) (s : State) :
    KeepsBut d s (l.foldl f s) := by
  induction l generalizing s with
  | nil => exact .refl d s
  | cons a l ih => exact (h s a).trans (ih _)
theorem leftReady (tid : Nat) : KeepsBut d s (s.leftReady tid) :=
  foldl (fun v k => by
    extract_lets x
    refine ite (setThread _ _ ?_ ?_) (.refl d v)
    · exact .refl d _ x
    · exact .refl x) _ s
/-- The slot stalls: its state changes, and which slots rank behind it. -/
theorem stallCur (w : Wait) : KeepsBut d s (s.stallCur w) := by
  have hst : KeepsBut d s (s.modThread s.cur (fun t => { t with st := .stalled w })) :=
    setThread _ _ (.refl d _ (s.thread s.cur)) (.refl (s.thread s.cur))
  exact hst.trans (leftReady _)

end KeepsBut

/-! ## Bodies in that frame -/

/-- A stop of an integer form: it waits, or traps with PORT (R162). -/
def Stop.waitsOrPort : Stop → Prop
  | .stall _ => True
  | .trap cause _ next _ => cause = cPORT ∧ next = false
  | _ => False
/-- Run in `s`, a body ends in the frame of an integer form, or it waits or traps with PORT. -/
def Exec.KeepsBut {α : Type} (d : SReg) (m : Exec α) (s : State) : Prop :=
  match m.run s with | .ok r => Machine.KeepsBut d s r.2 | .error e => e.waitsOrPort

namespace Exec.KeepsBut
variable {α β : Type} {d : SReg} {s : State}

theorem pure {a : α} : Exec.KeepsBut d (Pure.pure a) s := .refl d s
theorem modThr {f : Thread → Thread} (h : SameBut d True (s.thread s.cur) (f (s.thread s.cur)))
    (ht : SameTrap (s.thread s.cur) (f (s.thread s.cur))) : Exec.KeepsBut d (modThr f) s :=
  Machine.KeepsBut.setThread _ _ (by simpa using h) ht
theorem setCore {k : Nat} {x : Core} (h : SameCore (s.core k) x) : Exec.KeepsBut d (MonadStateOf.set (s.setCore k x)) s :=
  Machine.KeepsBut.setCore _ _ h
theorem stall {w : Wait} : Exec.KeepsBut d (α := α) (stall w) s := trivial
theorem portTrap {reason key addr : Nat} : Exec.KeepsBut d (α := α) (portTrap reason key addr) s := ⟨rfl, rfl⟩
theorem bind {m : Exec α} {f : α → Exec β} (hm : m.KeepsBut d s) (hf : ∀ a t, (f a).KeepsBut d t) : (m >>= f).KeepsBut d s := by
  unfold Exec.KeepsBut at hm
  cases hr : m.run s with
  | error e => rw [hr] at hm; rw [Exec.KeepsBut, run_bind_error hr]; exact hm
  | ok r =>
    obtain ⟨a, t⟩ := r
    rw [hr] at hm
    have hfa := hf a t
    unfold Exec.KeepsBut at hfa ⊢
    rw [run_bind_ok hr]
    cases hr' : (f a).run t with
    | error e => rw [hr'] at hfa; exact hfa
    | ok r' => rw [hr'] at hfa; exact hm.trans hfa
/-- A body that asks for the state goes on from it. -/
theorem get {f : State → Exec β} (hf : (f s).KeepsBut d s) : (MonadState.get >>= f).KeepsBut d s := by
  rwa [Exec.KeepsBut, run_bind_ok (run_get s)]
theorem thr {f : Thread → Exec β} (hf : (f (s.thread s.cur)).KeepsBut d s) : (Machine.thr >>= f).KeepsBut d s := by
  rwa [Exec.KeepsBut, run_bind_ok (run_thr s)]
theorem ite {c : Prop} [Decidable c] {a b : Exec α} (ha : a.KeepsBut d s) (hb : b.KeepsBut d s) :
    Exec.KeepsBut d (if c then a else b) s := by
  split
  · exact ha
  · exact hb

/-! Registers and the ports they may be bound to. -/

theorem settled {c : RegCls} {n : Nat} : (settled c n).KeepsBut d s := .thr (.ite .stall .pure)
theorem setPort {key : Nat} {p : Port} : (setPort key p).KeepsBut d s :=
  .modThr (.refl d True (s.thread s.cur)) (.refl (s.thread s.cur))
theorem linkPush {w : Wait} {r : Dir} {v : B512} : (linkPush w r v).KeepsBut d s := by
  unfold Machine.linkPush
  refine .get ?_
  extract_lets nb k q
  exact .ite .stall (.setCore (.refl (s.core nb)))
theorem popPort {key : Nat} {p : Port} : (popPort key p).KeepsBut d s := by
  unfold Machine.popPort
  split
  · exact .portTrap
  · split
    · split
      · exact .portTrap
      · split
        · exact .portTrap
        · exact .bind .setPort fun _ _ => .pure
    · exact .ite .portTrap .stall
  · refine .get ?_
    split
    · exact .stall
    · exact .bind (.setCore (.refl (s.core s.curCore))) fun _ _ => .ite (.bind .linkPush fun _ _ => .pure) .pure
  · refine .get (.ite .stall (.ite ?_ ?_))
    · split
      · exact .stall
      · exact .bind (.setCore (.refl (s.core s.curCore))) fun _ _ => .pure
    · split
      · exact .stall
      · exact .bind (.setCore (.refl (s.core s.curCore))) fun _ _ => .pure
theorem pushPort {key : Nat} {p : Port} {v : B512} : (pushPort key p v).KeepsBut d s := by
  unfold Machine.pushPort
  split
  · exact .portTrap
  · exact .portTrap
  · split
    · exact ⟨rfl, rfl⟩
    · exact .ite .portTrap (.ite .stall .setPort)
  · exact .linkPush
theorem readS {r : SReg} : (readS r).KeepsBut d s := by
  unfold Machine.readS
  split
  · exact .pure
  · refine .bind .settled fun _ _ => .thr ?_
    split
    · exact .bind .popPort fun _ _ => .pure
    · exact .pure
theorem writeS {v : B64} : (writeS d v).KeepsBut d s := by
  unfold Machine.writeS
  split
  · exact .pure
  · refine .bind .settled fun _ t => .thr ?_
    split
    · exact .pushPort
    · refine .modThr ⟨.refl (t.thread t.cur), fun r hr => ?_⟩ (.refl (t.thread t.cur))
      exact SMap.get_put_ne 0 _ v (hr.resolve_left (not_not_intro trivial))
theorem binary {f : B64 → B64 → B64} {a b : SReg} : (binary f d a b).KeepsBut d s :=
  .bind .readS fun _ _ => .bind .readS fun _ _ => .writeS
theorem unary {f : B64 → B64} {a : SReg} : (unary f d a).KeepsBut d s := .bind .readS fun _ _ => .writeS

end Exec.KeepsBut

/-! ## The statement -/

/-- Each integer, immediate and bit-field form runs, as an instruction of four bytes, a body in the frame of its destination. -/
theorem exec_of_intDest {i : Instr} {d : SReg} (h : intDest i = some d) :
    ∃ body : Exec Unit, (∀ s, exec i s = .next (runI 4 body s)) ∧ ∀ s, body.KeepsBut d s := by
  unfold intDest at h
  split at h
  all_goals cases h
  -- two operands, one operand, `csel`
  iterate 23 next => exact ⟨_, fun _ => rfl, fun _ => .binary⟩
  iterate 4 next => exact ⟨_, fun _ => rfl, fun _ => .unary⟩
  next => exact ⟨_, fun _ => rfl, fun _ => .bind .readS fun _ _ => .bind .readS fun _ _ => .bind .readS fun _ _ => .writeS⟩
  -- immediates, `lui`, `auipc`
  iterate 9 next => exact ⟨_, fun _ => rfl, fun _ => .unary⟩
  next => exact ⟨_, fun _ => rfl, fun _ => .writeS⟩
  next => exact ⟨_, fun _ => rfl, fun _ => .thr .writeS⟩
  -- bit fields
  iterate 2 next => exact ⟨_, fun _ => rfl, fun _ => .unary⟩
  next => exact ⟨_, fun _ => rfl, fun _ => .bind .readS fun _ _ => .bind .readS fun _ _ => .writeS⟩

/-- What an integer form with destination `d` does where a handler is set: it ends in its frame, or enters the handler. -/
def IntegerEnds (d : SReg) (s t : State) : Prop :=
  t.mem = s.mem ∧ t.stores = s.stores ∧ t.upd = s.upd ∧ t.now = s.now ∧ t.cur = s.cur ∧
    (∀ k, SameBut d (k = s.cur) (s.thread k) (t.thread k) ∧
      (SameTrap (s.thread k) (t.thread k) ∨
        (k = s.cur ∧ (t.thread k).pc = tvecAddr (s.core s.curCore).tvec ∧ (t.thread k).tcause.getLsbD 15 = true))) ∧
    ∀ c, SameCore (s.core c) (t.core c)

theorem KeepsBut.ends {d : SReg} {s t : State} (h : KeepsBut d s t) : IntegerEnds d s t :=
  ⟨h.mem, h.stores, h.upd, h.now, h.cur, fun k => ⟨h.thread k, .inl (h.trap k)⟩, h.core⟩
/-- A state entered by a trap of the current slot keeps what an integer form keeps but the trap registers. -/
theorem entered_ends (d : SReg) (s : State) (cause : Nat) (val ret : B64) (compact : Bool) :
    IntegerEnds d s (s.entered cause val ret compact) := by
  refine ⟨rfl, rfl, rfl, rfl, rfl, fun k => ?_, fun c => .refl _⟩
  by_cases hk : k = s.cur
  · subst hk
    rw [State.entered, State.thread_modThread_self]
    refine ⟨.refl d _ (s.thread s.cur), .inr ⟨rfl, rfl, ?_⟩⟩
    simp
  · rw [State.entered, State.thread_modThread_ne _ _ hk]
    exact ⟨.refl _ _ _, .inl (.refl _)⟩
theorem KeepsBut.trans_ends {d : SReg} {s u t : State} (h : KeepsBut d s u) (he : IntegerEnds d u t) : IntegerEnds d s t := by
  obtain ⟨hm, hst, hu, hn, hc, hth, hco⟩ := he
  have htvec : (u.core u.curCore).tvec = (s.core s.curCore).tvec := by
    rw [State.curCore, State.curCore, h.cur]; exact (h.core _).1
  refine ⟨hm.trans h.mem, hst.trans h.stores, hu.trans h.upd, hn.trans h.now, hc.trans h.cur, fun k => ?_,
    fun c => (h.core c).trans (hco c)⟩
  obtain ⟨hb, htr⟩ := hth k
  rw [h.cur] at hb htr
  rw [htvec] at htr
  exact ⟨(h.thread k).trans hb, htr.imp (h.trap k).trans id⟩
/-- A PORT trap that clears the fault of its port enters the handler (R157, R162). -/
theorem takeTrap_port_ends {d : SReg} {s : State} (h : s.hasHandler) (ports : SMap Port) (val ret : B64) (compact : Bool) :
    IntegerEnds d s ((s.setThread s.cur { s.thread s.cur with ports := ports }).takeTrap cPORT val ret compact) := by
  have hk : KeepsBut d s (s.setThread s.cur { s.thread s.cur with ports := ports }) :=
    .setThread _ _ (.refl d _ (s.thread s.cur)) (.refl (s.thread s.cur))
  have hh : (s.setThread s.cur { s.thread s.cur with ports := ports }).hasHandler := by
    obtain ⟨hslot, htvec, hin⟩ := h
    exact ⟨hslot, htvec, by simpa [State.me] using hin⟩
  rw [takeTrap_entered hh (by decide)]
  exact hk.trans_ends (entered_ends _ _ _ _ _ _)
/-- A stop of an integer form stalls or enters the handler. -/
theorem stopped_ends {d : SReg} {s : State} {e : Stop} (h : s.hasHandler) (he : e.waitsOrPort) (len : Nat) :
    IntegerEnds d s (s.stopped len e) := by
  cases e with
  | stall w => exact (KeepsBut.stallCur w).ends
  | trap cause val next clr =>
    obtain ⟨rfl, rfl⟩ := he
    cases clr with
    | none =>
      show IntegerEnds d s (s.takeTrap cPORT val s.me.pc (len == 2))
      rw [takeTrap_entered h (by decide)]
      exact entered_ends _ _ _ _ _ _
    | some k => exact takeTrap_port_ends h _ _ _ _
  | denied va => exact he.elim
  | halt t => exact he.elim
/-- Settles O9: the body of an integer form keeps its frame, and its stops are waits and PORT traps. -/
theorem integerFrame : Obligations.IntegerFrame := by
  unfold Obligations.IntegerFrame
  intro i d s t hi hh ht
  obtain ⟨body, hrun, hbody⟩ := exec_of_intDest hi
  rw [hrun] at ht
  cases ht
  have hends : IntegerEnds d s (runI 4 body s) := by
    have hb := hbody s
    unfold Exec.KeepsBut at hb
    cases hr : body.run s with
    | ok r =>
      rw [hr] at hb
      rw [runI_ok (u := r.1) (t := r.2) hr]
      exact (hb.trans (.retire 4)).ends
    | error e =>
      rw [hr] at hb
      rw [runI_error hr]
      exact stopped_ends hh hb 4
  obtain ⟨hm, hst, hu, hn, hc, hth, hco⟩ := hends
  refine ⟨hm, hst, hu, hn, hc, fun k => ?_, hco⟩
  obtain ⟨⟨ho, hr⟩, htr⟩ := hth k
  exact ⟨ho, hr, htr⟩

end Sys2Proof.Machine
end

section
/-! # The return from a trap, and the forms of system mode (R22, R109, R114) -/
open Sys2Proof
namespace Sys2Proof.Machine

theorem needSys_runs {i : Instr} {s : State} (h : s.me.sysMode = true) : (needSys i).run s = .ok ((), s) := by
  rw [State.me] at h
  rw [needSys, run_bind_ok (run_thr s), if_pos h]
  rfl
/-- In context mode such a form traps with PRIV and its word. -/
theorem needSys_traps {i : Instr} {s : State} (h : s.me.sysMode = false) :
    (needSys i).run s = .error (.trap cPRIV (wordVal i) false none) := by
  rw [State.me] at h
  rw [needSys, run_bind_ok (run_thr s), if_neg (by simp [h])]
  rfl
/-- A body that traps, with a handler set, enters it. -/
theorem runI_entered {len cause : Nat} {val : B64} {body : Exec Unit} {s : State} (h : s.hasHandler) (hx : cause ≠ cXLATE)
    (hb : body.run s = .error (.trap cause val false none)) : runI len body s = s.entered cause val s.me.pc (len == 2) :=
  (runI_trap hb).trans (takeTrap_entered h hx)
/-- A form of system mode enters the handler in context mode, whatever it does in system mode. -/
theorem runI_needSys_entered {len : Nat} {i : Instr} {f : Unit → Exec Unit} {s : State} (hs : s.me.sysMode = false) (h : s.hasHandler) :
    runI len (needSys i >>= f) s = s.entered cPRIV (wordVal i) s.me.pc (len == 2) :=
  runI_entered h (by decide) (run_bind_error (needSys_traps hs))
/-- An instruction that asks stops as its operands do. -/
theorem asking_stops {α : Type} {w : Wait} {operands : Exec α} {send : α → Exec Unit} {use : B64 → B64 → Exec Unit} {s : State}
    {e : Stop} (h : operands.run s = .error e) : (asking w operands send use).run s = .error e := by
  rw [asking, run_bind_ok (run_get s), run_bind_error h]
theorem exec_rett_even {s : State} (hs : s.me.sysMode = true) (ht : s.me.tpc.getLsbD 0 = false) :
    exec .rett s = .next s.trapReturn := by
  refine congrArg Host.Outcome.next (runI_halt ?_)
  rw [run_bind_ok (needSys_runs hs), run_bind_ok (run_get s)]
  rw [State.me] at ht
  simp only [ht]
  rfl
theorem exec_rett_odd {s : State} (hs : s.me.sysMode = true) (ht : s.me.tpc.getLsbD 0 = true) (h : s.hasHandler) :
    exec .rett s = .next (s.entered cMISALIGN s.me.tpc s.me.pc false) := by
  refine congrArg Host.Outcome.next (runI_entered h (by decide) ?_)
  rw [run_bind_ok (needSys_runs hs), run_bind_ok (run_get s)]
  rw [State.me] at ht
  simp only [ht]
  rfl

/-! ## What an entry saves, `rett` brings back -/

/-- An address of 52 bits is saved whole. -/
theorem saved_pc {ret : B64} (h : ret.toNat < 2 ^ 52) : ret &&& 0x000FFFFFFFFFFFFF#64 = ret := by
  apply BitVec.eq_of_toNat_eq
  rw [BitVec.toNat_and, show (0x000FFFFFFFFFFFFF#64).toNat = 2 ^ 52 - 1 from rfl, Nat.and_two_pow_sub_one_eq_mod,
    Nat.mod_eq_of_lt h]
/-- TCAUSE.SYS saves the mode. -/
theorem tcauseOf_sys {sys compact : Bool} {cause : Nat} (h : cause < 16) : (tcauseOf sys compact cause).getLsbD 14 = sys := by
  have hc : (BitVec.ofNat 64 cause)[14] = false := by
    rw [← BitVec.getLsbD_eq_getElem, BitVec.getLsbD_ofNat, Nat.testBit_lt_two_pow (by omega)]; rfl
  cases sys <;> cases compact <;> simp [tcauseOf, hc]

/-- Settles O19: `rett` is `trapReturn`, which reads what `entered` has written; a form of system mode asks for the mode
before everything else. -/
theorem trapReturn : Obligations.TrapReturn := by
  unfold Obligations.TrapReturn
  refine ⟨fun s hs ht => exec_rett_even hs ht, fun s hs ht hh => exec_rett_odd hs ht hh, fun s cause val ret compact hc hodd hret => ?_,
    fun s d a b hs hh => ⟨?_, ?_, ?_, ?_⟩⟩
  · have hme : (s.entered cause val ret compact).me =
        { s.me with tpc := ret &&& 0x000FFFFFFFFFFFFF#64, tval := val, tcause := tcauseOf s.me.sysMode compact cause, sysMode := true,
                    pc := tvecAddr (s.core s.curCore).tvec, charged := false, phase := .idle, skipped := 0, skipArg := none, holds := [] } :=
      State.thread_modThread_self _ _ _
    refine ⟨_, exec_rett_even (by rw [hme]) (by rw [hme]; exact (congrArg (BitVec.getLsbD · 0) (saved_pc hret)).trans hodd), ?_⟩
    have hback : (s.entered cause val ret compact).trapReturn.me =
        { (s.entered cause val ret compact).me with
          pc := (s.entered cause val ret compact).me.tpc, sysMode := (s.entered cause val ret compact).me.tcause.getLsbD 14,
          tcause := (s.entered cause val ret compact).me.tcause &&& ~~~0x8000#64, charged := false } :=
      State.thread_setThread_self _ _ _
    rw [hback, hme]
    exact ⟨saved_pc hret, tcauseOf_sys hc, by simp [tcauseIN], rfl, rfl, rfl⟩
  · exact congrArg Host.Outcome.next (runI_needSys_entered hs hh)
  · exact congrArg Host.Outcome.next (runI_needSys_entered hs hh)
  · exact congrArg Host.Outcome.next (runI_needSys_entered hs hh)
  · exact congrArg Host.Outcome.next (runI_entered hh (by decide) (asking_stops (run_bind_error (needSys_traps hs))))

end Sys2Proof.Machine
end

section
/-! # Integer, immediate and bit-field results, jumps and branches (R90 to R96) -/
open Sys2Proof
namespace Sys2Proof.Machine

/-! ## Instructions of the shared shapes -/

section
variable {i : Instr} {d a b : SReg} {x y : B64} {s s1 s2 t : State}

theorem binary_next {f : B64 → B64 → B64} (hi : exec i s = .next (runI 4 (binary f d a b) s)) (h1 : Reads s a x s1)
    (h2 : Reads s1 b y s2) (hw : Writes s2 d (f x y) t) : exec i s = .next (t.retire 4) :=
  hi.trans (congrArg _ (binary_runs h1 h2 hw))
theorem unary_next {f : B64 → B64} (hi : exec i s = .next (runI 4 (unary f d a) s)) (h1 : Reads s a x s1)
    (hw : Writes s1 d (f x) t) : exec i s = .next (t.retire 4) :=
  hi.trans (congrArg _ (unary_runs h1 hw))
theorem branch_next {c : B64 → B64 → Bool} {off : B64} {taken : Bool} (hi : exec i s = .next (runJ 4 (branch 4 c off a b) s))
    (h1 : Reads s a x s1) (h2 : Reads s1 b y s2) (hc : c x y = taken) :
    exec i s = .next (s2.jumped (if taken then s2.me.pc + off else s2.me.pc + 4)) := by
  subst hc
  exact hi.trans (congrArg _ (branch_runs h1 h2))

end

/-! ## Values -/

theorem ofBool_decide (p : Prop) [Decidable p] : ofBool (decide p) = if p then 1 else 0 := by simp [ofBool]
theorem clz64_eq {x : B64} {n : Nat} (h : if x = 0 then n = 64 else n < 64 ∧ x.toNat < 2 ^ (64 - n) ∧ 2 ^ (63 - n) ≤ x.toNat) :
    clz64 x = BitVec.ofNat 64 n := by
  unfold clz64
  split
  · next hx => rw [if_pos hx] at h; rw [h]; rfl
  · next hx =>
    rw [if_neg hx] at h
    obtain ⟨hn, hlt, hle⟩ := h
    have hpos : x.toNat ≠ 0 := fun h0 => hx (BitVec.eq_of_toNat_eq h0)
    have hlog : Nat.log2 x.toNat = 63 - n := (Nat.log2_eq_iff hpos).2 ⟨hle, by rwa [show 63 - n + 1 = 64 - n by omega]⟩
    rw [hlog, show 63 - (63 - n) = n by omega]
/-- A number and its negation share just the lowest set bit. -/
theorem and_neg_eq_twoPow {x : B64} {n : Nat} (hn : n < 64) (hset : x.getLsbD n = true) (hlow : ∀ j < n, x.getLsbD j = false) :
    x &&& (0 - x) = BitVec.twoPow 64 n := by
  apply BitVec.eq_of_getLsbD_eq
  intro k hk
  rw [show (0 : B64) - x = -x from BitVec.zero_sub x, BitVec.getLsbD_and, BitVec.getLsbD_neg, BitVec.getLsbD_twoPow]
  rcases lt_trichotomy k n with hkn | rfl | hkn
  · simp [hlow k hkn, hkn.ne']
  · have hno : ¬∃ j < k, x.getLsbD j = true := fun ⟨j, hj, hx⟩ => by simp [hlow j hj] at hx
    simp only [hset, hk, hno]
    decide
  · have hex : ∃ j < k, x.getLsbD j = true := ⟨n, hkn, hset⟩
    simp only [hk, hex, hkn.ne]
    simp
theorem ctz64_eq {x : B64} {n : Nat} (h : if x = 0 then n = 64 else n < 64 ∧ x.toNat % 2 ^ n = 0 ∧ x.toNat.testBit n = true) :
    ctz64 x = BitVec.ofNat 64 n := by
  unfold ctz64
  split
  · next hx => rw [if_pos hx] at h; rw [h]; rfl
  · next hx =>
    rw [if_neg hx] at h
    obtain ⟨hn, hmod, hset⟩ := h
    have hlow : ∀ j < n, x.getLsbD j = false := fun j hj => by
      have hj' : (x.toNat % 2 ^ n).testBit j = x.toNat.testBit j := by simp [hj]
      rw [BitVec.getLsbD, ← hj', hmod, Nat.zero_testBit]
    rw [and_neg_eq_twoPow hn hset hlow, BitVec.toNat_twoPow, Nat.mod_eq_of_lt (Nat.pow_lt_pow_right (by omega) hn), Nat.log2_two_pow]
theorem leNat_leBytes (n v : Nat) : leNat (leBytes n v) = v % 256 ^ n := by
  induction n generalizing v with
  | zero => rw [pow_zero, Nat.mod_one]; rfl
  | succ n ih =>
    show (BitVec.ofNat 8 v).toNat + 256 * leNat (leBytes n (v / 256)) = _
    rw [ih, BitVec.toNat_ofNat, pow_succ' 256 n]
    exact Nat.mod_mul.symm
theorem getElem_leBytes {n v i : Nat} (h : i < (leBytes n v).length) : (leBytes n v)[i] = BitVec.ofNat 8 (v / 256 ^ i) := by
  induction n generalizing v i with
  | zero => simp at h
  | succ n ih =>
    cases i with
    | zero => simp [leBytes]
    | succ i =>
      simp only [leBytes, List.getElem_cons_succ]
      rw [ih, Nat.div_div_eq_div_mul, pow_succ']
theorem ofNat_byte (x : B64) (i : Nat) : BitVec.ofNat 8 (x.toNat / 256 ^ i) = (x >>> (8 * i)).setWidth 8 := by
  apply BitVec.eq_of_toNat_eq
  rw [BitVec.toNat_ofNat, BitVec.toNat_setWidth, BitVec.toNat_ushiftRight, Nat.shiftRight_eq_div_pow, pow_mul]
  rfl
theorem bswap64_eq {x v : B64} (h : ∀ i < 8, (v >>> (8 * i)).setWidth 8 = (x >>> (8 * (7 - i))).setWidth 8) : bswap64 x = v := by
  have hbytes : (leBytes 8 x.toNat).reverse = leBytes 8 v.toNat := by
    apply List.ext_getElem (by simp)
    intro i h1 h2
    rw [List.getElem_reverse, getElem_leBytes, getElem_leBytes, ofNat_byte, ofNat_byte, h i (by simpa using h2)]
    simp
  rw [bswap64, hbytes, leNat_leBytes, show 256 ^ 8 = 2 ^ 64 from rfl, Nat.mod_eq_of_lt v.isLt, BitVec.ofNat_toNat, BitVec.setWidth_eq]

/-- Settles O6: each form has one of two shapes, whose lemma leaves the function on the operands' values. -/
theorem integerResults : Obligations.IntegerResults := by
  unfold Obligations.IntegerResults
  refine ⟨fun s s1 s2 t d a b x y h1 h2 => ?_, fun s s1 s2 s3 t d a b c x y z h1 => ?_⟩
  · have run {i : Instr} {f : B64 → B64 → B64} (hi : exec i s = .next (runI 4 (binary f d a b) s)) :
        Writes s2 d (f x y) t → exec i s = .next (t.retire 4) := binary_next hi h1 h2
    refine ⟨fun hw => run rfl hw, fun hw => run rfl hw, fun hw => run rfl hw, fun hw => run rfl hw, fun hw => run rfl hw,
      fun hw => run rfl hw, fun hw => run rfl hw, fun hw => run rfl hw, fun hw => run rfl hw, fun hw => run rfl hw,
      fun hw => run rfl hw, fun hw => run rfl hw, fun hw => run rfl hw, fun hw => run rfl hw, fun hw => run rfl hw,
      fun hw => run rfl hw, fun hw => run rfl hw, fun hw => run rfl hw, fun hw => run rfl hw, fun hw => run rfl hw, fun hw => run rfl hw,
      fun hw => run rfl ?_, fun hw => run rfl ?_⟩
    · rwa [BitVec.slt, ofBool_decide]
    · rwa [BitVec.ult, ofBool_decide]
  · refine ⟨fun n hn hw => unary_next rfl h1 ?_, fun n hn hw => unary_next rfl h1 ?_, fun hw => unary_next rfl h1 ?_,
      fun v hv hw => unary_next rfl h1 ?_, fun h2 h3 hw => congrArg Host.Outcome.next (runI_ok (u := ()) ?_)⟩
    · rwa [clz64_eq hn]
    · rwa [ctz64_eq hn]
    · rwa [popc64, ← List.countP_eq_length_filter]
    · rwa [bswap64_eq hv]
    · rw [run_bind_ok h1, run_bind_ok h2, run_bind_ok h3]; exact hw


/-! ## Immediates and bit fields (R92, R93, R96) -/

theorem immU_eq (u : BitVec 20) : immU u = (u ++ 0#12).signExtend 64 := by
  have hcat : u.setWidth 32 <<< 12 = u ++ 0#12 := by
    apply BitVec.eq_of_toNat_eq
    rw [BitVec.toNat_append, BitVec.toNat_shiftLeft, BitVec.toNat_setWidth, Nat.mod_eq_of_lt (by omega), Nat.shiftLeft_eq, Nat.shiftLeft_eq]
    have := u.isLt
    rw [Nat.mod_eq_of_lt (by omega)]
    simp
  rw [immU, hcat]
/-- The bits of the field of `bfi`: `w` + 1 ones from bit `p` on. -/
theorem getLsbD_field {p w k : Nat} (hk : k < 64) :
    (BitVec.ofNat 64 (2 ^ (w + 1) - 1) <<< p).getLsbD k = decide (p ≤ k ∧ k ≤ p + w) := by
  rw [BitVec.getLsbD_shiftLeft, BitVec.getLsbD_ofNat, Nat.testBit_two_pow_sub_one]
  by_cases hp : p ≤ k
  · have h1 : k - p < w + 1 ↔ k ≤ p + w := by omega
    have h2 : k - p < 64 := by omega
    simp [hk, hp, h1, h2, not_lt.2 hp]
  · simp [hp, not_le.1 hp]
theorem bfi_eq {old x v : B64} {p w : BitVec 6}
    (h : ∀ k < 64, v.getLsbD k = if p.toNat ≤ k ∧ k ≤ p.toNat + w.toNat then x.getLsbD (k - p.toNat) else old.getLsbD k) :
    (old &&& ~~~(BitVec.ofNat 64 (2 ^ (w.toNat + 1) - 1) <<< p.toNat)) |||
      ((x <<< p.toNat) &&& (BitVec.ofNat 64 (2 ^ (w.toNat + 1) - 1) <<< p.toNat)) = v := by
  apply BitVec.eq_of_getLsbD_eq
  intro k hk
  rw [BitVec.getLsbD_or, BitVec.getLsbD_and, BitVec.getLsbD_and, BitVec.getLsbD_not, getLsbD_field hk, h k hk,
    BitVec.getLsbD_shiftLeft]
  split
  · next hin => simp [hin, hk, not_lt.2 hin.1]
  · next hout => simp [hout, hk]

/-- Settles O7: the immediate forms have the shape of one operand; `bfi` differs from its field bit by bit. -/
theorem immediateResults : Obligations.ImmediateResults := by
  unfold Obligations.ImmediateResults
  intro s s1 s2 t d a i h u p w x old
  refine ⟨fun h1 => ?_, fun hw => congrArg Host.Outcome.next (runI_ok (u := ()) ?_),
    fun hw => congrArg Host.Outcome.next (runI_ok (u := ()) ?_), fun v h1 h2 hv hw => congrArg Host.Outcome.next (runI_ok (u := ()) ?_)⟩
  · have run {j : Instr} {f : B64 → B64} (hi : exec j s = .next (runI 4 (unary f d a) s)) :
        Writes s1 d (f x) t → exec j s = .next (t.retire 4) := unary_next hi h1
    refine ⟨fun hw => run rfl hw, fun hw => run rfl hw, fun hw => run rfl hw, fun hw => run rfl hw, fun hw => run rfl ?_,
      fun hw => run rfl ?_, fun hw => run rfl hw, fun hw => run rfl hw, fun hw => run rfl hw, fun hw => run rfl hw, fun hw => run rfl hw⟩
    · rwa [BitVec.slt, ofBool_decide, immI, BitVec.toInt_signExtend_of_le (by omega)]
    · rwa [BitVec.ult, ofBool_decide]
  · rwa [immU_eq]
  · rw [run_bind_ok (run_thr s), immU_eq]; exact hw
  · rw [run_bind_ok h1, run_bind_ok h2]
    exact (congrArg (fun r => (writeS d r).run s2) (bfi_eq hv)).trans hw

/-! ## Jumps and branches (R94, R95) -/

/-- A body that answers a pc and traps, with a handler set, enters it. -/
theorem runJ_entered {len cause : Nat} {val : B64} {body : Exec B64} {s : State} (h : s.hasHandler) (hx : cause ≠ cXLATE)
    (hb : body.run s = .error (.trap cause val false none)) : runJ len body s = s.entered cause val s.me.pc (len == 2) :=
  (runJ_error hb).trans (takeTrap_entered h hx)

/-- Settles O8: a branch has one shape; `jalr` reads its operand, then checks the target, then links. -/
theorem jumpsAndBranches : Obligations.JumpsAndBranches := by
  unfold Obligations.JumpsAndBranches
  refine ⟨fun s s1 s2 t d a b x y j i => ⟨fun hw => ?_, fun h1 heven hw => ?_, fun h1 h2 => ?_⟩, fun s s1 d a i x h1 hodd hh => ?_⟩
  · exact congrArg Host.Outcome.next (jumpRel_runs hw)
  · refine congrArg Host.Outcome.next (runJ_ok ?_)
    rw [run_bind_ok h1, run_bind_ok (run_thr s1)]
    simp only [immI, heven]
    exact run_bind_ok hw
  · have run {ins : Instr} {c : B64 → B64 → Bool} {taken : Bool} (hi : exec ins s = .next (runJ 4 (branch 4 c (offOf i) a b) s)) :
        c x y = taken → exec ins s = .next (s2.jumped (if taken then s2.me.pc + offOf i else s2.me.pc + 4)) := branch_next hi h1 h2
    refine ⟨run rfl ?_, run rfl ?_, run rfl ?_, run rfl ?_, run rfl ?_, run rfl ?_⟩
    · exact Bool.beq_eq_decide_eq ..
    · rw [bne, Bool.beq_eq_decide_eq, decide_not]
    · rfl
    · rfl
    · rfl
    · rfl
  · refine congrArg Host.Outcome.next (runJ_entered hh (by decide) ?_)
    rw [run_bind_ok h1, run_bind_ok (run_thr s1)]
    simp only [immI, hodd]
    rfl

end Sys2Proof.Machine
end

section
/-! # Scalar loads and stores (R97, R98, R101, R209, R324) -/
open Sys2Proof
namespace Sys2Proof.Machine

/-! ## What a load gives -/

theorem load_next {i : Instr} {n : Nat} {f : B64 → B64} {d a : SReg} {off x : B64} {l : Nat} {s s1 t : State}
    (hi : exec i s = .next (runI 4 (loadBody n f d a off) s)) (h1 : Reads s a x s1) (h2 : AccessAt s s1 .read n (x + off) l)
    (h3 : Writes ((s1.translated (x + off)).loaded l n).1 d (f (BitVec.ofNat 64 ((s1.translated (x + off)).loaded l n).2)) t) :
    exec i s = .next (t.retire 4) :=
  hi.trans (congrArg _ (loadBody_runs h1 h2 h3))
theorem sext_ofNat {n : Nat} (h : n ≤ 64) (v : Nat) : sext n (BitVec.ofNat 64 v) = (BitVec.ofNat n v).signExtend 64 := by
  rw [sext, BitVec.setWidth_ofNat_of_le h]
theorem zext_ofNat {n : Nat} (h : n ≤ 64) (v : Nat) : zext n (BitVec.ofNat 64 v) = (BitVec.ofNat n v).setWidth 64 := by
  rw [zext, BitVec.setWidth_ofNat_of_le h]

/-! ## What a load reads (R33, R209) -/

/-- A store that no fence has made visible outside its thread, and that is no combine, is not performed for the thread's
own read: only spill queues are brought to memory, unless the L1 holds the sectors. -/
theorem State.prepRead_own {s : State} {tid l n : Nat} (hu : s.upd = [])
    (hp : ∀ p ∈ s.stores, p.tid = tid ∧ p.dead = false ∧ p.comb = none) :
    s.prepRead tid l n = if s.l1Holds (coreOf tid) l n then s else s.spillSync l n := by
  have hobs : s.observe tid .thread l n = s := by
    have hnone : s.stores.find? (fun p => p.shownTo tid .thread l n) = none := by
      rw [List.find?_eq_none]
      intro p h
      obtain ⟨ht, hd, -⟩ := hp p h
      simp [PStore.shownTo, ht, hd]
    rw [State.observe, hnone]
  have hcomb : s.stores.any (fun p => !p.dead && p.tid == tid && p.comb.isSome && overlap p.loc p.data.length l n) = false := by
    rw [List.any_eq_false]
    intro p h
    simp [(hp p h).2.2]
  have hrec : s.recall l n = s.spillSync l n := by rw [State.recall, State.mergeAt, State.mergeWhere_of_no_upd hu]
  simp [State.prepRead, hobs, hcomb, hu, hrec]
/-- Where a spill queue is brought to memory, pending stores and the current slot stay. -/
theorem State.spillSync_stores (s : State) (l n : Nat) : (s.spillSync l n).stores = s.stores := by
  show (s.spillSync l n).rest.stores = s.rest.stores
  rw [rest_spillSync]
theorem State.spillSync_cur (s : State) (l n : Nat) : (s.spillSync l n).cur = s.cur := by
  show (s.spillSync l n).rest.cur = s.rest.cur
  rw [rest_spillSync]
theorem State.readFor_of_no_store {s : State} (h : s.stores = []) (tid l n : Nat) : s.readFor tid l n = readBytes s.mem l n := by
  rw [State.readFor, h]; rfl
/-- With nothing pending, a load reads the bytes of memory, spill queues brought to it. -/
theorem State.loaded_of_no_store {s : State} (hs : s.stores = []) (hu : s.upd = []) (l n : Nat)
    (hl : s.l1Holds s.curCore l n = true → spillCore l n = none) :
    s.loaded l n = (s.spillSync l n, leNat (readBytes (s.spillSync l n).mem l n)) := by
  have hprep : s.prepRead s.cur l n = s.spillSync l n := by
    rw [State.prepRead_own hu (by simp [hs])]
    split
    · next h => rw [State.spillSync, hl h]
    · rfl
  rw [State.loaded, hprep, State.readFor_of_no_store ((s.spillSync_stores l n).trans hs)]
/-- A store over the whole of a range hides what memory holds there. -/
theorem patch_over {p : PStore} {bs : List Byte} (h : bs.length = p.data.length) : patch p.loc bs p = p.data := by
  apply List.ext_getElem
  · rw [patch, List.length_mapIdx, h]
  · intro i h1 h2
    simp [patch, h2]
/-- A load over just the bytes of the thread's one pending store gives them. -/
theorem State.loaded_own_store {s : State} {p : PStore} (hu : s.upd = []) (hs : s.stores = [p]) (ht : p.tid = s.cur)
    (hd : p.dead = false) (hc : p.comb = none) : (s.loaded p.loc p.data.length).2 = leNat p.data := by
  let t := s.prepRead s.cur p.loc p.data.length
  have hprep : t = if s.l1Holds (coreOf s.cur) p.loc p.data.length then s else s.spillSync p.loc p.data.length :=
    State.prepRead_own hu (by simp [hs, ht, hd, hc])
  have hts : t.stores = [p] := by
    rw [hprep]; split
    · exact hs
    · exact (State.spillSync_stores ..).trans hs
  have htc : t.cur = p.tid := by
    rw [hprep]; split
    · exact ht.symm
    · exact (State.spillSync_cur ..).trans ht.symm
  show leNat (t.readFor t.cur p.loc p.data.length) = leNat p.data
  congr 1
  by_cases h0 : p.data = []
  · rw [h0]
    simp [State.readFor, hts, h0, overlap, readBytes]
  · have hpos : 0 < p.data.length := List.length_pos_of_ne_nil h0
    have hover : overlap p.loc p.data.length p.loc p.data.length = true := by simp [overlap, hpos]
    have hown : t.stores.filter (fun q => !q.dead && q.tid == t.cur && overlap q.loc q.data.length p.loc p.data.length) = [p] := by
      rw [hts, List.filter_cons_of_pos (by simp [hd, htc, hover]), List.filter_nil]
    rw [State.readFor, hown]
    exact patch_over (readBytes_length ..)

/-! ## Loads that wait (R36, R98, R127) -/

/-- Up to its gates a load translates and waits for no `ksend`. -/
theorem loadMem_gates {s0 s : State} {n : Nat} {va : B64} {l : Nat} (hal : va.toNat % n = 0)
    (hr : s.route s.curCore s.me.ctx s.me.sysMode .read va = .loc l) (hk : (s.core s.curCore).ksq = []) :
    (loadMem s0 n va).run s = (do dirGate s0 l; awaitValue s0 (s0.isFar l); readLoc l n : Exec Nat).run (s.translated va) := by
  rw [loadMem, run_bind_ok (aligned_runs hal), run_bind_ok (locOf_runs hr), run_bind_ok (filed_runs fun _ => by rwa [translated_curCore])]
theorem loadBody_halts {n len : Nat} {f : B64 → B64} {d a : SReg} {off x : B64} {s s1 t : State} (h1 : Reads s a x s1)
    (h2 : (loadMem s n (x + off)).run s1 = .error (.halt t)) : runI len (loadBody n f d a off) s = t :=
  runI_halt (by rw [loadBody, run_bind_ok (run_get s), run_bind_ok h1, run_bind_error h2])
theorem isFar_not_asleep {s : State} {l core : Nat} (h : s.isFar l = true) : s.dirAsleep core l = false := by
  have hspad : spadBase ≤ l := by
    by_contra hl
    simp [State.isFar, spadCore, if_neg hl] at h
  have hmem : decide (l < 2 ^ 40) = false := decide_eq_false (not_lt.2 hspad)
  simp only [State.dirAsleep, hmem, Bool.false_and]
theorem awaitValue_asks {s0 s : State} (h : s0.me.phase = .idle) : (awaitValue s0 true).run s =
    .error (.halt ((s0.modThread s0.cur (fun t => { t with phase := .sent })).stallCur .value)) := by
  simp only [State.me] at h
  simp only [awaitValue, h]
  rfl
theorem dirGate_halts {s0 s : State} {l : Nat} (h : s0.dirAsleep s0.curCore l = true) : (dirGate s0 l).run s = .error (.halt
    (((s0.dirRequest l s0.curCore false).modThread s0.cur (fun t => { t with phase := .sent })).stallCur (.dirWake l))) := by
  rw [dirGate, if_pos h]
  rfl
theorem State.valueBack_answers {s : State} {tid : Nat} (hst : (s.thread tid).st = .stalled .value) (hph : (s.thread tid).phase = .sent) :
    s.valueBack tid = s.setThread tid { s.thread tid with phase := .answered 0 0 } := by
  simp [State.valueBack, State.answer, hst, hph]

/-- Settles O10: the access has one lemma, what it reads with few stores pending another, and its gates one each. -/
theorem loadResults : Obligations.LoadResults := by
  unfold Obligations.LoadResults
  refine ⟨fun s s1 t d a i x l h1 => ?_, ⟨fun s l n hs hu => ⟨fun hq => ?_, fun c hq hl1 => ?_⟩, ?_, fun m a n => rfl⟩,
    fun s s1 d a i x l h1 hal hr hk => ⟨fun hfar hidle => ?_, fun hsleep => ?_⟩, fun s tid hst hph => ?_⟩
  · refine ⟨fun h2 h3 => load_next rfl h1 h2 ?_, fun h2 h3 => load_next rfl h1 h2 ?_, fun h2 h3 => load_next rfl h1 h2 ?_,
      fun h2 h3 => load_next rfl h1 h2 ?_, fun h2 h3 => load_next rfl h1 h2 ?_, fun h2 h3 => load_next rfl h1 h2 ?_,
      fun h2 h3 => load_next rfl h1 h2 h3⟩
    · rwa [sext_ofNat (n := 8) (by decide)]
    · rwa [zext_ofNat (n := 8) (by decide)]
    · rwa [sext_ofNat (n := 16) (by decide)]
    · rwa [zext_ofNat (n := 16) (by decide)]
    · rwa [sext_ofNat (n := 32) (by decide)]
    · rwa [zext_ofNat (n := 32) (by decide)]
  · have h := State.loaded_of_no_store hs hu l n (fun _ => hq)
    rwa [State.spillSync, hq] at h
  · have h := State.loaded_of_no_store hs hu l n (fun hl => by simp [State.l1Holds, hl1] at hl)
    rwa [State.spillSync, hq] at h
  · rintro s l p hu hs ht hd hc rfl
    exact State.loaded_own_store hu hs ht hd hc
  · refine congrArg Host.Outcome.next (loadBody_halts h1 ?_)
    rw [show immI i = i.signExtend 64 from rfl, loadMem_gates hal hr hk, run_bind_ok (dirGate_runs (isFar_not_asleep hfar)), hfar,
      run_bind_error (awaitValue_asks hidle)]
  · refine congrArg Host.Outcome.next (loadBody_halts h1 ?_)
    rw [show immI i = i.signExtend 64 from rfl, loadMem_gates hal hr hk, run_bind_error (dirGate_halts hsleep)]
  · exact congrArg Host.Outcome.next (State.valueBack_answers hst hph)

/-! ## Stores, and accesses that are not aligned (R97, R101) -/

theorem aligned_traps {n : Nat} {va : B64} {s : State} (h : va.toNat % n ≠ 0) :
    (aligned n va).run s = .error (.trap cMISALIGN va false none) := by
  rw [aligned, if_neg h]
  rfl
theorem loadBody_misaligned {n : Nat} {f : B64 → B64} {d a : SReg} {off x : B64} {s s1 : State} (hh : s.hasHandler)
    (h1 : Reads s a x s1) (hal : (x + off).toNat % n ≠ 0) :
    runI 4 (loadBody n f d a off) s = s.entered cMISALIGN (x + off) s.me.pc false :=
  runI_entered hh (by decide) (by
    rw [loadBody, run_bind_ok (run_get s), run_bind_ok h1, loadMem]
    exact run_bind_error (run_bind_error (aligned_traps hal)))
theorem storeBody_misaligned {n : Nat} {a b : SReg} {off x y : B64} {s s1 s2 : State} (hh : s.hasHandler) (h1 : Reads s a x s1)
    (h2 : Reads s1 b y s2) (hal : (x + off).toNat % n ≠ 0) :
    runI 4 (storeBody n a b off) s = s.entered cMISALIGN (x + off) s.me.pc false :=
  runI_entered hh (by decide) (by rw [storeBody, run_bind_ok h1, run_bind_ok h2, storeMem]; exact run_bind_error (aligned_traps hal))
theorem updBody_misaligned {op : UpdOp} {a b : SReg} {q : AmoMods} {x y : B64} {s s1 s2 : State} (hh : s.hasHandler)
    (h1 : Reads s a x s1) (h2 : Reads s1 b y s2) (hal : x.toNat % updBytes q.w64 ≠ 0) :
    runI 4 (updBody op a b q) s = s.entered cMISALIGN x s.me.pc false :=
  runI_entered hh (by decide) (by rw [updBody, run_bind_ok h1, run_bind_ok h2]; exact run_bind_error (aligned_traps hal))
/-- An atomic operation after its compare value (R101): `s0` is the state before the instruction. -/
def amoAccess (op : AmoOp) (d a b : SReg) (q : AmoMods) (s0 : State) (cmp : B64) : Exec Unit := do
  let x ← readS a
  let y ← readS b
  aligned (updBytes q.w64) x
  let l ← locOf .write x
  filed l
  awaitValue s0 (s0.isFar l)
  modify (fun s => if Order.isRel q.order then s.release s.cur q.scope false else s)
  let s ← get
  set (s.amoAt s.cur l op q.w64 y cmp).1
  writeS d (amoResult op q.w64 (s.amoAt s.cur l op q.w64 y cmp).2)
/-- Before its operands, `cas` reads its compare value in D; for the other operations it is 0 (R101). -/
def CompareReads (s : State) (op : AmoOp) (d : SReg) (c : B64) (s0 : State) : Prop :=
  if op = .cas then Reads s d c s0 else c = 0 ∧ s0 = s
theorem amoBody_run {s s0 : State} {op : AmoOp} {d a b : SReg} {q : AmoMods} {c : B64} (h : CompareReads s op d c s0) :
    (amoBody op d a b q).run s = (amoAccess op d a b q s c).run s0 := by
  rw [amoBody, run_bind_ok (run_get s)]
  unfold CompareReads at h
  extract_lets jp
  have hjp : ∀ cmp, jp cmp = amoAccess op d a b q s cmp := by
    intro cmp
    unfold jp amoAccess
    cases Order.isRel q.order <;> rfl
  split at h
  · next ho => rw [if_pos ho, run_bind_ok h, hjp]
  · next ho =>
    obtain ⟨rfl, rfl⟩ := h
    rw [if_neg ho, run_bind_ok (run_pure 0 s0), hjp]
theorem amoBody_misaligned {op : AmoOp} {d a b : SReg} {q : AmoMods} {x y c : B64} {s s0 s1 s2 : State} (hh : s.hasHandler)
    (hc : CompareReads s op d c s0) (h1 : Reads s0 a x s1) (h2 : Reads s1 b y s2) (hal : x.toNat % updBytes q.w64 ≠ 0) :
    runI 4 (amoBody op d a b q) s = s.entered cMISALIGN x s.me.pc false :=
  runI_entered hh (by decide) (by
    rw [amoBody_run hc, amoAccess, run_bind_ok h1, run_bind_ok h2]
    exact run_bind_error (aligned_traps hal))

/-- Settles O11: a store has one lemma, and a misaligned access of each shape another. -/
theorem storeResults : Obligations.StoreResults := by
  unfold Obligations.StoreResults
  refine ⟨fun s s1 s2 a b i x y l h1 h2 => ?_, fun s s1 s2 d a b i x y hh h1 => ?_, fun s s0 s1 s2 d a b x y c q hh hal => ?_⟩
  · intro va hr hk
    have run {ins : Instr} {n : Nat} (hi : exec ins s = .next (runI 4 (storeBody n a b (immI i)) s)) (hal : va.toNat % n = 0) :
        exec ins s = .next (((s2.translated va).stored l (leBytes n y.toNat)).retire 4) :=
      hi.trans (congrArg _ (storeBody_runs h1 h2 hal hr hk))
    exact ⟨run rfl (Nat.mod_one _), run rfl, run rfl, run rfl⟩
  · intro va
    have load {ins : Instr} {n : Nat} {f : B64 → B64} (hi : exec ins s = .next (runI 4 (loadBody n f d a (immI i)) s))
        (hal : va.toNat % n ≠ 0) : exec ins s = .next (s.entered 2 va s.me.pc false) :=
      hi.trans (congrArg _ (loadBody_misaligned hh h1 hal))
    have store {ins : Instr} {n : Nat} (hi : exec ins s = .next (runI 4 (storeBody n a b (immI i)) s)) (h2 : Reads s1 b y s2)
        (hal : va.toNat % n ≠ 0) : exec ins s = .next (s.entered 2 va s.me.pc false) :=
      hi.trans (congrArg _ (storeBody_misaligned hh h1 h2 hal))
    exact ⟨load rfl, load rfl, load rfl, load rfl, load rfl, fun h2 => ⟨store rfl h2, store rfl h2, store rfl h2⟩⟩
  · have amo {ins : Instr} {op : AmoOp} {s0 : State} {c : B64} (hi : exec ins s = .next (runI 4 (amoBody op d a b q) s))
        (hc : CompareReads s op d c s0) (h1 : Reads s0 a x s1) (h2 : Reads s1 b y s2) :
        exec ins s = .next (s.entered 2 x s.me.pc false) :=
      hi.trans (congrArg _ (amoBody_misaligned hh hc h1 h2 hal))
    have upd {ins : Instr} {op : UpdOp} (hi : exec ins s = .next (runI 4 (updBody op a b q) s)) (h1 : Reads s a x s1)
        (h2 : Reads s1 b y s2) : exec ins s = .next (s.entered 2 x s.me.pc false) :=
      hi.trans (congrArg _ (updBody_misaligned hh h1 h2 hal))
    refine ⟨fun h1 h2 => ?_, fun h0 h1 h2 => amo (op := .cas) rfl h0 h1 h2⟩
    have plain {ins : Instr} {op : AmoOp} (hi : exec ins s = .next (runI 4 (amoBody op d a b q) s)) (ho : op ≠ .cas) :=
      amo hi (show CompareReads s op d 0 s by rw [CompareReads, if_neg ho]; exact ⟨rfl, rfl⟩) h1 h2
    exact ⟨plain (op := .swap) rfl (by decide), plain (op := .add) rfl (by decide), plain (op := .and) rfl (by decide),
      plain (op := .or) rfl (by decide), plain (op := .xor) rfl (by decide), plain (op := .min) rfl (by decide),
      plain (op := .max) rfl (by decide), plain (op := .minn) rfl (by decide), plain (op := .maxn) rfl (by decide),
      plain (op := .fadd) rfl (by decide), upd (op := .add) rfl h1 h2, upd (op := .fadd) rfl h1 h2, upd (op := .min) rfl h1 h2,
      upd (op := .max) rfl h1 h2, upd (op := .or) rfl h1 h2⟩

end Sys2Proof.Machine
end

section
/-! # Views that drains and releases leave alone, and what merges and releases take away (R39, R103, R212, R216) -/
open Sys2Proof
namespace Sys2Proof.Machine

/-! ## Drains and releases -/

section
variable {β : Type} {f : State → β}

theorem Unseen.drainOver (h : Unseen f) (s : State) (tid loc n : Nat) : f (s.drainOver tid loc n) = f s := by
  unfold State.drainOver
  extract_lets own s1
  have h1 : f s1 = f s := by
    unfold s1
    split
    · exact h.fileUpTo s _ _
    · rfl
  exact (foldl_keeps h.force own s1).trans h1
/-- A release changes, besides what such a view never sees, only the serial number. -/
theorem Unseen.release (h : Unseen f) (hser : ∀ s n, f { s with nextSer := n } = f s) (s : State) (tid : Nat) (sc : Scope) (eng : Bool) :
    f (s.release tid sc eng) = f s := by
  unfold State.release
  extract_lets wide s1 marked s2 s3
  have h1 : f s1 = f s := h.fileUpTo s _ _
  have hmark : f marked = f s1 := (h.stores { s1 with nextSer := s1.nextSer + 1 } _).trans (hser s1 _)
  have h2 : f s2 = f s1 := by
    unfold s2
    split
    · exact h.performAll s1 _
    · split
      · split
        · exact hmark
        · exact (foldl_keeps h.force _ marked).trans hmark
      · rfl
  have h3 : f s3 = f s2 := by
    unfold s3
    split
    · exact h.mergeWhere s2 _
    · rfl
  have hjobs : f (s3.orderJobs tid sc) = f s3 := by
    unfold State.orderJobs
    extract_lets seen
    split
    · exact (h.stores { s3 with nextSer := s3.nextSer + 1 } _).trans (hser s3 _)
    · rfl
  split
  · rfl
  · split
    · exact hjobs.trans (h3.trans (h2.trans h1))
    · exact h3.trans (h2.trans h1)
theorem Unseen.cur : Unseen State.cur := ⟨fun _ _ => rfl, fun _ _ => rfl, fun _ _ => rfl, fun _ _ => rfl, fun _ _ => rfl,
  fun _ _ _ => rfl, fun _ _ _ _ => rfl, fun _ _ _ _ => rfl⟩
end

/-! ## Merged copies are gone (R39) -/

/-- Copies are only taken away. -/
def FewerCopies (s t : State) : Prop := t.upd.Sublist s.upd
theorem FewerCopies.foldl {α : Type} {f : State → α → State} (h : ∀ s a, FewerCopies s (f s a)) (l : List α) (s : State) :
    FewerCopies s (l.foldl f s) := by
  induction l generalizing s with
  | nil => exact List.Sublist.refl _
  | cons a l ih => exact (ih _).trans (h s a)
theorem upd_count (s : State) (core slot src n : Nat) : (s.count core slot src n).upd = s.upd := by
  unfold State.count
  extract_lets
  split <;> rfl
theorem FewerCopies.echoOne {home : State → Nat → Nat → State} (hh : ∀ s a n, FewerCopies s (home s a n)) (loc src kind : Nat)
    (tag : BitVec 16) (dev : Nat) (s : State) (c : Nat × Echo) : FewerCopies s (echoOne home loc src kind tag dev s c) := by
  unfold Machine.echoOne
  extract_lets ctl on slot s1 addr d0 d1
  split
  · exact List.Sublist.refl _
  · exact hh _ _ _
theorem FewerCopies.mergeLine {home : State → Nat → Nat → State} (hh : ∀ s a n, FewerCopies s (home s a n)) (s : State) (u : UpdLine) :
    FewerCopies s (mergeLine home s u) := by
  have helem (s : State) (c : Nat × B64) : FewerCopies s (mergeElem home u s c) := by
    exact FewerCopies.foldl (.echoOne hh _ _ _ _ _) _ { s with mem := _ }
  rw [Machine.mergeLine, FewerCopies, upd_count]
  exact FewerCopies.foldl helem _ s
theorem FewerCopies.mergeUpTo (n : Nat) : ∀ (p : UpdLine → Bool) (s : State), FewerCopies s (mergeUpTo n p s) := by
  induction n with
  | zero => exact fun _ _ => List.Sublist.refl _
  | succ n ih =>
    intro p s
    unfold Machine.mergeUpTo
    split
    · exact List.Sublist.refl _
    · exact ((ih _ _).trans (FewerCopies.mergeLine (fun _ _ _ => ih _ _) _ _)).trans List.erase_sublist
/-- As many merges as there are selected copies leave none. -/
theorem mergeUpTo_none (n : Nat) : ∀ (p : UpdLine → Bool) (s : State), s.upd.countP p ≤ n → ∀ u ∈ (mergeUpTo n p s).upd, p u = false := by
  induction n with
  | zero =>
    intro p s h u hu
    exact Bool.eq_false_iff.2 fun hp => Nat.not_succ_le_zero _ ((List.countP_pos_iff.2 ⟨u, hu, hp⟩).trans_le h)
  | succ n ih =>
    intro p s h
    unfold mergeUpTo
    split
    · next hnone =>
      intro u hu
      simpa using List.find?_eq_none.1 hnone u hu
    · next v hv =>
      have hmem : v ∈ s.upd := List.mem_of_find?_eq_some hv
      have hpv : p v = true := List.find?_some hv
      refine ih p _ ?_
      have hless : (s.upd.erase v).countP p ≤ n := by
        rw [List.countP_erase, if_pos ⟨hmem, hpv⟩]; omega
      refine le_trans (List.Sublist.countP_le ?_) hless
      exact FewerCopies.mergeLine (fun _ _ _ => FewerCopies.mergeUpTo _ _ _) { s with upd := s.upd.erase v } v
theorem State.mergeWhere_none (s : State) (p : UpdLine → Bool) {u : UpdLine} (hu : u ∈ (s.mergeWhere p).upd) : p u = false :=
  mergeUpTo_none _ p s List.countP_le_length u hu

/-! ## The queue of `ksend`s (R154) -/

theorem cores_of_rest {s t : State} (h : t.rest = s.rest) (k : Nat) : t.core k = s.core k := by
  show t.rest.cores.get {} k = s.rest.cores.get {} k
  rw [h]
/-- A change of a core that leaves its queue alone leaves every queue alone. -/
theorem State.ksq_modCore (s : State) (j k : Nat) {g : Core → Core} (h : ∀ c, (g c).ksq = c.ksq) :
    ((s.modCore j g).core k).ksq = (s.core k).ksq := by
  by_cases hk : k = j
  · subst hk; rw [State.core_modCore_self, h]
  · rw [State.core_modCore_ne _ _ hk]
theorem State.ksq_poke (s : State) (loc : Nat) (data : List Byte) (k : Nat) : ((s.poke loc data).core k).ksq = (s.core k).ksq := by
  unfold State.poke
  split
  · rfl
  · unfold State.spillIn State.reserveIn
    extract_lets s1 queue taken
    refine (State.ksq_modCore _ _ _ ?_).trans (State.ksq_modCore _ _ _ ?_)
    · exact fun _ => rfl
    · exact fun _ => rfl
theorem State.ksq_portWrite (s : State) (src kind : Nat) (tag : BitVec 16) (dev loc : Nat) (data : List Byte) (k : Nat) :
    ((s.portWrite src kind tag dev loc data).core k).ksq = (s.core k).ksq := by
  rw [State.portWrite, cores_of_rest (rest_echo _ _ _ _ _ _), State.ksq_poke, cores_of_rest (rest_recall _ _ _)]
theorem State.ksq_l1Room (s : State) (core line k : Nat) : ((s.l1Room core line).core k).ksq = (s.core k).ksq := by
  unfold State.l1Room
  extract_lets ls
  split
  · rfl
  · split
    · rfl
    · refine (State.ksq_modCore _ _ _ ?_).trans (congrArg Core.ksq (cores_of_rest (rest_mergeWhere s.freshCtr _) k))
      exact fun _ => rfl
theorem State.ksq_combine (s : State) (tid ser loc : Nat) (op : UpdOp) (w64 : Bool) (b : B64) (tag : BitVec 16) (k : Nat) :
    ((s.combine tid ser loc op w64 b tag).core k).ksq = (s.core k).ksq := by
  unfold State.combine
  extract_lets core line idx s1 mine s2 elems
  have h1 : (s1.core k).ksq = (s.core k).ksq := congrArg Core.ksq (cores_of_rest (rest_mergeWhere s _) k)
  have h2 : (s2.core k).ksq = (s1.core k).ksq := by
    refine (State.ksq_modCore _ _ _ ?_).trans (State.ksq_l1Room s1 core line k)
    exact fun _ => rfl
  split
  · exact h1
  · exact h2.trans h1
theorem State.ksq_perform (s : State) (p : PStore) (k : Nat) : ((s.perform p).core k).ksq = (s.core k).ksq := by
  unfold State.perform
  extract_lets s1 s2
  have h1 : (s1.core k).ksq = (s.core k).ksq := by
    unfold s1
    split
    · rw [cores_of_rest (rest_mergeWhere _ _)]
    · rfl
  have h2 : (s2.core k).ksq = (s1.core k).ksq := by rw [cores_of_rest (rest_recall _ _ _)]
  clear_value s1 s2
  split
  · rw [State.ksq_portWrite, h1]
  · split
    · rw [State.ksq_combine, h1]
    · rw [State.ksq_portWrite, h2, h1]
theorem State.ksq_performAll (s : State) (ps : List PStore) (k : Nat) : ((s.performAll ps).core k).ksq = (s.core k).ksq :=
  foldl_keeps (p := fun s => (State.core s k).ksq) (fun s p => State.ksq_perform s p k) ps s
/-- The filing of the oldest request takes it from the queue. -/
theorem State.ksq_fileNext (s : State) (core : Nat) : ((s.fileNext core).core core).ksq = (s.core core).ksq.tail := by
  unfold State.fileNext
  split
  · next h => rw [h]; rfl
  · next r rs h =>
    extract_lets x s1 t
    have h1 : (s1.core core).ksq = rs := by rw [State.core_modCore_self]
    split
    · exact h1.trans (by rw [h]; rfl)
    · exact h1.trans (by rw [h]; rfl)
theorem State.ksq_fileSome (n core : Nat) (s : State) : ((fileSome n core s).core core).ksq = (s.core core).ksq.drop n := by
  induction n generalizing s with
  | zero => rfl
  | succ n ih => rw [fileSome, ih, State.ksq_fileNext, List.drop_tail]
/-- Behind the last element that a test selects stand only others. -/
theorem drop_to_last {α : Type} (p : α → Bool) (l : List α) :
    ∀ x ∈ l.drop (l.length - (l.reverse.takeWhile (fun y => !p y)).length), p x = false := by
  intro x hx
  let front := (l.reverse.dropWhile (fun y => !p y)).reverse
  let back := (l.reverse.takeWhile (fun y => !p y)).reverse
  have hsplit : front ++ back = l := by
    rw [← List.reverse_append, List.takeWhile_append_dropWhile, List.reverse_reverse]
  have hlen : l.length - (l.reverse.takeWhile (fun y => !p y)).length = front.length := by
    have h := congrArg List.length hsplit
    rw [List.length_append, List.length_reverse (as := l.reverse.takeWhile _)] at h
    omega
  have hback : l.drop front.length = back := by
    have h : (front ++ back).drop front.length = back := List.drop_left
    rwa [hsplit] at h
  rw [hlen, hback, List.mem_reverse] at hx
  simpa using List.mem_takeWhile_imp hx
/-- Once a slot's requests older than a serial number have filed, none is in the queue. -/
theorem State.ksq_fileUpTo (s : State) (tid ser : Nat) {r : KsReq} (hr : r ∈ ((s.fileUpTo tid ser).core (coreOf tid)).ksq)
    (hser : r.ser < ser) : r.tid ≠ tid := by
  rw [State.fileUpTo, State.ksq_fileSome] at hr
  have h := drop_to_last (fun r : KsReq => r.tid == tid && decide (r.ser < ser)) _ r hr
  intro ht
  simp [ht, hser] at h

end Sys2Proof.Machine
end

section
/-! # Atomic and update-only operations, fences (R100 to R103) -/
open Sys2Proof
namespace Sys2Proof.Machine

/-! ## Running an atomic operation -/

/-- What the release half of an atomic operation's order makes of the state (log entry 8). -/
def State.beforeAmo (s : State) (q : AmoMods) : State :=
  if Order.isRel q.order then s.release s.cur q.scope false else s
theorem Order.isRel_iff (o : Order) : Order.isRel o = true ↔ o = .rel ∨ o = .ar := by cases o <;> simp [Order.isRel]
theorem State.beforeAmo_eq (s : State) (q : AmoMods) :
    s.beforeAmo q = if q.order = .rel ∨ q.order = .ar then s.release s.cur q.scope false else s := by
  simp only [State.beforeAmo, Order.isRel_iff]
theorem State.beforeAmo_cur (s : State) (q : AmoMods) : (s.beforeAmo q).cur = s.cur := by
  unfold State.beforeAmo
  split
  · exact Unseen.cur.release (fun _ _ => rfl) s _ _ _
  · rfl
theorem amoBody_runs {op : AmoOp} {d a b : SReg} {q : AmoMods} {x y c : B64} {l : Nat} {s s0 s1 s2 t : State}
    (hc : CompareReads s op d c s0) (h1 : Reads s0 a x s1) (h2 : Reads s1 b y s2) (h3 : AccessAt s s2 .write (updBytes q.w64) x l)
    (hw : Writes (((s2.translated x).beforeAmo q).amoAt s2.cur l op q.w64 y c).1 d
      (amoResult op q.w64 (((s2.translated x).beforeAmo q).amoAt s2.cur l op q.w64 y c).2) t) :
    runI 4 (amoBody op d a b q) s = t.retire 4 := by
  obtain ⟨hal, hr, hfar, -, hk⟩ := h3
  have hcur : ((s2.translated x).beforeAmo q).cur = s2.cur :=
    (State.beforeAmo_cur _ q).trans (State.walked_cur ..)
  refine runI_ok (u := ()) ?_
  rw [amoBody_run hc, amoAccess, run_bind_ok h1, run_bind_ok h2, run_bind_ok (aligned_runs hal), run_bind_ok (locOf_runs hr),
    run_bind_ok (filed_runs (by rwa [translated_curCore])), run_bind_ok (awaitValue_runs hfar), run_bind_ok (run_modify _ _)]
  show (get >>= _ : Exec Unit).run ((s2.translated x).beforeAmo q) = _
  rw [run_bind_ok (run_get _), hcur]
  exact hw

/-! ## The operation at its location (R101) -/

theorem State.drainOver_of_no_store {s : State} (h : s.stores = []) (tid loc n : Nat) : s.drainOver tid loc n = s := by
  rw [State.drainOver, h]; rfl
/-- With nothing else on its way, an atomic operation changes just the bytes at its location. -/
theorem State.amoAt_quiet {s : State} (hs : s.stores = []) (hu : s.upd = []) (he : s.fleet.echo = {}) {l : Nat} {w64 : Bool}
    (hq : spillCore l (updBytes w64) = none) (tid : Nat) (op : AmoOp) (v cmp : B64) :
    let n := updBytes w64
    let old := BitVec.ofNat 64 (leNat (readBytes s.mem l n))
    s.amoAt tid l op w64 v cmp =
      (if amoWrites op w64 old cmp = true then { s with mem := writeBytes s.mem l (leBytes n (amoNew op w64 old v).toNat) } else s,
       old) := by
  intro n old
  have h2 : ((s.drainOver tid l n).observe tid .thread l n).recall l n = s := by
    rw [State.drainOver_of_no_store hs, State.observe_of_no_store hs, State.recall_of_quiet hu hq]
  unfold State.amoAt
  extract_lets s1 s2 old'
  change s2 = s at h2
  have hold : old' = old := by unfold old'; rw [h2]
  rw [hold, h2]
  split
  · rw [State.portWrite_plain hu (by rw [he]) (by rwa [length_leBytes])]
  · rw [State.echo_of_none he]
theorem amoWrites_iff (op : AmoOp) (w64 : Bool) (old cmp : B64) :
    amoWrites op w64 old cmp = true ↔ ¬(op = .cas ∧ old.toNat ≠ cmp.toNat % 2 ^ (8 * updBytes w64)) := by
  have hw : (if w64 then 64 else 32) = 8 * updBytes w64 := by cases w64 <;> rfl
  unfold amoWrites
  split
  · simp [hw]
  · next h => simp [show op ≠ .cas from h]

/-! ## R101's table -/

theorem intVal_signed {w : Nat} (hw : 0 < w) (x : BitVec w) : intVal w true x.toNat = x.toInt := by
  have hpow : 2 ^ w = 2 * 2 ^ (w - 1) := by rw [← pow_succ', Nat.sub_add_cancel hw]
  simp only [intVal, Nat.mod_eq_of_lt x.isLt, true_and, BitVec.toInt_eq_toNat_cond]
  split
  · rw [if_neg (by omega)]; norm_cast
  · rw [if_pos (by omega)]
theorem intVal_unsigned {w : Nat} (x : BitVec w) : intVal w false x.toNat = (x.toNat : Int) := by
  simp [intVal, Nat.mod_eq_of_lt x.isLt]
/-- A result of 64 bits is whole. -/
theorem cut_whole (z : B64) : BitVec.ofNat 64 (z.toNat % 2 ^ 64) = z := by
  rw [Nat.mod_eq_of_lt z.isLt, BitVec.ofNat_toNat, BitVec.setWidth_eq]
/-- A result of 32 bits is the low half. -/
theorem cut_half (z : B64) : BitVec.ofNat 64 (z.toNat % 2 ^ 32) = (z.setWidth 32).setWidth 64 := by
  apply BitVec.eq_of_toNat_eq
  rw [BitVec.toNat_ofNat, BitVec.toNat_setWidth, BitVec.toNat_setWidth]
theorem amoNew_64 (x y : B64) : amoNew .swap true x y = y ∧ amoNew .cas true x y = y ∧ amoNew .add true x y = x + y ∧
    amoNew .and true x y = x &&& y ∧ amoNew .or true x y = x ||| y ∧ amoNew .xor true x y = x ^^^ y ∧
    amoNew .min true x y = (if x.toInt ≤ y.toInt then x else y) ∧ amoNew .max true x y = (if y.toInt ≤ x.toInt then x else y) ∧
    amoNew .minn true x y = (if x.toNat ≤ y.toNat then x else y) ∧ amoNew .maxn true x y = (if y.toNat ≤ x.toNat then x else y) ∧
    amoNew .fadd true x y =
      BitVec.ofNat 64 (roundTo fmtF64 .rne false 0 (addFV .rne (fmtF64.value x.toNat) (fmtF64.value y.toNat)).1).bits := by
  have hs (z : B64) : intVal 64 true z.toNat = z.toInt := intVal_signed (by decide) z
  have hu (z : B64) : intVal 64 false z.toNat = (z.toNat : Int) := intVal_unsigned z
  refine ⟨cut_whole y, cut_whole y, cut_whole _, cut_whole _, cut_whole _, cut_whole _, (cut_whole _).trans ?_, (cut_whole _).trans ?_,
    (cut_whole _).trans ?_, (cut_whole _).trans ?_, ?_⟩
  · rw [← hs, ← hs]; rfl
  · rw [← hs, ← hs]; rfl
  · simp only [← Int.ofNat_le, ← hu]; rfl
  · simp only [← Int.ofNat_le, ← hu]; rfl
  · show BitVec.ofNat 64 (roundTo fmtF64 .rne false 0 (addFV .rne (fmtF64.value (BitVec.ofNat 64 (x.toNat % 2 ^ 64)).toNat)
      (fmtF64.value (BitVec.ofNat 64 (y.toNat % 2 ^ 64)).toNat)).1).bits = _
    rw [cut_whole, cut_whole]
theorem amoNew_32 (x y : BitVec 32) :
    let new (op : AmoOp) (v : BitVec 32) : Prop := amoNew op false (x.setWidth 64) (y.setWidth 64) = v.setWidth 64
    new .swap y ∧ new .cas y ∧ new .add (x + y) ∧ new .and (x &&& y) ∧ new .or (x ||| y) ∧ new .xor (x ^^^ y) ∧
    new .min (if x.toInt ≤ y.toInt then x else y) ∧ new .max (if y.toInt ≤ x.toInt then x else y) ∧
    new .minn (if x.toNat ≤ y.toNat then x else y) ∧ new .maxn (if y.toNat ≤ x.toNat then x else y) ∧
    amoNew .fadd false (x.setWidth 64) (y.setWidth 64) =
      BitVec.ofNat 64 (roundTo fmtF32 .rne false 0 (addFV .rne (fmtF32.value x.toNat) (fmtF32.value y.toNat)).1).bits := by
  have hlow (z : BitVec 32) : (z.setWidth 64).setWidth 32 = z := by
    rw [BitVec.setWidth_setWidth_of_le _ (by decide), BitVec.setWidth_eq]
  have hnat (z : BitVec 32) : (z.setWidth 64).toNat = z.toNat := BitVec.toNat_setWidth_of_le (by decide)
  have hs (z : BitVec 32) : intVal 32 true (z.setWidth 64).toNat = z.toInt := by rw [hnat]; exact intVal_signed (by decide) z
  have hu (z : BitVec 32) : intVal 32 false (z.setWidth 64).toNat = (z.toNat : Int) := by rw [hnat]; exact intVal_unsigned z
  have hcut {z : B64} {v : BitVec 32} (h : z.setWidth 32 = v) : BitVec.ofNat 64 (z.toNat % 2 ^ 32) = v.setWidth 64 := by
    rw [cut_half, h]
  have hite (p : Prop) [Decidable p] : (if p then x.setWidth 64 else y.setWidth 64 : B64).setWidth 32 = if p then x else y := by
    split <;> exact hlow _
  refine ⟨hcut (hlow y), hcut (hlow y), hcut ?_, hcut ?_, hcut ?_, hcut ?_, hcut ((hite _).trans ?_), hcut ((hite _).trans ?_),
    hcut ((hite _).trans ?_), hcut ((hite _).trans ?_), ?_⟩
  · rw [BitVec.setWidth_add _ _ (by decide), hlow, hlow]
  · rw [BitVec.setWidth_and, hlow, hlow]
  · rw [BitVec.setWidth_or, hlow, hlow]
  · rw [BitVec.setWidth_xor, hlow, hlow]
  · rw [← hs, ← hs]; rfl
  · rw [← hs, ← hs]; rfl
  · simp only [← Int.ofNat_le, ← hu]; rfl
  · simp only [← Int.ofNat_le, ← hu]; rfl
  · have hv (z : BitVec 32) : (BitVec.ofNat 64 ((z.setWidth 64).toNat % 2 ^ 32)).toNat = z.toNat := by
      rw [hcut (hlow z), hnat]
    show BitVec.ofNat 64 (roundTo fmtF32 .rne false 0 (addFV .rne (fmtF32.value (BitVec.ofNat 64 ((x.setWidth 64).toNat % 2 ^ 32)).toNat)
      (fmtF32.value (BitVec.ofNat 64 ((y.setWidth 64).toNat % 2 ^ 32)).toNat)).1).bits = _
    rw [hv, hv]

/-! ## Update-only operations (R102) -/

/-- A combine of the current thread becomes pending (R102, R216). -/
def State.updPending (s : State) (op : UpdOp) (q : AmoMods) (l : Nat) (y : B64) : State :=
  s.pushStore { ser := 0, tid := s.cur, loc := l, data := leBytes (updBytes q.w64) y.toNat, comb := some (op, q.w64),
                rel := Order.isRel q.order, tag := s.tag }
theorem Order.isRel_eq (o : Order) : Order.isRel o = decide (o = .rel ∨ o = .ar) := by cases o <;> rfl
theorem updBody_runs {op : UpdOp} {a b : SReg} {q : AmoMods} {x y : B64} {l : Nat} {s s1 s2 : State} (h1 : Reads s a x s1)
    (h2 : Reads s1 b y s2) (hal : x.toNat % updBytes q.w64 = 0) (hr : s2.route s2.curCore s2.me.ctx s2.me.sysMode .write x = .loc l)
    (hk : (spadCore l).isSome = true → (s2.core s2.curCore).ksq = []) :
    runI 4 (updBody op a b q) s = (if (spadCore l).isSome = true ∨ q.order = .rel ∨ q.order = .ar then
      (s2.translated x).updPending op q l y else (s2.translated x).updLine (s2.translated x).cur l op q.w64 y).retire 4 := by
  refine runI_ok (u := ()) ?_
  rw [updBody, run_bind_ok h1, run_bind_ok h2]
  refine (run_bind_ok (aligned_runs hal)).trans ?_
  rw [run_bind_ok (locOf_runs hr), run_bind_ok (filed_runs (by rwa [translated_curCore]))]
  by_cases hpend : (spadCore l).isSome = true ∨ q.order = .rel ∨ q.order = .ar
  · rw [if_pos hpend, if_pos (by simpa [Order.isRel_eq] using hpend)]
    rfl
  · rw [if_neg hpend, if_neg (by simpa [Order.isRel_eq] using hpend)]
    rfl

/-- Settles O13: one lemma runs every atomic operation, one says what it does to quiet memory, one runs every update-only form. -/
theorem atomicResults : Obligations.AtomicResults := by
  unfold Obligations.AtomicResults
  refine ⟨fun s s0 s1 s2 t d a b x y c q l => ?_, ⟨fun s tid l op w64 v cmp hs hu he => ?_, amoNew_64, amoNew_32⟩,
    fun s s1 s2 a b x y q l h1 h2 hal hr hk => ?_⟩
  · intro n before done sx zx gives
    have amo {ins : Instr} {op : AmoOp} {v : B64 → B64} {s0 : State} {c : B64} (hi : exec ins s = .next (runI 4 (amoBody op d a b q) s))
        (hv : amoResult op q.w64 = v) (hc : CompareReads s op d c s0) (h1 : Reads s0 a x s1) (h2 : Reads s1 b y s2)
        (h3 : AccessAt s s2 .write n x l) : gives ins op c v := fun hw =>
      hi.trans (congrArg _ (amoBody_runs hc h1 h2 h3 (by rw [State.beforeAmo_eq, hv]; exact hw)))
    refine ⟨fun h1 h2 h3 => ?_, fun h0 h1 h2 h3 => amo (op := .cas) rfl rfl h0 h1 h2 h3⟩
    have plain {ins : Instr} {op : AmoOp} {v : B64 → B64} (hi : exec ins s = .next (runI 4 (amoBody op d a b q) s))
        (hv : amoResult op q.w64 = v) (ho : op ≠ .cas) : gives ins op 0 v :=
      amo hi hv (show CompareReads s op d 0 s by rw [CompareReads, if_neg ho]; exact ⟨rfl, rfl⟩) h1 h2 h3
    exact ⟨plain (op := .swap) rfl rfl (by decide), plain (op := .add) rfl rfl (by decide), plain (op := .and) rfl rfl (by decide),
      plain (op := .or) rfl rfl (by decide), plain (op := .xor) rfl rfl (by decide), plain (op := .min) rfl rfl (by decide),
      plain (op := .max) rfl rfl (by decide), plain (op := .minn) rfl rfl (by decide), plain (op := .maxn) rfl rfl (by decide),
      plain (op := .fadd) rfl rfl (by decide)⟩
  · intro n old hq
    refine (State.amoAt_quiet hs hu he hq tid op v cmp).trans ?_
    have hwrites : amoWrites op w64 old cmp = true ↔ ¬(op = .cas ∧ old.toNat ≠ cmp.toNat % 2 ^ (8 * n)) := amoWrites_iff op w64 old cmp
    by_cases hc : op = .cas ∧ old.toNat ≠ cmp.toNat % 2 ^ (8 * n)
    · rw [if_pos hc]
      exact congrArg (·, old) (if_neg fun hw => hwrites.1 hw hc)
    · rw [if_neg hc]
      exact congrArg (·, old) (if_pos (hwrites.2 hc))
  · intro u late
    have run {ins : Instr} {op : UpdOp} (hi : exec ins s = .next (runI 4 (updBody op a b q) s)) :
        exec ins s = .next ((late op).retire 4) := by
      refine hi.trans (congrArg _ ((updBody_runs h1 h2 hal hr hk).trans ?_))
      rw [State.updPending, Order.isRel_eq]
      rfl
    exact ⟨run (op := .add) rfl, run (op := .fadd) rfl, run (op := .min) rfl, run (op := .max) rfl, run (op := .or) rfl⟩

/-! ## Fences (R103) -/

theorem fenceBody_run (o : Order) (sc : Scope) (eng : Bool) (s : State) :
    runI 4 (fenceBody o sc eng) s = (if Order.isRel o then s.release s.cur sc eng else s).retire 4 := by
  refine runI_ok (u := ()) ?_
  unfold fenceBody
  split <;> rfl
theorem exec_fence (o : Order) (sc : Scope) (s : State) :
    exec (.fence o sc) s = .next ((if Order.isRel o then s.release s.cur sc false else s).retire 4) :=
  congrArg Host.Outcome.next (fenceBody_run o sc false s)
theorem exec_fenceEng (o : Order) (sc : Scope) (s : State) :
    exec (.fenceEng o sc) s = .next ((if Order.isRel o then s.release s.cur sc true else s).retire 4) :=
  congrArg Host.Outcome.next (fenceBody_run o sc true s)
/-- A release at device or system scope: the thread's `ksend`s file, its stores are performed, its contributions merge. -/
theorem State.release_wide {sc : Scope} (h : sc = .d ∨ sc = .s) (s : State) (tid : Nat) :
    s.release tid sc false = ((s.fileUpTo tid s.nextSer).drainThread tid).mergeWhere (fun u => u.who.any (fun w => w.1 == tid)) := by
  rcases h with rfl | rfl <;> rfl
theorem stores_of_rest {s t : State} (h : t.rest = s.rest) : t.stores = s.stores :=
  show t.rest.stores = s.rest.stores by rw [h]
/-- After it nothing of the thread is pending. -/
theorem State.release_wide_clears {sc : Scope} (h : sc = .d ∨ sc = .s) (s : State) (tid : Nat) :
    (∀ p ∈ (s.release tid sc false).stores, p.tid = tid → p.dead = true) ∧
    (∀ u ∈ (s.release tid sc false).upd, ∀ w ∈ u.who, w.1 ≠ tid) ∧
    (∀ r ∈ ((s.release tid sc false).core (coreOf tid)).ksq, r.ser < s.nextSer → r.tid ≠ tid) := by
  rw [State.release_wide h]
  refine ⟨fun p hp ht => ?_, fun u hu w hw ht => ?_, fun r hr hser => ?_⟩
  · rw [stores_of_rest (rest_mergeWhere _ _), State.drainThread, State.mem_stores_performAll] at hp
    obtain ⟨hmem, hser⟩ := hp
    by_contra hd
    exact hser p (List.mem_filter.2 ⟨hmem, by simp [hd, ht]⟩) rfl
  · have hno := State.mergeWhere_none _ _ hu
    exact Bool.false_ne_true (hno.symm.trans (List.any_eq_true.2 ⟨w, hw, by simp [ht]⟩))
  · rw [cores_of_rest (rest_mergeWhere _ _), State.drainThread, State.ksq_performAll] at hr
    exact State.ksq_fileUpTo s tid s.nextSer hr hser

/-- Settles O14: a fence is its release half; at device scope that leaves nothing of the thread pending. -/
theorem fenceResults : Obligations.FenceResults := by
  unfold Obligations.FenceResults
  refine ⟨⟨fun s sc => ?_, fun s h => ?_, fun s h => ?_⟩, fun s sc o t hsc ho ht => ?_⟩
  · exact ⟨exec_fence .acq sc s, exec_fence .rel sc s, exec_fence .ar sc s, exec_fenceEng .acq sc s, exec_fenceEng .rel sc s,
      exec_fenceEng .ar sc s⟩
  · rw [State.me] at h
    refine congrArg Host.Outcome.next (runI_ok (u := ()) ?_)
    rw [run_bind_ok (run_thr s), if_pos h]
    rfl
  · rw [State.me] at h
    refine congrArg Host.Outcome.next (runI_stall ?_)
    rw [run_bind_ok (run_thr s), if_neg h]
    rfl
  · have hrun : exec (.fence o sc) s = .next ((s.release s.cur sc false).retire 4) :=
      (exec_fence o sc s).trans (by rw [if_pos ((Order.isRel_iff o).2 ho)])
    rw [hrun] at ht
    cases ht
    exact State.release_wide_clears hsc s s.cur

end Sys2Proof.Machine
end

section
/-! # `idle`, `tstamp`, `cflush`, `cinv` and `tlbinv` (R110, R111, R149, R324) -/
open Sys2Proof
namespace Sys2Proof.Machine

/-! ## Retiring -/

/-- A core of a state whose instruction has retired is the core before. -/
theorem State.core_retire (s : State) (len k : Nat) : (s.retire len).core k = s.core k := rfl
theorem State.me_retire (s : State) (len : Nat) : (s.retire len).me.pc = s.me.pc + BitVec.ofNat 64 len := by
  show ((s.modThread s.cur _).thread s.cur).pc = _
  rw [State.thread_modThread_self]
  rfl
/-- What the memory system does leaves the pc of the current thread. -/
theorem me_pc_of_unseen {s t : State} (h : ∀ {β : Type} {f : State → β}, Unseen f → f t = f s) : t.me.pc = s.me.pc := by
  have ht : (t.thread s.cur).apart = (s.thread s.cur).apart := h (Unseen.threadApart s.cur)
  rw [State.me, State.me, h Unseen.cur]
  exact (congrArg Thread.pc ht :)

/-! ## `idle` and `tstamp` -/

theorem exec_idle_system {s : State} (hs : s.me.sysMode = true) (h4 : slotOf s.cur = 4) :
    exec .idle s = .next ((s.modThread s.cur (fun t => { t with st := .stalled .idle })).retire 4) := by
  refine congrArg Host.Outcome.next (runI_ok (u := ()) ?_)
  rw [run_bind_ok (needSys_runs hs), run_bind_ok (run_get s), if_pos h4]
  rfl
theorem exec_idle_slot {s : State} (hs : s.me.sysMode = true) (h4 : slotOf s.cur ≠ 4) : exec .idle s = .next (s.yieldCur.retire 4) := by
  refine congrArg Host.Outcome.next (runI_ok (u := ()) ?_)
  rw [run_bind_ok (needSys_runs hs), run_bind_ok (run_get s), if_neg h4]
  rfl
theorem exec_tstamp {s t : State} {d : SReg} (hw : Writes s d (BitVec.ofNat 64 (s.now / 2)) t) : exec (.tstamp d) s = .next (t.retire 4) := by
  refine congrArg Host.Outcome.next (runI_ok (u := ()) ?_)
  rw [run_bind_ok (run_get s)]
  exact hw

/-! ## Windows, and addresses outside them -/

/-- No address in a scratchpad window is translated (R30). -/
theorem State.translated_window {s : State} {x : B64} (h : inSpadWindow x = true) : s.translated x = s := by
  have hge : 0xFFF0000000000 ≤ x.toNat := by
    simp only [inSpadWindow, Bool.or_eq_true, decide_eq_true_eq] at h
    omega
  simp [State.translated, State.walked, hge]
/-- A read outside the windows that has a location lies below them, in a page that its leaf lets the thread read. -/
theorem State.route_read {s : State} {x : B64} {l : Nat} (hw : inSpadWindow x = false)
    (hr : s.route s.curCore s.me.ctx s.me.sysMode .read x = .loc l) :
    x.toNat < 0xFFF0000000000 ∧ ∃ log2 e, s.leafFor s.curCore s.me.ctx x.toNat = .leaf log2 e ∧
      (s.me.sysMode = true ∨ e.testBit 4 = true) ∧ e.testBit 5 = false ∧ l = bits e 39 12 * 2 ^ 12 + x.toNat % 2 ^ log2 := by
  simp only [inSpadWindow, Bool.or_eq_false_iff, decide_eq_false_iff_not] at hw
  unfold State.route at hr
  extract_lets v at hr
  split at hr
  · cases hr
  split at hr
  · omega
  split at hr
  · cases hr
  split at hr
  · omega
  split at hr
  · cases hr
  · next log2 e hleaf =>
    refine ⟨by omega, log2, e, hleaf, ?_⟩
    unfold leafPlace at hr
    split at hr
    · cases hr
    · next hsys =>
      split at hr
      · split at hr <;> cases hr
      · next h5 =>
        cases hr
        refine ⟨?_, by simpa using h5, rfl⟩
        by_contra hc
        exact hsys (not_or.1 hc)

/-! ## `cflush` (R111) -/

theorem Unseen.flushLine {β : Type} {f : State → β} (h : Unseen f) (s : State) (l : Nat) : f (s.flushLine l) = f s := by
  unfold State.flushLine
  extract_lets line s1 s2
  have h2 : f s2 = f s := (h.mergeWhere s1 _).trans (h.drainOver s _ _ _)
  refine (h.core s2 _ _ ?_).trans h2
  exact fun _ => rfl
/-- Neither a copy of the line in the L1 nor an Update-only copy of this core is left. -/
theorem State.flushLine_gone (s : State) (l : Nat) : ((s.flushLine l).core s.curCore).l1.get? (l / 256) = none ∧
    ∀ u ∈ (s.flushLine l).upd, u.core = s.curCore → u.line ≠ l / 256 := by
  unfold State.flushLine
  extract_lets line s1 s2
  have hcur : s1.cur = s.cur := Unseen.cur.drainOver s _ _ _
  have hcore1 : s1.curCore = s.curCore := by rw [State.curCore, State.curCore, hcur]
  have hcore2 : s2.curCore = s.curCore := by
    rw [State.curCore, State.curCore, show s2.cur = s1.cur from Unseen.cur.mergeWhere s1 _, hcur]
  refine ⟨?_, fun u hu hcore hline => ?_⟩
  · rw [hcore2, State.core_modCore_self]
    exact SMap.get?_erase_self _ _
  · have hno := State.mergeWhere_none s1 _ hu
    exact Bool.false_ne_true (hno.symm.trans (by simp [hcore, hline, hcore1, line]))
theorem exec_cflush_window {s s1 : State} {a : SReg} {x : B64} (h1 : Reads s a x s1) (hw : inSpadWindow x = true) :
    exec (.cflush a) s = .next (s1.retire 4) := by
  refine congrArg Host.Outcome.next (runI_ok (u := ()) ?_)
  rw [run_bind_ok h1, if_pos hw]
  rfl
theorem exec_cflush {s s1 : State} {a : SReg} {x : B64} {l : Nat} (h1 : Reads s a x s1) (hw : inSpadWindow x = false)
    (hr : s1.route s1.curCore s1.me.ctx s1.me.sysMode .read x = .loc l) :
    exec (.cflush a) s = .next (((s1.translated x).flushLine l).retire 4) := by
  refine congrArg Host.Outcome.next (runI_ok (u := ()) ?_)
  rw [run_bind_ok h1, if_neg (by simp [hw]), run_bind_ok (locOf_runs hr)]
  rfl
theorem translated_curCore_eq (s : State) (x : B64) : (s.translated x).curCore = s.curCore := by
  simp [State.curCore, State.translated]

/-! ## `cinv` (R111, R222) -/

/-- The line is not left in the instruction cache, and the pc stands. -/
theorem State.cinvLine_gone (s : State) (l : Nat) : ((s.cinvLine l).core s.curCore).icache.get? (l / 256) = none ∧
    (s.cinvLine l).me.pc = s.me.pc := by
  unfold State.cinvLine
  extract_lets line own s1
  have hseen {β : Type} {f : State → β} (h : Unseen f) : f s1 = f s := foldl_keeps h.force _ s
  have hcore : s1.curCore = s.curCore := by rw [State.curCore, State.curCore, hseen Unseen.cur]
  refine ⟨?_, me_pc_of_unseen (s := s) (t := s1) hseen⟩
  rw [hcore, State.core_modCore_self]
  exact SMap.get?_erase_self _ _
theorem exec_cinv_window {s s1 : State} {a : SReg} {x : B64} (h1 : Reads s a x s1) (hw : inSpadWindow x = true) :
    exec (.cinv a) s = .next (s1.retire 4) := by
  refine congrArg Host.Outcome.next (runI_ok (u := ()) ?_)
  rw [run_bind_ok h1, run_bind_ok (run_get s1)]
  show (set (s1.translated x) >>= _ : Exec Unit).run s1 = _
  rw [State.translated_window hw, run_bind_ok (run_set s1 s1), if_pos hw]
  rfl
theorem exec_cinv {s s1 : State} {a : SReg} {x : B64} {l : Nat} (h1 : Reads s a x s1) (hw : inSpadWindow x = false)
    (hr : s1.route s1.curCore s1.me.ctx s1.me.sysMode .read x = .loc l) :
    exec (.cinv a) s = .next (((s1.translated x).cinvLine l).retire 4) := by
  obtain ⟨hlow, log2, e, hleaf, hsys, h5, rfl⟩ := State.route_read hw hr
  have hallow : (!s1.me.sysMode && !e.testBit 4) = false := by rcases hsys with h | h <;> simp [h]
  refine congrArg Host.Outcome.next (runI_ok (u := ()) ?_)
  rw [run_bind_ok h1, run_bind_ok (run_get s1)]
  show (set (s1.translated x) >>= _ : Exec Unit).run s1 = _
  rw [run_bind_ok (run_set _ s1), if_neg (by simp [hw]), if_neg (by simp; omega)]
  rw [State.me] at hleaf hallow
  simp only [hleaf, hallow, h5]
  rfl

/-! ## `tlbinv` (R111, R324) -/

theorem exec_tlbinv {s s1 : State} {a : SReg} {x : B64} (hs : s.me.sysMode = true) (h1 : Reads s a x s1) :
    exec (.tlbinv a) s = .next ((s1.tlbDrop s1.curCore (fun e => e.ctx == s1.me.ctx && (a == 0 || e.hits s1.me.ctx x.toNat))).retire 4) := by
  refine congrArg Host.Outcome.next (runI_ok (u := ()) ?_)
  rw [run_bind_ok (needSys_runs hs), run_bind_ok h1, run_bind_ok (run_thr s1)]
  rfl
theorem State.mem_tlb_tlbDrop (s : State) (k : Nat) (p : TlbEntry → Bool) (e : TlbEntry) :
    (e ∈ ((s.tlbDrop k p).core k).tlb ↔ e ∈ (s.core k).tlb ∧ ¬p e = true) ∧
    (e ∈ ((s.tlbDrop k p).croft (croftOf k)).tlb2 ↔ e ∈ (s.croft (croftOf k)).tlb2 ∧ ¬p e = true) := by
  have hcore : ((s.tlbDrop k p).core k).tlb = (s.core k).tlb.filter (fun e => !p e) := by
    show ((s.modCore k (fun c => { c with tlb := c.tlb.filter (fun e => !p e) })).core k).tlb = _
    rw [State.core_modCore_self]
  have hcroft : ((s.tlbDrop k p).croft (croftOf k)).tlb2 = (s.croft (croftOf k)).tlb2.filter (fun e => !p e) :=
    congrArg Croft.tlb2 (State.croft_setCroft_self _ _ _)
  rw [hcore, hcroft]
  simp [List.mem_filter]

/-- Settles O20: each form runs one update of the state, which takes away what its lemma says. -/
theorem systemResults : Obligations.SystemResults := by
  unfold Obligations.SystemResults
  refine ⟨fun s hs h4 => exec_idle_system hs h4, fun s hs h4 => exec_idle_slot hs h4, fun s t d hw => exec_tstamp hw,
    fun s s1 a x h1 hw => ⟨exec_cflush_window h1 hw, exec_cinv_window h1 hw⟩, fun s s1 a x l h1 hw hr => ?_,
    fun s s1 a x l h1 hw hr => ?_, fun s s1 a x hs h1 => ?_⟩
  · obtain ⟨hl1, hupd⟩ := State.flushLine_gone (s1.translated x) l
    rw [translated_curCore_eq] at hl1 hupd
    refine ⟨_, exec_cflush h1 hw hr, hl1, hupd, ?_⟩
    rw [State.me_retire, me_pc_of_unseen (fun h => h.flushLine (s1.translated x) l), translated_me]
    rfl
  · obtain ⟨hic, hpc⟩ := State.cinvLine_gone (s1.translated x) l
    rw [translated_curCore_eq] at hic
    refine ⟨_, exec_cinv h1 hw hr, hic, ?_⟩
    rw [State.me_retire, hpc, translated_me]
    rfl
  · refine ⟨_, exec_tlbinv hs h1, State.me_retire _ _, fun e => ?_⟩
    have hdrop := State.mem_tlb_tlbDrop s1 s1.curCore (fun e => e.ctx == s1.me.ctx && (a == 0 || e.hits s1.me.ctx x.toNat)) e
    simp only [Bool.and_eq_true, Bool.or_eq_true, beq_iff_eq] at hdrop
    exact hdrop

end Sys2Proof.Machine
end

section
/-! # Scalar floating point (R74, R80, R82, R104 to R107) -/
open Sys2Proof
namespace Sys2Proof.Machine

/-! ## Flags and the generator -/

theorem genOf_run (s : State) : genOf.run s = .ok (s.me.gen, s) := rfl
theorem modeOf_run (r : RMode) (s : State) : (modeOf r).run s = .ok (s.modeFor r, s) := rfl
theorem State.modThread_congr {s : State} {k : Nat} {f g : Thread → Thread} (h : f (s.thread k) = g (s.thread k)) :
    s.modThread k f = s.modThread k g := congrArg (s.setThread k) h
/-- Flags merge; the generator stays. -/
theorem orFlags_run (f : Flags) (s : State) : (orFlags f).run s = .ok ((), s.flagged s.me.gen f) := rfl
theorem State.flagged_flagged (s : State) (g : B64) (f f' : Flags) :
    (s.flagged g f).flagged (s.flagged g f).me.gen f' = s.flagged g (f ||| f') := by
  have hgen : (s.flagged g f).me.gen = g := congrArg Thread.gen (State.thread_modThread_self s s.cur _)
  rw [hgen, State.flagged, State.flagged, State.modThread_cur, State.modThread_modThread]
  refine State.modThread_congr ?_
  rw [BitVec.or_assoc]
theorem keepRound_run (r : Rounded) (s : State) : (keepRound r).run s = .ok (BitVec.ofNat 64 r.bits, s.flagged r.gen r.flags) := by
  rw [keepRound, run_bind_ok (show (setGen r.gen).run s = .ok ((), s.modThread s.cur (fun t => { t with gen := r.gen })) from rfl),
    run_bind_ok (orFlags_run _ _)]
  have h : (s.modThread s.cur (fun t => { t with gen := r.gen })).flagged
      (s.modThread s.cur (fun t => { t with gen := r.gen })).me.gen r.flags = s.flagged r.gen r.flags := by
    have hgen : (s.modThread s.cur (fun t => { t with gen := r.gen })).me.gen = r.gen :=
      congrArg Thread.gen (State.thread_modThread_self s s.cur _)
    rw [hgen, State.flagged, State.modThread_cur, State.modThread_modThread]
    rfl
  rw [h]
  rfl

/-! ## The rounded forms (R105, R107) -/

section
variable {i : Instr} {p : Prec} {r : RMode} {d a b : SReg} {x y : B64} {s s1 s2 t : State}

theorem fpWrite_runs {rm : RMode} {q : FV × Flags} (h : FpWrites s p rm d q t) : (fpWrite p rm d q).run s = .ok ((), t) := by
  rw [fpWrite, run_bind_ok (genOf_run s), run_bind_ok (keepRound_run _ s), run_bind_ok (orFlags_run _ _), State.flagged_flagged]
  exact h
theorem fpBinary_next {f : RMode → FV → FV → FV × Flags} (hi : exec i s = .next (runI 4 (fpBinary f p r d a b) s)) (h1 : Reads s a x s1)
    (h2 : Reads s1 b y s2) (hw : FpWrites s2 p (s2.modeFor r) d (f (s2.modeFor r) (fpVal p x) (fpVal p y)) t) :
    exec i s = .next (t.retire 4) :=
  hi.trans (congrArg _ (runI_ok (by
    rw [fpBinary, run_bind_ok h1, run_bind_ok h2, run_bind_ok (modeOf_run r s2)]; exact fpWrite_runs hw)))
theorem fpFrom_next {v : B64 → FV} (hi : exec i s = .next (runI 4 (fpFrom v p r d a) s)) (h1 : Reads s a x s1)
    (hw : FpWrites s1 p (s1.modeFor r) d (v x, 0) t) : exec i s = .next (t.retire 4) :=
  hi.trans (congrArg _ (runI_ok (by rw [fpFrom, run_bind_ok h1, run_bind_ok (modeOf_run r s1)]; exact fpWrite_runs hw)))
theorem fpTo_next {signed : Bool} (hi : exec i s = .next (runI 4 (fpTo signed p r d a) s)) (h1 : Reads s a x s1)
    (hw : Writes (s1.flagged (roundToInt (s1.modeFor r) 64 signed s1.me.gen (fpVal p x)).gen
        (roundToInt (s1.modeFor r) 64 signed s1.me.gen (fpVal p x)).flags) d
      (BitVec.ofNat 64 (roundToInt (s1.modeFor r) 64 signed s1.me.gen (fpVal p x)).bits) t) : exec i s = .next (t.retire 4) :=
  hi.trans (congrArg _ (runI_ok (by
    rw [fpTo, run_bind_ok h1, run_bind_ok (modeOf_run r s1), run_bind_ok (genOf_run s1), run_bind_ok (keepRound_run _ s1)]; exact hw)))

/-! ## Minimum, maximum and comparisons (R106) -/

theorem fpMinMax_next {mx : Bool} (hi : exec i s = .next (runI 4 (fpMinMax mx p d a b) s)) (h1 : Reads s a x s1) (h2 : Reads s1 b y s2)
    (hw : Writes (s2.flagged s2.me.gen (minMaxFV mx (fpVal p x) (fpVal p y)).2) d
      (BitVec.ofNat 64 (roundTo (precFmt p) .rne false 0 (minMaxFV mx (fpVal p x) (fpVal p y)).1).bits) t) :
    exec i s = .next (t.retire 4) :=
  hi.trans (congrArg _ (runI_ok (by rw [fpMinMax, run_bind_ok h1, run_bind_ok h2]; exact (run_bind_ok (orFlags_run _ s2)).trans hw)))
/-- How two values compare, asked of their order; 0 with a NaN. -/
def compared (c : Int → Bool) (u v : FV) : Bool := match cmpFV u v with | some o => c o | none => false
theorem fpCompare_next {c : Int → Bool} (hi : exec i s = .next (runI 4 (fpCompare c p d a b) s)) (h1 : Reads s a x s1)
    (h2 : Reads s1 b y s2) (hw : Writes (s2.flagged s2.me.gen (nanFlag [fpVal p x, fpVal p y])) d
      (ofBool (compared c (fpVal p x) (fpVal p y))) t) : exec i s = .next (t.retire 4) :=
  hi.trans (congrArg _ (runI_ok (by rw [fpCompare, run_bind_ok h1, run_bind_ok h2, run_bind_ok (orFlags_run _ s2)]; exact hw)))

end

theorem nanFlag_pair (u v : FV) : nanFlag [u, v] = if u.isNan = true ∨ v.isNan = true then flagNV else 0 := by
  simp [nanFlag]
theorem nanFlag_one (u : FV) : nanFlag [u] = if u.isNan then flagNV else 0 := by simp [nanFlag]
theorem ofNat_two_pow (n : Nat) : BitVec.ofNat 64 (2 ^ n) = 1#64 <<< n := by
  apply BitVec.eq_of_toNat_eq
  rw [BitVec.toNat_ofNat, BitVec.toNat_shiftLeft, Nat.shiftLeft_eq]
  simp

/-! ## Classes (R106) -/

/-- The class of a pattern of a format with IEEE infinities and NaNs, from the pattern's fields. -/
theorem fpClass_value (f : FFmt) (hn : f.nan = .ieee) {x : Nat} (hx : x < 2 * f.signBit) :
    fpClass f (f.value x) =
      if x % f.signBit / 2 ^ f.mbits = 2 ^ f.ebits - 1 then
        (if x % f.signBit % 2 ^ f.mbits = 0 then (if f.signBit ≤ x then 0 else 7) else 8)
      else if x % f.signBit = 0 then (if f.signBit ≤ x then 3 else 4)
      else if x % f.signBit < 2 ^ f.mbits then (if f.signBit ≤ x then 2 else 5) else (if f.signBit ≤ x then 1 else 6) := by
  have hpos : 0 < 2 ^ f.mbits := Nat.two_pow_pos _
  have hsign : f.signBit = 2 ^ f.mbits * 2 ^ f.ebits := by rw [FFmt.signBit, Nat.add_comm, pow_add]
  have hexp : x % f.signBit / 2 ^ f.mbits = x / 2 ^ f.mbits % 2 ^ f.ebits := by rw [hsign, Nat.mod_mul_right_div_self]
  have hman : x % f.signBit % 2 ^ f.mbits = x % 2 ^ f.mbits := by rw [hsign, Nat.mod_mul_right_mod]
  have hneg : (x / f.signBit % 2 == 1) = decide (f.signBit ≤ x) := by
    by_cases h : f.signBit ≤ x
    · have hdiv : x / f.signBit = 1 := Nat.div_eq_of_lt_le (by omega) (by omega)
      simp [h, hdiv]
    · simp [h, Nat.div_eq_of_lt (not_le.1 h)]
  have hsplit := Nat.div_add_mod (x % f.signBit) (2 ^ f.mbits)
  rw [hexp, hman] at hsplit
  unfold FFmt.value
  extract_lets sg e m
  rw [hexp, hman]
  change (2 ^ f.mbits * e + m = x % f.signBit) at hsplit
  have hm : m < 2 ^ f.mbits := Nat.mod_lt _ hpos
  rw [show sg = decide (f.signBit ≤ x) from hneg, ← hsplit]
  show fpClass f _ = if e = 2 ^ f.ebits - 1 then if m = 0 then _ else _ else _
  simp only [hn, true_and, reduceCtorEq, false_and, if_false]
  by_cases htop : e = 2 ^ f.ebits - 1
  · rw [if_pos htop, if_pos htop]
    by_cases hm0 : m = 0
    · rw [if_pos hm0, if_pos hm0]; simp [fpClass]
    · rw [if_neg hm0, if_neg hm0]; rfl
  · rw [if_neg htop, if_neg htop]
    by_cases he : e = 0
    · rw [if_pos he]
      simp [fpClass, he, hm]
    · have hbig : 2 ^ f.mbits ≤ 2 ^ f.mbits * e := Nat.le_mul_of_pos_right _ (Nat.pos_of_ne_zero he)
      rw [if_neg he, if_neg (by omega), if_neg (by omega)]
      simp [fpClass]

/-- Settles O15: each shape of floating form has one lemma, and a pattern's class follows from its fields. -/
theorem floatResults : Obligations.FloatResults := by
  unfold Obligations.FloatResults
  refine ⟨fun s s0 s1 s2 t p r d a b x y z => ⟨fun h1 h2 => ?_, fun h1 hw => congrArg Host.Outcome.next (runI_ok (u := ()) ?_),
      fun h0 h1 h2 hw => congrArg Host.Outcome.next (runI_ok (u := ()) ?_)⟩,
    fun s s1 s2 t p d a b x y h1 => ⟨fun h2 => ?_, fun hw => congrArg Host.Outcome.next (runI_ok (u := ()) ?_)⟩, fun p x => ?_,
    fun s s1 t p r d a x h1 => ?_⟩
  · intro rm
    exact ⟨fun hw => fpBinary_next (f := addFV) rfl h1 h2 hw, fun hw => fpBinary_next (f := fun rm x y => addFV rm x y.neg) rfl h1 h2 hw,
      fun hw => fpBinary_next (f := fun _ x y => mulFV x y) rfl h1 h2 hw, fun hw => fpBinary_next (f := fun _ x y => divFV x y) rfl h1 h2 hw⟩
  · rw [run_bind_ok h1, run_bind_ok (modeOf_run r s1)]
    exact fpWrite_runs hw
  · rw [run_bind_ok h0, run_bind_ok h1, run_bind_ok h2, run_bind_ok (modeOf_run r s2)]
    exact fpWrite_runs hw
  · intro u v nv held
    have hheld (c : Int → Bool) (q : Int → Prop) [DecidablePred q] (hq : ∀ o, c o = decide (q o)) : ofBool (compared c u v) = held q := by
      unfold compared held
      cases cmpFV u v with
      | none => rfl
      | some o => simp only [hq]; exact ofBool_decide _
    have compare {i : Instr} {c : Int → Bool} {q : Int → Prop} [DecidablePred q] (hi : exec i s = .next (runI 4 (fpCompare c p d a b) s))
        (hq : ∀ o, c o = decide (q o)) (hw : Writes (s2.flagged s2.me.gen nv) d (held q) t) : exec i s = .next (t.retire 4) :=
      fpCompare_next hi h1 h2 (by rw [nanFlag_pair, hheld c q hq]; exact hw)
    exact ⟨compare rfl fun _ => Bool.beq_eq_decide_eq .., compare rfl fun _ => rfl, compare rfl fun _ => rfl,
      fun hw => fpMinMax_next rfl h1 h2 hw, fun hw => fpMinMax_next rfl h1 h2 hw⟩
  · rw [run_bind_ok h1, run_bind_ok (orFlags_run _ s1), nanFlag_one, ofNat_two_pow]
    exact hw
  · intro w mb top neg mag hx
    cases p with
    | f32 => exact fpClass_value fmtF32 rfl hx
    | f64 => exact fpClass_value fmtF64 rfl hx
  · intro rm other toInt
    exact ⟨fun hw => fpFrom_next (v := fun x => FV.ofInt x.toInt) rfl h1 hw, fun hw => fpFrom_next (v := fun x => FV.ofInt x.toNat) rfl h1 hw,
      fun hw => fpFrom_next (v := fpVal other) rfl h1 hw, fun hw => fpTo_next rfl h1 hw, fun hw => fpTo_next rfl h1 hw⟩

end Sys2Proof.Machine
end

section
/-! # Control registers (R22, R24 to R26, R108) -/
open Sys2Proof
namespace Sys2Proof.Machine

/-! ## Checks and bodies -/

theorem cregCheck_runs {n : Nat} {s : State} (h : s.cregOpen n) : (cregCheck n).run s = .ok ((), s) := by
  obtain ⟨hlist, hpriv, hpend⟩ := h
  rw [cregCheck, run_bind_ok (run_thr s), if_neg (by simp [hlist]), if_neg (by
    rw [State.me] at hpriv
    cases hp : cregPriv n with
    | false => simp
    | true => simp [hpriv hp])]
  split
  · next h8 => exact settled_free (hpend h8)
  · rfl
theorem cregCheck_unlisted {n : Nat} {s : State} (h : cregListed n = false) :
    (cregCheck n).run s = .error (.trap cILLEGAL (BitVec.ofNat 64 n) false none) := by
  rw [cregCheck, run_bind_ok (run_thr s), if_pos (by simp [h])]
  rfl
theorem cregCheck_priv {n : Nat} {s : State} (hl : cregListed n = true) (hp : cregPriv n = true) (hm : s.me.sysMode = false) :
    (cregCheck n).run s = .error (.trap cPRIV (BitVec.ofNat 64 n) false none) := by
  rw [State.me] at hm
  rw [cregCheck, run_bind_ok (run_thr s), if_neg (by simp [hl]), if_pos (by simp [hp, hm])]
  rfl
theorem cregGet_runs {n : Nat} {s : State} (h : s.cregOpen n) : (cregGet n).run s = .ok (s.cregRead s.cur n, s) := by
  rw [cregGet, run_bind_ok (cregCheck_runs h), run_bind_ok (run_get s)]
  rfl
theorem cregGet_stops {n : Nat} {s : State} {e : Stop} (h : (cregCheck n).run s = .error e) : (cregGet n).run s = .error e := by
  rw [cregGet, run_bind_error h]
/-- Where a write of a control register leaves the state (R108): taken where the mode may write it, else ignored. -/
def CregTakes (s : State) (n : Nat) (v : B64) (t : State) : Prop :=
  if cregWritable s.me.sysMode n = true then cregRefuses n v = false ∧ s.cregBusy s.cur n = none ∧ t = s.cregWrite s.cur n v else t = s
theorem cregPut_runs {n : Nat} {v : B64} {s t : State} (h : CregTakes s n v t) : (cregPut n v).run s = .ok ((), t) := by
  unfold CregTakes at h
  rw [State.me] at h
  rw [cregPut, run_bind_ok (run_get s)]
  split at h
  · next hw =>
    obtain ⟨href, hbusy, rfl⟩ := h
    rw [if_neg (by simp [hw]), if_neg (by simp [href]), hbusy]
    rfl
  · next hw =>
    subst h
    rw [if_pos (by simpa using hw)]
    rfl
theorem cregPut_refuses {n : Nat} {v : B64} {s : State} (hw : cregWritable s.me.sysMode n = true) (hr : cregRefuses n v = true) :
    (cregPut n v).run s = .error (.trap cILLEGAL (BitVec.ofNat 64 n) false none) := by
  rw [State.me] at hw
  rw [cregPut, run_bind_ok (run_get s), if_neg (by simp [hw]), if_pos hr]
  rfl

section
variable {d a : SReg} {c : BitVec 12} {v : B64} {s s1 s2 t : State}

theorem exec_crr (h : s.cregOpen c.toNat) (hw : Writes s d (s.cregRead s.cur c.toNat) t) : exec (.crr d c) s = .next (t.retire 4) :=
  congrArg Host.Outcome.next (runI_ok (u := ()) (by rw [run_bind_ok (cregGet_runs h)]; exact hw))
theorem exec_crw (h : s.cregOpen c.toNat) (h1 : Reads s a v s1) (ht : CregTakes s1 c.toNat v t) : exec (.crw c a) s = .next (t.retire 4) :=
  congrArg Host.Outcome.next (runI_ok (u := ()) (by rw [run_bind_ok (cregCheck_runs h), run_bind_ok h1]; exact cregPut_runs ht))
theorem cregBits_runs {f : B64 → B64 → B64} (h : s.cregOpen c.toNat) (h1 : Reads s a v s1)
    (ht : CregTakes s1 c.toNat (f (s.cregRead s.cur c.toNat) v) s2) (hw : Writes s2 d (s.cregRead s.cur c.toNat) t) :
    runI 4 (cregBits f d c a) s = t.retire 4 :=
  runI_ok (u := ()) (by rw [cregBits, run_bind_ok (cregGet_runs h), run_bind_ok h1, run_bind_ok (cregPut_runs ht)]; exact hw)
theorem cregBits_refuses {f : B64 → B64 → B64} (h : s.cregOpen c.toNat) (h1 : Reads s a v s1)
    (hm : cregWritable s1.me.sysMode c.toNat = true) (hr : cregRefuses c.toNat (f (s.cregRead s.cur c.toNat) v) = true) :
    (cregBits f d c a).run s = .error (.trap cILLEGAL (BitVec.ofNat 64 c.toNat) false none) := by
  rw [cregBits, run_bind_ok (cregGet_runs h), run_bind_ok h1, run_bind_error (cregPut_refuses hm hr)]
/-- All four forms stop as the check of their register does. -/
theorem creg_stops {cause : Nat} (hh : s.hasHandler) (hx : cause ≠ cXLATE)
    (h : (cregCheck c.toNat).run s = .error (.trap cause (BitVec.ofNat 64 c.toNat) false none)) :
    let stops (i : Instr) : Prop := exec i s = .next (s.entered cause (BitVec.ofNat 64 c.toNat) s.me.pc false)
    stops (.crr d c) ∧ stops (.crw c a) ∧ stops (.crs d c a) ∧ stops (.crc d c a) := by
  have hget := cregGet_stops h
  exact ⟨congrArg Host.Outcome.next (runI_entered hh hx (run_bind_error hget)), congrArg Host.Outcome.next (runI_entered hh hx (run_bind_error h)),
    congrArg Host.Outcome.next (runI_entered hh hx (run_bind_error hget)), congrArg Host.Outcome.next (runI_entered hh hx (run_bind_error hget))⟩

end

/-! ## What is written is read back (R24, R26) -/

/-- A register of the thread. -/
theorem State.creg_back_thread {s : State} {n : Nat} {v w : B64} (f : Thread → Thread) (g : Thread → B64)
    (hw : s.cregWrite s.cur n v = s.modThread s.cur f) (hr : ∀ t : State, t.cregRead s.cur n = g (t.thread s.cur))
    (h : g (f (s.thread s.cur)) = w := by rfl) : (s.cregWrite s.cur n v).cregRead s.cur n = w := by
  rw [hw, hr, State.thread_modThread_self, h]

/-- A register of the core. -/
theorem State.creg_back_core {s : State} {n : Nat} {v w : B64} (f : Core → Core) (g : Core → B64)
    (hw : s.cregWrite s.cur n v = s.modCore s.curCore f) (hr : ∀ t : State, t.cregRead s.cur n = g (t.core s.curCore))
    (h : g (f (s.core s.curCore)) = w := by rfl) : (s.cregWrite s.cur n v).cregRead s.cur n = w := by
  rw [hw, hr, State.core_modCore_self, h]

theorem and_low_bits {k : Nat} (hk : k ≤ 64) (v : B64) : v &&& BitVec.ofNat 64 (2 ^ k - 1) = (v.setWidth k).setWidth 64 := by
  apply BitVec.eq_of_toNat_eq
  have hlt : 2 ^ k - 1 < 2 ^ 64 := lt_of_lt_of_le (Nat.sub_lt (Nat.two_pow_pos k) one_pos) (Nat.pow_le_pow_right (by omega) hk)
  rw [BitVec.toNat_and, BitVec.toNat_ofNat, Nat.mod_eq_of_lt hlt, Nat.and_two_pow_sub_one_eq_mod, BitVec.toNat_setWidth_of_le hk,
    BitVec.toNat_setWidth]

/-- RATION keeps its balance and takes the other two fields (R27). -/
theorem ration_fields (v : B64) (bal : BitVec 16) :
    BitVec.ofNat 64 (bal.toNat + 2 ^ 16 * ((v >>> 16).setWidth 16).toNat + 2 ^ 32 * ((v >>> 32).setWidth 16).toNat) =
      (v &&& 0x0000FFFFFFFF0000#64) ||| bal.setWidth 64 := by
  apply BitVec.eq_of_toNat_eq
  have hmask : v.toNat &&& 0x0000FFFFFFFF0000 = 2 ^ 16 * (v.toNat / 2 ^ 16 % 2 ^ 32) := by
    apply Nat.eq_of_testBit_eq
    intro i
    rw [show 0x0000FFFFFFFF0000 = 2 ^ 16 * (2 ^ 32 - 1) by norm_num, Nat.testBit_and, Nat.testBit_two_pow_mul, Nat.testBit_two_pow_mul,
      Nat.testBit_two_pow_sub_one, Nat.testBit_mod_two_pow, Nat.testBit_div_two_pow]
    by_cases hi : 16 ≤ i
    · simp [hi, Bool.and_comm]
    · simp [hi]
  rw [BitVec.toNat_or, BitVec.toNat_and, BitVec.toNat_setWidth_of_le (b := bal) (by omega), show (0x0000FFFFFFFF0000#64).toNat = 0x0000FFFFFFFF0000 from rfl,
    hmask, ← Nat.two_pow_add_eq_or_of_lt bal.isLt, BitVec.toNat_ofNat, BitVec.toNat_setWidth, BitVec.toNat_setWidth,
    BitVec.toNat_ushiftRight, BitVec.toNat_ushiftRight, Nat.shiftRight_eq_div_pow, Nat.shiftRight_eq_div_pow]
  have hv := v.isLt
  have hb := bal.isLt
  omega

/-! ## CYCLE (R27, R108) -/

/-- A divisor that is not in force yet at a time comes into force later. -/
theorem Core.clocked_waits (c : Core) (now : Nat) : ∀ t d, (c.clocked now).divNext = some (t, d) → now < t := by
  intro t d h
  unfold Core.clocked at h
  split at h
  · next hn => rw [hn] at h; cases h
  · next t' d' hn =>
    split at h
    · next hlt => rw [hn] at h; cases h; exact hlt
    · cases h
theorem Core.clocked_of_waits {c : Core} {now : Nat} (h : ∀ t d, c.divNext = some (t, d) → now < t) : c.clocked now = c := by
  unfold Core.clocked
  split
  · rfl
  · next t d hn => rw [if_pos (h t d hn)]
theorem State.keepCounts_cores (s : State) (core new : Nat) : (s.keepCounts core new).cores = s.cores := by
  unfold State.keepCounts
  extract_lets
  split <;> rfl
theorem State.keepCounts_now (s : State) (core new : Nat) : (s.keepCounts core new).now = s.now := by
  unfold State.keepCounts
  extract_lets
  split <;> rfl
/-- From a write on a core counts on from the value written, whether its clock runs or not. -/
theorem State.cycles_written {s : State} {k n : Nat} (hw : ∀ t d, (s.core k).divNext = some (t, d) → s.now < t)
    (hn : (s.core k).cyc = n) (hat : s.now ≤ (s.core k).cycAt) : s.cycles k = n := by
  unfold State.cycles
  extract_lets c
  have hc : c = s.core k := Core.clocked_of_waits hw
  rw [hc, hn, Nat.sub_eq_zero_of_le hat, Nat.zero_div, add_zero, ite_self]
theorem State.creg_back_cycle (s : State) (v : B64) : (s.cregWrite s.cur 0x003 v).cregRead s.cur 0x003 = v + 1 := by
  show BitVec.ofNat 64 ((s.cregWrite s.cur 0x003 v).cycles s.curCore + 1) = v + 1
  have hcore : (s.cregWrite s.cur 0x003 v).core s.curCore = { (s.core s.curCore).clocked s.now with
      cyc := v.toNat, cycAt := s.now + ((s.core s.curCore).clocked s.now).period,
      cycBase := ((s.core s.curCore).clocked s.now).cycBase + s.cycles s.curCore + 1 - v.toNat,
      halfTill := v.toNat + (((s.core s.curCore).clocked s.now).halfTill - s.cycles s.curCore) } := by
    refine (State.core_modCore_self _ _ _).trans ?_
    rw [State.core, State.keepCounts_cores]
    rfl
  have hnow : (s.cregWrite s.cur 0x003 v).now = s.now := State.keepCounts_now _ _ _
  rw [State.cycles_written (n := v.toNat)]
  · rw [BitVec.ofNat_add, BitVec.ofNat_toNat, BitVec.setWidth_eq]
    rfl
  · rw [hcore, hnow]; exact Core.clocked_waits _ _
  · rw [hcore]
  · rw [hcore, hnow]; exact Nat.le_add_right _ _

/-! ## Event counters (R353) -/

theorem State.cregWrite_evsel (s : State) (tid : Nat) (v : B64) {i : Nat} (hi : i < 8) : s.cregWrite tid (0x40 + i) v =
    s.setCroft (croftOf (coreOf tid)) { s.croft (croftOf (coreOf tid)) with
      evsel := (s.croft (croftOf (coreOf tid))).evsel.put i (v.setWidth 14)
      evcnt := (s.croft (croftOf (coreOf tid))).evcnt.put i (s.evRead (coreOf tid) i - s.evClock (coreOf tid) (v.setWidth 14)) } := by
  interval_cases i <;> rfl
theorem State.cregRead_evsel (s : State) (tid : Nat) {i : Nat} (hi : i < 8) :
    s.cregRead tid (0x40 + i) = ((s.croft (croftOf (coreOf tid))).evsel.get 0 i).setWidth 64 := by
  interval_cases i <;> rfl
theorem State.cregWrite_evcnt (s : State) (tid : Nat) (v : B64) {i : Nat} (hi : i < 8) : s.cregWrite tid (0x48 + i) v =
    s.setCroft (croftOf (coreOf tid)) { s.croft (croftOf (coreOf tid)) with
      evcnt := (s.croft (croftOf (coreOf tid))).evcnt.put i
        (v - s.evClock (coreOf tid) ((s.croft (croftOf (coreOf tid))).evsel.get 0 i))
      evAt := (s.croft (croftOf (coreOf tid))).evAt.put i s.now } := by
  interval_cases i <;> rfl
theorem State.cregRead_evcnt (s : State) (tid : Nat) {i : Nat} (hi : i < 8) : s.cregRead tid (0x48 + i) = s.evRead (coreOf tid) i := by
  interval_cases i <;> rfl
theorem State.creg_back_evsel (s : State) (v : B64) {i : Nat} (hi : i < 8) :
    (s.cregWrite s.cur (0x40 + i) v).cregRead s.cur (0x40 + i) = (v.setWidth 14).setWidth 64 := by
  rw [State.cregRead_evsel _ _ hi, State.cregWrite_evsel _ _ _ hi, State.croft_setCroft_self, SMap.get_put_self]
/-- What the clock adds does not depend on the counters. -/
theorem State.creg_back_evcnt (s : State) (v : B64) {i : Nat} (hi : i < 8) :
    (s.cregWrite s.cur (0x48 + i) v).cregRead s.cur (0x48 + i) = v := by
  have hclock (x : Croft) (sel : BitVec 14) : (s.setCroft (croftOf (coreOf s.cur)) x).evClock (coreOf s.cur) sel =
      s.evClock (coreOf s.cur) sel := rfl
  rw [State.cregRead_evcnt _ _ hi, State.cregWrite_evcnt _ _ _ hi, State.evRead, State.croft_setCroft_self, hclock, SMap.get_put_self,
    BitVec.sub_add_cancel]

/-! ## Refused values (R25, R199) -/

theorem cregRefuses_iff (n : Nat) (v : B64) : cregRefuses n v = true ↔
    (n = 0x009 ∧ 6 ≤ v.toNat % 8) ∨
    (n = 0x00B ∧ (v.toNat % 256 = 0 ∨ 8 < v.toNat % 256 ∨ v.toNat / 256 % 256 = 0 ∨ 32 < v.toNat / 256 % 256 ∨
      64 < v.toNat % 256 * (v.toNat / 256 % 256))) ∨
    (n = 0x030 ∧ v.toNat % 2 ^ 16 = 0) := by
  unfold cregRefuses
  split
  · simp
  · simp [or_assoc]
  · simp
  · next h1 h2 h3 => simp [show n ≠ 0x009 from h1, show n ≠ 0x00B from h2, show n ≠ 0x030 from h3]

/-- Settles O17: the bodies have one lemma each, a register one line for what it reads back, the refused values one
equivalence. -/
theorem controlRegisters : Obligations.ControlRegisters := by
  unfold Obligations.ControlRegisters
  refine ⟨fun s s1 t d a c v hopen => ?_, fun s v => ?_, fun s s1 d a c v hh => ?_⟩
  · exact ⟨fun hw => exec_crr hopen hw, fun h1 ht => exec_crw hopen h1 ht,
      fun s2 h1 ht hw => congrArg Host.Outcome.next (cregBits_runs hopen h1 ht hw),
      fun s2 h1 ht hw => congrArg Host.Outcome.next (cregBits_runs hopen h1 ht hw)⟩
  · refine ⟨State.creg_back_thread (fun t => { t with fflags := v.setWidth 5 }) (fun t => t.fflags.setWidth 64) rfl (fun _ => rfl),
      State.creg_back_thread (fun t => { t with vrnd := v.setWidth 3 }) (fun t => t.vrnd.setWidth 64) rfl (fun _ => rfl),
      State.creg_back_thread (fun t => { t with srseed := v, gen := seedOf v }) (fun t => t.srseed) rfl (fun _ => rfl),
      State.creg_back_thread (fun t => { t with wshape := v.setWidth 16 }) (fun t => t.wshape.setWidth 64) rfl (fun _ => rfl),
      State.creg_back_thread (fun t => { t with mfmt := v.setWidth 10 }) (fun t => t.mfmt.setWidth 64) rfl (fun _ => rfl),
      State.creg_back_thread (fun t => { t with mkReg := v }) (fun t => t.mkReg) rfl (fun _ => rfl),
      State.creg_back_thread (fun t => { t with mpitcha := v }) (fun t => t.mpitcha) rfl (fun _ => rfl),
      State.creg_back_thread (fun t => { t with mpitchb := v }) (fun t => t.mpitchb) rfl (fun _ => rfl),
      State.creg_back_thread (fun t => { t with msca := v }) (fun t => t.msca) rfl (fun _ => rfl),
      State.creg_back_thread (fun t => { t with mscb := v }) (fun t => t.mscb) rfl (fun _ => rfl),
      State.creg_back_thread (fun t => { t with mscn := v }) (fun t => t.mscn) rfl (fun _ => rfl),
      State.creg_back_thread (fun t => { t with hashk := v }) (fun t => t.hashk) rfl (fun _ => rfl),
      State.creg_back_core (fun c => { c with binbase := v &&& 0x3FFFF#64 }) (fun c => c.binbase) rfl (fun _ => rfl)
        (and_low_bits (k := 18) (by decide) v),
      State.creg_back_core (fun c => { c with bincnt := v &&& 0x7FFFFF#64 }) (fun c => c.bincnt) rfl (fun _ => rfl)
        (and_low_bits (k := 23) (by decide) v), rfl,
      State.creg_back_core (fun c => { c with tvec := tvecAddr v }) (fun c => c.tvec) rfl (fun _ => rfl),
      State.creg_back_thread (fun t => { t with tcause := v &&& 0xE0FF#64 }) (fun t => t.tcause) rfl (fun _ => rfl),
      State.creg_back_thread (fun t => { t with tval := v }) (fun t => t.tval) rfl (fun _ => rfl),
      State.creg_back_thread (fun t => { t with tpc := v &&& 0x000FFFFFFFFFFFFF#64 }) (fun t => t.tpc) rfl (fun _ => rfl)
        (and_low_bits (k := 52) (by decide) v),
      State.creg_back_cycle s v,
      State.creg_back_core (fun c => { c with fill := (v >>> 16).setWidth 16, cap := (v >>> 32).setWidth 16 }) rationReg rfl (fun _ => rfl)
        (ration_fields v _),
      fun i hi => ⟨State.creg_back_evsel s v hi, State.creg_back_evcnt s v hi⟩⟩
  · have hval : c.setWidth 64 = BitVec.ofNat 64 c.toNat := (BitVec.ofNat_toNat ..).symm
    rw [hval]
    refine ⟨fun hl => creg_stops hh (by decide) (cregCheck_unlisted hl), fun hlo hhi hm => creg_stops hh (by decide) (cregCheck_priv ?_ ?_ hm),
      fun hopen h1 hm => ?_⟩
    · simp [cregListed, hlo, hhi]
    · simp [cregPriv, hlo, hhi]
    · intro old refused
      have hiff (w : B64) : cregRefuses c.toNat w = true ↔ refused w := cregRefuses_iff _ w
      refine ⟨fun hr => ?_, fun hr => ?_, fun hr => ?_, hiff⟩
      · refine congrArg Host.Outcome.next (runI_entered hh (by decide) ?_)
        rw [run_bind_ok (cregCheck_runs hopen), run_bind_ok h1, cregPut_refuses hm ((hiff v).2 hr)]
        rfl
      · exact congrArg Host.Outcome.next (runI_entered hh (by decide) (cregBits_refuses hopen h1 hm ((hiff _).2 hr)))
      · exact congrArg Host.Outcome.next (runI_entered hh (by decide) (cregBits_refuses hopen h1 hm ((hiff _).2 hr)))

end Sys2Proof.Machine
end

section
/-! # Lane-wise integer arithmetic (R117 to R121, R130, R131) -/
open Sys2Proof
namespace Sys2Proof.Machine

/-! ## Values and patterns of integer lanes -/

theorem elemBits_lt (w i : Nat) (x : B512) : elemBits w i x < 2 ^ w := Nat.mod_lt _ (Nat.two_pow_pos w)
theorem wrapInt_natCast (w n : Nat) : wrapInt w (n : Int) = n % 2 ^ w := by
  rw [wrapInt, show (2 : Int) ^ w = ((2 ^ w : Nat) : Int) by push_cast; rfl, ← Int.natCast_emod, Int.toNat_natCast]
theorem natCast_wrapInt (w : Nat) (i : Int) : (wrapInt w i : Int) = i % 2 ^ w :=
  Int.toNat_of_nonneg (Int.emod_nonneg _ (by positivity))
theorem wrapInt_wrapInt (w : Nat) (i : Int) : wrapInt w (wrapInt w i : Int) = wrapInt w i := by
  rw [natCast_wrapInt, wrapInt, Int.emod_emod, wrapInt]
/-- A value and its pattern differ by a whole number of turns. -/
theorem wrapInt_intVal (w : Nat) (signed : Bool) (x : Nat) : wrapInt w (intVal w signed x) = x % 2 ^ w := by
  have hx : wrapInt w ((x % 2 ^ w : Nat) : Int) = x % 2 ^ w := by rw [wrapInt_natCast, Nat.mod_mod]
  unfold intVal
  extract_lets v
  split
  · rw [wrapInt, Int.sub_emod_right]
    exact hx
  · exact hx
theorem wrapInt_srcInt (t : Ty) (x : B512) (j : Nat) : wrapInt t.width (srcInt t none x j) = elemBits t.width j x :=
  (wrapInt_intVal _ _ _).trans (Nat.mod_eq_of_lt (elemBits_lt _ _ _))
/-- All ones is the pattern of −1 (R131). -/
theorem wrapInt_neg_one (w : Nat) : wrapInt w (-1) = 2 ^ w - 1 := by
  have h : ((2 ^ w - 1 : Nat) : Int) = 2 ^ w - 1 := by rw [Nat.cast_sub Nat.one_le_two_pow]; push_cast; rfl
  rw [wrapInt, ← Int.add_emod_right, show (-1 : Int) + 2 ^ w = ((2 ^ w - 1 : Nat) : Int) by rw [h]; ring]
  exact (wrapInt_natCast w _).trans (Nat.mod_eq_of_lt (Nat.sub_lt (Nat.two_pow_pos w) Nat.one_pos))

/-! ## Running an integer form -/

/-- The lane operation of an integer form gives, wrapped, the pattern of the exact result `r`. -/
def Exact (fi : IntOp) (t : Ty) (z x y : B512) (r : Nat → Int) : Prop :=
  ∀ j, outPattern noView t (fi t.width (srcInt t none z j) (srcInt t none x j) (srcInt t none y j)) = wrapInt t.width (r j)
/-- An integer form writes the wrapped exact results of its active lanes, whichever operands it reads. -/
theorem arith_int_runs {fi : IntOp} {ff : FltOp} {t : Ty} {m : MReg} {d a : VReg} {b : Option VReg} {readsD : Bool} {dv x y w : B512} {mk : B64}
    {r : Nat → Int} {s s0 s2 s3 u : State} (hf : t.isFloat = false) (hr : Exact fi t dv x y r) (hd : DestFree s m d)
    (hdv : (if readsD then readV d else oldV d).run s = .ok (dv, s0)) (hab : (readAB a b).run s0 = .ok ((x, y), s2)) (hmk : ReadsM s2 m mk s3)
    (hl : IntLanes t t.lanes mk r dv w) (hw : WritesV (s3.flagged s3.me.gen 0) d w u) :
    (laneBody noView t.lanes m d readsD a b (arithLane fi ff noView t)).run s = .ok ((), u) := by
  have hlane (rm : RMode) (acc : LaneAcc) (j : Nat) : arithLane fi ff noView t rm dv x y j acc = acc.putInt t noView j (some (r j)) := by
    rw [arithLane, if_neg (by rw [hf]; decide), LaneAcc.putInt_eq, LaneAcc.putInt_eq]
    exact congrArg (fun p => ({ acc with reg := putElem _ _ p acc.reg } : LaneAcc)) (hr j)
  refine laneBody_runs hd hdv hab hmk ?_ hw
  simp only [hlane]
  exact hl.foldl_eq le_rfl _

/-- Settles O38: each form folds its active lanes, each of which writes the pattern of its exact result. -/
theorem vectorIntegers : Obligations.VectorIntegers := by
  unfold Obligations.VectorIntegers
  intro s s0 s1 s2 s3 u ty m d a b z x y w mk hf hd A B Z sh done
  have pat (j : Nat) (v : B512) : wrapInt ty.width (srcInt ty none v j) = elemBits ty.width j v := wrapInt_srcInt ty v j
  refine ⟨fun h1 h2 h3 => ?_, fun h0 h1 h2 h3 => ?_, fun h1 h2 => ?_⟩
  · have bin {i : Instr} {fi : IntOp} {ff : FltOp} {r : Nat → Int} (hi : exec i s = .next (runI 4 (vBin fi ff false noView ty m d a b) s))
        (hr : Exact fi ty (oldOf s d) x y r) : done s3 (oldOf s d) i r := fun hl hw =>
      hi.trans (next_retire (arith_int_runs hf hr hd hd.oldV (readAB_runs h1 h2) h3 hl hw))
    refine ⟨bin rfl fun j => rfl, bin rfl fun j => rfl, bin rfl fun j => rfl, bin rfl fun j => rfl, bin rfl fun j => ?_, bin rfl fun j => ?_,
      bin rfl fun j => ?_, bin rfl fun j => ?_, bin rfl fun j => ?_, bin rfl fun j => ?_, bin rfl fun j => ?_, bin rfl fun j => ?_,
      bin rfl fun j => ?_⟩
    · exact congrArg (wrapInt _) (min_def _ _).symm
    · exact congrArg (wrapInt _) (max_def' _ _).symm
    · exact congrArg (fun n : Nat => wrapInt _ (n : Int)) (congrArg₂ _ (pat j x) (pat j y))
    · exact congrArg (fun n : Nat => wrapInt _ (n : Int)) (congrArg₂ _ (pat j x) (pat j y))
    · exact congrArg (fun n : Nat => wrapInt _ (n : Int)) (congrArg₂ _ (pat j x) (pat j y))
    · exact (wrapInt_wrapInt _ _).trans (by rw [shiftOf, pat])
    · exact congrArg (fun n : Nat => wrapInt _ (n : Int)) (by rw [shiftOf, pat, pat])
    · exact congrArg (fun n : Nat => wrapInt _ (A j / 2 ^ n)) (by rw [shiftOf, pat])
    · show outPattern noView ty (if B j = 0 then none else some ((A j).tdiv (B j))) = _
      split
      · exact (wrapInt_neg_one _).symm
      · rfl
  · have bin {i : Instr} {fi : IntOp} {ff : FltOp} {r : Nat → Int} (hi : exec i s = .next (runI 4 (vBin fi ff true noView ty m d a b) s))
        (hr : Exact fi ty z x y r) : done s3 z i r := fun hl hw =>
      hi.trans (next_retire (arith_int_runs hf hr hd h0 (readAB_runs h1 h2) h3 hl hw))
    exact ⟨bin rfl fun j => rfl, bin rfl fun j => rfl⟩
  · have un {i : Instr} {fi : IntOp} {ff : FltOp} {r : Nat → Int} (hi : exec i s = .next (runI 4 (vUn fi ff noView ty m d a) s))
        (hr : Exact fi ty (oldOf s d) x 0 r) : done s2 (oldOf s d) i r := fun hl hw =>
      hi.trans (next_retire (arith_int_runs hf hr hd hd.oldV (readA_runs h1) h2 hl hw))
    exact ⟨un rfl fun j => rfl, un rfl fun j => rfl⟩

end Sys2Proof.Machine
end

section
/-! # Conversion, selection and dot product over plain registers (R117, R141 to R143) -/
namespace Sys2Proof

theorem Ty.lanes_le (t : Ty) : t.lanes ≤ 64 := by cases t <;> decide

end Sys2Proof

open Sys2Proof
namespace Sys2Proof.Machine

/-! ## Elements of a register after patterns have been put -/

theorem elemBits_putElems {t : Ty} {j : Nat} (hj : j < t.lanes) (p : Nat → Nat) (l : List Nat) (x : B512) :
    elemBits t.width j (putElems t.width 0 p l x) = if j ∈ l then p j % 2 ^ t.width else elemBits t.width j x := by
  refine Nat.eq_of_testBit_eq fun i => ?_
  have hbit (hi : i < t.width) : (putElems t.width 0 p l x).getLsbD (t.width * j + i) =
      if j ∈ l then (p j).testBit i else x.getLsbD (t.width * j + i) := by
    have hk : t.width * j + i < 512 := by
      have h1 : (j + 1) * t.width ≤ t.lanes * t.width := Nat.mul_le_mul_right _ hj
      rw [t.lanes_width, Nat.succ_mul, Nat.mul_comm j] at h1
      omega
    rw [getLsbD_putElems p l x t.width_pos hk, Nat.mul_add_div t.width_pos, Nat.div_eq_of_lt hi, Nat.mul_add_mod, Nat.mod_eq_of_lt hi]
    simp
  rw [testBit_elemBits]
  by_cases hi : i < t.width
  · rw [decide_eq_true hi, Bool.true_and, hbit hi]
    split
    · rw [Nat.testBit_mod_two_pow, decide_eq_true hi, Bool.true_and]
    · rw [testBit_elemBits, decide_eq_true hi, Bool.true_and]
  · rw [decide_eq_false hi, Bool.false_and]
    split
    · rw [Nat.testBit_mod_two_pow, decide_eq_false hi, Bool.false_and]
    · rw [testBit_elemBits, decide_eq_false hi, Bool.false_and]
theorem elemBits_putElem_ne {t : Ty} {j k : Nat} (hj : j < t.lanes) (h : j ≠ k) (p : Nat) (x : B512) :
    elemBits t.width j (putElem t.width k p x) = elemBits t.width j x := by
  have := elemBits_putElems hj (fun _ => p) [k] x
  rw [if_neg (by simpa using h)] at this
  rwa [putElems, List.foldl_cons, List.foldl_nil, Nat.zero_add] at this

/-! ## Lanes that an instruction does not write -/

/-- The lane function writes, of the register, at most its own lane. -/
def PutsLane (t : Ty) (f : LaneAcc → Nat → LaneAcc) : Prop := ∀ acc j, ∃ p, (f acc j).reg = putElem t.width j p acc.reg
theorem PutsLane.foldl {t : Ty} {f : LaneAcc → Nat → LaneAcc} (h : PutsLane t f) {j : Nat} (hj : j < t.lanes) {l : List Nat} (hl : j ∉ l)
    (acc : LaneAcc) : elemBits t.width j (l.foldl f acc).reg = elemBits t.width j acc.reg := by
  induction l generalizing acc with
  | nil => rfl
  | cons k l ih =>
    obtain ⟨p, hp⟩ := h acc k
    rw [List.mem_cons, not_or] at hl
    rw [List.foldl_cons, ih hl.2, hp, elemBits_putElem_ne hj hl.1]
theorem putInt_putsLane (acc : LaneAcc) (t : Ty) (j : Nat) (x : Option Int) :
    ∃ p, (acc.putInt t noView j x).reg = putElem t.width j p acc.reg :=
  ⟨outPattern noView t x, by rw [LaneAcc.putInt_eq, show outBase noView t = 0 from rfl, Nat.zero_add]; rfl⟩
theorem putRounded_putsLane (acc : LaneAcc) (t : Ty) (j : Nat) (f : Flags) (r : Rounded) :
    ∃ p, (acc.putRounded t noView j f r).reg = putElem t.width j p acc.reg := ⟨r.bits, rfl⟩
theorem cvtLane_putsLane (t st : Ty) (rm : RMode) (d a b : B512) : PutsLane t (fun acc j => cvtLane st noView t rm d a b j acc) := by
  intro acc j
  dsimp only
  cases ht : t.isFloat with
  | false =>
    cases hst : st.isFloat with
    | false => rw [cvtLane_int_int ht hst]; exact putInt_putsLane _ _ _ _
    | true => rw [cvtLane_int_flt ht hst]; exact putRounded_putsLane _ _ _ _ _
  | true =>
    cases hst : st.isFloat with
    | false => rw [cvtLane_flt_int ht hst]; exact putRounded_putsLane _ _ _ _ _
    | true => rw [cvtLane_flt_flt ht hst]; exact putRounded_putsLane _ _ _ _ _
theorem dotLane_putsLane (t : Ty) (rm : RMode) (d a b : B512) : PutsLane t (fun acc j => dotLane noView t rm d a b j acc) := by
  intro acc j
  dsimp only
  cases ht : t.isFloat with
  | false => rw [dotLane_int ht]; exact putInt_putsLane _ _ _ _
  | true => rw [dotLane_flt ht]; exact putRounded_putsLane _ _ _ _ _

/-! ## Running over plain registers -/

theorem readsV_plain {s : State} {r : VReg} (h : plainV s r) : ReadsV s r (s.me.v.get 0 r.val) s := readV_plain h.2 h.1
theorem writesV_plain {s : State} {r : VReg} (v : B512) (h : plainV s r) : WritesV s r v (withV s r v) := writeV_plain h.2 h.1
theorem readsM_zero_or_plain {s : State} {r : MReg} (h : r = 0 ∨ plainM s r) : ReadsM s r (valM s r) s := by
  rcases h with rfl | h
  · exact readM_zero s
  · exact readsM_plain h
theorem plainV.destFree {s : State} {m : MReg} {d : VReg} (h : plainV s d) : DestFree s m d := ⟨h.2, .inl h.1⟩
theorem plainV.oldOf_eq {s : State} {d : VReg} (h : plainV s d) : oldOf s d = s.me.v.get 0 d.val := by rw [oldOf, h.1]; rfl
theorem State.me_flagged (s : State) (g : B64) (f : Flags) : (s.flagged g f).me = { s.me with gen := g, fflags := s.me.fflags ||| f } := by
  simp [State.me, State.flagged]
theorem plainV.flagged {s : State} {r : VReg} (h : plainV s r) (g : B64) (f : Flags) : plainV (s.flagged g f) r := by
  rw [plainV, State.me_flagged]; exact h
theorem State.me_withV (s : State) (d : VReg) (w : B512) : (withV s d w).me = { s.me with v := s.me.v.put d.val w } := by
  simp [State.me, withV]
theorem State.me_retired (s : State) (len : Nat) : (s.retire len).me = { s.me with
    pc := s.me.pc + BitVec.ofNat 64 len, charged := false, phase := .idle, skipped := 0, skipArg := none, holds := [] } := by
  simp [State.me, State.retire]
/-- The instruction goes on to the next, leaves memory, the scalar and mask registers and all vector registers but `d`, and
what it leaves in `d` has the property `P`. -/
def CompletesIn (s : State) (d : VReg) (P : B512 → Prop) (i : Instr) : Prop :=
  ∃ t, exec i s = .next t ∧ t.cur = s.cur ∧ t.me.pc = s.me.pc + 4 ∧ t.me.s = s.me.s ∧ t.me.m = s.me.m ∧ t.mem = s.mem ∧
    (∀ r, r ≠ d.val → t.me.v.get 0 r = s.me.v.get 0 r) ∧ P (t.me.v.get 0 d.val)
theorem CompletesIn.imp {s : State} {d : VReg} {P Q : B512 → Prop} {i : Instr} (h : CompletesIn s d P i) (hPQ : ∀ w, P w → Q w) :
    CompletesIn s d Q i :=
  let ⟨t, hex, hcur, hpc, hs, hm, hmem, hv, hP⟩ := h
  ⟨t, hex, hcur, hpc, hs, hm, hmem, hv, hPQ _ hP⟩
/-- So it is where flags are merged, if any, and a plain register is written. -/
theorem completesIn {s u : State} {d : VReg} {i : Instr} {w : B512} {P : B512 → Prop} (hu : u = s ∨ ∃ g f, u = s.flagged g f) (hP : P w)
    (h : exec i s = .next ((withV u d w).retire 4)) : CompletesIn s d P i := by
  have hme : u.me.pc = s.me.pc ∧ u.me.s = s.me.s ∧ u.me.m = s.me.m ∧ u.me.v = s.me.v ∧ u.cur = s.cur ∧ u.mem = s.mem := by
    rcases hu with rfl | ⟨g, f, rfl⟩
    · exact ⟨rfl, rfl, rfl, rfl, rfl, rfl⟩
    · rw [State.me_flagged]; exact ⟨rfl, rfl, rfl, rfl, rfl, rfl⟩
  obtain ⟨hpc, hs, hm, hv, hcur, hmem⟩ := hme
  refine ⟨_, h, hcur, ?_⟩
  rw [State.me_retired, State.me_withV]
  refine ⟨congrArg (· + 4) hpc, hs, hm, hmem, fun r hr => ?_, ?_⟩
  · exact (SMap.get_put_ne 0 _ w hr).trans (by rw [hv])
  · exact (SMap.get_put_self 0 _ d.val w).symm ▸ hP
/-- A lane-wise form over plain registers completes, and leaves the lanes it does not write as they were. -/
theorem laneBody_completesIn {t : Ty} {n : Nat} {m : MReg} {d a : VReg} {b : Option VReg} {readsD : Bool} {y : B512} {s : State} {i : Instr}
    {f : RMode → B512 → B512 → B512 → Nat → LaneAcc → LaneAcc} (hd : plainV s d)
    (hab : (readAB a b).run s = .ok ((s.me.v.get 0 a.val, y), s)) (hm : m = 0 ∨ plainM s m)
    (hf : ∀ rm x y z, PutsLane t (fun acc j => f rm x y z j acc)) (hi : exec i s = .next (runI 4 (laneBody noView n m d readsD a b f) s)) :
    CompletesIn s d (fun w => ∀ j < t.lanes, n ≤ j ∨ ¬ (m = 0 ∨ (valM s m).getLsbD j = true) →
      elemBits t.width j w = elemBits t.width j (oldOf s d)) i := by
  have hdv : (if readsD then readV d else oldV d).run s = .ok (oldOf s d, s) := by
    cases readsD with
    | false => exact hd.destFree (m := m).oldV
    | true => rw [hd.oldOf_eq]; exact readsV_plain hd
  have hrun := laneBody_runs (hd.destFree) hdv hab (readsM_zero_or_plain hm) (f := f) (n := n) rfl (writesV_plain _ (hd.flagged _ _))
  refine completesIn (.inr ⟨_, _, rfl⟩) (fun j hj hoff => ?_) (hi.trans (next_retire hrun))
  refine (hf _ _ _ _).foldl hj (fun hmem => ?_) _
  rw [mem_activeLanes] at hmem
  exact hoff.elim (Nat.not_le.2 hmem.1) (fun h => h (.inr hmem.2))

/-- Settles O59: a conversion and a dot product write only their active lanes, a selection every lane from one of its sources. -/
theorem convertSelectDotComplete : Obligations.ConvertSelectDotComplete := by
  unfold Obligations.ConvertSelectDotComplete
  intro s ty st m d a b hd ha hb hm on completes
  have hab : (readAB a (some b)).run s = .ok ((s.me.v.get 0 a.val, s.me.v.get 0 b.val), s) := readAB_runs (readsV_plain ha) (readsV_plain hb)
  have states (i : Instr) (P : B512 → Prop) : CompletesIn s d P i → completes i P := id
  clear_value completes
  refine ⟨?_, ?_, fun ht => ?_⟩
  · have hcvt := laneBody_completesIn (n := min ty.lanes st.lanes) (readsD := false) hd (readA_runs (readsV_plain ha)) hm (cvtLane_putsLane ty st)
      (i := .vcvt ty st m d a) rfl
    refine states _ _ ?_
    exact hcvt.imp fun w hP j hj hoff => hP j hj (hoff.imp_left (le_trans (min_le_right _ _)))
  · let pick (j : Nat) : B512 := if (valM s m).getLsbD j then s.me.v.get 0 a.val else s.me.v.get 0 b.val
    let w : B512 := putElems ty.width 0 (fun j => elemBits ty.width j (pick j)) (List.range ty.lanes) 0
    have hw (j : Nat) (hj : j < ty.lanes) : elemBits ty.width j w = elemBits ty.width j (pick j) := by
      rw [elemBits_putElems hj, if_pos (List.mem_range.2 hj), Nat.mod_eq_of_lt (elemBits_lt _ _ _)]
    have hon (j : Nat) (hj : j < ty.lanes) : on j ↔ (valM s m).getLsbD j = true := by
      refine ⟨fun h => h.elim (fun h0 => ?_) id, .inr⟩
      rw [valM, if_pos h0, BitVec.getLsbD_allOnes]
      exact decide_eq_true (hj.trans_le ty.lanes_le)
    have hrun := vSel_runs hd.destFree (readsV_plain ha) (readsV_plain hb) (readsM_zero_or_plain hm) hw (writesV_plain w hd)
    refine states _ _ ?_
    refine completesIn (w := w) (.inl rfl) (fun j hj => ⟨fun h => ?_, fun h => ?_⟩) (next_retire hrun :)
    · rw [hw j hj]
      exact congrArg _ (if_pos ((hon j hj).1 h))
    · rw [hw j hj]
      exact congrArg _ (if_neg (mt (hon j hj).2 h))
  · obtain ⟨h, hhalf⟩ : ∃ h, dotHalf ty = some h := by rcases ht with rfl | rfl | rfl | rfl <;> exact ⟨_, rfl⟩
    have hdot := laneBody_completesIn (n := ty.lanes) (readsD := true) hd hab hm (dotLane_putsLane ty) (exec_vdot_of_some hhalf m d a b s)
    refine states _ _ ?_
    exact hdot.imp fun w hP j hj hoff => hP j hj (.inr hoff)

end Sys2Proof.Machine
end

section
/-! # Permutes, compares and mask forms (R136, R139, R140) -/
open Sys2Proof
namespace Sys2Proof.Machine

/-! ## Permutes -/

/-- Copied lanes, put into the old register one by one, leave the register described. -/
theorem CopyLanes.copyLanes_eq {t : Ty} {mk : B64} {f : Nat → Nat} {old new : B512} (h : CopyLanes t mk f old new) :
    copyLanes t mk f old = new := by
  have hput : putElems t.width 0 f (activeLanes t.lanes mk) old = new := by
    refine putElems_lanes (fun j hj => (mem_activeLanes.1 hj).1) fun j hj => ?_
    rw [h j hj]
    exact if_congr (by rw [mem_activeLanes, and_iff_right hj]) rfl rfl
  rw [← hput]
  simp only [copyLanes, putElems, Nat.zero_add]
theorem writes_copyLanes {t : Ty} {mk : B64} {f : Nat → Nat} {old w : B512} {d : VReg} {s u : State} (h : CopyLanes t mk f old w)
    (hw : WritesV s d w u) : (writeV d (copyLanes t mk f old)).run s = .ok ((), u) := by rw [h.copyLanes_eq]; exact hw
/-- One lane of a register is replaced. -/
theorem putElem_eq {t : Ty} {k p : Nat} {old new : B512} (hk : k < t.lanes)
    (h : ∀ j < t.lanes, elemBits t.width j new = if j = k then p else elemBits t.width j old) : putElem t.width k p old = new := by
  have hput := putElems_lanes (p := fun _ => p) (l := [k]) (old := old) (new := new) (by simpa using hk) (by simpa using h)
  rwa [putElems, List.foldl_cons, List.foldl_nil, Nat.zero_add] at hput
theorem laneIndex_lt (t : Ty) (n : Nat) : laneIndex t n < t.lanes := Nat.mod_lt _ (by cases t <;> decide)
/-- A lane as a scalar register holds it: its bits for a floating type, else its value (R136). -/
theorem laneToS_eq (t : Ty) (x : B512) (j : Nat) :
    laneToS t (elemBits t.width j x) = if t.isFloat then BitVec.ofNat 64 (elemBits t.width j x) else BitVec.ofInt 64 (srcInt t none x j) := by
  cases hf : t.isFloat with
  | true => simp [laneToS, hf]
  | false =>
    cases hs : tySigned t with
    | true => simp [laneToS, hf, hs, srcInt]
    | false =>
      have hv : srcInt t none x j = (elemBits t.width j x : Int) := by
        simp [srcInt, intVal, hs, Nat.mod_eq_of_lt (elemBits_lt t.width j x)]
      simp [laneToS, hs, hv]

/-! ## Compares -/

theorem getLsbD_foldl_setBit {p : Nat → Bool} (l : List Nat) (a : B64) {k : Nat} (hk : k < 64) :
    (l.foldl (fun (acc : B64) j => if p j then acc ||| (1#64 <<< j) else acc) a).getLsbD k = (a.getLsbD k || (decide (k ∈ l) && p k)) := by
  induction l generalizing a with
  | nil => simp
  | cons j l ih =>
    have hstep : (if p j then a ||| (1#64 <<< j) else a).getLsbD k = (a.getLsbD k || (decide (k = j) && p k)) := by
      have hbit : (1#64 <<< j).getLsbD k = decide (k = j) := by
        rw [BitVec.getLsbD_shiftLeft, BitVec.getLsbD_one, decide_eq_true hk, Bool.true_and]
        by_cases hkj : k = j
        · simp [hkj]
        · by_cases hlt : k < j
          · simp [hkj, hlt]
          · simp [hkj, show ¬ k - j = 0 by omega]
      split
      · next hp =>
        rw [BitVec.getLsbD_or, hbit]
        by_cases hkj : k = j
        · simp [hkj, hp]
        · simp [hkj]
      · next hp =>
        by_cases hkj : k = j
        · simp [hkj, hp]
        · simp [hkj]
    rw [List.foldl_cons, ih, hstep, Bool.or_assoc, ← Bool.and_or_distrib_right, ← Bool.decide_or]
    simp only [List.mem_cons]
/-- A compare sets the bits of the active lanes whose order is one the condition takes. -/
theorem cmpMask_eq {c : Cmp} {t : Ty} {mk r : B64} {order : Nat → Option Int}
    (h : ∀ j < 64, r.getLsbD j = (decide (j < t.lanes) && mk.getLsbD j && cmpHolds c (order j))) :
    (activeLanes t.lanes mk).foldl (fun (acc : B64) j => if cmpHolds c (order j) then acc ||| (1#64 <<< j) else acc) 0 = r := by
  refine BitVec.eq_of_getLsbD_eq fun k hk => ?_
  rw [getLsbD_foldl_setBit _ _ hk, h k hk]
  simp [mem_activeLanes, Bool.decide_and]
theorem orFlags_runs (f : Flags) (s : State) : (orFlags f).run s = .ok ((), s.flagged s.me.gen f) := by
  rw [orFlags, run_modThr]
  exact congrArg (fun u => Except.ok ((), u)) (State.modThread_congr rfl)
theorem vCmp_runs {c : Cmp} {t : Ty} {m d : MReg} {a b : VReg} {x y : B512} {mk r : B64} {s s1 s2 s3 u : State} (h1 : ReadsV s a x s1)
    (h2 : ReadsV s1 b y s2) (h3 : ReadsM s2 m mk s3)
    (hr : ∀ j < 64, r.getLsbD j = (decide (j < t.lanes) && mk.getLsbD j && cmpHolds c (laneOrder noView t x y j)))
    (hw : WritesM (if ∃ j < t.lanes, mk.getLsbD j = true ∧ laneOrder noView t x y j = none then s3.flagged s3.me.gen flagNV else s3) d r u) :
    (vCmp noView c t m d a b).run s = .ok ((), u) := by
  have hany : (activeLanes t.lanes mk).any (fun j => (laneOrder noView t x y j).isNone) = true ↔
      ∃ j < t.lanes, mk.getLsbD j = true ∧ laneOrder noView t x y j = none := by
    simp [List.any_eq_true, mem_activeLanes, and_assoc]
  rw [vCmp, run_bind_ok (readAB_runs h1 h2), run_bind_ok h3]
  simp only [cmpMask_eq hr]
  by_cases hnan : ∃ j < t.lanes, mk.getLsbD j = true ∧ laneOrder noView t x y j = none
  · rw [if_pos hnan] at hw
    rw [if_pos (hany.2 hnan), run_bind_ok (orFlags_runs _ _)]
    exact hw
  · rw [if_neg hnan] at hw
    rw [if_neg (mt hany.1 hnan)]
    exact hw

/-! ## Masks -/

theorem maskBin_runs {f : B64 → B64 → B64} {d a b : MReg} {x y : B64} {s s1 s2 u : State} (h1 : ReadsM s a x s1) (h2 : ReadsM s1 b y s2)
    (hw : WritesM s2 d (f x y) u) : (maskBin f d a b).run s = .ok ((), u) := by
  rw [maskBin, run_bind_ok h1, run_bind_ok h2]
  exact hw
theorem maskCount_runs {f : B64 → Nat} {m : MReg} {d : SReg} {a : MReg} {x mk : B64} {s s1 s2 u : State} (h1 : ReadsM s a x s1)
    (h2 : ReadsM s1 m mk s2) (hw : Writes s2 d (BitVec.ofNat 64 (f (x &&& mk))) u) : (maskCount f m d a).run s = .ok ((), u) := by
  rw [maskCount, run_bind_ok h1, run_bind_ok h2]
  exact hw
/-- The first number below `n` with a property heads the list of those that have it. -/
theorem headD_filter_range {p : Nat → Bool} {k n : Nat} (d : Nat) (hk : k < n) (hp : p k = true) (hlow : ∀ i < k, p i = false) :
    ((List.range n).filter p).headD d = k := by
  have hfront : (List.range k).filter p = [] :=
    List.filter_eq_nil_iff.2 fun i hi => by rw [hlow i (List.mem_range.1 hi)]; decide
  rw [show n = k + (n - k - 1 + 1) by omega, List.range_add, List.filter_append, hfront, List.nil_append, List.range_succ_eq_map,
    List.map_cons, Nat.add_zero, List.filter_cons_of_pos hp]
  rfl
/-- The first bit set, 64 with none (R140). -/
theorem activeLanes_headD {x : B64} {k : Nat}
    (h : if x = 0 then k = 64 else k < 64 ∧ x.getLsbD k = true ∧ ∀ i < k, x.getLsbD i = false) : (activeLanes 64 x).headD 64 = k := by
  split at h
  · next h0 => rw [h0, h]; rfl
  · obtain ⟨hk, hbit, hlow⟩ := h
    exact headD_filter_range 64 hk hbit hlow

/-- Settles O41: the lanes or bits that each form leaves, and the forms run to their end. -/
theorem vectorPermutes : Obligations.VectorPermutes := by
  unfold Obligations.VectorPermutes
  refine ⟨?_, ?_, fun s s1 s2 u d a b m e x y mk h1 => ?_⟩
  · intro s s1 s2 s3 u ty m d a b p q e x y w old v n mk L
    refine ⟨fun hd => ⟨fun h1 h2 h3 hl hw => next_retire ?_, fun h1 h2 hl hw => next_retire ?_, fun h1 h2 h3 hl hw => next_retire ?_⟩,
      fun h1 h2 hw => next_retire ?_, fun h1 h2 h3 hl hw => next_retire ?_⟩
    · rw [run_bind_ok hd.destOk, run_bind_ok hd.oldV, run_bind_ok h1, run_bind_ok h2, run_bind_ok h3]
      exact writes_copyLanes hl hw
    · rw [run_bind_ok hd.destOk, run_bind_ok hd.oldV, run_bind_ok h1, run_bind_ok h2]
      exact writes_copyLanes hl hw
    · rw [run_bind_ok hd.destOk, run_bind_ok hd.oldV, run_bind_ok h1, run_bind_ok h2, run_bind_ok h3]
      exact writes_copyLanes hl hw
    · rw [run_bind_ok h1, run_bind_ok h2, laneToS_eq]
      exact hw
    · rw [run_bind_ok h1, run_bind_ok h2, run_bind_ok h3, putElem_eq (laneIndex_lt ty n.toNat) hl]
      exact hw
  · intro s s1 s2 s3 u c ty m d a b x y mk r h1 h2 h3 order holds hr hw
    have hholds (o : Option Int) : holds o = cmpHolds c o := by
      cases o <;> cases c <;> rfl
    refine next_retire (vCmp_runs h1 h2 h3 (fun j hj => ?_) hw)
    rw [hr j hj, hholds]
    rfl
  · refine ⟨fun h2 => ⟨fun hw => next_retire (maskBin_runs h1 h2 hw), fun hw => next_retire (maskBin_runs h1 h2 hw),
      fun hw => next_retire (maskBin_runs h1 h2 hw)⟩, fun hw => next_retire ?_, fun h2 => ⟨fun hw => next_retire ?_, fun k hk hw => next_retire ?_⟩⟩
    · rw [run_bind_ok h1]
      exact hw
    · refine maskCount_runs h1 h2 ?_
      rwa [activeLanes, ← List.countP_eq_length_filter]
    · refine maskCount_runs h1 h2 ?_
      rwa [activeLanes_headD hk]

end Sys2Proof.Machine
end

section
/-! # Special-function requests, their service and their result (R133 to R135) -/
open Sys2Proof
namespace Sys2Proof.Machine

/-! ## The queue of a croft -/

theorem State.croft_modCroft_self (s : State) (k : Nat) (f : Croft → Croft) : (s.modCroft k f).croft k = f (s.croft k) :=
  SMap.get_put_self _ _ _ _
/-- The events a croft counts are no requests. -/
theorem State.sfu_count (s : State) (core slot src n k : Nat) : ((s.count core slot src n).croft k).sfu = (s.croft k).sfu := by
  unfold State.count
  extract_lets cr hit cnt
  split
  · by_cases hk : k = croftOf core
    · subst hk; rw [State.croft_setCroft_self]
    · exact congrArg Croft.sfu (SMap.get_put_ne _ _ _ hk)
  · rfl

/-! ## Issue (R134) -/

/-- The bits written are those of the active lanes. -/
theorem elemBits_writtenBits {t : Ty} {mk : B64} {j : Nat} (hj : j < t.lanes) :
    elemBits t.width j (writtenBits noView t (activeLanes t.lanes mk)) = if mk.getLsbD j = true then 2 ^ t.width - 1 else 0 := by
  have hw : writtenBits noView t (activeLanes t.lanes mk) = putElems t.width 0 (fun _ => 2 ^ t.width - 1) (activeLanes t.lanes mk) 0 := by
    simp only [putElems, Nat.zero_add]
    rfl
  rw [hw, elemBits_putElems hj]
  have hones : (2 ^ t.width - 1) % 2 ^ t.width = 2 ^ t.width - 1 := Nat.mod_eq_of_lt (Nat.sub_lt (Nat.two_pow_pos _) Nat.one_pos)
  have hzero : elemBits t.width j 0 = 0 := Nat.eq_of_testBit_eq fun i => by simp [testBit_elemBits]
  simp only [hones, hzero, mem_activeLanes, hj, true_and]
theorem notPort_runs {key : Nat} {s : State} (h : s.me.ports.get? key = none) : (notPort key).run s = .ok ((), s) := by
  rw [notPort, run_bind_ok (run_thr s)]
  rw [State.me] at h
  rw [h]
  rfl
/-- The request that an instruction of the current thread of `s` issues. -/
def State.sfuReq (s : State) (t : Ty) (mk : B64) (d : VReg) (w : B512) (fl : Flags) : SfuReq :=
  ⟨s.sq.nextId, s.cur, s.me.act, d.val, w, writtenBits noView t (activeLanes t.lanes mk), fl, false⟩
/-- The request has joined the queue of its croft, which counts it. -/
def State.sfuQueued (s : State) (q : SfuReq) : State :=
  (({ s with sq := { s.sq with nextId := s.sq.nextId + 1 } } : State).modCroft (croftOf s.curCore)
    (fun c => { c with sfu := c.sfu ++ [q] })).count s.curCore (slotOf s.cur) 8 1
/-- Its destination and the flags are pending. -/
def State.sfuIssued (s : State) (q : SfuReq) (g : B64) : State :=
  (s.sfuQueued q).modThread s.cur (fun t => { t with gen := g, pend := t.pend ++ [⟨.v, q.d, q.op⟩, ⟨.fflags, 0, q.op⟩] })
theorem State.sfuQueued_cur (s : State) (q : SfuReq) : (s.sfuQueued q).cur = s.cur := by
  show (s.sfuQueued q).rest.cur = s.cur
  rw [State.sfuQueued, rest_count]
  rfl
theorem State.sfuQueued_thread (s : State) (q : SfuReq) (k : Nat) : (s.sfuQueued q).thread k = s.thread k := by
  rw [State.thread, State.sfuQueued, threads_of_rest (rest_count _ _ _ _ _)]
  rfl
/-- A mask register is read without a change of the state. -/
theorem ReadsM.state_eq {s t : State} {m : MReg} {mk : B64} (h : ReadsM s m mk t) : t = s := by
  unfold ReadsM readM at h
  split at h
  · cases h; rfl
  · obtain ⟨_, u, hset, hrest⟩ := run_bind_eq_ok h
    have hu : u = s := by
      unfold settled at hset
      rw [run_bind_ok (run_thr s)] at hset
      split at hset
      · cases hset
      · cases hset; rfl
    rw [run_bind_ok (run_thr u)] at hrest
    cases hrest
    exact hu
theorem lanesOf_runs {n : Nat} {m : MReg} {d a : VReg} {f : RMode → B512 → B512 → B512 → Nat → LaneAcc → LaneAcc} {x : B512} {mk : B64}
    {r : LaneAcc} {s s1 s2 : State} (hd : plainV s d) (h1 : ReadsV s a x s1) (h2 : ReadsM s1 m mk s2)
    (hr : (activeLanes n mk).foldl (fun acc j => f (vrndMode s2.me.vrnd) (oldOf s d) x 0 j acc) ⟨oldOf s d, 0, s2.me.gen⟩ = r) :
    (lanesOf noView n m d false a none f).run s = .ok (r, s2) := by
  rw [lanesOf, if_neg Bool.false_ne_true, run_bind_ok (oldV_runs hd.2), run_bind_ok (readA_runs h1), run_bind_ok h2,
    run_bind_ok (elemMode_noView_runs s2), run_bind_ok (genOf_runs s2)]
  exact congrArg (fun r => Except.ok (r, s2)) hr
theorem specBody_runs {f : FV → FV × Flags} {t : Ty} {m : MReg} {d a : VReg} {x w : B512} {mk g : B64} {fl : Flags} {s s1 s2 : State}
    (hd : plainV s d) (hroom : s.sfuRoom s.curCore = true) (h1 : ReadsV s a x s1) (h2 : ReadsM s1 m mk s2)
    (hl : FltLanes t mk (vrndMode s2.me.vrnd) (fun j => f (srcFlt t none x j)) (oldOf s d) w s2.me.gen g fl) :
    (specBody f noView t m d a).run s = .ok ((), s2.sfuIssued (s2.sfuReq t mk d w fl) g) := by
  have hlanes : (lanesOf noView t.lanes m d false a none
      (fun rm _ x _ j acc => acc.putFlt t noView rm j (f (srcFlt t noView.av x j)))).run s = .ok (⟨w, fl, g⟩, s2) :=
    lanesOf_runs hd h1 h2 hl.foldl_eq
  have hagain : (readM m).run s2 = .ok (mk, s2) := by
    have h := h2
    rw [h2.state_eq] at h ⊢
    exact h
  rw [specBody, run_bind_ok (notPort_runs hd.1), run_bind_ok (run_get s)]
  simp only [hroom, Bool.not_true, Bool.false_eq_true, if_false]
  rw [run_bind_ok hlanes, run_bind_ok hagain, run_bind_ok (run_get s2), run_bind_ok (run_set _ _), run_modThr]
  show Except.ok ((), (s2.sfuQueued (s2.sfuReq t mk d w fl)).modThread (s2.sfuQueued (s2.sfuReq t mk d w fl)).cur _) = _
  rw [State.sfuQueued_cur]
  rfl
/-- A full queue makes the instruction wait (R134). -/
theorem specBody_waits {f : FV → FV × Flags} {t : Ty} {m : MReg} {d a : VReg} {s : State} (hport : s.me.ports.get? d.val = none)
    (hroom : s.sfuRoom s.curCore = false) : (specBody f noView t m d a).run s = .error (.stall .sfuQueue) := by
  rw [specBody, run_bind_ok (notPort_runs hport), run_bind_ok (run_get s)]
  simp only [hroom]
  rfl
theorem State.sfu_sfuIssued (s : State) (q : SfuReq) (g : B64) (len : Nat) :
    (((s.sfuIssued q g).retire len).croft (croftOf s.curCore)).sfu = (s.croft (croftOf s.curCore)).sfu ++ [q] := by
  show ((s.sfuQueued q).croft (croftOf s.curCore)).sfu = _
  rw [State.sfuQueued, State.sfu_count, State.croft_modCroft_self]
  rfl
theorem State.me_sfuIssued (s : State) (q : SfuReq) (g : B64) :
    (s.sfuIssued q g).me = { s.me with gen := g, pend := s.me.pend ++ [⟨.v, q.d, q.op⟩, ⟨.fflags, 0, q.op⟩] } := by
  have hcur : (s.sfuIssued q g).cur = s.cur := s.sfuQueued_cur q
  rw [State.me, hcur, State.sfuIssued, State.thread_modThread_self, State.sfuQueued_thread]
  rfl

/-! ## Service and result (R134, R135) -/

theorem serveFirst_cons {q : SfuReq} (h : q.served = false) (qs : List SfuReq) : serveFirst (q :: qs) = { q with served := true } :: qs := by
  rw [serveFirst, h]
  rfl
section
variable {s : State} {c : Nat} {q : SfuReq} {qs : List SfuReq}

theorem execSfuRequestService_serves (hrun : s.croftStopped c = false) (hq : (s.croft c).sfu = q :: qs) (h : q.served = false) :
    execSfuRequestService c s = .next (s.modCroft c (fun k => { k with sfu := serveFirst k.sfu })) := by
  rw [execSfuRequestService, hrun, hq, List.find?_cons_of_pos (by rw [h]; rfl)]
  rfl
/-- The result of a request that has left the queue (R135). -/
theorem execSfuResultWrite_served (hrun : s.croftStopped c = false) (hq : (s.croft c).sfu = q :: qs) (h : q.served = true) :
    execSfuResultWrite c s = .next (if (s.thread q.tid).act = q.act then
      (s.modCroft c (fun k => { k with sfu := qs })).setThread q.tid { s.thread q.tid with
        v := (s.thread q.tid).v.put q.d (((s.thread q.tid).v.get 0 q.d &&& ~~~q.wmask) ||| (q.val &&& q.wmask))
        fflags := (s.thread q.tid).fflags ||| q.flags
        pend := (s.thread q.tid).pend.filter (fun p => p.op != q.op) }
      else s.modCroft c (fun k => { k with sfu := qs })) := by
  have hth : (s.modCroft c (fun k => { k with sfu := qs })).thread q.tid = s.thread q.tid := rfl
  rw [execSfuResultWrite, hrun, hq]
  simp only [h, Bool.not_true, Bool.false_eq_true, if_false, hth]
  by_cases hact : (s.thread q.tid).act = q.act
  · rw [if_neg (by simp [hact]), if_pos hact]
  · rw [if_pos (by simpa using hact), if_neg hact]
end

/-- Settles O40: the body of a special-function form runs to the issue of its request or waits; the unit's steps take the
oldest request. -/
theorem specialFunctions : Obligations.SpecialFunctions := by
  unfold Obligations.SpecialFunctions
  refine ⟨?_, ?_, ?_⟩
  · intro s s1 s2 ty m d a x w mk g fl hd hroom h1 h2 rm issues
    have issued {i : Instr} {f : FV → FV × Flags} (hi : exec i s = .next (runI 4 (specBody f noView ty m d a) s)) : issues i f := by
      intro hl
      refine ⟨_, s2.sfuReq ty mk d w fl, hi.trans (next_retire (specBody_runs hd hroom h1 h2 hl)), State.sfu_sfuIssued _ _ _ _,
        rfl, rfl, rfl, rfl, rfl, rfl, fun j hj => elemBits_writtenBits hj, ?_⟩
      rw [State.me_retired, State.me_sfuIssued]
      exact ⟨rfl, rfl, rfl, ⟨_, List.mem_append_right _ (List.mem_cons_self ..), rfl, rfl, rfl⟩,
        ⟨_, List.mem_append_right _ (List.mem_cons_of_mem _ (List.mem_cons_self ..)), rfl, rfl⟩⟩
    exact ⟨issued rfl, issued rfl, issued rfl, issued rfl, issued rfl, issued rfl⟩
  · intro s ty m d a hport hroom waits
    have stalls {i : Instr} {f : FV → FV × Flags} (hi : exec i s = .next (runI 4 (specBody f noView ty m d a) s)) : waits i :=
      hi.trans (congrArg _ (runI_stall (specBody_waits hport hroom)))
    exact ⟨stalls rfl, stalls rfl, stalls rfl, stalls rfl, stalls rfl, stalls rfl⟩
  · intro s c q qs hrun hq
    refine ⟨fun h => ⟨_, execSfuRequestService_serves hrun hq h, ?_⟩, fun h hact => ⟨_, execSfuResultWrite_served hrun hq h, ?_⟩,
      fun h hact => ⟨_, execSfuResultWrite_served hrun hq h, ?_⟩⟩
    · rw [State.croft_modCroft_self, hq]
      exact serveFirst_cons h qs
    · rw [if_neg hact, State.croft_modCroft_self]
      exact ⟨rfl, rfl⟩
    · rw [if_pos hact, State.thread_setThread_self]
      refine ⟨?_, SMap.get_put_self _ _ _ _, rfl, fun p hp => ?_⟩
      · show ((s.modCroft c (fun k => { k with sfu := qs })).croft c).sfu = qs
        rw [State.croft_modCroft_self]
      · simpa using (List.mem_filter.1 hp).2

end Sys2Proof.Machine
end

section
/-! # The frame of the vector forms (R117) -/
open Sys2Proof
namespace Sys2Proof.Machine

/-! ## What a vector form may change -/

theorem SameButVector.refl (x : Thread) : SameButVector x x := by simp [SameButVector]
theorem SameButVector.trans {x y z : Thread} (h1 : SameButVector x y) (h2 : SameButVector y z) : SameButVector x z := by
  unfold SameButVector at *
  simp only [h1, h2, and_self]
/-- The registers of a slot that a vector form with destination `d` leaves alone, the trap registers aside; `here` says that the
slot is the one that runs it. -/
def VecBut (d : VReg) (here : Prop) (x y : Thread) : Prop :=
  SameButVector x y ∧ ∀ r, ¬here ∨ r ≠ d.val → y.v.get 0 r = x.v.get 0 r
theorem VecBut.refl (d : VReg) (here : Prop) (x : Thread) : VecBut d here x x := ⟨.refl x, fun _ _ => rfl⟩
theorem VecBut.trans {d : VReg} {here : Prop} {x y z : Thread} (h1 : VecBut d here x y) (h2 : VecBut d here y z) : VecBut d here x z :=
  ⟨h1.1.trans h2.1, fun r hr => (h2.2 r hr).trans (h1.2 r hr)⟩
/-- The registers of every slot that a vector form with destination `d` leaves alone. -/
def VecSlots (d : VReg) (s t : State) : Prop :=
  ∀ k, VecBut d (k = s.cur) (s.thread k) (t.thread k) ∧ SameTrap (s.thread k) (t.thread k)
theorem VecSlots.refl (d : VReg) (s : State) : VecSlots d s s := fun _ => ⟨.refl _ _ _, .refl _⟩
theorem VecSlots.trans {d : VReg} {s t u : State} (hc : t.cur = s.cur) (h1 : VecSlots d s t) (h2 : VecSlots d t u) : VecSlots d s u := by
  intro k
  obtain ⟨hb, ht⟩ := h2 k
  rw [hc] at hb
  exact ⟨(h1 k).1.trans hb, (h1 k).2.trans ht⟩
theorem VecSlots.of_threads {d : VReg} {s t : State} (h : t.threads = s.threads) : VecSlots d s t := by
  intro k
  rw [show t.thread k = s.thread k by unfold State.thread; rw [h]]
  exact VecSlots.refl d s k
theorem VecSlots.setThread {d : VReg} {s : State} (k : Nat) (x : Thread) (h : VecBut d (k = s.cur) (s.thread k) x)
    (ht : SameTrap (s.thread k) x) : VecSlots d s (s.setThread k x) := by
  intro j
  by_cases hj : j = k
  · subst hj; rw [State.thread_setThread_self]; exact ⟨h, ht⟩
  · rw [State.thread_setThread_ne s x hj]; exact VecSlots.refl d s j
/-- A core's trap vector and its queue of `ksend`s are the same. -/
def SameTvec (x y : Core) : Prop := y.tvec = x.tvec ∧ y.ksq = x.ksq

/-- What a vector form with destination `d` that does not load leaves alone, whatever its operands are bound to. -/
structure VecKeeps (d : VReg) (s t : State) : Prop where
  mem : t.mem = s.mem
  stores : t.stores = s.stores
  upd : t.upd = s.upd
  now : t.now = s.now
  cur : t.cur = s.cur
  fleet : t.fleet = s.fleet
  slots : VecSlots d s t
  core : ∀ c, SameTvec (s.core c) (t.core c)

namespace VecKeeps
variable {d : VReg} {s t u : State}

theorem refl (d : VReg) (s : State) : VecKeeps d s s := ⟨rfl, rfl, rfl, rfl, rfl, rfl, .refl d s, fun _ => ⟨rfl, rfl⟩⟩
theorem trans (h1 : VecKeeps d s t) (h2 : VecKeeps d t u) : VecKeeps d s u where
  mem := h2.mem.trans h1.mem
  stores := h2.stores.trans h1.stores
  upd := h2.upd.trans h1.upd
  now := h2.now.trans h1.now
  cur := h2.cur.trans h1.cur
  fleet := h2.fleet.trans h1.fleet
  slots := h1.slots.trans h1.cur h2.slots
  core c := ⟨(h2.core c).1.trans (h1.core c).1, (h2.core c).2.trans (h1.core c).2⟩
/-- One slot changes, in what the frame does not name. -/
theorem setThread (k : Nat) (x : Thread) (h : VecBut d (k = s.cur) (s.thread k) x) (ht : SameTrap (s.thread k) x) :
    VecKeeps d s (s.setThread k x) :=
  ⟨rfl, rfl, rfl, rfl, rfl, rfl, .setThread k x h ht, fun _ => ⟨rfl, rfl⟩⟩
/-- One core changes, in what the frame does not name. -/
theorem setCore (k : Nat) (x : Core) (h : SameTvec (s.core k) x) : VecKeeps d s (s.setCore k x) := by
  refine ⟨rfl, rfl, rfl, rfl, rfl, rfl, .of_threads rfl, fun j => ?_⟩
  by_cases hj : j = k
  · subst hj; rwa [State.core_setCore_self]
  · rw [State.core_setCore_ne s x hj]; exact ⟨rfl, rfl⟩
theorem ite {c : Prop} [Decidable c] (h1 : VecKeeps d s t) (h2 : VecKeeps d s u) : VecKeeps d s (if c then t else u) := by
  split
  · exact h1
  · exact h2
theorem foldl {α : Type} {f : State → α → State} (h : ∀ s a, VecKeeps d s (f s a)) (l : List α) (s : State) :
    VecKeeps d s (l.foldl f s) := by
  induction l generalizing s with
  | nil => exact .refl d s
  | cons a l ih => exact (h s a).trans (ih _)
theorem retire (len : Nat) : VecKeeps d s (s.retire len) := setThread _ _ (.refl d _ (s.thread s.cur)) (.refl (s.thread s.cur))
theorem leftReady (tid : Nat) : VecKeeps d s (s.leftReady tid) :=
  foldl (fun v k => by
    extract_lets x
    refine ite (setThread _ _ ?_ ?_) (.refl d v)
    · exact .refl d _ x
    · exact .refl x) _ s
/-- The slot stalls: its state changes, and which slots rank behind it. -/
theorem stallCur (w : Wait) : VecKeeps d s (s.stallCur w) := by
  have hst : VecKeeps d s (s.modThread s.cur (fun t => { t with st := .stalled w })) :=
    setThread _ _ (.refl d _ (s.thread s.cur)) (.refl (s.thread s.cur))
  exact hst.trans (leftReady _)

end VecKeeps

/-! ## Bodies that end as a relation says -/

/-- Run in `s`, a body ends in a state that `R` relates to `s`, or stops as `E` says. -/
def Exec.Ends {α : Type} (R : State → State → Prop) (E : Stop → Prop) (m : Exec α) (s : State) : Prop :=
  match m.run s with | .ok r => R s r.2 | .error e => E e

namespace Exec.Ends
variable {α β : Type} {R : State → State → Prop} {E : Stop → Prop} {s : State}

theorem of_ok {m : Exec α} (h : m.Ends R E s) {a : α} {t : State} (hr : m.run s = .ok (a, t)) : R s t := by
  rwa [Exec.Ends, hr] at h
theorem of_error {m : Exec α} (h : m.Ends R E s) {e : Stop} (hr : m.run s = .error e) : E e := by
  rwa [Exec.Ends, hr] at h
theorem mono {R' : State → State → Prop} {E' : Stop → Prop} {m : Exec α} (h : m.Ends R E s) (hR : ∀ t, R s t → R' s t)
    (hE : ∀ e, E e → E' e) : m.Ends R' E' s := by
  unfold Exec.Ends at *
  split at h
  · exact hR _ h
  · exact hE _ h
theorem bind (htr : ∀ {x y z}, R x y → R y z → R x z) {m : Exec α} {f : α → Exec β} (hm : m.Ends R E s)
    (hf : ∀ a t, R s t → (f a).Ends R E t) : (m >>= f).Ends R E s := by
  cases hr : m.run s with
  | error e => rw [Exec.Ends, run_bind_error hr]; exact hm.of_error hr
  | ok r =>
    obtain ⟨a, t⟩ := r
    have hfa := hf a t (hm.of_ok hr)
    unfold Exec.Ends at hfa ⊢
    rw [run_bind_ok hr]
    split at hfa
    · exact htr (hm.of_ok hr) hfa
    · exact hfa
/-- A body that asks for the state goes on from it. -/
theorem get {f : State → Exec β} (hf : (f s).Ends R E s) : (MonadState.get >>= f).Ends R E s := by
  rwa [Exec.Ends, run_bind_ok (run_get s)]
theorem thr {f : Thread → Exec β} (hf : (f (s.thread s.cur)).Ends R E s) : (Machine.thr >>= f).Ends R E s := by
  rwa [Exec.Ends, run_bind_ok (run_thr s)]
theorem ite {c : Prop} [Decidable c] {a b : Exec α} (ha : c → a.Ends R E s) (hb : ¬ c → b.Ends R E s) :
    Exec.Ends R E (if c then a else b) s := by
  split
  · exact ha ‹_›
  · exact hb ‹_›

end Exec.Ends

/-- A stop of a vector form that does not load: it waits, or traps, not of a translation. -/
def Stop.waitsOrTraps : Stop → Prop
  | .stall _ => True
  | .trap cause _ _ _ => cause ≠ cXLATE
  | _ => False
/-- Run in `s`, a body ends in the frame of a vector form, or it waits or traps. -/
def Exec.VecKeeps {α : Type} (d : VReg) (m : Exec α) (s : State) : Prop := m.Ends (Machine.VecKeeps d) Stop.waitsOrTraps s

namespace Exec.VecKeeps
variable {α β : Type} {d : VReg} {s : State}

theorem pure {a : α} : Exec.VecKeeps d (Pure.pure a) s := .refl d s
theorem bind {m : Exec α} {f : α → Exec β} (hm : m.VecKeeps d s) (hf : ∀ a t, (f a).VecKeeps d t) : (m >>= f).VecKeeps d s :=
  Exec.Ends.bind .trans hm fun a t _ => hf a t
theorem get {f : State → Exec β} (hf : (f s).VecKeeps d s) : (MonadState.get >>= f).VecKeeps d s := Exec.Ends.get hf
theorem thr {f : Thread → Exec β} (hf : (f (s.thread s.cur)).VecKeeps d s) : (Machine.thr >>= f).VecKeeps d s := Exec.Ends.thr hf
theorem ite {c : Prop} [Decidable c] {a b : Exec α} (ha : a.VecKeeps d s) (hb : b.VecKeeps d s) :
    Exec.VecKeeps d (if c then a else b) s := Exec.Ends.ite (fun _ => ha) fun _ => hb
theorem stall {w : Wait} : Exec.VecKeeps d (α := α) (stall w) s := trivial
theorem trap {cause : Nat} {val : B64} (h : cause ≠ cXLATE) : Exec.VecKeeps d (α := α) (trap cause val) s := h
theorem portTrap {reason key addr : Nat} : Exec.VecKeeps d (α := α) (portTrap reason key addr) s := .trap (by decide)
theorem modThr {f : Thread → Thread} (h : VecBut d True (s.thread s.cur) (f (s.thread s.cur)))
    (ht : SameTrap (s.thread s.cur) (f (s.thread s.cur))) : Exec.VecKeeps d (modThr f) s :=
  Machine.VecKeeps.setThread _ _ (by simpa using h) ht
theorem setCore {k : Nat} {x : Core} (h : SameTvec (s.core k) x) : Exec.VecKeeps d (MonadStateOf.set (s.setCore k x)) s :=
  Machine.VecKeeps.setCore _ _ h

/-! Registers and the ports they may be bound to. -/

theorem settled {c : RegCls} {n : Nat} : (settled c n).VecKeeps d s := .thr (.ite .stall .pure)
theorem setPort {key : Nat} {p : Port} : (setPort key p).VecKeeps d s :=
  .modThr (.refl d True (s.thread s.cur)) (.refl (s.thread s.cur))
theorem linkPush {w : Wait} {r : Dir} {v : B512} : (linkPush w r v).VecKeeps d s := by
  unfold Machine.linkPush
  refine .get ?_
  extract_lets nb k q
  exact .ite .stall (.setCore ⟨rfl, rfl⟩)
theorem popPort {key : Nat} {p : Port} : (popPort key p).VecKeeps d s := by
  unfold Machine.popPort
  split
  · exact .portTrap
  · split
    · split
      · exact .portTrap
      · split
        · exact .portTrap
        · exact .bind .setPort fun _ _ => .pure
    · exact .ite .portTrap .stall
  · refine .get ?_
    split
    · exact .stall
    · exact .bind (.setCore ⟨rfl, rfl⟩) fun _ _ => .ite (.bind .linkPush fun _ _ => .pure) .pure
  · refine .get (.ite .stall (.ite ?_ ?_))
    · split
      · exact .stall
      · exact .bind (.setCore ⟨rfl, rfl⟩) fun _ _ => .pure
    · split
      · exact .stall
      · exact .bind (.setCore ⟨rfl, rfl⟩) fun _ _ => .pure
theorem pushPort {key : Nat} {p : Port} {v : B512} : (pushPort key p v).VecKeeps d s := by
  unfold Machine.pushPort
  split
  · exact .portTrap
  · exact .portTrap
  · split
    · exact Nat.ne_of_beq_eq_false rfl
    · exact .ite .portTrap (.ite .stall .setPort)
  · exact .linkPush
theorem readS {r : SReg} : (readS r).VecKeeps d s := by
  unfold Machine.readS
  split
  · exact .pure
  · refine .bind .settled fun _ _ => .thr ?_
    split
    · exact .bind .popPort fun _ _ => .pure
    · exact .pure
theorem readV {r : VReg} : (readV r).VecKeeps d s := by
  unfold Machine.readV
  refine .bind .settled fun _ _ => .thr ?_
  split
  · exact .popPort
  · exact .pure
theorem readM {r : MReg} : (readM r).VecKeeps d s := .ite .pure (.bind .settled fun _ _ => .thr .pure)
theorem readAB {a : VReg} {b : Option VReg} : (readAB a b).VecKeeps d s := by
  unfold Machine.readAB
  refine .bind .readV fun _ _ => ?_
  split
  · exact .pure
  · exact .bind .readV fun _ _ => .pure
theorem writeV {v : B512} : (writeV d v).VecKeeps d s := by
  unfold Machine.writeV
  refine .bind .settled fun _ t => .thr ?_
  split
  · exact .pushPort
  · refine .modThr ⟨.refl (t.thread t.cur), fun r hr => ?_⟩ (.refl (t.thread t.cur))
    exact SMap.get_put_ne 0 _ v (hr.resolve_left (not_not_intro trivial))

/-! The steps of a lane-wise instruction. -/

theorem destOk {v : View} {m : MReg} : (destOk v m d).VecKeeps d s := .thr (.ite .portTrap .pure)
theorem oldV : (oldV d).VecKeeps d s := .bind .settled fun _ _ => .thr .pure
theorem modeOf {r : RMode} : (modeOf r).VecKeeps d s := .thr .pure
theorem elemMode {v : View} : (elemMode v).VecKeeps d s := by
  unfold Machine.elemMode
  split
  · exact .ite .modeOf .modeOf
  · exact .modeOf
theorem genOf : genOf.VecKeeps d s := .thr .pure
theorem setGen {g : B64} : (setGen g).VecKeeps d s := .modThr (.refl d True (s.thread s.cur)) (.refl (s.thread s.cur))
theorem orFlags {f : Flags} : (orFlags f).VecKeeps d s := .modThr (.refl d True (s.thread s.cur)) (.refl (s.thread s.cur))
/-- The end of an instruction that rounds: the generator, the flags, then the destination. -/
theorem written {g : B64} {f : Flags} {v : B512} :
    Exec.VecKeeps d (do Machine.setGen g; Machine.orFlags f; Machine.writeV d v) s :=
  .bind .setGen fun _ _ => .bind .orFlags fun _ _ => .writeV
theorem lanesOf {v : View} {n : Nat} {m : MReg} {readsD : Bool} {a : VReg} {b : Option VReg}
    {f : RMode → B512 → B512 → B512 → Nat → LaneAcc → LaneAcc} : (lanesOf v n m d readsD a b f).VecKeeps d s := by
  have hrest (dv : B512) (s : State) : Exec.VecKeeps d (do
      let ab ← Machine.readAB a b
      let mk ← Machine.readM m
      let rm ← Machine.elemMode v
      let g ← Machine.genOf
      Pure.pure ((activeLanes n mk).foldl (fun acc i => f rm dv ab.1 ab.2 i acc) ⟨dv, 0, g⟩)) s :=
    .bind .readAB fun _ _ => .bind .readM fun _ _ => .bind .elemMode fun _ _ => .bind .genOf fun _ _ => .pure
  unfold Machine.lanesOf
  split
  · exact .bind .readV fun _ _ => hrest _ _
  · exact .bind .oldV fun _ _ => hrest _ _
theorem laneBody {v : View} {n : Nat} {m : MReg} {readsD : Bool} {a : VReg} {b : Option VReg}
    {f : RMode → B512 → B512 → B512 → Nat → LaneAcc → LaneAcc} : (laneBody v n m d readsD a b f).VecKeeps d s :=
  .bind .destOk fun _ _ => .bind .lanesOf fun _ _ => .written
theorem vScan {v : View} {t : Ty} {m : MReg} {a : VReg} : (vScan v t m d a).VecKeeps d s :=
  .bind .destOk fun _ _ => .bind .oldV fun _ _ => .bind .readV fun _ _ => .bind .readM fun _ _ => .bind .modeOf fun _ _ =>
    .bind .elemMode fun _ _ => .bind .genOf fun _ _ => .written
theorem vSel {v : View} {t : Ty} {m : MReg} {a b : VReg} : (vSel v t m d a b).VecKeeps d s :=
  .bind .destOk fun _ _ => .bind .oldV fun _ _ => .bind .readAB fun _ _ => .bind .readM fun _ _ =>
    .ite .writeV (.bind .elemMode fun _ _ => .bind .genOf fun _ _ => .written)
theorem vecShape {t : Ty} : (vecShape t).VecKeeps d s := .thr (.ite (.trap (by decide)) .pure)
theorem vecAdd {tt : Bool} {t : Ty} {m : MReg} {a b : VReg} : (vecAdd tt t m d a b).VecKeeps d s := by
  unfold Machine.vecAdd
  refine .bind .destOk fun _ _ => .bind .oldV fun _ _ => .bind .readAB fun _ _ => .bind .readM fun _ _ => .bind .vecShape fun _ _ => ?_
  extract_lets sum
  split
  · exact .trap (by decide)
  · exact .writeV
theorem oldJobsGone : oldJobsGone.VecKeeps d s := .thr (.ite .stall .pure)
theorem tileFree {a : AReg} : (tileFree a).VecKeeps d s := .get (.ite .stall .pure)

end Exec.VecKeeps

/-- The vector loads (R126). -/
def isVecLoad : Instr → Prop
  | .vld .. | .vlds .. | .vgather .. => True
  | _ => False
/-- Each vector form that does not load runs, as an instruction of four bytes, a body in the frame of its destination. -/
theorem exec_of_vecDest {i : Instr} {d : VReg} (h : vecDest i = some d) (hl : ¬ isVecLoad i) :
    ∃ body : Exec Unit, (∀ s, exec i s = .next (runI 4 body s)) ∧ ∀ s, body.VecKeeps d s := by
  unfold vecDest at h
  split at h
  all_goals cases h
  -- the loads
  iterate 3 next => exact absurd trivial hl
  -- the lane-wise forms
  iterate 18 next => exact ⟨_, fun _ => rfl, fun _ => .laneBody⟩
  -- the permutes
  next =>
    exact ⟨_, fun _ => rfl, fun _ => .bind .destOk fun _ _ => .bind .oldV fun _ _ => .bind .readV fun _ _ => .bind .readV fun _ _ =>
      .bind .readM fun _ _ => .writeV⟩
  next =>
    exact ⟨_, fun _ => rfl, fun _ => .bind .destOk fun _ _ => .bind .oldV fun _ _ => .bind .readS fun _ _ => .bind .readM fun _ _ => .writeV⟩
  next => exact ⟨_, fun _ => rfl, fun _ => .bind .readV fun _ _ => .bind .readS fun _ _ => .bind .readS fun _ _ => .writeV⟩
  next =>
    exact ⟨_, fun _ => rfl, fun _ => .bind .destOk fun _ _ => .bind .oldV fun _ _ => .bind .readV fun _ _ => .bind .readS fun _ _ =>
      .bind .readM fun _ _ => .writeV⟩
  -- scan, conversion, selection, dot products
  next => exact ⟨_, fun _ => rfl, fun _ => .vScan⟩
  next => exact ⟨_, fun _ => rfl, fun _ => .laneBody⟩
  next => exact ⟨_, fun _ => rfl, fun _ => .vSel⟩
  next => exact ⟨_, fun _ => rfl, fun _ => .ite .laneBody (.trap (by decide))⟩
  -- weave sums, half-rows of a tile
  iterate 2 next => exact ⟨_, fun _ => rfl, fun _ => .vecAdd⟩
  next =>
    exact ⟨_, fun _ => rfl, fun _ => .bind .oldJobsGone fun _ _ => .bind .tileFree fun _ _ => .bind .readS fun _ _ => .thr .writeV⟩

end Sys2Proof.Machine
end

section
/-! # Where the lanes of an access lie (R126, R128, R324) -/
open Sys2Proof
namespace Sys2Proof.Machine

/-! ## Translations with no Update-only copy -/

/-- The two states are alike but for the events that the crofts have counted. -/
def CountsOnly (s t : State) : Prop := (∃ m, t = { s with crofts := m }) ∧ ∀ k, (t.croft k).tlb2 = (s.croft k).tlb2

namespace CountsOnly
variable {s t u : State}

theorem refl (s : State) : CountsOnly s s := ⟨⟨s.crofts, rfl⟩, fun _ => rfl⟩
theorem trans (h1 : CountsOnly s t) (h2 : CountsOnly t u) : CountsOnly s u := by
  obtain ⟨⟨m, rfl⟩, ht⟩ := h1
  obtain ⟨⟨n, rfl⟩, hu⟩ := h2
  exact ⟨⟨n, rfl⟩, fun k => (hu k).trans (ht k)⟩
theorem count (s : State) (core slot src n : Nat) : CountsOnly s (s.count core slot src n) := by
  unfold State.count
  extract_lets cr hit cnt
  split
  · refine ⟨⟨_, rfl⟩, fun k => ?_⟩
    by_cases hk : k = croftOf core
    · subst hk; rw [State.croft_setCroft_self]
    · exact congrArg Croft.tlb2 (SMap.get_put_ne _ _ _ hk)
  · exact refl s
/-- With no Update-only copy a walk recalls none: at most a miss is counted (R353). -/
theorem translated (hu : s.upd = []) (va : B64) : CountsOnly s (s.translated va) := by
  unfold State.translated State.walked
  extract_lets v s1
  have h1 : CountsOnly s s1 := .count s _ _ _ _
  have hu1 : s1.upd.isEmpty = true := by rw [upd_count, hu]; rfl
  clear_value s1
  split
  · exact refl s
  · exact h1

theorem upd (h : CountsOnly s t) : t.upd = s.upd := by obtain ⟨⟨m, rfl⟩, -⟩ := h; rfl
theorem stores (h : CountsOnly s t) : t.stores = s.stores := by obtain ⟨⟨m, rfl⟩, -⟩ := h; rfl
theorem mem (h : CountsOnly s t) : t.mem = s.mem := by obtain ⟨⟨m, rfl⟩, -⟩ := h; rfl
theorem cur (h : CountsOnly s t) : t.cur = s.cur := by obtain ⟨⟨m, rfl⟩, -⟩ := h; rfl
theorem me (h : CountsOnly s t) : t.me = s.me := by obtain ⟨⟨m, rfl⟩, -⟩ := h; rfl
theorem core (h : CountsOnly s t) (k : Nat) : t.core k = s.core k := by obtain ⟨⟨m, rfl⟩, -⟩ := h; rfl
theorem curCore (h : CountsOnly s t) : t.curCore = s.curCore := by rw [State.curCore, h.cur]; rfl
/-- What a walk reads at the home of an entry (R324). -/
theorem mem_recall (h : CountsOnly s t) (hu : s.upd = []) (a n : Nat) : (t.recall a n).mem = (s.recall a n).mem := by
  obtain ⟨⟨m, rfl⟩, -⟩ := h
  rw [State.recall, State.recall, State.mergeAt, State.mergeAt, State.mergeWhere_of_no_upd hu,
    State.mergeWhere_of_no_upd (s := { s with crofts := m }) hu, State.spillSync, State.spillSync]
  split <;> rfl
theorem walkFrom (h : CountsOnly s t) (hu : s.upd = []) (va fuel table : Nat) : walkFrom t va fuel table = walkFrom s va fuel table := by
  induction fuel generalizing table with
  | zero => rfl
  | succ fuel ih =>
    have hst (pa : Nat) : t.stackOk pa = s.stackOk pa := by obtain ⟨⟨m, rfl⟩, -⟩ := h; rfl
    simp only [Machine.walkFrom, h.mem_recall hu, hst, ih]
/-- The translation of an address is the same. -/
theorem route (h : CountsOnly s t) (hu : s.upd = []) (core ctx : Nat) (sys : Bool) (acc : Acc) (va : B64) :
    t.route core ctx sys acc va = s.route core ctx sys acc va := by
  have hctx : t.ctx? ctx = s.ctx? ctx := by obtain ⟨⟨m, rfl⟩, -⟩ := h; rfl
  have hwalk (v : Nat) : t.walk ctx v = s.walk ctx v := by
    rw [State.walk, State.walk, hctx]
    simp only [h.walkFrom hu]
  simp only [State.route, State.leafFor, h.core, h.2, hwalk]
theorem translatedAll (hu : s.upd = []) (as : List B64) : CountsOnly s (s.translatedAll as) := by
  induction as generalizing s with
  | nil => exact refl s
  | cons a as ih =>
    have h1 : CountsOnly s (s.translated a) := .translated hu a
    exact h1.trans (ih (h1.upd.trans hu))
end CountsOnly

/-! ## The places of the active lanes (R126, R128) -/

/-- An access of the current thread at `va` lies at location `l`. -/
def State.Selects (s : State) (acc : Acc) (va : B64) (l : Nat) : Prop := s.route s.curCore s.me.ctx s.me.sysMode acc va = .loc l
theorem CountsOnly.selects {s t : State} (h : CountsOnly s t) (hu : s.upd = []) {acc : Acc} {va : B64} {l : Nat} (hs : s.Selects acc va l) :
    t.Selects acc va l := by
  rw [State.Selects, h.route hu, h.curCore, h.me]
  exact hs
theorem lanePlaces_runs {acc : Acc} {n : Nat} {addr : Nat → B64} {ls : Nat → Nat} {s : State} (hu : s.upd = []) (act : List Nat)
    (h : ∀ j ∈ act, (addr j).toNat % n = 0 ∧ s.Selects acc (addr j) (ls j)) :
    (lanePlaces acc n (act.map (fun j => (j, addr j)))).run s = .ok (act.map (fun j => (j, ls j)), s.translatedAll (act.map addr)) := by
  induction act generalizing s with
  | nil => rfl
  | cons j act ih =>
    obtain ⟨hal, hsel⟩ := h j List.mem_cons_self
    have hc : CountsOnly s (s.translated (addr j)) := .translated hu _
    have hrest := ih (hc.upd.trans hu) fun k hk =>
      let ⟨hal, hsel⟩ := h k (List.mem_cons_of_mem j hk)
      ⟨hal, hc.selects hu hsel⟩
    rw [List.map_cons, lanePlaces, run_bind_ok (aligned_runs hal), run_bind_ok (locOf_runs hsel), run_bind_ok hrest]
    rfl
theorem blockPlaces_runs {acc : Acc} {n l : Nat} {va : B64} {s : State} {act : List Nat}
    (h : act ≠ [] → va.toNat % 64 = 0 ∧ s.Selects acc va l) :
    (blockPlaces acc n va act).run s = .ok (act.map (fun j => (j, l + j * n)), s.translatedAll (if act = [] then [] else [va])) := by
  by_cases ha : act = []
  · subst ha; rfl
  · obtain ⟨hal, hsel⟩ := h ha
    rw [blockPlaces, if_neg (by simpa using ha), run_bind_ok (aligned_runs hal), run_bind_ok (locOf_runs hsel), if_neg ha]
    rfl
theorem allFiled_runs {s : State} {places : List (Nat × Nat)}
    (h : ∀ c ∈ places, (spadCore c.2).isSome = true → (s.core s.curCore).ksq = []) : (allFiled places).run s = .ok ((), s) := by
  induction places with
  | nil => rfl
  | cons c cs ih =>
    rw [allFiled, run_bind_ok (filed_runs (h c List.mem_cons_self))]
    exact ih fun c hc => h c (List.mem_cons_of_mem _ hc)

end Sys2Proof.Machine
end

section
/-! # Vector loads (R126 to R129) -/
open Sys2Proof
namespace Sys2Proof.Machine

/-- Nothing is pending: no store, no Update-only copy. -/
def State.Quiet (s : State) : Prop := s.stores = [] ∧ s.upd = []
theorem CountsOnly.quiet {s t : State} (h : CountsOnly s t) (hq : s.Quiet) : t.Quiet := ⟨h.stores.trans hq.1, h.upd.trans hq.2⟩

/-! ## The lanes a load reads -/

theorem State.Quiet.prepRead {s : State} (h : s.Quiet) {tid l n : Nat} (hl : spillCore l n = none) : s.prepRead tid l n = s := by
  rw [State.prepRead_own h.2 (by simp [h.1]), State.spillSync, hl]
  exact ite_self s
theorem State.Quiet.arrivals {s : State} (h : s.Quiet) (p : PStore → Bool) : s.arrivals p = s := by
  rw [State.arrivals, h.1]
  rfl
theorem readLanes_runs {s : State} (h : s.Quiet) {t : Ty} {part : Nat → Nat} {places : List (Nat × Nat)} {x : B512}
    (hl : ∀ c ∈ places, spillCore c.2 (laneBytes t) = none) :
    (readLanes t part places x).run s = .ok (s.lanesRead t places x, s) := by
  have hprep : places.foldl (fun s c => s.prepRead s.cur c.2 (laneBytes t)) s = s := by
    induction places with
    | nil => rfl
    | cons c cs ih =>
      rw [List.foldl_cons, h.prepRead (hl c List.mem_cons_self)]
      exact ih fun c hc => hl c (List.mem_cons_of_mem _ hc)
  rw [readLanes, run_bind_ok (run_modify _ s), hprep, run_bind_ok (run_get s)]
  simp only [h.arrivals, if_true]
  rfl
/-- With nothing pending each lane is read from memory. -/
theorem State.Quiet.lanesRead_eq {s : State} (h : s.Quiet) {t : Ty} {mk : B64} (at_ : Nat → Nat) (x : B512) :
    s.lanesRead t ((activeLanes t.lanes mk).map (fun j => (j, at_ j))) x =
      copyLanes t mk (fun j => leNat (readBytes s.mem (at_ j) (laneBytes t))) x := by
  simp only [State.lanesRead, copyLanes, List.foldl_map, State.readFor_of_no_store h.1]

/-- The access of a load at location `l` needs no wait: its value is at hand, no directory event or `ksend` holds it up, no spill
queue stands there. `s0` is the state before the instruction. -/
def AtHand (s0 s : State) (n l : Nat) : Prop :=
  (s0.isFar l = false ∨ s0.hasAnswer) ∧ s0.dirAsleep s0.curCore l = false ∧ spillCore l n = none ∧
    ((spadCore l).isSome = true → (s.core s.curCore).ksq = [])
/-- The end of a load with nothing pending. -/
theorem loadLanes_runs {s0 s u : State} {t : Ty} {mk : B64} {d : VReg} {old w : B512} {part at_ : Nat → Nat} (hs : s.Quiet)
    (hsplit : s0.me.split = 0) (hgot : s0.me.phase.got = []) (hat : ∀ j ∈ activeLanes t.lanes mk, AtHand s0 s (laneBytes t) (at_ j))
    (hl : CopyLanes t mk (fun j => leNat (readBytes s.mem (at_ j) (laneBytes t))) old w) (hw : WritesV s d w u) :
    (loadLanes s0 t d old part ((activeLanes t.lanes mk).map (fun j => (j, at_ j)))).run s = .ok ((), u) := by
  let places := (activeLanes t.lanes mk).map (fun j => (j, at_ j))
  have hplace (c : Nat × Nat) (hc : c ∈ places) : AtHand s0 s (laneBytes t) c.2 := by
    obtain ⟨j, hj, rfl⟩ := List.mem_map.1 hc
    exact hat j hj
  have hfiled : (allFiled places).run s = .ok ((), s) := allFiled_runs fun c hc => (hplace c hc).2.2.2
  have hawake : places.find? (fun c => s0.dirAsleep s0.curCore c.2) = none :=
    List.find?_eq_none.2 fun c hc => by rw [(hplace c hc).2.1]; decide
  have hcome : (awaitValue s0 (places.any (fun c => s0.isFar c.2))).run s = .ok ((), s) := by
    refine awaitValue_runs ?_
    by_cases hany : places.any (fun c => s0.isFar c.2) = true
    · obtain ⟨c, hc, hfar⟩ := List.any_eq_true.1 hany
      exact .inr ((hplace c hc).1.resolve_left (by rw [hfar]; decide))
    · exact .inl (Bool.eq_false_iff.2 hany)
  have hleft : places.filter (fun c => !([] : List (Nat × Nat)).any (fun g => g.1 == c.1)) = places :=
    List.filter_eq_self.2 fun c _ => rfl
  have hearly : places.filter (fun c => s0.me.split.getLsbD (part c.1)) = [] :=
    List.filter_eq_nil_iff.2 fun c _ => by rw [hsplit]; simp
  have hread := readLanes_runs hs (part := part) (x := old) fun c hc => (hplace c hc).2.2.1
  rw [hs.lanesRead_eq, hl.copyLanes_eq] at hread
  rw [State.me] at hearly hgot
  show (loadLanes s0 t d old part places).run s = _
  rw [loadLanes, run_bind_ok hfiled]
  simp only [hawake, run_bind_ok hcome, hgot, hleft, hearly]
  rw [if_neg (by simp), List.foldl_nil, run_bind_ok hread]
  exact hw

end Sys2Proof.Machine
end

section
/-! # Vector stores (R126, R128, R129) -/
open Sys2Proof
namespace Sys2Proof.Machine

/-! ## What a thread reads under its own stores -/

/-- A store covers an address. -/
def PStore.Covers (p : PStore) (x : Nat) : Prop := p.loc ≤ x ∧ x < p.loc + p.data.length
/-- The byte that a store leaves at an address. -/
def PStore.over (x : Nat) (b : Byte) (p : PStore) : Byte :=
  if p.loc ≤ x ∧ x < p.loc + p.data.length then p.data.getD (x - p.loc) b else b
theorem PStore.over_of_not_covers {p : PStore} {x : Nat} (h : ¬ p.Covers x) (b : Byte) : PStore.over x b p = b := if_neg h
theorem PStore.over_of_covers {p : PStore} {x : Nat} (h : p.Covers x) (b : Byte) : PStore.over x b p = p.data.getD (x - p.loc) b := if_pos h
theorem getElem?_foldl_patch (ps : List PStore) (loc : Nat) (bs : List Byte) (i : Nat) :
    (ps.foldl (patch loc) bs)[i]? = bs[i]?.map (fun b => ps.foldl (PStore.over (loc + i)) b) := by
  induction ps generalizing bs with
  | nil => simp
  | cons p ps ih =>
    rw [List.foldl_cons, ih, patch, List.getElem?_mapIdx, Option.map_map]
    rfl
/-- Every store of the state is one of the current thread that runs. -/
def State.OwnStores (s : State) : Prop := ∀ p ∈ s.stores, p.tid = s.cur ∧ p.dead = false
/-- Where all stores are the thread's own it reads, of `n` bytes, those they leave. -/
theorem State.readFor_own {s : State} (h : s.OwnStores) (loc n : Nat) {bs : List Byte} (hn : bs.length = n)
    (hbs : ∀ i (hi : i < bs.length), ∀ b, s.stores.foldl (PStore.over (loc + i)) b = bs[i]) : s.readFor s.cur loc n = bs := by
  let near (p : PStore) : Bool := !p.dead && p.tid == s.cur && overlap p.loc p.data.length loc n
  have hskip (i : Nat) (hi : i < n) (b : Byte) (ps : List PStore) (hps : ∀ p ∈ ps, p ∈ s.stores) :
      (ps.filter near).foldl (PStore.over (loc + i)) b = ps.foldl (PStore.over (loc + i)) b := by
    induction ps generalizing b with
    | nil => rfl
    | cons p ps ih =>
      have ih' (b : Byte) := ih b fun q hq => hps q (List.mem_cons_of_mem p hq)
      cases hnear : near p with
      | true => rw [List.filter_cons_of_pos hnear, List.foldl_cons, List.foldl_cons, ih']
      | false =>
        have hnot : ¬ p.Covers (loc + i) := by
          obtain ⟨ht, hd⟩ := h p (hps p List.mem_cons_self)
          rintro ⟨h1, h2⟩
          simp only [near, ht, hd, overlap, Bool.not_false, Bool.true_and, beq_self_eq_true, Bool.and_eq_false_iff, decide_eq_false_iff_not] at hnear
          omega
        rw [List.filter_cons_of_neg (by rw [hnear]; decide), List.foldl_cons, ih', PStore.over_of_not_covers hnot]
  refine List.ext_getElem? fun i => ?_
  rw [State.readFor, getElem?_foldl_patch]
  by_cases hi : i < n
  · rw [List.getElem?_eq_getElem (by rw [readBytes_length]; exact hi), List.getElem?_eq_getElem (by omega), Option.map_some,
      hskip i hi _ _ fun _ hp => hp, hbs i (by omega)]
  · rw [List.getElem?_eq_none (by rw [readBytes_length]; omega), List.getElem?_eq_none (by omega)]
    rfl
theorem foldl_over_of_none {ps : List PStore} {x : Nat} (h : ∀ p ∈ ps, ¬ p.Covers x) (b : Byte) : ps.foldl (PStore.over x) b = b := by
  induction ps generalizing b with
  | nil => rfl
  | cons p ps ih =>
    rw [List.foldl_cons, PStore.over_of_not_covers (h p List.mem_cons_self)]
    exact ih (fun q hq => h q (List.mem_cons_of_mem p hq)) b
/-- The last store that covers an address decides its byte. -/
theorem foldl_over_last {pre post : List PStore} {p : PStore} {x : Nat} (hp : p.Covers x) (h : ∀ q ∈ post, ¬ q.Covers x) (b : Byte) :
    (pre ++ p :: post).foldl (PStore.over x) b = p.data[x - p.loc]'(by have := hp.1; have := hp.2; omega) := by
  rw [List.foldl_append, List.foldl_cons, foldl_over_of_none h, PStore.over_of_covers hp]
  exact (List.getD_eq_getElem _ _ _)
/-- Where all that cover an address agree, and one does, that is its byte. -/
theorem foldl_over_agree {ps : List PStore} {x : Nat} {v : Byte} (hv : ∀ p ∈ ps, p.Covers x → ∀ b, PStore.over x b p = v)
    (hex : ∃ p ∈ ps, p.Covers x) (b : Byte) : ps.foldl (PStore.over x) b = v := by
  induction ps generalizing b with
  | nil => simp at hex
  | cons p ps ih =>
    have hv' : ∀ q ∈ ps, q.Covers x → ∀ b, PStore.over x b q = v := fun q hq => hv q (List.mem_cons_of_mem p hq)
    rw [List.foldl_cons]
    by_cases hrest : ∃ q ∈ ps, q.Covers x
    · exact ih hv' hrest _
    · rw [foldl_over_of_none (fun q hq hc => hrest ⟨q, hq, hc⟩)]
      obtain ⟨q, hq, hc⟩ := hex
      rcases List.mem_cons.1 hq with rfl | hq
      · exact hv q List.mem_cons_self hc b
      · exact absurd ⟨q, hq, hc⟩ hrest

/-! ## Stores that become pending -/

/-- From `s` to `t` the stores `new` of the current thread have become pending, seen by no one else, and nothing else has changed but
the serial number. -/
structure Pends (s t : State) (new : List PStore) : Prop where
  eq : t = { s with stores := s.stores ++ new, nextSer := t.nextSer }
  own : ∀ p ∈ new, p.tid = s.cur ∧ p.dead = false ∧ p.vis = .t

theorem Pends.refl (s : State) : Pends s s [] := ⟨by rw [List.append_nil], fun _ h => by simp at h⟩
theorem Pends.trans {s t u : State} {new new' : List PStore} (h1 : Pends s t new) (h2 : Pends t u new') : Pends s u (new ++ new') := by
  obtain ⟨e1, o1⟩ := h1
  obtain ⟨e2, o2⟩ := h2
  have hcur : t.cur = s.cur := by rw [e1]
  refine ⟨?_, fun p hp => ?_⟩
  · rw [e2, e1, List.append_assoc]
  · rcases List.mem_append.1 hp with hp | hp
    · exact o1 p hp
    · rw [← hcur]; exact o2 p hp
/-- No pending store has been made visible to another agent. -/
def State.Unshown (s : State) : Prop := ∀ p ∈ s.stores, p.vis = .t
theorem Pends.unshown {s t : State} {new : List PStore} (h : Pends s t new) (hs : s.Unshown) : t.Unshown := by
  intro p hp
  rw [h.eq] at hp
  rcases List.mem_append.1 hp with hp | hp
  · exact hs p hp
  · exact (h.own p hp).2.2
theorem State.Unshown.observe {s : State} (h : s.Unshown) (tid : Nat) (w : Party) (loc n : Nat) : s.observe tid w loc n = s := by
  have hnone : s.stores.find? (fun p => p.shownTo tid w loc n) = none :=
    List.find?_eq_none.2 fun p hp => by simp [PStore.shownTo, h p hp]
  rw [State.observe, hnone]
/-- The store that the current thread of `s` issues. -/
def State.newStore (s : State) (l : Nat) (data : List Byte) (grp : Nat) : PStore :=
  { ser := s.nextSer, tid := s.cur, loc := l, data := data, grp := grp, tag := s.tag }
theorem storeLoc_pends {s : State} (h : s.Unshown) (l : Nat) (data : List Byte) (grp : Nat) :
    ∃ t, (storeLoc l data grp).run s = .ok ((), t) ∧ Pends s t [s.newStore l data grp] := by
  refine ⟨_, run_modify _ s, ?_, ?_⟩
  · rw [State.pushStore, h.observe]
    rfl
  · intro p hp
    rw [List.mem_singleton.1 hp]
    exact ⟨rfl, rfl, rfl⟩

/-! ## Bytes of a register -/

/-- Byte `k` of a register. -/
def regByte (x : B512) (k : Nat) : Byte := BitVec.ofNat 8 (elemBits 8 k x)
theorem elemBits_byte (n j i : Nat) (x : B512) (hi : i < n) : elemBits (8 * n) j x / 256 ^ i % 2 ^ 8 = elemBits 8 (n * j + i) x := by
  refine Nat.eq_of_testBit_eq fun b => ?_
  rw [show (256 : Nat) ^ i = 2 ^ (8 * i) by rw [pow_mul]; rfl, Nat.testBit_mod_two_pow, Nat.testBit_div_two_pow, testBit_elemBits, testBit_elemBits]
  by_cases hb : b < 8
  · rw [decide_eq_true hb, decide_eq_true (show b + 8 * i < 8 * n by omega), Bool.true_and, Bool.true_and, Bool.true_and]
    congr 1
    ring
  · rw [decide_eq_false hb, Bool.false_and, Bool.false_and]
/-- The bytes of an element of `n` bytes. -/
theorem getElem_elemBytes {n j i : Nat} {x : B512} (h : i < (leBytes n (elemBits (8 * n) j x)).length) :
    (leBytes n (elemBits (8 * n) j x))[i] = regByte x (n * j + i) := by
  rw [getElem_leBytes h, regByte, ← elemBits_byte n j i x (by simpa using h)]
  exact BitVec.eq_of_toNat_eq (by rw [BitVec.toNat_ofNat, BitVec.toNat_ofNat, Nat.mod_mod])
theorem leNat_elemBytes (n j : Nat) (x : B512) : leNat (leBytes n (elemBits (8 * n) j x)) = elemBits (8 * n) j x := by
  rw [leNat_leBytes, show (256 : Nat) ^ n = 2 ^ (8 * n) by rw [pow_mul]; rfl]
  exact Nat.mod_eq_of_lt (elemBits_lt _ _ _)
theorem width_eq_laneBytes (t : Ty) : t.width = 8 * laneBytes t := by cases t <;> rfl
theorem laneBytes_pos (t : Ty) : 0 < laneBytes t := by cases t <;> decide
theorem laneBytes_dvd (t : Ty) : laneBytes t ∣ 8 := by cases t <;> decide
/-- The bytes of a lane, as a store holds them. -/
def laneData (t : Ty) (x : B512) (j : Nat) : List Byte := leBytes (laneBytes t) (elemBits t.width j x)
theorem length_laneData (t : Ty) (x : B512) (j : Nat) : (laneData t x j).length = laneBytes t := length_leBytes _ _
theorem leNat_laneData (t : Ty) (x : B512) (j : Nat) : leNat (laneData t x j) = elemBits t.width j x := by
  rw [laneData, width_eq_laneBytes]
  exact leNat_elemBytes _ _ _
theorem getElem_laneData {t : Ty} {x : B512} {j i : Nat} (h : i < (laneData t x j).length) :
    (laneData t x j)[i] = regByte x (laneBytes t * j + i) := by
  simp only [laneData, width_eq_laneBytes]
  exact getElem_elemBytes _

end Sys2Proof.Machine
end

section
/-! # The stores of lanes and of a block (R128, R129) -/
open Sys2Proof
namespace Sys2Proof.Machine

/-- Where a store lies and what it holds. -/
def PStore.piece (p : PStore) : Nat × List Byte := (p.loc, p.data)

theorem writeLanes_pends (t : Ty) (x : B512) (grp : Nat) (places : List (Nat × Nat)) {s : State} (hs : s.Unshown) :
    ∃ u new, (writeLanes t x grp places).run s = .ok ((), u) ∧ Pends s u new ∧
      new.map PStore.piece = places.map (fun c => (c.2, laneData t x c.1)) ∧ ∀ p ∈ new, p.grp = grp := by
  induction places generalizing s with
  | nil => exact ⟨s, [], rfl, .refl s, rfl, fun p hp => by simp at hp⟩
  | cons c cs ih =>
    obtain ⟨s1, hrun1, hp1⟩ := storeLoc_pends hs c.2 (laneData t x c.1) grp
    obtain ⟨u, new, hrun, hp, hmap, hgrp⟩ := ih (hp1.unshown hs)
    refine ⟨u, _, ?_, hp1.trans hp, ?_, ?_⟩
    · exact (run_bind_ok hrun1).trans hrun
    · rw [List.map_append, hmap]; rfl
    · intro p hp
      rcases List.mem_append.1 hp with hp | hp
      · rw [List.mem_singleton.1 hp]; rfl
      · exact hgrp p hp

/-! ## A block -/

/-- The stores `new` hold, for the parts `ks` of the block at `l`, the lanes `act` of `n` bytes of the register `x`, and nothing else. -/
structure BlockStored (x : B512) (l n : Nat) (act ks : List Nat) (new : List PStore) : Prop where
  bytes : ∀ p ∈ new, l ≤ p.loc ∧ ∀ i (hi : i < p.data.length), p.data[i] = regByte x (p.loc - l + i)
  inside : ∀ p ∈ new, ∀ i < p.data.length, ∃ j ∈ act, l + j * n ≤ p.loc + i ∧ p.loc + i < l + j * n + n
  part : ∀ p ∈ new, (p.loc - l) / 8 ∈ ks
  group : ∀ p ∈ new, ∀ q ∈ new, (p.loc - l) / 8 = (q.loc - l) / 8 → p = q ∨ (p.grp ≠ 0 ∧ p.grp = q.grp)
  covered : ∀ j ∈ act, j * n / 8 ∈ ks → ∀ i < n, ∃ p ∈ new, p.Covers (l + j * n + i)

namespace BlockStored
variable {x : B512} {l n : Nat} {act ks : List Nat} {new new' : List PStore} {k : Nat}

theorem nil (h : ∀ j ∈ act, j * n / 8 ∉ ks) : BlockStored x l n act ks [] where
  bytes _ hp := by simp at hp
  inside _ hp := by simp at hp
  part _ hp := by simp at hp
  group _ hp := by simp at hp
  covered j hj hk := absurd hk (h j hj)
theorem append (hk : k ∉ ks) (h1 : BlockStored x l n act [k] new) (h2 : BlockStored x l n act ks new') :
    BlockStored x l n act (k :: ks) (new ++ new') := by
  have hapart (p : PStore) (hp : p ∈ new) (q : PStore) (hq : q ∈ new') : (p.loc - l) / 8 ≠ (q.loc - l) / 8 := by
    rw [List.mem_singleton.1 (h1.part p hp)]
    rintro rfl
    exact hk (h2.part q hq)
  constructor
  · intro p hp
    exact (List.mem_append.1 hp).elim (h1.bytes p) (h2.bytes p)
  · intro p hp
    exact (List.mem_append.1 hp).elim (h1.inside p) (h2.inside p)
  · intro p hp
    rcases List.mem_append.1 hp with hp | hp
    · rw [List.mem_singleton.1 (h1.part p hp)]; exact List.mem_cons_self
    · exact List.mem_cons_of_mem k (h2.part p hp)
  · intro p hp q hq he
    rcases List.mem_append.1 hp with hp | hp <;> rcases List.mem_append.1 hq with hq | hq
    · exact h1.group p hp q hq he
    · exact absurd he (hapart p hp q hq)
    · exact absurd he.symm (hapart q hq p hp)
    · exact h2.group p hp q hq he
  · intro j hj hjk i hi
    rcases List.mem_cons.1 hjk with hjk | hjk
    · obtain ⟨p, hp, hc⟩ := h1.covered j hj (List.mem_singleton.2 hjk) i hi
      exact ⟨p, List.mem_append_left _ hp, hc⟩
    · obtain ⟨p, hp, hc⟩ := h2.covered j hj hjk i hi
      exact ⟨p, List.mem_append_right _ hp, hc⟩
/-- The stores of a part lane by lane, as one group. -/
theorem of_lanes {t : Ty} {mine : List Nat} {grp : Nat} (hmine : ∀ j, j ∈ mine ↔ j ∈ act ∧ j * laneBytes t / 8 = k) (hgrp : grp ≠ 0)
    (hmap : new.map PStore.piece = mine.map (fun j => (l + j * laneBytes t, laneData t x j))) (hg : ∀ p ∈ new, p.grp = grp) :
    BlockStored x l (laneBytes t) act [k] new := by
  have hof (p : PStore) (hp : p ∈ new) : ∃ j ∈ mine, p.loc = l + j * laneBytes t ∧ p.data = laneData t x j := by
    have hmem : p.piece ∈ mine.map (fun j => (l + j * laneBytes t, laneData t x j)) := hmap ▸ List.mem_map_of_mem hp
    obtain ⟨j, hj, he⟩ := List.mem_map.1 hmem
    exact ⟨j, hj, (congrArg Prod.fst he).symm, (congrArg Prod.snd he).symm⟩
  constructor
  · intro p hp
    obtain ⟨j, hj, hloc, hdata⟩ := hof p hp
    refine ⟨by omega, fun i hi => ?_⟩
    simp only [hdata, getElem_laneData, hloc, Nat.add_sub_cancel_left, Nat.mul_comm j]
  · intro p hp i hi
    obtain ⟨j, hj, hloc, hdata⟩ := hof p hp
    rw [hdata, length_laneData] at hi
    exact ⟨j, ((hmine j).1 hj).1, by omega, by omega⟩
  · intro p hp
    obtain ⟨j, hj, hloc, -⟩ := hof p hp
    rw [hloc, Nat.add_sub_cancel_left, ((hmine j).1 hj).2]
    exact List.mem_singleton_self k
  · intro p hp q hq _
    rw [hg p hp, hg q hq]
    exact .inr ⟨hgrp, rfl⟩
  · intro j hj hk i hi
    have hmem : (l + j * laneBytes t, laneData t x j) ∈ new.map PStore.piece := by
      rw [hmap]
      exact List.mem_map.2 ⟨j, (hmine j).2 ⟨hj, List.mem_singleton.1 hk⟩, rfl⟩
    obtain ⟨p, hp, he⟩ := List.mem_map.1 hmem
    have hloc : p.loc = l + j * laneBytes t := congrArg Prod.fst he
    have hdata : p.data = laneData t x j := congrArg Prod.snd he
    exact ⟨p, hp, by omega, by rw [hdata, length_laneData]; omega⟩
/-- The store of a whole part. -/
theorem of_part {p : PStore} {q : Nat} (hnq : n * q = 8) (hact : ∀ j, j / q = k → j ∈ act) (hloc : p.loc = l + 8 * k)
    (hdata : p.data = leBytes 8 (elemBits 64 k x)) : BlockStored x l n act [k] [p] := by
  have hq : 0 < q := Nat.pos_of_ne_zero (by rintro rfl; simp at hnq)
  have hlen : p.data.length = 8 := by rw [hdata, length_leBytes]
  have hpart (j : Nat) : j * n / 8 = j / q := by
    rw [← hnq, Nat.mul_comm j, Nat.mul_div_mul_left _ _ (Nat.pos_of_ne_zero (by rintro rfl; simp at hnq))]
  constructor
  · intro p' hp
    rw [List.mem_singleton.1 hp]
    refine ⟨by omega, fun i hi => ?_⟩
    simp only [hdata, hloc, Nat.add_sub_cancel_left]
    exact getElem_elemBytes (n := 8) _
  · intro p' hp i hi
    rw [List.mem_singleton.1 hp, hlen] at hi
    rw [List.mem_singleton.1 hp, hloc]
    have hn : 0 < n := Nat.pos_of_ne_zero (by rintro rfl; simp at hnq)
    refine ⟨(8 * k + i) / n, hact _ ?_, ?_, ?_⟩
    · rw [Nat.div_div_eq_div_mul, hnq]; omega
    · have := Nat.div_mul_le_self (8 * k + i) n
      omega
    · have := Nat.lt_div_mul_add hn (a := 8 * k + i)
      omega
  · intro p' hp
    rw [List.mem_singleton.1 hp, hloc, Nat.add_sub_cancel_left, Nat.mul_div_cancel_left k (by decide)]
    exact List.mem_singleton_self k
  · intro p' hp q' hq' _
    exact .inl ((List.mem_singleton.1 hp).trans (List.mem_singleton.1 hq').symm)
  · intro j hj hk i hi
    refine ⟨p, List.mem_singleton_self p, ?_⟩
    have hjk : j / q = k := (hpart j).symm.trans (List.mem_singleton.1 hk)
    have hlo : k * q ≤ j := by rw [← hjk]; exact Nat.div_mul_le_self j q
    have hhi : j + 1 ≤ (k + 1) * q := by
      have := Nat.lt_div_mul_add hq (a := j)
      rw [← hjk, Nat.add_mul, Nat.one_mul]; omega
    have hlo' : 8 * k ≤ j * n := by
      calc 8 * k = (k * q) * n := by rw [← hnq]; ring
        _ ≤ j * n := Nat.mul_le_mul_right n hlo
    have hhi' : j * n + n ≤ 8 * k + 8 := by
      calc j * n + n = (j + 1) * n := by ring
        _ ≤ ((k + 1) * q) * n := Nat.mul_le_mul_right n hhi
        _ = (n * q) * (k + 1) := by ring
        _ = 8 * k + 8 := by rw [hnq]; ring
    exact ⟨by omega, by omega⟩
end BlockStored

/-- Where a part has all its lanes, its first lies where the part does. -/
theorem part_full {q k : Nat} {mine : List Nat} (hq : 0 < q) (hs : mine.Pairwise (· < ·)) (hmine : ∀ j ∈ mine, j / q = k)
    (hlen : mine.length = q) : mine = List.range' (k * q) q := by
  have hsub : mine ⊆ List.range' (k * q) q := by
    intro j hj
    have hjk := hmine j hj
    have h1 := Nat.div_mul_le_self j q
    have h2 := Nat.lt_div_mul_add hq (a := j)
    rw [hjk] at h1 h2
    exact List.mem_range'_1.2 ⟨h1, h2⟩
  have hnodup : mine.Nodup := hs.imp fun h => Nat.ne_of_lt h
  have hperm : mine.Perm (List.range' (k * q) q) :=
    (List.subperm_of_subset hnodup hsub).perm_of_length_le (by rw [List.length_range', hlen])
  exact hperm.eq_of_pairwise' (hs.imp Nat.le_of_lt) (List.pairwise_le_range' (s := k * q) (n := q))

/-! ## Part by part -/

/-- The places of the lanes `act` of the block at `l`. -/
def placesIn (l n : Nat) (act : List Nat) : List (Nat × Nat) := act.map (fun j => (j, l + j * n))
theorem filter_placesIn (t : Ty) (l k : Nat) (act : List Nat) :
    (placesIn l (laneBytes t) act).filter (fun c => blockPart t c.1 == k) = placesIn l (laneBytes t) (act.filter (fun j => blockPart t j == k)) := by
  rw [placesIn, List.filter_map]
  rfl
theorem blockPart_eq {t : Ty} {q : Nat} (hq : laneBytes t * q = 8) (j : Nat) : blockPart t j = j / q := by
  rw [blockPart, ← hq, Nat.mul_comm j, Nat.mul_div_mul_left _ _ (laneBytes_pos t)]
theorem writePart_pends (t : Ty) (x : B512) (l k : Nat) {act : List Nat} (ha : act.Pairwise (· < ·)) {s : State} (hs : s.Unshown) :
    ∃ u new, (writePart t x (placesIn l (laneBytes t) act) k).run s = .ok ((), u) ∧ Pends s u new ∧
      BlockStored x l (laneBytes t) act [k] new := by
  obtain ⟨q, hq⟩ := laneBytes_dvd t
  have hq0 : 0 < q := Nat.pos_of_ne_zero (by rintro rfl; simp at hq)
  have hpart := blockPart_eq hq.symm
  let mine := act.filter (fun j => blockPart t j == k)
  have hmine (j : Nat) : j ∈ mine ↔ j ∈ act ∧ j * laneBytes t / 8 = k := by
    rw [List.mem_filter, beq_iff_eq, blockPart]
  have hfilter : (placesIn l (laneBytes t) act).filter (fun c => blockPart t c.1 == k) = placesIn l (laneBytes t) mine :=
    filter_placesIn t l k act
  rw [writePart]
  cases hcase : mine with
  | nil =>
    refine ⟨s, [], ?_, .refl s, .nil fun j hj hk => ?_⟩
    · simp only [hfilter, hcase]; rfl
    · have hnone := (hmine j).2 ⟨hj, List.mem_singleton.1 hk⟩
      rw [hcase] at hnone
      simp at hnone
  | cons j js =>
    by_cases hfull : mine.length = q
    · have hall : mine = List.range' (k * q) q :=
        part_full hq0 (ha.filter _) (fun j hj => by rw [← hpart]; exact beq_iff_eq.1 (List.mem_filter.1 hj).2) hfull
      have hhead : j = k * q := by
        obtain ⟨q', rfl⟩ := Nat.exists_eq_succ_of_ne_zero (Nat.ne_of_gt hq0)
        rw [hcase, List.range'_succ] at hall
        exact (List.cons.inj hall).1
      obtain ⟨u, hrun, hp⟩ := storeLoc_pends hs (l + j * laneBytes t) (leBytes 8 (elemBits 64 k x)) 0
      refine ⟨u, _, ?_, hp, .of_part hq.symm (fun i hi => ?_) ?_ rfl⟩
      · simp only [hfilter, hcase]
        have hlen : (placesIn l (laneBytes t) (j :: js)).length * laneBytes t = 8 := by
          rw [placesIn, List.length_map, ← hcase, hfull, Nat.mul_comm, ← hq]
        show StateT.run (if _ then _ else _) s = _
        rw [if_pos hlen]
        exact hrun
      · refine ((hmine i).1 ?_).1
        have h1 := Nat.div_mul_le_self i q
        have h2 := Nat.lt_div_mul_add hq0 (a := i)
        rw [hi] at h1 h2
        rw [hall]
        exact List.mem_range'_1.2 ⟨h1, h2⟩
      · show l + j * laneBytes t = l + 8 * k
        rw [hhead, hq]; ring
    · obtain ⟨u, new, hrun, hp, hmap, hgrp⟩ := writeLanes_pends t x (s.nextSer + 1) (placesIn l (laneBytes t) mine) hs
      refine ⟨u, new, ?_, hp, .of_lanes hmine (Nat.succ_ne_zero _) (hmap.trans ?_) hgrp⟩
      · have hlen : ¬ (placesIn l (laneBytes t) (j :: js)).length * laneBytes t = 8 := by
          rw [placesIn, List.length_map, ← hcase]
          intro he
          refine hfull (Nat.eq_of_mul_eq_mul_right (laneBytes_pos t) (he.trans ?_))
          rw [hq, Nat.mul_comm]
        simp only [hfilter, hcase] at hrun ⊢
        show StateT.run (if _ then _ else _) s = _
        rw [if_neg hlen]
        exact hrun
      · rw [placesIn, List.map_map]; rfl
theorem writeBlock_pends (t : Ty) (x : B512) (l : Nat) {act : List Nat} (ha : act.Pairwise (· < ·)) {ks : List Nat} (hks : ks.Nodup)
    {s : State} (hs : s.Unshown) :
    ∃ u new, (writeBlock t x (placesIn l (laneBytes t) act) ks).run s = .ok ((), u) ∧ Pends s u new ∧
      BlockStored x l (laneBytes t) act ks new := by
  induction ks generalizing s with
  | nil => exact ⟨s, [], rfl, .refl s, .nil fun _ _ => List.not_mem_nil⟩
  | cons k ks ih =>
    obtain ⟨hk, hks⟩ := List.nodup_cons.1 hks
    obtain ⟨s1, new1, hrun1, hp1, hb1⟩ := writePart_pends t x l k ha hs
    obtain ⟨u, new, hrun, hp, hb⟩ := ih hks (hp1.unshown hs)
    exact ⟨u, new1 ++ new, (run_bind_ok hrun1).trans hrun, hp1.trans hp, hb1.append hk hb⟩

end Sys2Proof.Machine
end

section
/-! # Vector memory access (R126 to R129) -/
open Sys2Proof
namespace Sys2Proof.Machine

/-! ## Reads keep the running slot -/

theorem Reads.cur {s t : State} {r : SReg} {x : B64} (h : Reads s r x t) : t.cur = s.cur :=
  (Exec.Ends.of_ok (Exec.VecKeeps.readS (d := 0)) h).cur
theorem ReadsV.cur {s t : State} {r : VReg} {x : B512} (h : ReadsV s r x t) : t.cur = s.cur :=
  (Exec.Ends.of_ok (Exec.VecKeeps.readV (d := 0)) h).cur
theorem ReadsM.cur {s t : State} {m : MReg} {mk : B64} (h : ReadsM s m mk t) : t.cur = s.cur := by rw [h.state_eq]

/-! ## What the stores of a vector store leave to read -/

/-- The stores `new` give back the lane `j` of a register from location `l`. -/
def GivesLane (new : List PStore) (t : Ty) (x : B512) (j l : Nat) : Prop :=
  ∀ i < laneBytes t, ∀ b, new.foldl (PStore.over (l + i)) b = regByte x (laneBytes t * j + i)
/-- Stored lane by lane, ascending, a lane is there that no higher one overlaps. -/
theorem givesLane_of_lanes {t : Ty} {x : B512} {act : List Nat} {at_ : Nat → Nat} {new : List PStore} (ha : act.Pairwise (· < ·))
    (hmap : new.map PStore.piece = act.map (fun j => (at_ j, laneData t x j))) {j : Nat} (hj : j ∈ act)
    (hclear : ∀ k ∈ act, j < k → at_ k + laneBytes t ≤ at_ j ∨ at_ j + laneBytes t ≤ at_ k) : GivesLane new t x j (at_ j) := by
  intro i hi b
  obtain ⟨low, high, rfl⟩ := List.append_of_mem hj
  rw [List.map_append, List.map_cons] at hmap
  obtain ⟨pre, rest, rfl, -, hrest⟩ := List.map_eq_append_iff.1 hmap
  obtain ⟨p, post, rfl, hp, hpost⟩ := List.map_eq_cons_iff.1 hrest
  have hloc : p.loc = at_ j := congrArg Prod.fst hp
  have hdata : p.data = laneData t x j := congrArg Prod.snd hp
  have hcov : p.Covers (at_ j + i) := ⟨by omega, by rw [hdata, length_laneData]; omega⟩
  have hout : ∀ q ∈ post, ¬ q.Covers (at_ j + i) := by
    intro q hq
    have hmem : q.piece ∈ high.map (fun j => (at_ j, laneData t x j)) := hpost ▸ List.mem_map_of_mem hq
    obtain ⟨k, hk, he⟩ := List.mem_map.1 hmem
    have hql : q.loc = at_ k := (congrArg Prod.fst he).symm
    have hqd : q.data = laneData t x k := (congrArg Prod.snd he).symm
    have hjk : j < k := List.rel_of_pairwise_cons (List.pairwise_append.1 ha).2.1 hk
    have hapart := hclear k (List.mem_append_right _ (List.mem_cons_of_mem _ hk)) hjk
    rintro ⟨h1, h2⟩
    rw [hqd, length_laneData] at h2
    omega
  rw [foldl_over_last hcov hout]
  simp only [hdata, hloc, Nat.add_sub_cancel_left]
  exact getElem_laneData _
/-- Each byte that a store of a block leaves is the register's at that place. -/
theorem BlockStored.over_eq {x : B512} {l n : Nat} {act ks : List Nat} {new : List PStore} (h : BlockStored x l n act ks new) {p : PStore}
    (hp : p ∈ new) {a : Nat} (hc : p.Covers a) (b : Byte) : PStore.over a b p = regByte x (a - l) := by
  obtain ⟨hl, hbytes⟩ := h.bytes p hp
  obtain ⟨h1, h2⟩ := hc
  rw [PStore.over_of_covers ⟨h1, h2⟩, List.getD_eq_getElem _ _ (by omega), hbytes _ (by omega)]
  congr 1
  omega
theorem BlockStored.givesLane {t : Ty} {x : B512} {l : Nat} {act ks : List Nat} {new : List PStore}
    (h : BlockStored x l (laneBytes t) act ks new) {j : Nat} (hj : j ∈ act) (hk : j * laneBytes t / 8 ∈ ks) :
    GivesLane new t x j (l + j * laneBytes t) := by
  intro i hi b
  refine foldl_over_agree (fun p hp hc b => ?_) (h.covered j hj hk i hi) b
  rw [h.over_eq hp hc, Nat.add_assoc, Nat.add_sub_cancel_left, Nat.mul_comm]

/-- The state `t`, once a vector store has retired that found `s` with nothing pending: memory is as it was, the lanes `act` are read back
from their places, and nothing else is pending. -/
structure VecStored (s t : State) (ty : Ty) (x : B512) (act : List Nat) (at_ : Nat → Nat) : Prop where
  mem : SameMem s t
  pc : t.me.pc = s.me.pc + 4
  v : t.me.v = s.me.v
  scalars : t.me.s = s.me.s
  back : ∀ j ∈ act, (∀ k ∈ act, j < k → at_ k + laneBytes ty ≤ at_ j ∨ at_ j + laneBytes ty ≤ at_ k) →
    leNat (t.readFor t.cur (at_ j) (laneBytes ty)) = elemBits ty.width j x
  inside : ∀ p ∈ t.stores, p.tid = s.cur ∧ ∀ i < p.data.length, ∃ j ∈ act, at_ j ≤ p.loc + i ∧ p.loc + i < at_ j + laneBytes ty
theorem Pends.stores_eq {s t : State} {new : List PStore} (h : Pends s t new) (hs : s.stores = []) : t.stores = new := by
  rw [h.eq, hs]; rfl
theorem Pends.vecStored {s u : State} {new : List PStore} {ty : Ty} {x : B512} {act : List Nat} {at_ : Nat → Nat} (h : Pends s u new)
    (hs : s.stores = [])
    (hback : ∀ j ∈ act, (∀ k ∈ act, j < k → at_ k + laneBytes ty ≤ at_ j ∨ at_ j + laneBytes ty ≤ at_ k) → GivesLane new ty x j (at_ j))
    (hin : ∀ p ∈ new, ∀ i < p.data.length, ∃ j ∈ act, at_ j ≤ p.loc + i ∧ p.loc + i < at_ j + laneBytes ty) :
    VecStored s (u.retire 4) ty x act at_ := by
  have hstores : (u.retire 4).stores = new := h.stores_eq hs
  have hcur : u.cur = s.cur := by rw [h.eq]
  have hme : u.me = s.me := by rw [h.eq]; rfl
  have hmem : u.mem = s.mem := by rw [h.eq]
  have hown : (u.retire 4).OwnStores := by
    intro p hp
    rw [hstores] at hp
    obtain ⟨htid, hdead, -⟩ := h.own p hp
    exact ⟨htid.trans hcur.symm, hdead⟩
  refine ⟨fun a => congrArg (readByte · a) hmem, ?_, ?_, ?_, fun j hj hclear => ?_, fun p hp => ?_⟩
  · rw [State.me_retire, hme]; rfl
  · rw [State.me_retired, hme]
  · rw [State.me_retired, hme]
  · have hread : (u.retire 4).readFor (u.retire 4).cur (at_ j) (laneBytes ty) = laneData ty x j := by
      refine State.readFor_own hown _ _ (length_laneData ty x j) fun i hi b => ?_
      rw [hstores, getElem_laneData]
      exact hback j hj hclear i (by rwa [length_laneData] at hi) b
    rw [hread, leNat_laneData]
  · rw [hstores] at hp
    exact ⟨(h.own p hp).1, hin p hp⟩

/-! ## The ends of the vector loads -/

section
variable {s0 s u : State} {t : Ty} {mk : B64} {d : VReg} {old w : B512} {part : Nat → Nat}

theorem AtHand.counted {v : State} {n l : Nat} (hc : CountsOnly s v) (h : AtHand s0 s n l) : AtHand s0 v n l := by
  rw [AtHand, hc.core, hc.curCore]
  exact h
/-- The lanes of a strided or gathered load. -/
theorem scatteredLoad_runs {addr : Nat → B64} {ls : Nat → Nat} (hq : s.Quiet) (hsplit : s0.me.split = 0) (hgot : s0.me.phase.got = [])
    (h : ∀ j ∈ activeLanes t.lanes mk, (addr j).toNat % laneBytes t = 0 ∧ s.Selects .read (addr j) (ls j) ∧
      AtHand s0 s (laneBytes t) (ls j))
    (hl : CopyLanes t mk (fun j => leNat (readBytes s.mem (ls j) (laneBytes t))) old w)
    (hw : WritesV (s.translatedAll ((activeLanes t.lanes mk).map addr)) d w u) :
    (do
      let places ← lanePlaces .read (laneBytes t) ((activeLanes t.lanes mk).map (fun j => (j, addr j)))
      loadLanes s0 t d old part places : Exec Unit).run s = .ok ((), u) := by
  have hc : CountsOnly s (s.translatedAll ((activeLanes t.lanes mk).map addr)) := .translatedAll hq.2 _
  rw [run_bind_ok (lanePlaces_runs hq.2 _ fun j hj => ⟨(h j hj).1, (h j hj).2.1⟩)]
  exact loadLanes_runs (hc.quiet hq) hsplit hgot (fun j hj => (h j hj).2.2.counted hc) (by rwa [hc.mem]) hw
/-- The lanes of a block load. -/
theorem blockLoad_runs {va : B64} {l : Nat} (hq : s.Quiet) (hsplit : s0.me.split = 0) (hgot : s0.me.phase.got = [])
    (h : activeLanes t.lanes mk ≠ [] → va.toNat % 64 = 0 ∧ s.Selects .read va l ∧
      ∀ j ∈ activeLanes t.lanes mk, AtHand s0 s (laneBytes t) (l + j * laneBytes t))
    (hl : CopyLanes t mk (fun j => leNat (readBytes s.mem (l + j * laneBytes t) (laneBytes t))) old w)
    (hw : WritesV (s.translatedAll (if activeLanes t.lanes mk = [] then [] else [va])) d w u) :
    (do
      let places ← blockPlaces .read (laneBytes t) va (activeLanes t.lanes mk)
      loadLanes s0 t d old part places : Exec Unit).run s = .ok ((), u) := by
  have hc : CountsOnly s (s.translatedAll (if activeLanes t.lanes mk = [] then [] else [va])) := .translatedAll hq.2 _
  rw [run_bind_ok (blockPlaces_runs fun ha => ⟨(h ha).1, (h ha).2.1⟩)]
  exact loadLanes_runs (hc.quiet hq) hsplit hgot (fun j hj => ((h (List.ne_nil_of_mem hj)).2.2 j hj).counted hc) (by rwa [hc.mem]) hw

end

/-! ## The ends of the vector stores -/

theorem pairwise_activeLanes (n : Nat) (mk : B64) : (activeLanes n mk).Pairwise (· < ·) := List.pairwise_lt_range.filter _
theorem State.unshown_of_no_stores {s : State} (h : s.stores = []) : s.Unshown := fun p hp => by simp [h] at hp
/-- The lanes of a strided or scattered store. -/
theorem scattered_runs {s : State} (hq : s.Quiet) {t : Ty} {x : B512} {mk : B64} {addr : Nat → B64} {ls : Nat → Nat}
    (h : ∀ j ∈ activeLanes t.lanes mk, (addr j).toNat % laneBytes t = 0 ∧ s.Selects .write (addr j) (ls j) ∧
      ((spadCore (ls j)).isSome = true → (s.core s.curCore).ksq = [])) :
    ∃ u, (do
        let places ← lanePlaces .write (laneBytes t) ((activeLanes t.lanes mk).map (fun j => (j, addr j)))
        allFiled places
        writeLanes t x 0 places : Exec Unit).run s = .ok ((), u) ∧
      VecStored (s.translatedAll ((activeLanes t.lanes mk).map addr)) (u.retire 4) t x (activeLanes t.lanes mk) ls := by
  let act := activeLanes t.lanes mk
  have hc : CountsOnly s (s.translatedAll (act.map addr)) := .translatedAll hq.2 _
  have hstores := (hc.quiet hq).1
  obtain ⟨u, new, hrun, hp, hmap, -⟩ := writeLanes_pends t x 0 (act.map (fun j => (j, ls j))) (State.unshown_of_no_stores hstores)
  rw [List.map_map] at hmap
  refine ⟨u, ?_, hp.vecStored hstores (fun j hj => givesLane_of_lanes (pairwise_activeLanes _ _) hmap hj) fun p hp i hi => ?_⟩
  · rw [run_bind_ok (lanePlaces_runs hq.2 act fun j hj => ⟨(h j hj).1, (h j hj).2.1⟩), run_bind_ok (allFiled_runs fun c hcm => ?_)]
    · exact hrun
    · obtain ⟨j, hj, rfl⟩ := List.mem_map.1 hcm
      rw [hc.core, hc.curCore]
      exact (h j hj).2.2
  · have hmem : p.piece ∈ act.map ((fun c => (c.2, laneData t x c.1)) ∘ fun j => (j, ls j)) := hmap ▸ List.mem_map_of_mem hp
    obtain ⟨j, hj, he⟩ := List.mem_map.1 hmem
    have hloc : ls j = p.loc := congrArg Prod.fst he
    have hdata : laneData t x j = p.data := congrArg Prod.snd he
    rw [← hdata, length_laneData] at hi
    exact ⟨j, hj, by omega, by omega⟩
theorem lane_part_lt {t : Ty} {j : Nat} (h : j < t.lanes) : j * laneBytes t / 8 < 8 := by
  have hfull : t.lanes * laneBytes t = 64 := by cases t <;> rfl
  have hlt := Nat.mul_lt_mul_of_pos_right h (laneBytes_pos t)
  omega
/-- The parts of a block store. -/
theorem block_runs {s : State} (hq : s.Quiet) {t : Ty} {x : B512} {mk va : B64} {l : Nat}
    (h : activeLanes t.lanes mk ≠ [] → va.toNat % 64 = 0 ∧ s.Selects .write va l ∧
      ∀ j ∈ activeLanes t.lanes mk, (spadCore (l + j * laneBytes t)).isSome = true → (s.core s.curCore).ksq = []) :
    ∃ u new, (do
        let places ← blockPlaces .write (laneBytes t) va (activeLanes t.lanes mk)
        allFiled places
        writeBlock t x places (List.range 8) : Exec Unit).run s = .ok ((), u) ∧ u.stores = new ∧
      VecStored (s.translatedAll (if activeLanes t.lanes mk = [] then [] else [va])) (u.retire 4) t x (activeLanes t.lanes mk)
        (fun j => l + j * laneBytes t) ∧
      BlockStored x l (laneBytes t) (activeLanes t.lanes mk) (List.range 8) new := by
  let act := activeLanes t.lanes mk
  have hc : CountsOnly s (s.translatedAll (if act = [] then [] else [va])) := .translatedAll hq.2 _
  have hstores := (hc.quiet hq).1
  obtain ⟨u, new, hrun, hp, hb⟩ := writeBlock_pends t x l (pairwise_activeLanes t.lanes mk) (List.nodup_range (n := 8))
    (State.unshown_of_no_stores hstores)
  refine ⟨u, new, ?_, hp.stores_eq hstores, hp.vecStored hstores (fun j hj _ => ?_) hb.inside, hb⟩
  · rw [run_bind_ok (blockPlaces_runs fun ha => ⟨(h ha).1, (h ha).2.1⟩), run_bind_ok (allFiled_runs fun c hcm => ?_)]
    · exact hrun
    · obtain ⟨j, hj, rfl⟩ := List.mem_map.1 hcm
      rw [hc.core, hc.curCore]
      exact (h (List.ne_nil_of_mem hj)).2.2 j hj
  · exact hb.givesLane hj (List.mem_range.2 (lane_part_lt (List.mem_range.1 (List.mem_filter.1 hj).1)))

/-! ## The statement -/

/-- What O37 says of a vector store that runs in `s` with its operands, the translations counted, from `u`. -/
theorem VecStored.stated {s u t : State} {ty : Ty} {x : B512} {act : List Nat} {at_ : Nat → Nat} {as : List B64} {i : Instr}
    {P : State → Prop} (h : VecStored (u.translatedAll as) t ty x act at_) (hu : u.upd = []) (hcur : u.cur = s.cur)
    (hi : exec i s = .next t) (hP : P t) :
    ∃ t, exec i s = .next t ∧ SameMem (u.translatedAll as) t ∧ t.me.pc = u.me.pc + 4 ∧ t.me.v = u.me.v ∧ t.me.s = u.me.s ∧
      (∀ j ∈ act, (∀ k ∈ act, j < k → at_ k + ty.width / 8 ≤ at_ j ∨ at_ j + ty.width / 8 ≤ at_ k) →
        leNat (t.readFor t.cur (at_ j) (ty.width / 8)) = elemBits ty.width j x) ∧
      (∀ p ∈ t.stores, p.tid = s.cur ∧ ∀ i < p.data.length, ∃ j ∈ act, at_ j ≤ p.loc + i ∧ p.loc + i < at_ j + ty.width / 8) ∧ P t := by
  have hc : CountsOnly u (u.translatedAll as) := .translatedAll hu as
  refine ⟨t, hi, h.mem, ?_, ?_, ?_, h.back, fun p hp => ?_, hP⟩
  · rw [h.pc, hc.me]
  · rw [h.v, hc.me]
  · rw [h.scalars, hc.me]
  · rw [← hcur, ← hc.cur]
    exact h.inside p hp
/-- An instruction whose body, its operands read, goes on as `rest` in `u`. -/
theorem next_of_rest {i : Instr} {body rest : Exec Unit} {s u v : State} (hi : exec i s = .next (runI 4 body s))
    (hbody : body.run s = rest.run u) (hrest : rest.run u = .ok ((), v)) : exec i s = .next (v.retire 4) :=
  hi.trans (next_retire (hbody.trans hrest))

/-- Settles O37: with nothing pending a load reads its lanes from memory and writes them once, and a store leaves pending, of the current
thread, what its lanes hold and nothing else. -/
theorem vectorMemory : Obligations.VectorMemory := by
  unfold Obligations.VectorMemory
  refine ⟨?_, ?_⟩
  · intro s s1 s2 s3 t ty m d a c b va st y w mk l ls n act near each loaded stride offset hd hva
    refine ⟨fun hmk hl hs hu hsplit hgot hw hwr => ?_, fun hst hmk he hs hu hsplit hgot hw hwr => ?_,
      fun hy hmk he hs hu hsplit hgot hw hwr => ?_⟩
    · refine next_of_rest rfl ?_ (blockLoad_runs (part := blockPart ty) ⟨hs, hu⟩ hsplit hgot hl hw hwr)
      rw [run_bind_ok (run_get s), run_bind_ok hd.destOk, run_bind_ok hd.oldV, run_bind_ok hva, run_bind_ok hmk]
    · refine next_of_rest rfl ?_ (scatteredLoad_runs (part := id) ⟨hs, hu⟩ hsplit hgot he hw hwr)
      rw [run_bind_ok (run_get s), run_bind_ok hd.destOk, run_bind_ok hd.oldV, run_bind_ok hva, run_bind_ok hst, run_bind_ok hmk]
      rfl
    · refine next_of_rest rfl ?_ (scatteredLoad_runs (part := id) ⟨hs, hu⟩ hsplit hgot he hw hwr)
      rw [run_bind_ok (run_get s), run_bind_ok hd.destOk, run_bind_ok hd.oldV, run_bind_ok hva, run_bind_ok hy, run_bind_ok hmk]
      rfl
  · intro s s1 s2 s3 s4 ty m d b a c va st x y mk l ls n act near each stores stride offset
    refine ⟨fun hva hx hmk hl hs hu => ?_, fun hx hva hst hmk he hs hu => ?_, fun hx hva hy hmk he hs hu => ?_⟩
    · obtain ⟨u, new, hrun, hnew, hv, hb⟩ := block_runs (x := x) ⟨hs, hu⟩ hl
      refine hv.stated hu (hmk.cur.trans (hx.cur.trans hva.cur)) (next_of_rest rfl ?_ hrun) ?_
      · rw [run_bind_ok hva, run_bind_ok hx, run_bind_ok hmk]
      · rw [show (u.retire 4).stores = new from hnew]
        exact hb.group
    · obtain ⟨u, hrun, hv⟩ := scattered_runs (x := x) ⟨hs, hu⟩ he
      refine hv.stated hu (hmk.cur.trans (hst.cur.trans (hva.cur.trans hx.cur))) (next_of_rest rfl ?_ hrun) trivial
      rw [run_bind_ok hx, run_bind_ok hva, run_bind_ok hst, run_bind_ok hmk]
      rfl
    · obtain ⟨u, hrun, hv⟩ := scattered_runs (x := x) ⟨hs, hu⟩ he
      refine hv.stated hu (hmk.cur.trans (hy.cur.trans (hva.cur.trans hx.cur))) (next_of_rest rfl ?_ hrun) trivial
      rw [run_bind_ok hx, run_bind_ok hva, run_bind_ok hy, run_bind_ok hmk]
      rfl

end Sys2Proof.Machine
end

section
/-! # Bytes that no pending store, copy or spill queue covers (R33, R39, R40) -/
open Sys2Proof
namespace Sys2Proof.Machine

/-! ## What lies apart from a byte -/

/-- A pending store covers the byte `x` neither itself nor by the line it combines into. -/
def PStore.Apart (x : Nat) (p : PStore) : Prop :=
  (x < p.loc ∨ p.loc + p.data.length ≤ x) ∧ (p.comb.isSome = true → x / 256 ≠ p.loc / 256)
/-- An Update-only copy is of another line than that of the byte `x`, and its elements lie in its line. -/
def UpdLine.Apart (x : Nat) (u : UpdLine) : Prop :=
  x / 256 ≠ u.line ∧ ∀ e ∈ u.elems.cells, (e.1 + 1) * updBytes u.w64 ≤ 256
/-- No Echo unit logs, and every Update-only copy and pending store lies apart from the byte `x`. -/
structure State.Apart (x : Nat) (s : State) : Prop where
  echo : s.fleet.echo.cells = []
  upd : ∀ u ∈ s.upd, u.Apart x
  stores : ∀ p ∈ s.stores, p.Apart x
/-- From `s` to `t` the byte `x`, which lies apart from everything pending and in no area of a spill queue or record, keeps its value
and lies apart still. -/
def ByteKept (x : Nat) (s t : State) : Prop :=
  spillCore x 1 = none → s.Apart x → t.Apart x ∧ readByte t.mem x = readByte s.mem x

namespace ByteKept
variable {x : Nat} {s t u : State}

theorem refl (x : Nat) (s : State) : ByteKept x s s := fun _ h => ⟨h, rfl⟩
theorem trans (h1 : ByteKept x s t) (h2 : ByteKept x t u) : ByteKept x s u := by
  intro hx hs
  obtain ⟨ht, he⟩ := h1 hx hs
  obtain ⟨hu, he'⟩ := h2 hx ht
  exact ⟨hu, he'.trans he⟩
theorem foldl {α : Type} {f : State → α → State} {l : List α} (h : ∀ a ∈ l, ∀ s, ByteKept x s (f s a)) (s : State) :
    ByteKept x s (l.foldl f s) := by
  induction l generalizing s with
  | nil => exact refl x s
  | cons a l ih => exact (h a List.mem_cons_self s).trans (ih (fun b hb => h b (List.mem_cons_of_mem a hb)) _)
/-- A step that writes no memory and leaves no more pending. -/
theorem of_mem (hm : t.mem = s.mem) (he : t.fleet.echo = s.fleet.echo) (hu : t.upd ⊆ s.upd) (hs : t.stores ⊆ s.stores) : ByteKept x s t :=
  fun _ h => ⟨⟨by rw [he]; exact h.echo, fun u hu' => h.upd u (hu hu'), fun p hp => h.stores p (hs hp)⟩, by rw [hm]⟩
theorem count (core slot src n : Nat) : ByteKept x s (s.count core slot src n) := by
  unfold State.count
  extract_lets cr hit cnt
  split
  · exact of_mem rfl rfl (List.Subset.refl _) (List.Subset.refl _)
  · exact refl x s
/-- Memory that is written elsewhere. -/
theorem written {m : List Host.Cell} (h : spillCore x 1 = none → readByte m x = readByte s.mem x) : ByteKept x s { s with mem := m } :=
  fun hx hs => ⟨⟨hs.echo, hs.upd, hs.stores⟩, h hx⟩
theorem write {a : Nat} {bs : List Byte} (h : x < a ∨ a + bs.length ≤ x) : ByteKept x s { s with mem := writeBytes s.mem a bs } :=
  written fun _ => readByte_writeBytes_out bs s.mem a x h

/-! ## Recalls and merges (R39) -/

theorem echoBy (home : State → Nat → Nat → State) (loc src kind : Nat) (tag : BitVec 16) (dev : Nat) :
    ByteKept x s (s.echoBy home loc src kind tag dev) := by
  intro hx hs
  rw [State.echoBy, hs.echo]
  exact refl x s hx hs
theorem mergeElem {home : State → Nat → Nat → State} {u : UpdLine} (hu : u.Apart x) {c : Nat × B64} (hc : c ∈ u.elems.cells) :
    ByteKept x s (mergeElem home u s c) := by
  refine (write (s := s) (a := u.line * 256 + c.1 * updBytes u.w64) ?_).trans (echoBy _ _ _ _ _ _)
  obtain ⟨hline, hin⟩ := hu
  have hend : c.1 * updBytes u.w64 + updBytes u.w64 ≤ 256 := by
    have h := hin c hc
    rwa [Nat.add_mul, Nat.one_mul] at h
  rw [length_leBytes]
  omega
theorem mergeLine {home : State → Nat → Nat → State} {u : UpdLine} (hu : u.Apart x) : ByteKept x s (mergeLine home s u) :=
  (foldl (fun _ hc _ => mergeElem hu hc) s).trans (count _ _ _ _)
theorem mergeUpTo (n : Nat) (p : UpdLine → Bool) (s : State) : ByteKept x s (mergeUpTo n p s) := by
  induction n generalizing s with
  | zero => exact refl x s
  | succ n ih =>
    unfold Machine.mergeUpTo
    split
    · exact refl x s
    · next u hfind =>
      intro hx hs
      have hu : u.Apart x := hs.upd u (List.mem_of_find?_eq_some hfind)
      have herase : ByteKept x s { s with upd := s.upd.erase u } := of_mem rfl rfl List.erase_subset (List.Subset.refl _)
      exact (herase.trans ((mergeLine hu).trans (ih _))) hx hs
theorem mergeWhere (p : UpdLine → Bool) : ByteKept x s (s.mergeWhere p) := mergeUpTo _ p s

end ByteKept

/-! ## Spill queues and records (R33) -/

/-- A byte of a core's spill queues or overflow records. -/
theorem spillCore_of_area {k off x : Nat} (hoff : 0x30000 ≤ off ∧ off < 0x38000 ∨ 0x3C000 ≤ off ∧ off < 0x40000)
    (hx : x = spadLoc k off) : spillCore x 1 = some k := by
  unfold spadLoc at hx
  have hcore : spadCore x = some k := by
    rw [spadCore, if_pos (by omega)]
    congr 1
    omega
  rw [spillCore, hcore]
  refine if_pos ?_
  unfold spadLoc
  omega
theorem readByte_putBits {a lo n v x : Nat} (m : List Host.Cell) (h : x < a ∨ a + 8 ≤ x) : readByte (putBits a lo n v m) x = readByte m x :=
  readByte_writeBytes_out _ _ _ _ (by rwa [length_leBytes])
theorem msgFields_lt {m : Msg} {f : Nat × Nat × Nat × Nat} (h : f ∈ msgFields m) : f.1 + 8 ≤ 128 := by
  unfold msgFields at h
  rcases List.mem_append.1 h with h | h
  · rcases List.mem_append.1 h with h | h
    · simp only [List.mem_cons, List.not_mem_nil, or_false] at h
      rcases h with rfl | rfl | rfl | rfl | rfl | rfl <;> exact Nat.le_of_ble_eq_true rfl
    · cases hl : m.launch with
      | none =>
        rw [hl] at h
        simp only [List.mem_cons, List.not_mem_nil, or_false] at h
        rw [h]; decide
      | some l =>
        rw [hl] at h
        simp only [List.mem_cons, List.not_mem_nil, or_false] at h
        rcases h with rfl | rfl | rfl | rfl <;> exact Nat.le_of_ble_eq_true rfl
  · obtain ⟨v, hv, rfl⟩ := List.mem_map.1 h
    have hlt := List.snd_lt_of_mem_zipIdx hv
    rw [List.length_take] at hlt
    show 32 + 8 * v.2 + 8 ≤ 128
    omega
theorem foldl_readByte {α : Type} {f : List Host.Cell → α → List Host.Cell} {x : Nat} (l : List α)
    (h : ∀ a ∈ l, ∀ m, readByte (f m a) x = readByte m x) (m : List Host.Cell) : readByte (l.foldl f m) x = readByte m x := by
  induction l generalizing m with
  | nil => rfl
  | cons a l ih => exact (ih (fun b hb => h b (List.mem_cons_of_mem a hb)) _).trans (h a List.mem_cons_self m)
theorem readByte_putMsg {a x : Nat} (m : List Host.Cell) (y : Msg) (h : x < a ∨ a + 128 ≤ x) : readByte (putMsg m a y) x = readByte m x := by
  refine foldl_readByte _ (fun f hf m => readByte_putBits m ?_) m
  have hlt := msgFields_lt hf
  omega
theorem reserveOut_kept {x : Nat} {s : State} (core : Nat) : ByteKept x s (s.reserveOut core) := by
  refine ByteKept.written fun hx => foldl_readByte _ (fun e _ m => ?_) s.mem
  split
  · next k _ =>
    split
    · next hk =>
      refine readByte_writeBytes_out _ _ _ _ ?_
      by_contra hin
      have hlen : ((recordBytes e).take 64).length ≤ 64 := List.length_take_le _ _
      have harea := spillCore_of_area (k := core) (off := x - spadLoc core 0) (x := x) (by unfold recordLoc spadLoc at *; omega)
        (by unfold recordLoc spadLoc at *; omega)
      rw [harea] at hx
      cases hx
    · rfl
  · rfl
theorem ByteKept.spillOut {x : Nat} {s : State} (core : Nat) : ByteKept x s (s.spillOut core) := by
  refine (reserveOut_kept core).trans (ByteKept.written fun hx => foldl_readByte _ (fun q hq m => foldl_readByte _ (fun e he m => ?_) m) _)
  have hq : q.1 < 16 := of_decide_eq_true (List.mem_filter.1 hq).2
  have he : e.2 < 16 := by
    have hlt := List.snd_lt_of_mem_zipIdx he
    rw [List.length_take] at hlt
    omega
  refine readByte_putMsg _ _ ?_
  by_contra hin
  have harea := spillCore_of_area (k := core) (off := x - spadLoc core 0) (x := x) (by unfold spillLoc spadLoc at *; omega)
    (by unfold spillLoc spadLoc at *; omega)
  rw [harea] at hx
  cases hx

namespace ByteKept
variable {x : Nat} {s t u : State}

theorem modCore (k : Nat) (f : Core → Core) : ByteKept x s (s.modCore k f) := of_mem rfl rfl (List.Subset.refl _) (List.Subset.refl _)
theorem spillIn (core : Nat) : ByteKept x s (s.spillIn core) := of_mem rfl rfl (List.Subset.refl _) (List.Subset.refl _)
theorem spillSync (loc n : Nat) : ByteKept x s (s.spillSync loc n) := by
  unfold State.spillSync
  split
  · exact spillOut _
  · exact refl x s
theorem recalled (loc n : Nat) : ByteKept x s (s.recall loc n) := (mergeWhere _).trans (spillSync loc n)
theorem poke {loc : Nat} {data : List Byte} (h : x < loc ∨ loc + data.length ≤ x) : ByteKept x s (s.poke loc data) := by
  unfold State.poke
  split
  · exact write h
  · exact (spillOut _).trans ((write h).trans (spillIn _))
theorem portWrite {loc : Nat} {data : List Byte} (h : x < loc ∨ loc + data.length ≤ x) (src kind : Nat) (tag : BitVec 16) (dev : Nat) :
    ByteKept x s (s.portWrite src kind tag dev loc data) :=
  ((recalled _ _).trans (poke h)).trans (echoBy _ _ _ _ _ _)

/-! ## Stores that are performed (R40, R102) -/

theorem freshCtr : ByteKept x s s.freshCtr := of_mem rfl rfl (List.Subset.refl _) (List.Subset.refl _)
theorem l1Room (core line : Nat) : ByteKept x s (s.l1Room core line) := by
  unfold State.l1Room
  extract_lets ls
  split
  · exact refl x s
  · split
    · exact refl x s
    · exact freshCtr.trans ((mergeWhere _).trans (modCore _ _))
end ByteKept

theorem SMap.mem_cells_put {α : Type} {m : SMap α} {k : Nat} {v : α} {e : Nat × α} (h : e ∈ (m.put k v).cells) : e.1 = k ∨ e ∈ m.cells :=
  (mem_insertSorted h).imp (congrArg Prod.fst) fun h => (List.mem_filter.1 h).1
/-- The element of a location lies in the location's line. -/
theorem updIdx_le (loc : Nat) (w64 : Bool) : (loc % 256 / updBytes w64 + 1) * updBytes w64 ≤ 256 := by
  cases w64 with
  | false => show (loc % 256 / 4 + 1) * 4 ≤ 256; omega
  | true => show (loc % 256 / 8 + 1) * 8 ≤ 256; omega
theorem ByteKept.combine {x : Nat} {s : State} {loc : Nat} (h : x / 256 ≠ loc / 256) (tid ser : Nat) (op : UpdOp) (w64 : Bool) (b : B64)
    (tag : BitVec 16) : ByteKept x s (s.combine tid ser loc op w64 b tag) := by
  unfold State.combine
  extract_lets core line idx s1 mine s2 elems
  have h1 : ByteKept x s s1 := .mergeWhere _
  have h2 : ByteKept x s1 s2 := (ByteKept.l1Room _ _).trans (.modCore _ _)
  have hsame (u : UpdLine) (hu : u ∈ s1.upd) (hm : mine u = true) : u.w64 = w64 := by
    have hno := State.mergeWhere_none s _ hu
    rw [show (u.core == core && u.line == line) = true from hm, Bool.true_and, Bool.not_eq_false', Bool.and_eq_true] at hno
    exact eq_of_beq hno.2
  split
  · refine h1.trans fun hx hs => ⟨⟨hs.echo, fun u hu => ?_, hs.stores⟩, rfl⟩
    obtain ⟨u, hu1, rfl⟩ := List.mem_map.1 hu
    obtain ⟨hline, hin⟩ := hs.upd u hu1
    split
    · next hm =>
      refine ⟨hline, fun e he => ?_⟩
      rcases SMap.mem_cells_put he with hk | he
      · show (e.1 + 1) * updBytes u.w64 ≤ 256
        rw [hk, hsame u hu1 hm]
        exact updIdx_le loc w64
      · exact hin e he
    · exact ⟨hline, hin⟩
  · refine (h1.trans h2).trans fun hx hs => ⟨⟨hs.echo, fun u hu => ?_, hs.stores⟩, rfl⟩
    rcases List.mem_append.1 hu with hu | hu
    · exact hs.upd u hu
    · rw [List.mem_singleton.1 hu]
      refine ⟨h, fun e he => ?_⟩
      rcases SMap.mem_cells_put he with hk | he
      · rw [hk]
        exact updIdx_le loc w64
      · simp at he
theorem ByteKept.perform {x : Nat} {s : State} {p : PStore} (hp : p.Apart x) : ByteKept x s (s.perform p) := by
  obtain ⟨hout, hcomb⟩ := hp
  unfold State.perform
  extract_lets s1 s2
  have h1 : ByteKept x s s1 := by
    unfold s1
    split
    · exact .mergeWhere _
    · exact .refl x s
  have h2 : ByteKept x s1 s2 := .recalled _ _
  clear_value s1 s2
  split
  · exact h1.trans (.portWrite hout _ _ _ _)
  · next hc =>
    split
    · exact h1.trans (.combine (hcomb (by rw [hc]; rfl)) _ _ _ _ _ _)
    · exact (h1.trans h2).trans (.portWrite (by rwa [length_leBytes]) _ _ _ _)
theorem ByteKept.performAll {x : Nat} {s : State} {ps : List PStore} (h : ∀ p ∈ ps, p.Apart x) : ByteKept x s (s.performAll ps) := by
  intro hx hs
  obtain ⟨ht, hm⟩ := foldl (fun p hp _ => perform (h p hp)) s hx hs
  exact ⟨⟨ht.echo, ht.upd, fun p hp => hs.stores p (List.mem_filter.1 hp).1⟩, hm⟩

/-! ## Stores that are forced (R212) -/

theorem groupOf_sub {stores : List PStore} {p q : PStore} (h : q ∈ groupOf stores p) : q = p ∨ q ∈ stores := by
  unfold groupOf at h
  split at h
  · exact .inl (List.mem_singleton.1 h)
  · exact .inr (List.mem_filter.1 h).1
theorem chainOf_sub {stores : List PStore} {p q : PStore} (h : q ∈ chainOf stores p) : q = p ∨ q ∈ stores := by
  have hfold (l acc : List PStore) (hl : ∀ r ∈ l, r ∈ stores) (hacc : ∀ r ∈ acc, r = p ∨ r ∈ stores) :
      ∀ r ∈ l.foldr (fun q acc => if q.before stores acc then q :: acc else acc) acc, r = p ∨ r ∈ stores := by
    induction l with
    | nil => exact hacc
    | cons a l ih =>
      have ih := ih fun r hr => hl r (List.mem_cons_of_mem a hr)
      rw [List.foldr_cons]
      split
      · intro r hr
        rcases List.mem_cons.1 hr with rfl | hr
        · exact .inr (hl r List.mem_cons_self)
        · exact ih r hr
      · exact ih
  exact hfold _ _ (fun r hr => (List.mem_filter.1 hr).1) (fun r hr => groupOf_sub hr) q h

namespace ByteKept
variable {x : Nat} {s : State}

theorem force {p : PStore} (hp : p.Apart x) : ByteKept x s (s.force p) := by
  unfold State.force
  split
  · intro hx hs
    refine performAll (fun q hq => ?_) hx hs
    rcases chainOf_sub hq with rfl | hq
    · exact hp
    · exact hs.stores q hq
  · exact refl x s
theorem forceAll {ps : List PStore} (h : ∀ p ∈ ps, p ∈ s.stores) : ByteKept x s (ps.foldl State.force s) :=
  fun hx hs => foldl (fun p hp _ => force (hs.stores p (h p hp))) s hx hs
theorem observe (tid : Nat) (w : Party) (loc n : Nat) : ByteKept x s (s.observe tid w loc n) := by
  unfold State.observe
  split
  · exact refl x s
  · exact forceAll fun _ hp => (List.mem_filter.1 hp).1
theorem arrivals (p : PStore → Bool) : ByteKept x s (s.arrivals p) := by
  unfold State.arrivals
  extract_lets cand v
  split
  · exact refl x s
  · refine freshCtr.trans (forceAll fun q hq => ?_)
    obtain ⟨c, hc, rfl⟩ := List.mem_map.1 hq
    have hcand : c.1 ∈ cand := List.fst_mem_of_mem_zipIdx (List.mem_filter.1 hc).1
    exact (List.mem_filter.1 hcand).1

end ByteKept

end Sys2Proof.Machine
end

section
/-! # The traps of a vector form (R112, R113) -/
open Sys2Proof
namespace Sys2Proof.Machine

/-- What O45 says of the slots after a vector form with destination `d`: its frame holds, or its own slot has entered the handler, and
then no vector register nor flag has changed. -/
def VecTraps (d : VReg) (s t : State) : Prop :=
  ∀ k, VecBut d (k = s.cur) (s.thread k) (t.thread k) ∧
    (SameTrap (s.thread k) (t.thread k) ∨
      (k = s.cur ∧ (t.thread k).pc = tvecAddr (s.core s.curCore).tvec ∧ (t.thread k).tcause.getLsbD 15 = true ∧
        (t.thread k).v = (s.thread k).v ∧ (t.thread k).fflags = (s.thread k).fflags))
theorem VecSlots.traps {d : VReg} {s t : State} (h : VecSlots d s t) : VecTraps d s t := fun k => ⟨(h k).1, .inl (h k).2⟩
/-- Seen from its slots and trap vectors `t` is `s`, but for ports. -/
structure PortsApart (s t : State) : Prop where
  cur : t.cur = s.cur
  core : t.core = s.core
  thread : ∀ k, ∃ ports, t.thread k = { s.thread k with ports := ports }
theorem PortsApart.of_rest {s t : State} (h : t.rest = s.rest) : PortsApart s t where
  cur := show t.rest.cur = s.rest.cur by rw [h]
  core := funext (cores_of_rest h)
  thread k := ⟨(s.thread k).ports, by unfold State.thread; rw [threads_of_rest h]⟩
theorem PortsApart.setPorts (s : State) (ports : SMap Port) : PortsApart s (s.setThread s.cur { s.thread s.cur with ports := ports }) where
  cur := rfl
  core := rfl
  thread k := by
    by_cases hk : k = s.cur
    · subst hk; exact ⟨ports, State.thread_setThread_self _ _ _⟩
    · exact ⟨(s.thread k).ports, State.thread_setThread_ne _ _ hk⟩
theorem PortsApart.hasHandler {s t : State} (h : PortsApart s t) (hs : s.hasHandler) : t.hasHandler := by
  obtain ⟨hslot, htvec, hin⟩ := hs
  obtain ⟨ports, hp⟩ := h.thread s.cur
  refine ⟨by rwa [h.cur], by rwa [State.curCore, h.cur, h.core], ?_⟩
  rw [State.me, h.cur, hp]
  exact hin
/-- The current slot of `s` enters its handler. -/
theorem VecTraps.entry {d : VReg} {s t : State} (h : PortsApart s t) {x : Thread} (hx : VecBut d True (t.thread t.cur) x)
    (hv : x.v = (t.thread t.cur).v) (hf : x.fflags = (t.thread t.cur).fflags) (hpc : x.pc = tvecAddr (t.core t.curCore).tvec)
    (hin : x.tcause.getLsbD 15 = true) : VecTraps d s (t.setThread t.cur x) := by
  intro k
  obtain ⟨ports, hk⟩ := h.thread k
  have hbut (here : Prop) : VecBut d here (s.thread k) (t.thread k) := by rw [hk]; exact .refl d here (s.thread k)
  by_cases hc : k = t.cur
  · subst hc
    rw [State.thread_setThread_self]
    refine ⟨(hbut _).trans ⟨hx.1, fun r hr => hx.2 r (hr.imp (fun hn => absurd h.cur hn) id)⟩, .inr ⟨h.cur, ?_, hin, ?_, ?_⟩⟩
    · rw [hpc, State.curCore, State.curCore, h.cur, h.core]
    · rw [hv, hk]
    · rw [hf, hk]
  · rw [State.thread_setThread_ne _ _ hc]
    exact ⟨hbut _, .inl (by rw [hk]; exact .refl (s.thread k))⟩
theorem tcauseOf_in (sys compact : Bool) (cause : Nat) : (tcauseOf sys compact cause).getLsbD 15 = true := by
  simp [tcauseOf]
/-- The state in which a trap enters the handler: that of a translation after a walk. -/
def State.trapWalked (s : State) (cause : Nat) (va : B64) : State :=
  if cause = cXLATE then (s.walked s.curCore (s.thread s.cur).ctx va).bumpWalk (s.thread s.cur).ctx va else s
theorem rest_bumpWalk (s : State) (ctx : Nat) (va : B64) : (s.bumpWalk ctx va).rest = s.rest := by
  unfold State.bumpWalk
  split
  · rfl
  · split <;> rfl
theorem rest_trapWalked (s : State) (cause : Nat) (va : B64) : (s.trapWalked cause va).rest = s.rest := by
  unfold State.trapWalked
  split
  · exact (rest_bumpWalk _ _ _).trans (rest_walked _ _ _ _)
  · rfl
/-- With a handler set a trap writes only its slot, after the walk. -/
theorem takeTrap_eq {s : State} (h : s.hasHandler) (cause : Nat) (val ret : B64) (compact : Bool) :
    s.takeTrap cause val ret compact = (s.trapWalked cause val).setThread s.cur
      { s.thread s.cur with
        tpc := ret &&& 0x000FFFFFFFFFFFFF#64, tval := val, tcause := tcauseOf (s.thread s.cur).sysMode compact cause, sysMode := true,
        pc := tvecAddr (s.core s.curCore).tvec, charged := false, phase := .idle, skipped := 0, skipArg := none, holds := [] } := by
  obtain ⟨hslot, htvec, hin⟩ := h
  have hw : PortsApart s (s.trapWalked cause val) := .of_rest (rest_trapWalked s cause val)
  have hcc : (s.trapWalked cause val).curCore = s.curCore := by rw [State.curCore, hw.cur]; rfl
  unfold State.takeTrap
  extract_lets t u
  have hu : u = s.trapWalked cause val := rfl
  clear_value u
  subst hu
  rw [hw.cur, hw.core, hcc, if_neg hslot, if_neg (not_or.2 ⟨htvec, fun hi => ?_⟩)]
  · exact absurd (hin.symm.trans hi) (by decide)
theorem takeTrap_traps {d : VReg} {s t : State} (h : s.hasHandler) (ht : PortsApart s t) (cause : Nat) (val ret : B64) (compact : Bool) :
    VecTraps d s (t.takeTrap cause val ret compact) := by
  rw [takeTrap_eq (ht.hasHandler h)]
  have hw : PortsApart t (t.trapWalked cause val) := .of_rest (rest_trapWalked t cause val)
  have hst : PortsApart s (t.trapWalked cause val) := by
    refine ⟨hw.cur.trans ht.cur, hw.core.trans ht.core, fun k => ?_⟩
    obtain ⟨p, hp⟩ := hw.thread k
    obtain ⟨q, hq⟩ := ht.thread k
    exact ⟨p, by rw [hp, hq]⟩
  have hth : (t.trapWalked cause val).thread t.cur = t.thread t.cur := by
    unfold State.thread; rw [threads_of_rest (rest_trapWalked t cause val)]
  rw [← hw.cur] at hth ⊢
  have hcore : ((t.trapWalked cause val).core (t.trapWalked cause val).curCore).tvec = (t.core t.curCore).tvec := by
    rw [State.curCore, hw.cur, hw.core]; rfl
  refine VecTraps.entry hst ?_ ?_ ?_ ?_ (tcauseOf_in _ _ _)
  · rw [hth]; exact .refl d True (t.thread (t.trapWalked cause val).cur)
  · rw [hth]
  · rw [hth]
  · rw [hcore]

/-! ## The forms that do not load -/

/-- What a vector form with destination `d` that does not load does where a handler is set. -/
structure VecEnds (d : VReg) (s t : State) : Prop where
  mem : t.mem = s.mem
  stores : t.stores = s.stores
  upd : t.upd = s.upd
  now : t.now = s.now
  cur : t.cur = s.cur
  traps : VecTraps d s t
theorem VecKeeps.ends {d : VReg} {s t : State} (h : VecKeeps d s t) : VecEnds d s t :=
  ⟨h.mem, h.stores, h.upd, h.now, h.cur, h.slots.traps⟩
theorem takeTrap_vecEnds {d : VReg} {s t : State} (h : s.hasHandler) (ht : PortsApart s t) (hk : VecKeeps d s t) {cause : Nat}
    (hc : cause ≠ cXLATE) (val ret : B64) (compact : Bool) : VecEnds d s (t.takeTrap cause val ret compact) := by
  have htraps := takeTrap_traps (d := d) h ht cause val ret compact
  rw [takeTrap_entered (ht.hasHandler h) hc] at htraps ⊢
  exact ⟨hk.mem, hk.stores, hk.upd, hk.now, hk.cur, htraps⟩
theorem portTrap_vecEnds {d : VReg} {s : State} (h : s.hasHandler) (ports : SMap Port) {cause : Nat} (hc : cause ≠ cXLATE) (val ret : B64)
    (compact : Bool) : VecEnds d s ((s.setThread s.cur { s.thread s.cur with ports := ports }).takeTrap cause val ret compact) :=
  takeTrap_vecEnds h (.setPorts s ports) (.setThread _ _ (.refl d _ (s.thread s.cur)) (.refl (s.thread s.cur))) hc _ _ _
/-- A stop of such a form stalls or enters the handler. -/
theorem stopped_vecEnds {d : VReg} {s : State} {e : Stop} (h : s.hasHandler) (he : e.waitsOrTraps) (len : Nat) :
    VecEnds d s (s.stopped len e) := by
  cases e with
  | stall w => exact (VecKeeps.stallCur w).ends
  | trap cause val next clr =>
    cases clr with
    | none => exact takeTrap_vecEnds h (.of_rest rfl) (.refl d s) he _ _ _
    | some k => exact portTrap_vecEnds h _ he _ _ _
  | denied va => exact he.elim
  | halt t => exact he.elim
theorem vecEnds_of_keeps {d : VReg} {s : State} {body : Exec Unit} (h : s.hasHandler) (hb : body.VecKeeps d s) (len : Nat) :
    VecEnds d s (runI len body s) := by
  cases hr : body.run s with
  | ok r =>
    rw [runI_ok (u := r.1) (t := r.2) hr]
    exact ((Exec.Ends.of_ok hb hr).trans (.retire len)).ends
  | error e =>
    rw [runI_error hr]
    exact stopped_vecEnds h (Exec.Ends.of_error hb hr) len

end Sys2Proof.Machine
end

section
/-! # The frame of the vector loads (R117, R126 to R129) -/
open Sys2Proof
namespace Sys2Proof.Machine

/-! ## Steps of the memory system under a thread -/

/-- The memory system moves on: time, the current slot and the queues of `ksend`s stay, the slots keep what a vector form keeps, and a
byte apart from everything pending keeps its value. -/
structure MemStep (s t : State) : Prop where
  now : t.now = s.now
  cur : t.cur = s.cur
  ksq : ∀ k, (t.core k).ksq = (s.core k).ksq
  slots : ∀ d, VecSlots d s t
  byte : ∀ x, ByteKept x s t

theorem Unseen.now : Unseen State.now := ⟨fun _ _ => rfl, fun _ _ => rfl, fun _ _ => rfl, fun _ _ => rfl, fun _ _ => rfl,
  fun _ _ _ => rfl, fun _ _ _ _ => rfl, fun _ _ _ _ => rfl⟩
theorem State.threads_force (s : State) (p : PStore) : (s.force p).threads = s.threads := by
  unfold State.force
  split
  · exact State.threads_performAll s _
  · rfl
theorem State.ksq_force (s : State) (p : PStore) (k : Nat) : ((s.force p).core k).ksq = (s.core k).ksq := by
  unfold State.force
  split
  · exact State.ksq_performAll s _ k
  · rfl

namespace MemStep
variable {s t u : State}

theorem refl (s : State) : MemStep s s := ⟨rfl, rfl, fun _ => rfl, fun d => .refl d s, fun x => .refl x s⟩
theorem trans (h1 : MemStep s t) (h2 : MemStep t u) : MemStep s u where
  now := h2.now.trans h1.now
  cur := h2.cur.trans h1.cur
  ksq k := (h2.ksq k).trans (h1.ksq k)
  slots d := (h1.slots d).trans h1.cur (h2.slots d)
  byte x := (h1.byte x).trans (h2.byte x)
theorem ite {c : Prop} [Decidable c] (h1 : MemStep s t) (h2 : MemStep s u) : MemStep s (if c then t else u) := by
  split
  · exact h1
  · exact h2
theorem foldl {α : Type} {f : State → α → State} (h : ∀ s a, MemStep s (f s a)) (l : List α) (s : State) : MemStep s (l.foldl f s) := by
  induction l generalizing s with
  | nil => exact .refl s
  | cons a l ih => exact (h s a).trans (ih _)
/-- A step that leaves the slots alone. -/
theorem of_unseen (hu : ∀ {β : Type} {f : State → β}, Unseen f → f t = f s) (ht : t.threads = s.threads)
    (hk : ∀ k, (t.core k).ksq = (s.core k).ksq) (hb : ∀ x, ByteKept x s t) : MemStep s t :=
  ⟨hu Unseen.now, hu Unseen.cur, hk, fun _ => .of_threads ht, hb⟩
theorem of_rest (h : t.rest = s.rest) (hb : ∀ x, ByteKept x s t) : MemStep s t where
  now := show t.rest.now = s.rest.now by rw [h]
  cur := show t.rest.cur = s.rest.cur by rw [h]
  ksq k := by rw [cores_of_rest h]
  slots _ := .of_threads (threads_of_rest h)
  byte := hb
theorem modCore (k : Nat) {f : Core → Core} (h : ∀ c, (f c).ksq = c.ksq) : MemStep s (s.modCore k f) :=
  ⟨rfl, rfl, fun j => State.ksq_modCore s k j h, fun _ => .of_threads rfl, fun _ => .modCore k f⟩
theorem mapCores {g : Nat → Core → Core} (h : ∀ k c, (g k c).ksq = c.ksq) : MemStep s { s with cores := s.cores.map g } := by
  refine ⟨rfl, rfl, fun k => ?_, fun _ => .of_threads rfl, fun _ => .of_mem rfl rfl (List.Subset.refl _) (List.Subset.refl _)⟩
  show ((s.cores.map g).get {} k).ksq = (s.cores.get {} k).ksq
  rw [SMap.get_eq_get?, SMap.get_eq_get?, SMap.get?_map]
  cases s.cores.get? k with
  | none => rfl
  | some c => exact h k c
theorem count (core slot src n : Nat) : MemStep s (s.count core slot src n) := .of_rest (rest_count _ _ _ _ _) fun _ => .count _ _ _ _
theorem freshCtr : MemStep s s.freshCtr := ⟨rfl, rfl, fun _ => rfl, fun _ => .of_threads rfl, fun _ => .freshCtr⟩
theorem setThread (k : Nat) (x : Thread) (h : ∀ d here, VecBut d here (s.thread k) x) (ht : SameTrap (s.thread k) x) :
    MemStep s (s.setThread k x) :=
  ⟨rfl, rfl, fun _ => rfl, fun d => .setThread k x (h d _) ht, fun _ => .of_mem rfl rfl (List.Subset.refl _) (List.Subset.refl _)⟩
theorem mergeWhere (p : UpdLine → Bool) : MemStep s (s.mergeWhere p) := .of_rest (rest_mergeWhere s p) fun _ => .mergeWhere p
theorem recalled (loc n : Nat) : MemStep s (s.recall loc n) := .of_rest (rest_recall s loc n) fun _ => .recalled loc n
theorem l1Room (core line : Nat) : MemStep s (s.l1Room core line) :=
  .of_unseen (fun h => h.l1Room s core line) (State.threads_l1Room s core line) (State.ksq_l1Room s core line) fun _ => .l1Room core line
theorem walked (core ctx : Nat) (va : B64) : MemStep s (s.walked core ctx va) := by
  unfold State.walked
  extract_lets v s1
  have h1 : MemStep s s1 := .count _ _ _ _
  clear_value s1
  refine .ite (.refl s) (.ite h1 ?_)
  split
  · exact h1
  · exact h1.trans (.foldl (fun _ _ => .recalled _ _) _ _)
/-- Stores of the state's own that are forced, one after another. -/
theorem forceAll {ps : List PStore} (h : ∀ p ∈ ps, p ∈ s.stores) : MemStep s (ps.foldl State.force s) :=
  .of_unseen (fun h => foldl_keeps h.force ps s) (foldl_keeps (p := State.threads) State.threads_force ps s)
    (fun k => foldl_keeps (p := fun s => (State.core s k).ksq) (fun s p => State.ksq_force s p k) ps s) fun _ => .forceAll h
theorem observe (tid : Nat) (w : Party) (loc n : Nat) : MemStep s (s.observe tid w loc n) := by
  unfold State.observe
  split
  · exact .refl s
  · exact .forceAll fun _ hp => (List.mem_filter.1 hp).1
theorem arrivals (p : PStore → Bool) : MemStep s (s.arrivals p) := by
  have hstep : (s.arrivals p).threads = s.threads ∧ ∀ k, ((s.arrivals p).core k).ksq = (s.core k).ksq := by
    unfold State.arrivals
    extract_lets cand v
    split
    · exact ⟨rfl, fun _ => rfl⟩
    · exact ⟨foldl_keeps (p := State.threads) State.threads_force _ s.freshCtr,
        fun k => foldl_keeps (p := fun s => (State.core s k).ksq) (fun s p => State.ksq_force s p k) _ s.freshCtr⟩
  exact .of_unseen (fun h => h.arrivals s p) hstep.1 hstep.2 fun _ => .arrivals p

/-! A request that reaches a slice of the directory (R35 to R38). -/

theorem wakeCore (k : Nat) : MemStep s (s.wakeCore k) := by
  unfold State.wakeCore
  refine .ite (.modCore k ?_) (.refl s)
  exact fun _ => rfl
theorem wakeReeve (k : Nat) : MemStep s (s.wakeReeve k) := by
  unfold State.wakeReeve
  extract_lets t
  refine .ite (.setThread _ _ (fun d here => ?_) ?_) (.refl s)
  · exact .refl d here t
  · exact .refl t
theorem putDir (home : Nat) (e : DirEntry) : MemStep s (s.modCore home (fun c => c.putDir e)) := .modCore home fun _ => rfl
theorem dirRoom (home line : Nat) : MemStep s (s.dirRoom home line) := by
  unfold State.dirRoom
  extract_lets c
  split
  · exact .refl s
  · split
    · exact .refl s
    · next e _ =>
      have hinv : MemStep s.freshCtr (s.freshCtr.invalidate e none) := .mapCores fun _ _ => by split <;> rfl
      refine freshCtr.trans (hinv.trans (.modCore home ?_))
      exact fun _ => rfl
theorem dirReady (pa : Nat) : MemStep s (s.dirReady pa) := (mergeWhere _).trans (.dirRoom _ _)
theorem fillSector (core pa : Nat) (st : L1St) : MemStep s (s.fillSector core pa st) := by
  unfold State.fillSector
  extract_lets s1 old hi s2
  have h2 : MemStep s s2 := by
    refine (l1Room core (pa / 256)).trans (.modCore core ?_)
    exact fun _ => rfl
  clear_value s2
  cases (if hi then old.hi else old.lo) with
  | true => exact h2
  | false => exact h2.trans (.count _ _ _ _)
theorem serveRead (e : DirEntry) (core pa : Nat) : MemStep s (s.serveRead e core pa) := by
  unfold State.serveRead
  extract_lets alone s1 modified
  have h1 : MemStep s s1 := by
    refine .ite (.refl s) (.mapCores fun k c => ?_)
    split <;> rfl
  exact h1.trans (.fillSector _ _ _)
theorem dirNew (home core pa : Nat) : MemStep s (s.dirNew home core pa) := (putDir home _).trans (.serveRead _ _ _)
theorem reeveServe (home core pa : Nat) : MemStep s (s.reeveServe home core pa) := by
  unfold State.reeveServe
  split
  · exact .dirNew _ _ _
  · exact (putDir home _).trans (.serveRead _ _ _)
theorem dirRead (home : Nat) (e : DirEntry) (core pa : Nat) : MemStep s (s.dirRead home e core pa) := by
  unfold State.dirRead
  extract_lets e' s1
  have h1 : MemStep s s1 := (count _ _ _ _).trans (.wakeReeve _)
  clear_value s1
  refine .ite (.serveRead _ _ _) (.ite ((putDir home _).trans (.serveRead _ _ _)) ?_)
  refine h1.trans (.ite ((modCore home ?_).trans (.wakeCore home)) (.reeveServe _ _ _))
  exact fun _ => rfl
/-- A read reaches the slice of its line's home. -/
theorem dirRequest (pa core : Nat) : MemStep s (s.dirRequest pa core false) := by
  unfold State.dirRequest
  extract_lets home
  refine .ite (.refl s) (.ite (.modCore home fun _ => rfl) ?_)
  unfold State.dirServe
  extract_lets s1
  have h1 : MemStep s s1 := .dirReady pa
  clear_value s1
  rw [if_neg Bool.false_ne_true]
  split
  · exact h1.trans (.dirRead _ _ _ _)
  · exact h1.trans (.dirNew _ _ _)

end MemStep

/-! ## What a vector load may change -/

/-- No `ksend` of the current slot's core waits. -/
def State.Filed (s : State) : Prop := (s.core s.curCore).ksq = []

/-- What a vector load with destination `d` leaves alone. -/
structure LoadKeeps (d : VReg) (s t : State) : Prop where
  now : t.now = s.now
  cur : t.cur = s.cur
  filed : s.Filed → t.Filed ∧ VecSlots d s t ∧ ∀ x, ByteKept x s t

theorem MemStep.filed {s t : State} (h : MemStep s t) (hs : s.Filed) : t.Filed := by
  rw [State.Filed, State.curCore, h.cur, h.ksq]
  exact hs
theorem MemStep.loadKeeps {d : VReg} {s t : State} (h : MemStep s t) : LoadKeeps d s t :=
  ⟨h.now, h.cur, fun hs => ⟨h.filed hs, h.slots d, h.byte⟩⟩
theorem VecKeeps.loadKeeps {d : VReg} {s t : State} (h : VecKeeps d s t) : LoadKeeps d s t := by
  refine ⟨h.now, h.cur, fun hs => ⟨?_, h.slots, fun x => .of_mem h.mem (congrArg _ h.fleet) (h.upd ▸ List.Subset.refl _)
    (h.stores ▸ List.Subset.refl _)⟩⟩
  rw [State.Filed, State.curCore, h.cur, (h.core _).2]
  exact hs

namespace LoadKeeps
variable {d : VReg} {s t u : State}

theorem refl (d : VReg) (s : State) : LoadKeeps d s s := (MemStep.refl s).loadKeeps
theorem trans (h1 : LoadKeeps d s t) (h2 : LoadKeeps d t u) : LoadKeeps d s u := by
  refine ⟨h2.now.trans h1.now, h2.cur.trans h1.cur, fun hs => ?_⟩
  obtain ⟨ht, hslots, hbyte⟩ := h1.filed hs
  obtain ⟨hu, hslots', hbyte'⟩ := h2.filed ht
  exact ⟨hu, hslots.trans h1.cur hslots', fun x => (hbyte x).trans (hbyte' x)⟩
theorem foldl {α : Type} {f : State → α → State} (h : ∀ s a, LoadKeeps d s (f s a)) (l : List α) (s : State) :
    LoadKeeps d s (l.foldl f s) := by
  induction l generalizing s with
  | nil => exact .refl d s
  | cons a l ih => exact (h s a).trans (ih _)
theorem stallCur (w : Wait) : LoadKeeps d s (s.stallCur w) := (VecKeeps.stallCur w).loadKeeps
/-- With nothing to file the thread's stores are performed and nothing else. -/
theorem drainOver (loc n : Nat) : LoadKeeps d s (s.drainOver s.cur loc n) := by
  refine ⟨Unseen.now.drainOver s _ _ _, Unseen.cur.drainOver s _ _ _, fun hs => ?_⟩
  have hfile (ser : Nat) : s.fileUpTo s.cur ser = s := by
    rw [State.Filed, State.curCore] at hs
    rw [State.fileUpTo, hs]
    rfl
  have hstep : MemStep s (s.drainOver s.cur loc n) := by
    unfold State.drainOver
    extract_lets own s1
    have h1 : s1 = s := by
      unfold s1
      rw [hfile, ite_self]
    rw [h1]
    exact .forceAll fun _ hp => (List.mem_filter.1 hp).1
  exact hstep.loadKeeps.filed hs
theorem prepRead (loc n : Nat) : LoadKeeps d s (s.prepRead s.cur loc n) := by
  unfold State.prepRead
  extract_lets s1 s2
  have h1 : LoadKeeps d s s1 := (MemStep.observe _ _ _ _).loadKeeps
  have h2 : LoadKeeps d s s2 := by
    unfold s2
    split
    · rw [← h1.cur]; exact h1.trans (.drainOver _ _)
    · exact h1
  clear_value s2
  split
  · exact h2
  · exact h2.trans (MemStep.recalled _ _).loadKeeps
end LoadKeeps

/-! ## Bodies of loads -/

/-- A stop of a load that began in `s`: it waits, traps, or leaves a state of the load's frame. -/
def Stop.ofLoad (d : VReg) (s : State) : Stop → Prop
  | .halt t => LoadKeeps d s t
  | _ => True
/-- Run in `s`, a body of a load that began in `s0` ends in the frame of a load, or stops so. -/
def Exec.LoadKeeps {α : Type} (d : VReg) (s0 : State) (m : Exec α) (s : State) : Prop :=
  m.Ends (Machine.LoadKeeps d) (Stop.ofLoad d s0) s

theorem Exec.VecKeeps.loads {α : Type} {d : VReg} {m : Exec α} {s s0 : State} (h : m.VecKeeps d s) : m.LoadKeeps d s0 s :=
  Exec.Ends.mono h (fun _ h => h.loadKeeps) fun e he => by
    cases e with
    | halt t => exact he.elim
    | stall w => trivial
    | trap cause val next clr => trivial
    | denied va => trivial

namespace Exec.LoadKeeps
variable {α β : Type} {d : VReg} {s s0 : State}

theorem pure {a : α} : Exec.LoadKeeps d s0 (Pure.pure a) s := .refl d s
theorem bind {m : Exec α} {f : α → Exec β} (hm : m.LoadKeeps d s0 s) (hf : ∀ a t, (f a).LoadKeeps d s0 t) :
    (m >>= f).LoadKeeps d s0 s := Exec.Ends.bind .trans hm fun a t _ => hf a t
theorem get {f : State → Exec β} (hf : (f s).LoadKeeps d s0 s) : (MonadState.get >>= f).LoadKeeps d s0 s := Exec.Ends.get hf
theorem ite {c : Prop} [Decidable c] {a b : Exec α} (ha : a.LoadKeeps d s0 s) (hb : b.LoadKeeps d s0 s) :
    Exec.LoadKeeps d s0 (if c then a else b) s := Exec.Ends.ite (fun _ => ha) fun _ => hb
theorem set {t : State} (h : Machine.LoadKeeps d s t) : Exec.LoadKeeps d s0 (MonadStateOf.set t) s := h
theorem aligned {n : Nat} {va : B64} : (aligned n va).LoadKeeps d s0 s := .ite .pure trivial
theorem locOf {acc : Acc} {va : B64} : (locOf acc va).LoadKeeps d s0 s := by
  unfold Machine.locOf
  refine .get (.bind (.set (MemStep.walked _ _ _).loadKeeps) fun _ _ => ?_)
  split
  · exact .pure
  · trivial
  · trivial
  · trivial
theorem lanePlaces {acc : Acc} {n : Nat} {cs : List (Nat × B64)} : (lanePlaces acc n cs).LoadKeeps d s0 s := by
  induction cs generalizing s with
  | nil => exact .pure
  | cons c cs ih => exact .bind .aligned fun _ _ => .bind .locOf fun _ _ => .bind ih fun _ _ => .pure
theorem blockPlaces {acc : Acc} {n : Nat} {va : B64} {lanes : List Nat} : (blockPlaces acc n va lanes).LoadKeeps d s0 s :=
  .ite .pure (.bind .aligned fun _ _ => .bind .locOf fun _ _ => .pure)
theorem filed {l : Nat} : (filed l).LoadKeeps d s0 s := .get (.ite trivial .pure)
theorem allFiled {places : List (Nat × Nat)} : (allFiled places).LoadKeeps d s0 s := by
  induction places generalizing s with
  | nil => exact .pure
  | cons c cs ih => exact .bind .filed fun _ _ => ih
/-- A load that has sent its access, and stalls. -/
theorem sent (s : State) (f : Thread → Thread) (w : Wait) (hf : VecBut d True (s.thread s.cur) (f (s.thread s.cur)))
    (ht : SameTrap (s.thread s.cur) (f (s.thread s.cur))) : Machine.LoadKeeps d s ((s.modThread s.cur f).stallCur w) :=
  ((VecKeeps.setThread _ _ (by simpa using hf) ht).trans (.stallCur w)).loadKeeps
theorem dirGate {l : Nat} : (dirGate s0 l).LoadKeeps d s0 s := by
  refine .ite ?_ .pure
  have hdir : Machine.LoadKeeps d s0 (s0.dirRequest l s0.curCore false) := (MemStep.dirRequest _ _).loadKeeps
  have hcur := hdir.cur
  show Machine.LoadKeeps d s0 (State.stallCur (State.modThread _ s0.cur _) _)
  rw [← hcur]
  exact hdir.trans (sent _ _ _ (.refl d True (State.thread _ _)) (.refl (State.thread _ _)))
theorem awaitValue {isFar : Bool} : (awaitValue s0 isFar).LoadKeeps d s0 s := by
  refine .ite .pure ?_
  split
  · exact .pure
  · exact .ite .pure trivial
  · trivial
  · exact sent s0 _ _ (.refl d True (s0.thread s0.cur)) (.refl (s0.thread s0.cur))
theorem lanesEarly (s : State) (t : Ty) (places : List (Nat × Nat)) : Machine.LoadKeeps d s (s.lanesEarly t places) := by
  unfold State.lanesEarly
  extract_lets u new
  have hu : Machine.LoadKeeps d s u := .foldl (fun s c => .prepRead _ _) places s
  exact hu.trans (sent u _ _ (.refl d True (u.thread u.cur)) (.refl (u.thread u.cur)))
theorem readLanes {t : Ty} {part : Nat → Nat} {places : List (Nat × Nat)} {x : B512} : (readLanes t part places x).LoadKeeps d s0 s := by
  unfold Machine.readLanes
  refine .bind (m := modify _) (.foldl (fun s c => .prepRead _ _) places s) fun _ u => .get ?_
  extract_lets u'
  have hu' : Machine.LoadKeeps d u u' := (MemStep.arrivals _).loadKeeps
  clear_value u'
  refine .ite .pure (.bind (.set (hu'.trans ?_)) fun _ _ => .pure)
  exact MemStep.loadKeeps ⟨rfl, rfl, fun _ => rfl, fun _ => .of_threads rfl,
    fun _ => .of_mem rfl rfl (List.Subset.refl _) (List.Subset.refl _)⟩
theorem loadLanes {t : Ty} {old : B512} {part : Nat → Nat} {places : List (Nat × Nat)} :
    (loadLanes s0 t d old part places).LoadKeeps d s0 s := by
  unfold Machine.loadLanes
  refine .bind .allFiled fun _ u => ?_
  have hrest (u : State) : Exec.LoadKeeps d s0 (do
      Machine.awaitValue s0 (places.any (fun c => s0.isFar c.2))
      let left := places.filter (fun c => !(s0.thread s0.cur).phase.got.any (fun g => g.1 == c.1))
      let early := left.filter (fun c => (s0.thread s0.cur).split.getLsbD (part c.1))
      if !early.isEmpty && decide (early.length < left.length) then halt (s0.lanesEarly t early) else do
        let x ← Machine.readLanes t part left ((s0.thread s0.cur).phase.got.foldl (fun x g => putElem t.width g.1 g.2 x) old)
        writeV d x) u :=
    .bind .awaitValue fun _ _ => .ite (lanesEarly s0 t _) (.bind .readLanes fun _ _ => Exec.VecKeeps.writeV.loads)
  split
  · exact .bind .dirGate fun _ _ => hrest _
  · exact hrest _

end Exec.LoadKeeps

/-- Each vector load runs, as an instruction of four bytes, a body in the frame of a load. -/
theorem exec_of_vecLoad {i : Instr} {d : VReg} (h : vecDest i = some d) (hl : isVecLoad i) :
    ∃ body : Exec Unit, (∀ s, exec i s = .next (runI 4 body s)) ∧ ∀ s, body.LoadKeeps d s s := by
  unfold isVecLoad at hl
  split at hl
  next =>
    cases h
    exact ⟨_, fun _ => rfl, fun s => .get (.bind Exec.VecKeeps.destOk.loads fun _ _ => .bind Exec.VecKeeps.oldV.loads fun _ _ =>
      .bind Exec.VecKeeps.readS.loads fun _ _ => .bind Exec.VecKeeps.readM.loads fun _ _ => .bind .blockPlaces fun _ _ => .loadLanes)⟩
  next =>
    cases h
    exact ⟨_, fun _ => rfl, fun s => .get (.bind Exec.VecKeeps.destOk.loads fun _ _ => .bind Exec.VecKeeps.oldV.loads fun _ _ =>
      .bind Exec.VecKeeps.readS.loads fun _ _ => .bind Exec.VecKeeps.readS.loads fun _ _ => .bind Exec.VecKeeps.readM.loads fun _ _ =>
      .bind .lanePlaces fun _ _ => .loadLanes)⟩
  next =>
    cases h
    exact ⟨_, fun _ => rfl, fun s => .get (.bind Exec.VecKeeps.destOk.loads fun _ _ => .bind Exec.VecKeeps.oldV.loads fun _ _ =>
      .bind Exec.VecKeeps.readS.loads fun _ _ => .bind Exec.VecKeeps.readV.loads fun _ _ => .bind Exec.VecKeeps.readM.loads fun _ _ =>
      .bind .lanePlaces fun _ _ => .loadLanes)⟩
  next => exact hl.elim

/-! ## The statement -/

/-- What a vector load with destination `d` does where a handler is set. -/
structure LoadEnds (d : VReg) (s t : State) : Prop where
  now : t.now = s.now
  cur : t.cur = s.cur
  traps : s.Filed → VecTraps d s t
  byte : s.Filed → ∀ x, ByteKept x s t
theorem LoadKeeps.ends {d : VReg} {s t : State} (h : LoadKeeps d s t) : LoadEnds d s t :=
  ⟨h.now, h.cur, fun hs => (h.filed hs).2.1.traps, fun hs => (h.filed hs).2.2⟩
theorem MemStep.trapWalked (s : State) (cause : Nat) (va : B64) : MemStep s (s.trapWalked cause va) := by
  unfold State.trapWalked
  refine .ite ((MemStep.walked _ _ _).trans (.of_rest (rest_bumpWalk _ _ _) fun x => ?_)) (.refl s)
  unfold State.bumpWalk
  split
  · exact .refl x _
  · split
    · exact .of_mem rfl rfl (List.Subset.refl _) (List.Subset.refl _)
    · exact .refl x _
/-- A trap of a load, from a state that is the first one but for ports, or after a walk. -/
theorem takeTrap_loadEnds {d : VReg} {s t : State} (h : s.hasHandler) (ht : PortsApart s t) (hst : MemStep s t) (cause : Nat) (val ret : B64)
    (compact : Bool) : LoadEnds d s (t.takeTrap cause val ret compact) := by
  have htraps := takeTrap_traps (d := d) h ht cause val ret compact
  rw [takeTrap_eq (ht.hasHandler h)] at htraps ⊢
  have hw := hst.trans (.trapWalked t cause val)
  exact ⟨hw.now, hw.cur, fun _ => htraps,
    fun _ x => (hw.byte x).trans (.of_mem rfl rfl (List.Subset.refl _) (List.Subset.refl _))⟩
theorem portTrap_loadEnds {d : VReg} {s : State} (h : s.hasHandler) (ports : SMap Port) (cause : Nat) (val ret : B64) (compact : Bool) :
    LoadEnds d s ((s.setThread s.cur { s.thread s.cur with ports := ports }).takeTrap cause val ret compact) :=
  takeTrap_loadEnds h (.setPorts s ports)
    (.setThread _ _ (fun d here => .refl d here (s.thread s.cur)) (.refl (s.thread s.cur))) _ _ _ _
theorem stopped_loadEnds {d : VReg} {s : State} {e : Stop} (h : s.hasHandler) (he : e.ofLoad d s) (len : Nat) :
    LoadEnds d s (s.stopped len e) := by
  cases e with
  | stall w => exact (LoadKeeps.stallCur w).ends
  | trap cause val next clr =>
    cases clr with
    | none => exact takeTrap_loadEnds h (.of_rest rfl) (.refl s) _ _ _ _
    | some k => exact portTrap_loadEnds h _ _ _ _ _
  | denied va => exact takeTrap_loadEnds h (.of_rest (rest_walked _ _ _ _)) (.walked _ _ _) _ _ _ _
  | halt t => exact he.ends
theorem loadEnds_of_keeps {d : VReg} {s : State} {body : Exec Unit} (h : s.hasHandler) (hb : body.LoadKeeps d s s) (len : Nat) :
    LoadEnds d s (runI len body s) := by
  cases hr : body.run s with
  | ok r =>
    rw [runI_ok (u := r.1) (t := r.2) hr]
    exact ((Exec.Ends.of_ok hb hr).trans (VecKeeps.retire len).loadKeeps).ends
  | error e =>
    rw [runI_error hr]
    exact stopped_loadEnds h (Exec.Ends.of_error hb hr) len
theorem isVecLoad_iff {i : Instr} {d : VReg} (h : vecDest i = some d) :
    isVecLoad i ↔ (∃ ty m a, i = .vld ty m d a) ∨ (∃ ty m a b, i = .vlds ty m d a b) ∨ (∃ ty m a b, i = .vgather ty m d a b) := by
  constructor
  · intro hl
    unfold isVecLoad at hl
    split at hl
    next ty m d' a => cases h; exact .inl ⟨ty, m, a, rfl⟩
    next ty m d' a b => cases h; exact .inr (.inl ⟨ty, m, a, b, rfl⟩)
    next ty m d' a b => cases h; exact .inr (.inr ⟨ty, m, a, b, rfl⟩)
    next => exact hl.elim
  · rintro (⟨ty, m, a, rfl⟩ | ⟨ty, m, a, b, rfl⟩ | ⟨ty, m, a, b, rfl⟩) <;> trivial
/-- Settles O45: the body of a form that does not load stays in the frame of its destination; that of a load moves the memory system on
besides, which keeps what lies apart from everything pending. -/
theorem vectorFrame : Obligations.VectorFrame := by
  unfold Obligations.VectorFrame
  intro i d s t hi hh ht loads
  have hloads : isVecLoad i ↔ loads := isVecLoad_iff hi
  have hslots (h : VecTraps d s t) (k : Nat) :
      SameButVector (s.thread k) (t.thread k) ∧ (∀ r, k ≠ s.cur ∨ r ≠ d.val → (t.thread k).v.get 0 r = (s.thread k).v.get 0 r) ∧
        (SameTrap (s.thread k) (t.thread k) ∨ (k = s.cur ∧ (t.thread k).pc = tvecAddr (s.core s.curCore).tvec ∧
          (t.thread k).tcause.getLsbD 15 = true ∧ (t.thread k).v = (s.thread k).v ∧ (t.thread k).fflags = (s.thread k).fflags)) := by
    obtain ⟨⟨hsame, hv⟩, htrap⟩ := h k
    exact ⟨hsame, hv, htrap⟩
  by_cases hl : isVecLoad i
  · obtain ⟨body, hrun, hbody⟩ := exec_of_vecLoad hi hl
    rw [hrun] at ht
    cases ht
    have hends := loadEnds_of_keeps hh (hbody s) 4
    refine ⟨fun hn => absurd (hloads.1 hl) hn, fun _ hfiled hecho hupd x hstores hline hspill => ?_, hends.now, hends.cur,
      fun hor => hslots (hends.traps (hor.resolve_left (not_not_intro (hloads.1 hl))))⟩
    exact (hends.byte hfiled x hspill ⟨hecho, fun u hu => ⟨hline u hu, hupd u hu⟩, hstores⟩).2
  · obtain ⟨body, hrun, hbody⟩ := exec_of_vecDest hi hl
    rw [hrun] at ht
    cases ht
    have hends := vecEnds_of_keeps hh (hbody s) 4
    exact ⟨fun _ => ⟨hends.mem, hends.stores, hends.upd⟩, fun h => absurd (hloads.2 h) hl, hends.now, hends.cur,
      fun _ => hslots hends.traps⟩

end Sys2Proof.Machine
end
